-- ==== Sys2Proof/Word.lean ====
section
/-! DEFINITION. Word.lean: the machine's words, the sparse tables that State is built of, and their
plainest operations. -/

namespace Sys2Proof

abbrev Byte := BitVec 8
abbrev W16 := BitVec 16
abbrev W32 := BitVec 32
abbrev W64 := BitVec 64
/-- One bit for each lane of a crew. -/
abbrev Mask := BitVec 32

/-- A sparse table: pairs of key and value with the keys rising.
A key that is not listed holds a default that the reader names. -/
abbrev Tab (α : Type) := List (Nat × α)

/-- The value at a key, or the default. -/
def tget {α : Type} (d : α) : Tab α → Nat → α
  | [], _ => d
  | (j, w) :: t, k => if j = k then w else tget d t k

/-- The value at a key, if one is listed. -/
def tget? {α : Type} : Tab α → Nat → Option α
  | [], _ => none
  | (j, w) :: t, k => if j = k then some w else tget? t k

/-- Put a value at a key, keeping the keys in order. -/
def tset {α : Type} : Tab α → Nat → α → Tab α
  | [], k, v => [(k, v)]
  | (j, w) :: t, k, v =>
    if k < j then (k, v) :: (j, w) :: t
    else if j = k then (k, v) :: t
    else (j, w) :: tset t k v

/-- Take a key out. -/
def tdel {α : Type} (t : Tab α) (k : Nat) : Tab α := t.filter (fun e => !(e.1 == k))

/-- Put a value at a key, listing nothing where the value is the default. -/
def tput {α : Type} [DecidableEq α] (d : α) (t : Tab α) (k : Nat) (v : α) : Tab α :=
  if v = d then tdel t k else tset t k v

/-- Change the value at a key. -/
def tmod {α : Type} (d : α) (t : Tab α) (k : Nat) (f : α → α) : Tab α := tset t k (f (tget d t k))

/-- The form every table of scalars keeps: keys strictly rising and no default listed. -/
def Tab.wf {α : Type} [DecidableEq α] (d : α) : Tab α → Bool
  | [] => true
  | [(_, v)] => !(decide (v = d))
  | (k, v) :: (j, w) :: t => decide (k < j) && !(decide (v = d)) && Tab.wf d ((j, w) :: t)

/-- Byte memory: a list of address and byte pairs in one canonical form, where an address that is not
listed reads as zero (R262: every DRAM read returns zero after start-up). -/
abbrev Memory := List Host.Cell

/-- The lanes of a mask, in ascending order (R5). -/
def lanesOf (m : Mask) : List Nat := (List.range 32).filter (fun i => m.getLsbD i)

/-- The mask with one lane set. -/
def laneBit (i : Nat) : Mask := BitVec.ofNat 32 (2 ^ i)

/-- The mask of the lanes in a list. -/
def maskOf (l : List Nat) : Mask := l.foldl (fun m i => m ||| laneBit i) 0

/-- The two's complement integer of an unsigned number of `w` bits. -/
def signedOf (w n : Nat) : Int := if n < 2 ^ (w - 1) then (n : Int) else (n : Int) - 2 ^ w

/-- An integer reduced to `w` bits, as a natural number. -/
def wrapInt (w : Nat) (t : Int) : Nat := (t % (2 ^ w : Int)).toNat

end Sys2Proof
end

