-- ==== Sys2Proof/Config.lean ====
section
/-! DEFINITION. Config.lean: the sizes the spec fixes (R8) and the free values, which have no body, so
that a claim about one holds whatever it is. -/

namespace Sys2Proof.Config

/-- Which of the acts that could come next does (log entry 2). -/
opaque pick : Nat → Nat

/-- Which sector a memory-side cache evicts when one leaves (R172 gives no replacement order).
Log entry 39 (DESIGN CHOICE). -/
opaque evict : Nat → Nat

/-- Which value a register read takes while results for the register are outstanding (R25):
counter, register, lane. Log entry 18 (DESIGN CHOICE). -/
opaque staleRead : Nat → Nat → Nat → Nat

/-- The LEN that TRAPINFO takes where no word was read (causes 0x02 with LEN = 0b11, and 0x05).
Log entry 27 (DEDUCED). -/
opaque trapLen : Nat → Nat

/-- Which bytes of an access that is not single-copy atomic are performed before the others (R206): bit i for byte i of the
line. Log entry 142 (DEDUCED). -/
opaque tear : Nat → Nat

/-- Which entry of a full TLB set a walk replaces (R178 gives no replacement order). Log entry 38 (PRESUMED). -/
opaque tlbVictim : Nat → Nat

/-- SHA-256 (R268). Log entry 92 (PRESUMED). -/
opaque sha256 : List Byte → List Byte

/-- The hash of the root public key, in the boot ROM (R268). Log entry 92 (PRESUMED). -/
opaque rootHash : List Byte

/-- Whether a message carries a valid LMS signature under a public key (R268): key, message, signature.
Log entry 92 (PRESUMED). -/
opaque lmsValid : List Byte → List Byte → List Byte → Bool

/-- The public half of the identity key pair that the Gremen controller holds (R268), byte by byte. Log entry 92 (PRESUMED). -/
opaque identityByte : Nat → Byte

/-- The bytes of the identity key's signature with one leaf over a message (R268): leaf, message, place.
Log entry 107 (DESIGN CHOICE). -/
opaque signByte : Nat → List Byte → Nat → Byte

/-- Whether the internal check of a context image still holds (R256, the layout is the chip's own).
Log entry 93 (DEDUCED). -/
opaque imageMark : Nat → W64

/-- The size beyond 16 bytes and the further bytes of a context image (R256). Log entry 93 (DEDUCED). -/
opaque imageSize : Nat → Nat
opaque imageByte : Nat → Nat → Byte

/-- Which overlap value a copy whose ranges overlap in one space reads for a byte (R345). Log entry 75 (DEDUCED). -/
opaque overlapRead : Nat → Nat → Bool

/-- The lane index and the sequence in the key of a record that a copy engine appends inside a heat (R314
gives keys to lanes alone). Log entry 70 (DEDUCED). -/
opaque engineKey : Nat → Nat × Nat

/-- What SAMPLE writes where no weight is above 0 and the running sum passes no target, because the scale or a
weight is not finite (R368 states no result there). Log entry 83 (DESIGN CHOICE). -/
opaque sampleOpen : Nat → BitVec 32 × Bool

/-- Which free id an accepted grid takes (R240). Log entry 88 (DESIGN CHOICE). -/
opaque gridChoice : Nat → Nat

/-- The origin in the event of a host write that met poison (R487 names none). Log entry 109 (DESIGN CHOICE). -/
opaque hostOrigin : Nat → W32

/-- Whether a packet that must wait finds the hold buffers of its port full (R437 gives no size).
Log entry 121 (DESIGN CHOICE). -/
opaque holdFull : Nat → Bool

/-- The requester of a packet that has not come: chip, kind and index, by sending chip and SEQ. Packets of other
requesters pass the gap (R437). Log entry 121 (DESIGN CHOICE). -/
opaque gapRequester : Nat → Nat → Nat × Nat × Nat

/-- The telemetry and power codes of type 0x0E events and of telemetry (R249 leaves them to the part).
Log entry 107 (DESIGN CHOICE). -/
opaque telemetryCode : Nat → W32

def nCores : Nat := 192
def nQuads : Nat := 48
def nStacks : Nat := 8
def nPorts : Nat := 47
def chipNames : Nat := 16416
def logSlots : Nat := 2048
def binSlots : Nat := 256
def poolRows : Nat := 2048
def missEntries : Nat := 64
def copyQueue : Nat := 32
def copyActive : Nat := 4
def matrixTable : Nat := 16
def selectQueue : Nat := 8
def bankQueue : Nat := 64
def eventQueue : Nat := 4096
def holdEntries : Nat := 16384
def stagedRecords : Nat := 16384 + 1048576
def fifoBytes : Nat := 16384
def connSram : Nat := 1024
def firstStagingFrame : Nat := 0xFE800

end Sys2Proof.Config
end

