-- ==== Sys2Proof/Machine/Bits.lean ====
section
/-! DEFINITION. Machine/Bits.lean: bit fields, byte order (R1) and byte memory. -/

namespace Sys2Proof

namespace Machine

/-- Bits `lo` to `lo + len - 1` of a number. -/
def bf (n lo len : Nat) : Nat := n / 2 ^ lo % 2 ^ len

/-- One bit of a number. -/
def bit (n i : Nat) : Bool := n / 2 ^ i % 2 == 1

/-- A number with bits `lo` to `lo + len - 1` replaced. -/
def setBf (n lo len v : Nat) : Nat := n - bf n lo len * 2 ^ lo + v % 2 ^ len * 2 ^ lo

def b2n (b : Bool) : Nat := if b then 1 else 0

def w32 (n : Nat) : W32 := BitVec.ofNat 32 n
def w64 (n : Nat) : W64 := BitVec.ofNat 64 n

/-- The low and the high word of a 64-bit value (R32). -/
def lo32 (n : Nat) : W32 := BitVec.ofNat 32 n
def hi32 (n : Nat) : W32 := BitVec.ofNat 32 (n / 2 ^ 32)

/-- The bytes of a number, lowest first (R1). -/
def leBytes : Nat → Nat → List Byte
  | 0, _ => []
  | k + 1, n => BitVec.ofNat 8 n :: leBytes k (n / 256)

/-- The number that bytes stand for, lowest first (R1). -/
def leNat : List Byte → Nat
  | [] => 0
  | b :: t => b.toNat + 256 * leNat t

/-- The 32-bit words of a number, lowest first. -/
def leWords : Nat → Nat → List W32
  | 0, _ => []
  | k + 1, n => w32 n :: leWords k (n / 2 ^ 32)

/-- Sign extension of a `w`-bit number to 32 bits. -/
def sext32 (w n : Nat) : Nat := wrapInt 32 (signedOf w (n % 2 ^ w))

/-- The number of ones. -/
def popcount : Nat → Nat → Nat
  | 0, _ => 0
  | k + 1, n => n % 2 + popcount k (n / 2)

/-- The position of the highest one plus one; 0 for 0. -/
def bitLen : Nat → Nat → Nat
  | 0, _ => 0
  | k + 1, n => if n / 2 ^ k % 2 = 1 then k + 1 else bitLen k n

end Machine

/-! ## Byte memory -/

/-- The byte at an address: zero where nothing is listed (R262). Log entry 10 (DEDUCED). -/
def Memory.get : Memory → Nat → Byte
  | [], _ => 0
  | (j, b) :: t, a => if j = a then b else if a < j then 0 else Memory.get t a

/-- Write one byte, keeping the canonical form: addresses rising, no zero listed. Log entry 10 (DEDUCED). -/
def Memory.set : Memory → Nat → Byte → Memory
  | [], a, v => if v = 0 then [] else [(a, v)]
  | (j, b) :: t, a, v =>
    if a < j then (if v = 0 then (j, b) :: t else (a, v) :: (j, b) :: t)
    else if a = j then (if v = 0 then t else (a, v) :: t)
    else (j, b) :: Memory.set t a v

/-- Bytes from an address upward. -/
def Memory.read (m : Memory) : Nat → Nat → List Byte
  | 0, _ => []
  | k + 1, a => Memory.get m a :: Memory.read m k (a + 1)

/-- Write bytes from an address upward. -/
def Memory.write (m : Memory) (a : Nat) : List Byte → Memory
  | [] => m
  | b :: t => Memory.write (Memory.set m a b) (a + 1) t

/-- The canonical form: strictly rising addresses and no zero byte. Log entry 10 (DEDUCED). -/
def Memory.wf : Memory → Bool
  | [] => true
  | [(_, v)] => !(decide (v = 0))
  | (a, v) :: (b, w) :: t => decide (a < b) && !(decide (v = 0)) && Memory.wf ((b, w) :: t)

end Sys2Proof
end

