-- ==== Sys2Proof/Syntax.lean ====
section
/-! DEFINITION. Syntax.lean: instruction words and the machine's own events as data.
One constructor of Instr for each row of the opcode table: a word carries its decoded operands (Op),
an event carries what names the place at which it comes about. -/

namespace Sys2Proof

/-! ## Instruction words -/

/-- Length and variant of a word (R20, R33): 64 bits; 96 bits with X = 0 or 1; 128 bits with X = 0 or 1. -/
inductive Form
  | w64 | w96i | w96x | w128i | w128x
deriving DecidableEq, Repr

/-- Length of a word in bytes (R20). -/
def Form.bytes : Form → Nat
  | .w64 => 8
  | .w96i => 12
  | .w96x => 12
  | .w128i => 16
  | .w128x => 16

/-- An operand field with its kind (R29): unused, vector register, uniform register (with the
extension bit of R34), special operand (R30), small immediate, or the immediate of the extension
in the place of B (R104). -/
inductive Opd
  | no
  | v (n : BitVec 8)
  | u (n : BitVec 9)
  | sp (n : BitVec 8)
  | im (n : BitVec 8)
  | ext
deriving DecidableEq, Repr

/-- The fields that a word has whatever its opcode (R20, R23 to R28): length and variant, guard,
marker, HOLD and last-read bits. They are read where the word issues, so they travel with the issue. -/
structure Head where
  form : Form := .w64
  gq : BitVec 4 := 0
  gn : Bool := false
  sw : Bool := false
  hold : BitVec 2 := 0
  la : Bool := false
  lb : Bool := false
  lc : Bool := false
deriving DecidableEq, Repr

/-- The operands of a word other than PAIR: D, A, B, C and D2, the 11 modifier bits of R23 (bit 0 is
MOD[46]), and the immediate of the extension (IMM32 or IMM64). -/
structure Op where
  d : Opd := .no
  a : Opd := .no
  b : Opd := .no
  c : Opd := .no
  d2 : Opd := .no
  md : BitVec 11 := 0
  imm : W64 := 0
deriving DecidableEq, Repr

/-- One half of a PAIR word (R36). -/
structure Half where
  opc : BitVec 9
  d : BitVec 8
  a : BitVec 8
  b : BitVec 8
  c : BitVec 8
  la : Bool
  lb : Bool
  lc : Bool
  ty : BitVec 5
  m : BitVec 4
deriving DecidableEq, Repr

/-- The halves X and Y of a PAIR word (R36). -/
structure PairOp where
  x : Half
  y : Half
deriving DecidableEq, Repr

/-! ## Records that travel inside the machine and between chips -/

/-- The key of a write, record or reduction inside a heat (R216, R314). -/
structure Key where
  heat : Nat
  team : Nat
  lane : Nat
  seq : Nat
deriving DecidableEq, Repr

/-- A deferred record (R287): operator, bytes of the word, destination chip and word index, value; and the page that
every request to an owner carries (R385). -/
structure LogRec where
  op : Nat
  mw : Nat
  chip : Nat
  wi : Nat
  value : W64
  key : Option Key := none
  gpn : Nat := 0
deriving DecidableEq, Repr

/-- Where a record comes from (R298): chip, quad, core-in-quad, team slot. -/
structure RecOrigin where
  chip : Nat
  quad : Nat
  ciq : Nat
  ts : Nat
deriving DecidableEq, Repr

/-- A bin record (R294), with the page that every request to an owner carries (R385), and how often its team had released
its records when it was binned, by which the binning unit knows whether a record that comes back has been released since
(R297). Log entry 69 (DEDUCED). -/
structure BinRec where
  ciq : Nat
  ts : Nat
  wt : Nat
  op : Nat
  mw : Nat
  wi : Nat
  value : W64
  key : Option Key := none
  gpn : Nat := 0
  gen : Nat := 0
deriving DecidableEq, Repr

/-- An owner of a page (R382), or the host with a host-physical frame (R266). -/
inductive Owner
  | dram (chip stack frame : Nat)
  | host (frame : Nat)
deriving DecidableEq, Repr

/-- What a read-modify-write does with the old value (R221, R222): an operator of table 32 or
table 64, an exchange, a compare-and-swap. -/
inductive RmwFn
  | t32 (op : Nat)
  | t64 (op : Nat)
  | xchg
  | cas
deriving DecidableEq, Repr

/-- One lane's read-modify-write: byte offset in the page, width in bytes, operands. -/
structure RmwLane where
  lane : Nat
  off : Nat
  width : Nat
  fn : RmwFn
  b : BitVec 128
  c : BitVec 128
deriving DecidableEq, Repr

/-- The per-lane record of a continuation (R396). -/
structure LaneRec where
  lane : Nat
  preds : W16
  fl : BitVec 5
  seq : W32
  regs : List W32
deriving DecidableEq, Repr

/-- A continuation (R396). `teams`, `heats` and `prio` are the origin grid's, which its header does not carry, and `seen`
names the chips whose guest crews its lanes have been in. Log entry 72 (DESIGN CHOICE). Log entry 113 (DEDUCED). -/
structure Cont where
  originChip : Nat
  originCore : Nat
  originSlot : Nat
  mask : Mask
  pc : W32
  trapent : W32
  team : Nat
  crewid : Nat
  cluster : Nat
  grid : Nat
  heat : Nat
  fpmode : W32
  priv : Bool
  ctx : Nat
  group : Nat
  floor : W16
  hops : Nat
  ret : Bool
  tileLog : Nat
  groupNo : Nat
  groupCount : Nat
  imgsz : Nat
  vregs : List Nat
  uregs : List Nat
  img : W64
  privBase : W64
  uvals : List W32
  lanes : List LaneRec
  teams : Nat := 0
  heats : Nat := 0
  prio : Nat := 0
  seen : List Nat := []
deriving DecidableEq, Repr

/-- What a packet carries, by its type (R433). The layout of the payloads of types 0x09, 0x0A and 0x0C
is not given; they are structured data here. Log entry 125 (DEDUCED). -/
inductive Body
  | empty
  | bytes (cells : List (Nat × Byte))
  | ranges (l : List (Nat × Nat))
  | data (cells : List (Nat × Byte)) (poison : List Nat)
  | rmw (l : List RmwLane)
  | clean (flush : Bool)
  | olds (l : List (Nat × BitVec 128)) (cause : Nat)
  | bitmap (performed : List Nat)
  | bin (quad : Nat) (recs : List BinRec)
  | notice (org : RecOrigin) (weight : Nat)
  | notices (l : List (RecOrigin × Nat))
  | back (quad : Nat) (recs : List BinRec)
  | token (group number : Nat)
  | arrived (group number : Nat)
  | wack (quad ciq ts weight : Nat)
  | query (gpn : Nat)
  | answer (gpn : Nat) (owner : Option Owner) (nstub : Nat)
  | redirect (gpn : Nat) (stub owner : Owner)
  | mapWrite (off : Nat) (bytes : List Byte)
  | grantReq (c : Cont) (core : Option Nat) (stack : Nat)
  | grantRep (core slot : Nat) (cause : Nat)
  | cont (c : Cont) (core slot : Nat)
  | contAck
  | location (grid team crewid : Nat) (mask : Mask) (chip core slot : Nat)
  | exitNote (grid team crewid : Nat) (mask : Mask) (seen : List Nat)
  | halt (originChip originCore originSlot : Nat) (core slot : Nat)
  | resume (originChip originCore originSlot newCore newSlot : Nat) (core slot : Nat)
  | remove (originChip originCore originSlot : Nat) (core slot : Nat)
  | halted (grid team crewid : Nat) (mask : Mask)
  | heatAt (grid team crewid : Nat) (mask : Mask) (heat : Nat)
  | stop (grid : Nat) (release : Nat) (close : Bool)
  | stopped (grid : Nat) (close : Bool) (counts : List (Nat × Nat))
  | heat (grid heat : Nat)
  | clrCnt (grid : Nat) (l : List Nat) (home : Bool)
  | cleanAsk (core slot uid : Nat)
  | cleaned (core slot uid : Nat)
  | homeUpdate (gpn : Nat) (newOwner : Owner) (undo : Bool)
  | homeClose (gpn : Nat)
  | homeReply (gpn : Nat) (stub : Bool) (status : Nat)
  | page (gpn : Nat) (stack frame : Nat) (bytes : List (Nat × Byte)) (poison : List Nat)
  | reclaim (gpn : Nat) (stub : Owner) (drop : Bool)
deriving DecidableEq, Repr

/-- A fabric packet (R432): header, RC counter of the extension, payload; for a request that a stub
forwards (R388), the original requester's chip and its SEQ; `pin` marks a bulk piece with PIN (R446), `slot` the crew or team
slot that the sender's TAG stands for (R487). Log entry 130 (DEDUCED). -/
structure Packet where
  typ : Nat
  ord : Bool := false
  rc : Option (Nat × Nat × Nat) := none
  act : Option (Nat × Nat) := none
  orig : Option (Nat × Nat) := none
  path : Nat := 0
  pin : Bool := false
  seq : Nat := 0
  src : Nat
  dst : Nat
  ctx : Nat := 0
  gpn : Nat := 0
  off : Nat := 0
  frame : Nat := 0
  reqKind : Nat := 0
  reqIdx : Nat := 0
  tag : Nat := 0
  slot : Nat := 0
  len : Nat := 0
  body : Body := .empty
deriving DecidableEq, Repr

/-- A CXL.mem access of the host (R265): address in the HDM range, bytes to write or a length to read. -/
structure HostAccess where
  addr : Nat
  write : Option (List Byte)
  len : Nat
  tag : Nat
deriving DecidableEq, Repr

/-- A firmware image offered over I3C (R268): the monitor's image with its launch record and its two
overlay images, or the Gremen controller's own bytes. -/
structure Firmware where
  monitor : Bool
  record : List Byte
  image0 : List Byte
  image1 : List Byte
  key : List Byte
  signature : List Byte
deriving DecidableEq, Repr

/-- What the Gremen controller goes by when it evaluates power (R16): the package power, and the limit that the board has set. -/
structure PowerReading where
  milliwatts : Nat
  limit : Nat
deriving DecidableEq, Repr

/-- A junction temperature of the hotter die, and for how many periods of the reference clock it has stood on the named side
of it (R17). -/
structure ThermalReading where
  celsius : Nat
  ticks : Nat
deriving DecidableEq, Repr

/-- What an ECC read finds (R264). -/
inductive EccFinding
  | clean
  | correctable (recurs : Bool)
  | uncorrectable
deriving DecidableEq, Repr

/-! ## Steps of the machine -/

/-- One constructor for each row of spec/opcode_table.json. -/
inductive Instr
  /-- BRA (R86). -/
  | bra (w : Op)
  /-- BRA_FAR (R86). -/
  | braFar (w : Op)
  /-- BRC (R86). -/
  | brc (w : Op)
  /-- BRU (R86). -/
  | bru (w : Op)
  /-- BRX (R86). -/
  | brx (w : Op)
  /-- CALL (R86). -/
  | call (w : Op)
  /-- CALL_FAR (R86). -/
  | callFar (w : Op)
  /-- RET (R86). -/
  | ret (w : Op)
  /-- ENROL (R88). -/
  | enrol (w : Op)
  /-- REJOIN (R88). -/
  | rejoin (w : Op)
  /-- LEAVE (R88). -/
  | leave (w : Op)
  /-- ROLLRD (R88). -/
  | rollrd (w : Op)
  /-- BART (R89). -/
  | bart (w : Op)
  /-- BARC (R89). -/
  | barc (w : Op)
  /-- BARA (R89). -/
  | bara (w : Op)
  /-- BARW (R89). -/
  | barw (w : Op)
  /-- YIELD (R91). -/
  | yield (w : Op)
  /-- WAITW (R92). -/
  | waitw (w : Op)
  /-- SETTILE (R93). -/
  | settile (w : Op)
  /-- LOOPU (R86). -/
  | loopu (w : Op)
  /-- TRAPC (R94). -/
  | trapc (w : Op)
  /-- PAIR (R38). -/
  | pair (w : PairOp)
  /-- IADD (R108). -/
  | iadd (w : Op)
  /-- ISUB (R108). -/
  | isub (w : Op)
  /-- IMUL (R108). -/
  | imul (w : Op)
  /-- IMULH (R108). -/
  | imulh (w : Op)
  /-- IMAD (R108). -/
  | imad (w : Op)
  /-- IMIN (R108). -/
  | imin (w : Op)
  /-- IMAX (R108). -/
  | imax (w : Op)
  /-- IABS (R108). -/
  | iabs (w : Op)
  /-- INEG (R108). -/
  | ineg (w : Op)
  /-- AND (R110). -/
  | andW (w : Op)
  /-- OR (R110). -/
  | orW (w : Op)
  /-- XOR (R110). -/
  | xorW (w : Op)
  /-- NOT (R110). -/
  | notW (w : Op)
  /-- SHL (R110). -/
  | shl (w : Op)
  /-- SHR (R110). -/
  | shr (w : Op)
  /-- SHRA (R110). -/
  | shra (w : Op)
  /-- ROT (R110). -/
  | rot (w : Op)
  /-- POPC (R110). -/
  | popc (w : Op)
  /-- CLZ (R110). -/
  | clz (w : Op)
  /-- BREV (R110). -/
  | brev (w : Op)
  /-- BFX (R111). -/
  | bfx (w : Op)
  /-- BFI (R111). -/
  | bfi (w : Op)
  /-- PRMB (R111). -/
  | prmb (w : Op)
  /-- SEL (R111). -/
  | sel (w : Op)
  /-- ICMP (R112). -/
  | icmp (w : Op)
  /-- ISET (R112). -/
  | iset (w : Op)
  /-- LEA (R113). -/
  | lea (w : Op)
  /-- ADD64 (R109). -/
  | add64 (w : Op)
  /-- SUB64 (R109). -/
  | sub64 (w : Op)
  /-- MAD64 (R109). -/
  | mad64 (w : Op)
  /-- MOV (R115). -/
  | mov (w : Op)
  /-- MOVI (R115). -/
  | movi (w : Op)
  /-- VBCAST (R115). -/
  | vbcast (w : Op)
  /-- V2S (R115). -/
  | v2s (w : Op)
  /-- PAND (R116). -/
  | pand (w : Op)
  /-- POR (R116). -/
  | por (w : Op)
  /-- PXOR (R116). -/
  | pxor (w : Op)
  /-- PNOT (R116). -/
  | pnot (w : Op)
  /-- P2V (R116). -/
  | p2v (w : Op)
  /-- V2P (R116). -/
  | v2p (w : Op)
  /-- SHFL (R118). -/
  | shfl (w : Op)
  /-- VOTE (R119). -/
  | vote (w : Op)
  /-- REDX (R120). -/
  | redx (w : Op)
  /-- SCANX (R120). -/
  | scanx (w : Op)
  /-- MATCH (R119). -/
  | matchW (w : Op)
  /-- FFL (R119). -/
  | ffl (w : Op)
  /-- UMOV (R121). -/
  | umov (w : Op)
  /-- ULOOP (R121). -/
  | uloop (w : Op)
  /-- UCMP (R121). -/
  | ucmp (w : Op)
  /-- UAND (R121). -/
  | uand (w : Op)
  /-- FADD (R142). -/
  | fadd (w : Op)
  /-- FSUB (R142). -/
  | fsub (w : Op)
  /-- FMUL (R142). -/
  | fmul (w : Op)
  /-- FFMA (R142). -/
  | ffma (w : Op)
  /-- FMIN (R143). -/
  | fmin (w : Op)
  /-- FMAX (R143). -/
  | fmax (w : Op)
  /-- FMINM (R143). -/
  | fminm (w : Op)
  /-- FMAXM (R143). -/
  | fmaxm (w : Op)
  /-- FABS (R144). -/
  | fabs (w : Op)
  /-- FNEG (R144). -/
  | fneg (w : Op)
  /-- FCPYS (R144). -/
  | fcpys (w : Op)
  /-- FCMP (R145). -/
  | fcmp (w : Op)
  /-- FCLASS (R146). -/
  | fclass (w : Op)
  /-- FRND (R147). -/
  | frnd (w : Op)
  /-- FSCALE (R147). -/
  | fscale (w : Op)
  /-- FFRX (R147). -/
  | ffrx (w : Op)
  /-- CVTF (R148). -/
  | cvtf (w : Op)
  /-- CVTI (R149). -/
  | cvti (w : Op)
  /-- CVTFI (R150). -/
  | cvtfi (w : Op)
  /-- PACKB (R152). -/
  | packb (w : Op)
  /-- UNPKB (R152). -/
  | unpkb (w : Op)
  /-- SCLX (R151). -/
  | sclx (w : Op)
  /-- EXP2 (R153). -/
  | exp2 (w : Op)
  /-- LOG2 (R153). -/
  | log2 (w : Op)
  /-- RCP (R153). -/
  | rcp (w : Op)
  /-- RSQ (R153). -/
  | rsq (w : Op)
  /-- SQRT (R153). -/
  | sqrt (w : Op)
  /-- SIN (R153). -/
  | sin (w : Op)
  /-- COS (R153). -/
  | cos (w : Op)
  /-- TANH (R153). -/
  | tanh (w : Op)
  /-- SIGM (R153). -/
  | sigm (w : Op)
  /-- ERF (R153). -/
  | erf (w : Op)
  /-- DIVF (R154). -/
  | divf (w : Op)
  /-- DIVI (R155). -/
  | divi (w : Op)
  /-- FLRD (R158). -/
  | flrd (w : Op)
  /-- FLCLR (R158). -/
  | flclr (w : Op)
  /-- FLSET (R158). -/
  | flset (w : Op)
  /-- FCNTRD (R159). -/
  | fcntrd (w : Op)
  /-- FCNTCLR (R159). -/
  | fcntclr (w : Op)
  /-- FMODE (R160). -/
  | fmode (w : Op)
  /-- FMODE_GET (R160). -/
  | fmodeGet (w : Op)
  /-- FDOT2 (R157). -/
  | fdot2 (w : Op)
  /-- FDOT4 (R157). -/
  | fdot4 (w : Op)
  /-- FMAD2 (R157). -/
  | fmad2 (w : Op)
  /-- FSAT (R143). -/
  | fsat (w : Op)
  /-- FMED3 (R143). -/
  | fmed3 (w : Op)
  /-- FSET (R145). -/
  | fset (w : Op)
  /-- LD (R187). -/
  | ld (w : Op)
  /-- ST (R187). -/
  | st (w : Op)
  /-- LDS (R187). -/
  | lds (w : Op)
  /-- STS (R187). -/
  | sts (w : Op)
  /-- LDB (R189). -/
  | ldb (w : Op)
  /-- STB (R189). -/
  | stb (w : Op)
  /-- LDW (R190). -/
  | ldw (w : Op)
  /-- STW (R190). -/
  | stw (w : Op)
  /-- LDNT (R187). -/
  | ldnt (w : Op)
  /-- STNT (R187). -/
  | stnt (w : Op)
  /-- PREF (R192). -/
  | pref (w : Op)
  /-- CCTL_INV (R193). -/
  | cctlInv (w : Op)
  /-- CCTL_CLEAN (R193). -/
  | cctlClean (w : Op)
  /-- CCTL_FLUSH (R193). -/
  | cctlFlush (w : Op)
  /-- PROBE (R194). -/
  | probe (w : Op)
  /-- LDQ (R187). -/
  | ldq (w : Op)
  /-- STQ (R187). -/
  | stq (w : Op)
  /-- SPILL (R191). -/
  | spill (w : Op)
  /-- FILL (R191). -/
  | fill (w : Op)
  /-- ADDRX (R189). -/
  | addrx (w : Op)
  /-- ATOM (R222). -/
  | atom (w : Op)
  /-- ATOMS (R222). -/
  | atoms (w : Op)
  /-- CAS (R222). -/
  | cas (w : Op)
  /-- CASS (R222). -/
  | cass (w : Op)
  /-- RED (R223). -/
  | red (w : Op)
  /-- REDS (R223). -/
  | reds (w : Op)
  /-- LDACQ (R224). -/
  | ldacq (w : Op)
  /-- STREL (R224). -/
  | strel (w : Op)
  /-- FENCE (R225). -/
  | fence (w : Op)
  /-- FENCEX (R225). -/
  | fencex (w : Op)
  /-- ATOM64 (R222). -/
  | atom64 (w : Op)
  /-- CAS128 (R222). -/
  | cas128 (w : Op)
  /-- REDF (R223). -/
  | redf (w : Op)
  /-- WAITV (R226). -/
  | waitv (w : Op)
  /-- ARRV (R227). -/
  | arrv (w : Op)
  /-- XCHG (R222). -/
  | xchg (w : Op)
  /-- LAUNCH (R271). -/
  | launch (w : Op)
  /-- LAUNCHW (R271). -/
  | launchw (w : Op)
  /-- TRAP (R272). -/
  | trap (w : Op)
  /-- ERET (R272). -/
  | eret (w : Op)
  /-- SREAD (R273). -/
  | sread (w : Op)
  /-- SWRITE (R273). -/
  | swrite (w : Op)
  /-- CTXSAVE (R256). -/
  | ctxsave (w : Op)
  /-- CTXLOAD (R258). -/
  | ctxload (w : Op)
  /-- PREEMPT (R275). -/
  | preempt (w : Op)
  /-- FREEZE (R275). -/
  | freeze (w : Op)
  /-- THAW_RESUME (R276). -/
  | thawResume (w : Op)
  /-- THAW_RETRY (R276). -/
  | thawRetry (w : Op)
  /-- THAW_TRAP (R276). -/
  | thawTrap (w : Op)
  /-- THAW_END (R276). -/
  | thawEnd (w : Op)
  /-- KEYSET (R277). -/
  | keyset (w : Op)
  /-- KEYDROP (R277). -/
  | keydrop (w : Op)
  /-- WATCH (R278). -/
  | watch (w : Op)
  /-- WATCH_WAIT (R278). -/
  | watchWait (w : Op)
  /-- MONEV_WAIT (R280). -/
  | monevWait (w : Op)
  /-- MONEV_POST (R280). -/
  | monevPost (w : Op)
  /-- MONEV_IRQ (R280). -/
  | monevIrq (w : Op)
  /-- GETID (R281). -/
  | getid (w : Op)
  /-- CLKRD (R281). -/
  | clkrd (w : Op)
  /-- INVTLB (R282). -/
  | invtlb (w : Op)
  /-- PGATTR (R283). -/
  | pgattr (w : Op)
  /-- DST (R319). -/
  | dst (w : Op)
  /-- DRED (R319). -/
  | dred (w : Op)
  /-- DRED64 (R319). -/
  | dred64 (w : Op)
  /-- COMMIT (R306). -/
  | commit (w : Op)
  /-- COMMIT_NW (R307). -/
  | commitNw (w : Op)
  /-- CPOLL (R321). -/
  | cpoll (w : Op)
  /-- DCOUNT (R323). -/
  | dcount (w : Op)
  /-- DMODE (R324). -/
  | dmode (w : Op)
  /-- DMODE_GET (R324). -/
  | dmodeGet (w : Op)
  /-- DBIND (R325). -/
  | dbind (w : Op)
  /-- DBIND_REL (R325). -/
  | dbindRel (w : Op)
  /-- CPY (R345). -/
  | cpy (w : Op)
  /-- CPYG (R346). -/
  | cpyg (w : Op)
  /-- CPYX (R346). -/
  | cpyx (w : Op)
  /-- FEED (R347). -/
  | feed (w : Op)
  /-- DRAIN (R348). -/
  | drain (w : Op)
  /-- OVLD (R349). -/
  | ovld (w : Op)
  /-- WINW (R350). -/
  | winw (w : Op)
  /-- CWAIT (R351). -/
  | cwait (w : Op)
  /-- CFILL (R345). -/
  | cfill (w : Op)
  /-- CSTAT (R352). -/
  | cstat (w : Op)
  /-- CQRY (R352). -/
  | cqry (w : Op)
  /-- MMA (R370). -/
  | mma (w : Op)
  /-- MMAZ (R370). -/
  | mmaz (w : Op)
  /-- MACRD (R372). -/
  | macrd (w : Op)
  /-- MACZ (R371). -/
  | macz (w : Op)
  /-- MRES (R373). -/
  | mres (w : Op)
  /-- MREL (R373). -/
  | mrel (w : Op)
  /-- SELK (R367). -/
  | selk (w : Op)
  /-- SELKX (R367). -/
  | selkx (w : Op)
  /-- SAMPLE (R368). -/
  | sample (w : Op)
  /-- MSTAT (R374). -/
  | mstat (w : Op)
  /-- MIGR (R413). -/
  | migr (w : Op)
  /-- MIGRA (R413). -/
  | migra (w : Op)
  /-- PMOVE (R415). -/
  | pmove (w : Op)
  /-- PQRY (R416). -/
  | pqry (w : Op)
  /-- OWNINV (R417). -/
  | owninv (w : Op)
  /-- PSTUB_RD (R418). -/
  | pstubRd (w : Op)
  /-- PSTUB_RECLAIM (R418). -/
  | pstubReclaim (w : Op)
  /-- PSTUB_KEEP (R418). -/
  | pstubKeep (w : Op)
  /-- BPUT (R446). -/
  | bput (w : Op)
  /-- BGET (R446). -/
  | bget (w : Op)
  /-- RST (R447). -/
  | rst (w : Op)
  /-- RLD (R447). -/
  | rld (w : Op)
  /-- RATOM (R447). -/
  | ratom (w : Op)
  /-- ACNT (R449). -/
  | acnt (w : Op)
  /-- ACNT_REL (R449). -/
  | acntRel (w : Op)
  /-- AWAIT (R450). -/
  | await (w : Op)
  /-- CONN_RD (R451). -/
  | connRd (w : Op)
  /-- CONN_OPEN (R451). -/
  | connOpen (w : Op)
  /-- CONN_RESET (R452). -/
  | connReset (w : Op)
  /-- BKMODE (R474). -/
  | bkmode (w : Op)
  /-- BKMODE_OFF (R474). -/
  | bkmodeOff (w : Op)
  /-- BKBC (R475). -/
  | bkbc (w : Op)
  /-- BKMAC (R476). -/
  | bkmac (w : Op)
  /-- BKLUT_LD (R477). -/
  | bklutLd (w : Op)
  /-- BKLUT (R477). -/
  | bklut (w : Op)
  /-- BKRDA (R478). -/
  | bkrda (w : Op)
  /-- BKADD (R479). -/
  | bkadd (w : Op)
  /-- BKZ (R480). -/
  | bkz (w : Op)
  /-- NOP (R41). -/
  | nop
  /-- EXIT (R87). -/
  | exit
  /-- PAUSE (R90). -/
  | pause
  /-- CCTL_INVALL (R193). -/
  | cctlInvall
  /-- HEATEND (R279). -/
  | heatend
  /-- DFLUSH (R322). -/
  | dflush
  /-- MRET (R414). -/
  | mret
  /-- FACK (R448). -/
  | fack
  /-- CLUSTER_BARRIER_RESUME (R75). -/
  | clusterBarrierResume (core : Nat) (cl : Nat) (bar : Nat)
  /-- YIELD_HOLD_END (R91). -/
  | yieldHoldEnd (core : Nat) (slot : Nat)
  /-- WAITW_RECHECK (R92). -/
  | waitwRecheck (core : Nat) (slot : Nat) (wait : Nat)
  /-- CREW_PROMOTION (R65). -/
  | crewPromotion (core : Nat) (seat : Nat)
  /-- LANE_STARVATION_PATH (R67). -/
  | laneStarvationPath (core : Nat) (slot : Nat)
  /-- RESULT_WRITEBACK (R26). -/
  | resultWriteback (core : Nat) (slot : Nat) (res : Nat)
  /-- COALESCER_RESUME (R170). -/
  | coalescerResume (core : Nat)
  /-- TABLE_WALK_DONE (R180). -/
  | tableWalkDone (req : Nat)
  /-- MEMORY_READ_AT_OWNER (R208). -/
  | memoryReadAtOwner (req : Nat)
  /-- MEMORY_WRITE_AT_OWNER (R173). -/
  | memoryWriteAtOwner (req : Nat)
  /-- ATOMIC_AT_OWNER (R222). -/
  | atomicAtOwner (req : Nat)
  /-- LOAD_RESPONSE (R187). -/
  | loadResponse (req : Nat)
  /-- ORDERING_COMPLETE (R209). -/
  | orderingComplete (core : Nat) (slot : Nat)
  /-- REDF_AT_SLICE (R218). -/
  | redfAtSlice (req : Nat)
  /-- WATERMARK_BROADCAST (R218). -/
  | watermarkBroadcast (grid : Nat)
  /-- FWCTL_ENABLE (R176). -/
  | fwctlEnable (wr : Nat)
  /-- FWCTL_DISABLE (R176). -/
  | fwctlDisable (wr : Nat)
  /-- FWCTL_DISABLE_DONE (R176). -/
  | fwctlDisableDone (win : Nat)
  /-- HDMCTL_CLOSE (R265). -/
  | hdmctlClose (wr : Nat)
  /-- GRIDSTAT_FREE (R236). -/
  | gridstatFree (wr : Nat)
  /-- FCNTSTAT_CLEAR (R138). -/
  | fcntstatClear (wr : Nat)
  /-- PORTSTAT_CLEAR (R440). -/
  | portstatClear (wr : Nat)
  /-- PREEMPT_HALT (R255). -/
  | preemptHalt (core : Nat) (grid : Nat)
  /-- HOST_LINE_RECALL (R278). -/
  | hostLineRecall (line : Nat)
  /-- HOST_CXL_MEM_ACCESS (R265). -/
  | hostCxlMemAccess (a : HostAccess)
  /-- HEAT_END (R251). -/
  | heatEnd (grid : Nat)
  /-- HEAT_WATCHDOG (R250). -/
  | heatWatchdog (grid : Nat)
  /-- EVENT_QUEUE_RETRY (R248). -/
  | eventQueueRetry (die : Nat)
  /-- DEPENDENCE_POLL (R241). -/
  | dependencePoll
  /-- SCHEDULER_PLACE (R242). -/
  | schedulerPlace
  /-- GRID_COMPLETE (R244). -/
  | gridComplete (grid : Nat)
  /-- BOARD_RESET (R262). -/
  | boardReset
  /-- IDENTITY_RECORD (R269). -/
  | identityRecord (rec : W16)
  /-- MONITOR_START (R247). -/
  | monitorStart
  /-- FIRMWARE_UPDATE (R268). -/
  | firmwareUpdate (fw : Firmware)
  /-- ATTESTATION_REPORT (R268). -/
  | attestationReport
  /-- POWER_EVALUATION (R16). -/
  | powerEvaluation (p : PowerReading)
  /-- CLOCK_STEP_COMPLETE (R16). -/
  | clockStepComplete
  /-- THERMAL_HOLD (R17). -/
  | thermalHold (celsius : Nat)
  /-- THERMAL_HOLD_END (R17). -/
  | thermalHoldEnd (t : ThermalReading)
  /-- THERMAL_TRIP (R17). -/
  | thermalTrip (t : ThermalReading)
  /-- PATROL_SCRUB (R263). -/
  | patrolScrub (granule : Nat) (found : EccFinding)
  /-- LINK_CALIBRATION (R263). -/
  | linkCalibration (port : Nat) (farChip : Nat) (farPort : Nat)
  /-- LASER_WEAR_LEVELLING (R263). -/
  | laserWearLevelling (engine : Nat) (bias : Nat)
  /-- TELEMETRY (R263). -/
  | telemetry
  /-- LOG_SPILL_DONE (R291). -/
  | logSpillDone (core : Nat)
  /-- BIN_RECORD_ADD (R295). -/
  | binRecordAdd (core : Nat)
  /-- BIN_AGE_EXPIRY (R296). -/
  | binAgeExpiry (quad : Nat) (bin : Nat)
  /-- BIN_ACCEPT (R298). -/
  | binAccept (msg : Nat)
  /-- RELEASE_NOTICE (R299). -/
  | releaseNotice (msg : Nat)
  /-- RECORD_APPLY (R300). -/
  | recordApply (engine : Nat)
  /-- WEIGHT_ACK (R302). -/
  | weightAck (msg : Nat)
  /-- COMMIT_TOKEN (R308). -/
  | commitToken (chip : Nat) (group : Nat) (number : Nat)
  /-- ACTIVATION_ALERT (R303). -/
  | activationAlert (stack : Nat) (pc : Nat)
  /-- COPY_OP_START (R333). -/
  | copyOpStart (core : Nat)
  /-- COPY_LINE_WRITE (R338). -/
  | copyLineWrite (core : Nat) (ticket : Nat)
  /-- COPY_COMPLETE (R340). -/
  | copyComplete (core : Nat) (ticket : Nat)
  /-- MATRIX_GRANT (R364). -/
  | matrixGrant (quad : Nat)
  /-- MATRIX_GROUP (R360). -/
  | matrixGroup (quad : Nat)
  /-- MATRIX_COMPLETE (R361). -/
  | matrixComplete (quad : Nat)
  /-- SELECT_START (R365). -/
  | selectStart (quad : Nat)
  /-- SELECT_COMPLETE (R365). -/
  | selectComplete (quad : Nat)
  /-- OWNER_QUERY (R384). -/
  | ownerQuery (q : Nat)
  /-- OWNER_ANSWER (R384). -/
  | ownerAnswer (q : Nat)
  /-- NEGATIVE_ACK (R385). -/
  | negativeAck (req : Nat)
  /-- PMOVE_HOME_UPDATE (R387). -/
  | pmoveHomeUpdate (mv : Nat)
  /-- PMOVE_COPY_COMPLETE (R387). -/
  | pmoveCopyComplete (mv : Nat)
  /-- STUB_FORWARD (R388). -/
  | stubForward (req : Nat)
  /-- REDIRECT (R388). -/
  | redirect (gpn : Nat) (stub : Nat) (owner : Nat)
  /-- STUB_QUIET_EXPIRY (R390). -/
  | stubQuietExpiry (stub : Nat)
  /-- STUB_RECLAIM_REQUEST (R390). -/
  | stubReclaimRequest (stub : Nat)
  /-- STUB_RECLAIM_GRANT (R390). -/
  | stubReclaimGrant (stub : Nat)
  /-- TRACKER_PERIOD_END (R392). -/
  | trackerPeriodEnd (stack : Nat)
  /-- MIGRATION_GRANT_REQUEST (R399). -/
  | migrationGrantRequest (mv : Nat)
  /-- MIGRATION_GRANT_REPLY (R401). -/
  | migrationGrantReply (mv : Nat)
  /-- CONTINUATION_ARRIVAL (R402). -/
  | continuationArrival (mv : Nat)
  /-- MIGRATION_ACK (R401). -/
  | migrationAck (mv : Nat)
  /-- GUEST_ISSUE_WINDOW_END (R400). -/
  | guestIssueWindowEnd (core : Nat) (slot : Nat)
  /-- LOCATION_NOTICE (R405). -/
  | locationNotice (note : Nat)
  /-- EXIT_NOTICE (R406). -/
  | exitNotice (note : Nat)
  /-- RETURN_CONTINUATION (R407). -/
  | returnContinuation (mv : Nat)
  /-- GUEST_HALT (R410). -/
  | guestHalt (note : Nat)
  /-- GUEST_RESUME (R410). -/
  | guestResume (note : Nat)
  /-- GUEST_REMOVE (R411). -/
  | guestRemove (note : Nat)
  /-- PACKET_SEND (R436). -/
  | packetSend (chip : Nat)
  /-- FLIT_CRC_ERROR (R431). -/
  | flitCrcError (port : Nat) (lasting : Bool)
  /-- WRITE_PACKET (R437). -/
  | writePacket (p : Packet)
  /-- READ_REQUEST_PACKET (R437). -/
  | readRequestPacket (p : Packet)
  /-- READ_RESPONSE_PACKET (R433). -/
  | readResponsePacket (p : Packet)
  /-- RMW_REQUEST_PACKET (R437). -/
  | rmwRequestPacket (p : Packet)
  /-- RMW_RESPONSE_PACKET (R433). -/
  | rmwResponsePacket (p : Packet)
  /-- ACK_PACKET (R433). -/
  | ackPacket (p : Packet)
  /-- REFUSAL_PACKET (R439). -/
  | refusalPacket (p : Packet)
  /-- MAP_WRITE_PACKET (R350). -/
  | mapWritePacket (p : Packet)
  /-- CONNECTION_RESET_PACKET (R452). -/
  | connectionResetPacket (p : Packet)
  /-- UNKNOWN_PACKET (R433). -/
  | unknownPacket (p : Packet)
  /-- HELD_PACKET_PERFORM (R437). -/
  | heldPacketPerform (chip : Nat) (seq : Nat)
  /-- RETRANSMIT_TIMEOUT (R438). -/
  | retransmitTimeout (chip : Nat)
  /-- BKSW (R466). -/
  | bksw (stack : Nat) (cmd : Nat)
  /-- BCST (R466). -/
  | bcst (stack : Nat) (cmd : Nat)
  /-- MACB (R476). -/
  | macb (stack : Nat) (cmd : Nat)
  /-- LUTB (R477). -/
  | lutb (stack : Nat) (cmd : Nat)
  /-- LUTL (R477). -/
  | lutl (stack : Nat) (cmd : Nat)
  /-- RDAC (R478). -/
  | rdac (stack : Nat) (cmd : Nat)
  /-- ADDW (R470). -/
  | addw (stack : Nat) (cmd : Nat)
  /-- ZACC (R480). -/
  | zacc (stack : Nat) (cmd : Nat)
  /-- ROW_WAIT_RETRY (R99). -/
  | rowWaitRetry (core : Nat) (slot : Nat)
  /-- REFUSED_PACKET_RESEND (R439). -/
  | refusedPacketResend (chip : Nat) (seq : Nat)
  /-- CONN_RESET_TIMEOUT (R452). -/
  | connResetTimeout (chip : Nat)
deriving DecidableEq, Repr

/-- A whole word: its head and its instruction. -/
structure Word where
  h : Head
  ins : Instr
deriving DecidableEq, Repr

end Sys2Proof
end

