-- ==== Sys2Proof/Machine/Forms.lean ====
section
/-! DEFINITION. Machine/Forms.lean: for every word of the opcode map the lengths and variants it
defines, the operand kinds of each position and the further limits of its entry (R22 step 5, R39,
R40, R42). -/

namespace Sys2Proof

/-- TYPE, MOD[54:50] (R35, R104). -/
def Op.ty (w : Op) : Nat := Machine.bf w.md.toNat 4 5
/-- M, MOD[49:46]. -/
def Op.m (w : Op) : Nat := Machine.bf w.md.toNat 0 4
/-- OPT, MOD[56:55]. -/
def Op.opt (w : Op) : Nat := Machine.bf w.md.toNat 9 2

/-- Is the type 64 bits wide (R43)? -/
def wide (t : Nat) : Bool := t == 12 || t == 16 || t == 18
def Op.w64 (w : Op) : Bool := wide w.ty

/-- Bits MOD[46+lo+len-1 : 46+lo]. -/
def Op.mf (w : Op) (lo len : Nat) : Nat := Machine.bf w.md.toNat lo len
/-- Bit MOD[46+i]. -/
def Op.mb (w : Op) (i : Nat) : Bool := Machine.bit w.md.toNat i
/-- MOD as a number. -/
def Op.mn (w : Op) : Nat := w.md.toNat

/-- LEN (R20). -/
def Form.len : Form → Nat
  | .w64 => 0
  | .w96i => 1
  | .w96x => 1
  | .w128i => 2
  | .w128x => 2

/-- The word has the extension with C, D2 and XT (R33). -/
def Form.x : Form → Bool
  | .w96x => true
  | .w128x => true
  | _ => false

/-- The word has an IMM32. -/
def Form.imm32 : Form → Bool
  | .w96i => true
  | .w128x => true
  | _ => false

/-- The word has an IMM32 or IMM64. -/
def Form.imm : Form → Bool
  | .w96i => true
  | .w128x => true
  | .w128i => true
  | _ => false

/-- A word as the decoder sees it: its head beside its operands. -/
structure Enc extends Op where
  h : Head := {}

def Enc.form (w : Enc) : Form := w.h.form

namespace Machine

/-- What a position accepts (R29, R30): vector, uniform, predicate, other special, immediate; `raw` for
a field that an entry gives a meaning of its own, its kind zero; `opt` for a position that may be
absent; `x` for the immediate of the extension in the place of B; the multiple a register number must be, and how many registers the operand takes (R32). -/
structure Kinds where
  v : Bool := false
  u : Bool := false
  p : Bool := false
  s : Bool := false
  i : Bool := false
  raw : Bool := false
  opt : Bool := false
  x : Bool := false
  al : Nat := 1
  run : Nat := 1
deriving DecidableEq, Repr

def Kinds.none (a : Kinds) : Bool := !(a.v || a.u || a.p || a.s || a.i || a.raw || a.x)

def aNo : Kinds := {}
def aV : Kinds := { v := true }
def aU : Kinds := { u := true }
def aI : Kinds := { i := true }
def aP : Kinds := { p := true }
def aVU : Kinds := { v := true, u := true }
def aUI : Kinds := { u := true, i := true }
def aVUI : Kinds := { v := true, u := true, i := true }
def aS : Kinds := { v := true, u := true, p := true, s := true, i := true }
def aRaw : Kinds := { raw := true }
/-- The same position for a run of `n` registers that starts at a multiple of `n` (R32). -/
def Kinds.by (a : Kinds) (n : Nat) : Kinds := { a with al := n, run := n }
/-- A pair where `c` holds. -/
def Kinds.pairIf (a : Kinds) (c : Bool) : Kinds := if c then a.by 2 else a

/-- The special operand numbers of R30 other than predicates. -/
def specialOk (n : Nat) : Bool := n ≤ 0x13 || (0xF0 ≤ n && n ≤ 0xF2)
def predOk (n : Nat) : Bool := 0x80 ≤ n && n ≤ 0x8F

/-- Does a position accept this operand (R29, R30, R32)? -/
def Kinds.ok (a : Kinds) : Opd → Bool
  | .no => a.none || a.opt
  | .v n => a.raw || (a.v && n.toNat % a.al == 0 && n.toNat + a.run ≤ 256)
  | .u n => a.u && n.toNat % a.al == 0 && n.toNat + a.run ≤ 512
  | .sp n => (a.p && predOk n.toNat) || (a.s && specialOk n.toNat)
  | .im _ => a.i
  | .ext => a.x

/-- The five positions of a word. -/
structure Places where
  d : Kinds := {}
  a : Kinds := {}
  b : Kinds := {}
  c : Kinds := {}
  d2 : Kinds := {}
deriving DecidableEq, Repr

/-- One word of the opcode map: its opcode, how it becomes an instruction, which of the words of its
opcode it is (R42), the lengths and variants it defines (R33, R47), what its positions accept, and the
other limits of its entry. -/
structure Row where
  opc : Nat
  make : Op → Instr
  sel : Enc → Bool := fun _ => true
  forms : List Form
  acc : Enc → Places
  ext : Enc → Bool := fun _ => true

/-! ## Lengths (R47) -/

def f64 : List Form := [.w64]
def f96 : List Form := [.w96i]
/-- Entries that read B, or take an offset. -/
def fB : List Form := [.w64, .w96i, .w96x, .w128x]
/-- Entries without B. -/
def fN : List Form := [.w64, .w96x]
/-- Entries that read C. -/
def fC : List Form := [.w96x, .w128x]
/-- Entries whose B may also be IMM64. -/
def fB64 : List Form := [.w64, .w96i, .w96x, .w128x, .w128i]
def fI : List Form := [.w64, .w96i]
/-- Operation words of the copy and matrix engines. -/
def fO : List Form := [.w96i, .w128x]

/-- B, where an immediate of the extension takes its place (R104). -/
def immB (w : Enc) (a : Kinds) : Kinds := if w.form.imm then { x := true } else a

/-! ## Types (R43) -/

def tyIn (w : Enc) (l : List Nat) : Bool := l.contains w.ty
def tyI6 : List Nat := [9, 10, 11, 13, 14, 15]
def ty3264 : List Nat := [11, 12, 15, 16]
def tyB : List Nat := [17, 18]
def tyF : List Nat := [0, 1, 2, 20, 21]
def tyF1 : List Nat := [0, 1, 2]
def tyN : List Nat := [3, 4, 5, 6, 7]
def tyMem : List Nat := [9, 13, 10, 14, 17, 18]

/-- The crew-scoped special operands of R100. -/
def crewSp (n : Nat) : Bool := (1 ≤ n && n ≤ 0x0F) || (0x11 ≤ n && n ≤ 0x13)

/-- A source that a word with a uniform D may read (R106). -/
def uniSrc : Opd → Bool
  | .v _ => false
  | .sp n => crewSp n.toNat
  | _ => true

def isU : Opd → Bool
  | .u _ => true
  | _ => false

def isV : Opd → Bool
  | .v _ => true
  | _ => false

/-- R106: with a uniform D every source is uniform, immediate or crew-scoped. -/
def uniOk (w : Enc) : Bool := !(isU w.d) || (uniSrc w.a && uniSrc w.b && uniSrc w.c)

/-! ## Integers a float format holds (R29) -/

/-- Mantissa bits and largest integer part of a format, by R43 code. -/
def immFmt : Nat → Nat × Nat
  | 3 => (3, 448)
  | 4 => (2, 57344)
  | 5 => (2, 28)
  | 6 => (3, 7)
  | 7 => (1, 6)
  | _ => (10, 65504)

/-- The integer is exact with `p` significant bits. -/
def sigFits : Nat → Nat → Nat → Bool
  | 0, _, _ => false
  | k + 1, p, m => m < 2 ^ p || (m % 2 == 0 && sigFits k p (m / 2))

/-- A small immediate is exact in a format (R29). Log entry 34 (DEDUCED). -/
def immExact (t : Nat) : Opd → Bool
  | .im n =>
    let m := n.toInt.natAbs
    let f := immFmt t
    if t = 8 then 0 < n.toInt && sigFits 9 1 m else m ≤ f.2 && sigFits 9 (f.1 + 1) m
  | _ => true

/-! ## Control (R82) -/

def rowsControl : List Row := [
  { opc := 0x000, make := fun _ => .nop, forms := [.w64, .w96i, .w128i], acc := fun _ => {},
    ext := fun w => w.mn == 0 && w.imm == 0 },
  { opc := 0x001, make := .bra, sel := fun w => w.form == .w64, forms := f64,
    acc := fun _ => { a := aRaw, b := aRaw }, ext := fun w => w.mn == 0 },
  { opc := 0x001, make := .braFar, sel := fun w => !(w.form == .w64), forms := f96,
    acc := fun _ => {}, ext := fun w => w.mn == 0 && !(bit w.imm.toNat 1) },
  { opc := 0x002, make := .brc, forms := f64, acc := fun _ => { d := aP, a := aRaw, b := aRaw },
    ext := fun w => w.mn < 3 },
  { opc := 0x003, make := .bru, forms := f64, acc := fun _ => { d := aU, a := aRaw, b := aRaw },
    ext := fun w => w.mn < 6 },
  { opc := 0x004, make := .brx, forms := f64, acc := fun _ => { a := aVU }, ext := fun w => w.mn == 0 },
  { opc := 0x005, make := .call, sel := fun w => w.form == .w64, forms := f64,
    acc := fun _ => { d := aV, a := aRaw, b := aRaw }, ext := fun w => w.mn == 0 },
  { opc := 0x005, make := .callFar, sel := fun w => !(w.form == .w64), forms := f96,
    acc := fun _ => { d := aV }, ext := fun w => w.mn == 0 && !(bit w.imm.toNat 1) },
  { opc := 0x006, make := .ret, forms := f64, acc := fun _ => { a := aVU }, ext := fun w => w.mn == 0 },
  { opc := 0x007, make := fun _ => .exit, forms := f64, acc := fun _ => {}, ext := fun w => w.mn == 0 },
  { opc := 0x008, make := .enrol, forms := f64, acc := fun _ => {}, ext := fun w => w.mn < 8 },
  { opc := 0x009, make := .rejoin, forms := f64, acc := fun _ => {}, ext := fun w => w.mn < 8 },
  { opc := 0x00A, make := .leave, forms := f64, acc := fun _ => {}, ext := fun w => w.mn ≤ 8 },
  { opc := 0x00B, make := .rollrd, forms := f64, acc := fun _ => { d := aVU }, ext := fun w => w.mn < 8 },
  { opc := 0x00C, make := .bart, forms := f64, acc := fun _ => {}, ext := fun w => w.mn < 16 },
  { opc := 0x00D, make := .barc, forms := f64, acc := fun _ => {}, ext := fun w => w.mn < 4 },
  { opc := 0x00E, make := .bara, forms := f64, acc := fun _ => { d := aVU }, ext := fun w => w.mn < 20 },
  { opc := 0x00F, make := .barw, forms := f64, acc := fun _ => { a := aVU }, ext := fun w => w.mn < 20 },
  { opc := 0x010, make := fun _ => .pause, forms := f64, acc := fun _ => {}, ext := fun w => w.mn == 0 },
  { opc := 0x011, make := .yield, forms := f64, acc := fun _ => {}, ext := fun w => 0 < w.mn && w.mn < 256 },
  { opc := 0x012, make := .waitw, forms := f64,
    acc := fun w => { a := aVU.pairIf (!(w.mb 0)), b := aVUI },
    ext := fun w => w.mf 4 7 < 6 && w.mf 1 3 < 4 },
  { opc := 0x013, make := .settile, forms := f64, acc := fun _ => {},
    ext := fun w => 1 ≤ w.mn && w.mn ≤ 5 && w.h.gq == 0 && !w.h.gn },
  { opc := 0x014, make := .loopu, forms := f64, acc := fun _ => { d := aU, a := aRaw, b := aRaw },
    ext := fun w => w.mn == 0 },
  { opc := 0x015, make := .trapc, forms := f64, acc := fun _ => { a := aVUI, b := aVUI } }]

/-! ## Integer, uniform and cross-lane (R104) -/

/-- A two-source word of R104. -/
def row2 (opc : Nat) (make : Op → Instr) (forms : List Form) (ty : List Nat) (m : Nat → Bool)
    (opt : Nat → Bool := fun o => o == 0) : Row :=
  { opc, make, forms
    acc := fun w => { d := aVU.pairIf w.w64, a := aS.pairIf w.w64, b := immB w (aS.pairIf w.w64) }
    ext := fun w => tyIn w ty && m w.m && opt w.opt && uniOk w && (w.form != .w128i || w.w64) }

/-- A one-source word of R104. -/
def row1 (opc : Nat) (make : Op → Instr) (ty : List Nat) (m : Nat → Bool) (narrow : Bool := false) : Row :=
  { opc, make, forms := fN
    acc := fun w => { d := aVU.pairIf (w.w64 && !narrow), a := aS.pairIf w.w64 }
    ext := fun w => tyIn w ty && m w.m && w.opt == 0 && uniOk w }

/-- A shift: B is a 32-bit count (R110). -/
def rowShift (opc : Nat) (make : Op → Instr) (ty : List Nat) (m : Nat → Bool) : Row :=
  { opc, make, forms := fB
    acc := fun w => { d := aVU.pairIf w.w64, a := aS.pairIf w.w64, b := immB w aS }
    ext := fun w => tyIn w ty && m w.m && w.opt == 0 && uniOk w }

/-- A three-source word of R104. -/
def row3 (opc : Nat) (make : Op → Instr) (ty : List Nat) (m : Nat → Bool) (wideCD : Bool := false) : Row :=
  { opc, make, forms := fC
    acc := fun w => { d := aVU.pairIf wideCD, a := aS, b := immB w aS, c := aS.pairIf wideCD }
    ext := fun w => tyIn w ty && m w.m && w.opt == 0 && uniOk w }

def m0 (m : Nat) : Bool := m == 0
def m1 (m : Nat) : Bool := m < 2

/-- A predicate word (R116). -/
def rowPred (opc : Nat) (make : Op → Instr) : Row :=
  { opc, make, forms := [.w64, .w96x], acc := fun _ => { d := aP, a := aP, b := aP },
    ext := fun w => w.mn < 4 }

def rowsInt : List Row := [
  row2 0x040 .iadd fB tyI6 m1,
  row2 0x041 .isub fB tyI6 m1,
  row2 0x042 .imul fB [11, 15] m1,
  row2 0x043 .imulh fB [11, 15] m0,
  row3 0x044 .imad [11, 15] m1,
  row2 0x045 .imin fB tyI6 m0,
  row2 0x046 .imax fB tyI6 m0,
  row1 0x047 .iabs [9, 10, 11] m1,
  row1 0x048 .ineg tyI6 m1,
  row2 0x049 .andW fB64 tyB m1,
  row2 0x04A .orW fB64 tyB m1,
  row2 0x04B .xorW fB64 tyB m1,
  row1 0x04C .notW tyB m0,
  rowShift 0x04D .shl tyB m0,
  rowShift 0x04E .shr tyB m0,
  rowShift 0x04F .shra [11, 12] m0,
  rowShift 0x050 .rot [17] m1,
  row1 0x051 .popc tyB m0 true,
  row1 0x052 .clz tyB m0 true,
  row1 0x053 .brev tyB m0,
  rowShift 0x054 .bfx [11, 15] m0,
  row3 0x055 .bfi [17] m0,
  row3 0x056 .prmb [17] m0,
  row2 0x057 .sel fB tyB (fun _ => true),
  { opc := 0x058, make := .icmp, forms := fB
    acc := fun w => { d := aP, a := aS.pairIf w.w64, b := immB w (aS.pairIf w.w64),
                      c := if w.opt == 0 then aNo else aP }
    ext := fun w => tyIn w ty3264 && w.m < 6 && (w.opt == 0 || w.form.x) },
  row2 0x059 .iset fB ty3264 (fun m => m < 6) (fun o => o < 2),
  { opc := 0x05A, make := .lea, forms := fB
    acc := fun w => { d := aVU.pairIf w.w64, a := aS.pairIf w.w64, b := immB w aS }
    ext := fun w => tyIn w [15, 16] && w.opt == 0 && uniOk w },
  row2 0x05B .add64 fB64 [12, 16] m1,
  row2 0x05C .sub64 fB64 [12, 16] m1,
  row3 0x05D .mad64 [11, 15] m0 true,
  { opc := 0x05E, make := .mov, forms := fN
    acc := fun w => { d := aVU.pairIf w.w64, a := aS.pairIf w.w64 }
    ext := fun w => tyIn w tyB && w.m == 0 && w.opt == 0 && uniOk w &&
      (!w.w64 || (match w.a with | .sp n => n == 0x12 | _ => true)) },
  { opc := 0x05F, make := .movi, forms := [.w96i, .w128i, .w128x]
    acc := fun w => { d := aVU.pairIf w.w64 }
    ext := fun w => tyIn w tyB && w.m == 0 && w.opt == 0 },
  { opc := 0x060, make := .vbcast, forms := fB
    acc := fun w => { d := aV.pairIf w.w64, a := aV.pairIf w.w64, b := immB w aUI }
    ext := fun w => tyIn w tyB && w.m == 0 && w.opt == 0 },
  { opc := 0x061, make := .v2s, forms := fB
    acc := fun w => { d := aU.pairIf w.w64, a := aV.pairIf w.w64,
                      b := if w.mb 0 then aNo else immB w aUI }
    ext := fun w => tyIn w tyB && w.m < 2 && w.opt == 0 && !(w.mb 0 && w.form.imm) },
  rowPred 0x062 .pand,
  rowPred 0x063 .por,
  rowPred 0x064 .pxor,
  { opc := 0x065, make := .pnot, forms := fN, acc := fun _ => { d := aP, a := aP }, ext := fun w => w.mn == 0 },
  { opc := 0x066, make := .p2v, forms := fN, acc := fun _ => { d := aVU, a := aP },
    ext := fun w => w.mn < 2 && (!(isU w.d) || w.mb 0) },
  { opc := 0x067, make := .v2p, forms := fN, acc := fun _ => { d := aP, a := aVUI }, ext := fun w => w.mn < 2 },
  { opc := 0x068, make := .shfl, forms := fB
    acc := fun w => { d := aV.pairIf w.w64, a := aV.pairIf w.w64, b := immB w aVUI,
                      d2 := if w.form.x then { aP with opt := true } else aNo }
    ext := fun w => tyIn w tyB && w.m < 2 },
  { opc := 0x069, make := .vote, forms := fN
    acc := fun w => { d := if w.opt == 3 then aVU else aP, a := { v := true, p := true, s := true } }
    ext := fun w => w.ty == 0 && w.m == 0 && (match w.a with | .sp n => predOk n.toNat || n == 0x10 | _ => true) },
  { opc := 0x06A, make := .redx, forms := fN
    acc := fun _ => { d := aVU, a := { v := true, u := true, p := true, s := true } }
    ext := fun w => w.opt < 2 && reduceOk w },
  { opc := 0x06B, make := .scanx, forms := fN
    acc := fun _ => { d := aVU, a := { v := true, u := true, p := true, s := true } }
    ext := reduceOk },
  { opc := 0x06C, make := .matchW, forms := fN, acc := fun w => { d := aVU, a := aV.pairIf w.w64 },
    ext := fun w => tyIn w tyB && w.m == 0 && w.opt == 0 },
  { opc := 0x06D, make := .ffl, forms := fN, acc := fun _ => { d := aVU, a := { v := true, p := true } },
    ext := fun w => w.mn < 2 },
  { opc := 0x06E, make := .umov, forms := fN
    acc := fun w => { d := aU.pairIf w.w64, a := { u := true, s := true, i := true, al := if w.w64 then 2 else 1 } }
    ext := fun w => tyIn w tyB && w.m == 0 && uniOk w && umovOk w },
  { opc := 0x06F, make := .uloop, forms := fB, acc := fun w => { d := aU, a := aU, b := immB w aUI },
    ext := fun w => w.ty == 15 && w.m == 0 && w.opt == 0 },
  { opc := 0x070, make := .ucmp, forms := fB
    acc := fun w => { d := { u := true, p := true }, a := aU, b := immB w aUI }
    ext := fun w => tyIn w [11, 15] && w.m < 6 && w.opt == 0 },
  { opc := 0x071, make := .uand, forms := fN, acc := fun _ => { d := aU, a := aUI },
    ext := fun w => w.ty == 17 && w.m == 0 && w.opt == 0 }]
where
  /-- The operator and type combinations of R120. -/
  reduceOk (w : Enc) : Bool :=
    (w.m < 3 && tyIn w [0, 11, 15] || 3 ≤ w.m && w.m < 6 && w.ty == 17) &&
      (w.opt % 2 == 0 || (w.m == 0 && w.ty != 0))
  /-- The runs and sources of UMOV (R121). -/
  umovOk (w : Enc) : Bool :=
    let n := 2 ^ w.opt * (if w.w64 then 2 else 1)
    (match w.d with | .u d => d.toNat + n ≤ 512 | _ => true) &&
    (match w.a with
     | .u a => a.toNat + n ≤ 512
     | .sp s => w.opt == 0 && (!w.w64 || s == 0x12)
     | _ => w.opt == 0)

/-! ## Floating point (R140) -/

/-- Immediates of a float word are exact in its format. -/
def fImm (w : Enc) (t : Nat) : Bool := immExact t w.a && immExact t w.b && immExact t w.c

def rowF1 (opc : Nat) (make : Op → Instr) (ty : List Nat) (m : Nat → Bool) (opt : Nat → Bool := fun o => o == 0) : Row :=
  { opc, make, forms := fN, acc := fun _ => { d := aVU, a := aS }
    ext := fun w => tyIn w ty && m w.m && opt w.opt && uniOk w && fImm w w.ty }

def rowF2 (opc : Nat) (make : Op → Instr) (ty : List Nat) (m : Nat → Bool) (opt : Nat → Bool := fun o => o == 0) : Row :=
  { opc, make, forms := fB, acc := fun w => { d := aVU, a := aS, b := immB w aS }
    ext := fun w => tyIn w ty && m w.m && opt w.opt && uniOk w && fImm w w.ty }

def rowF3 (opc : Nat) (make : Op → Instr) (ty : List Nat) (m : Nat → Bool) (opt : Nat → Bool := fun o => o == 0) : Row :=
  { opc, make, forms := fC, acc := fun w => { d := aVU, a := aS, b := immB w aS, c := aS }
    ext := fun w => tyIn w ty && m w.m && opt w.opt && uniOk w && fImm w w.ty }

def any (_ : Nat) : Bool := true
def rnd4 (m : Nat) : Bool := m % 8 ≤ 4
def rnd4only (m : Nat) : Bool := m ≤ 4
def rnd5 (m : Nat) : Bool := m % 8 ≤ 5

/-- The source type code of CVTF, CVTI and CVTFI, in B[37:33]. -/
def cvtSrc (w : Op) : Nat := match w.b with | .v n => n.toNat | _ => 32

/-- Width of a conversion's source or destination element (R148). -/
def cvtW (t : Nat) : Nat :=
  if t == 12 || t == 16 then 64 else if t == 0 || t == 11 || t == 15 then 32
  else if t == 1 || t == 2 || t == 10 || t == 14 || t == 20 || t == 21 then 16 else 8

/-- The element number of a conversion (R148). -/
def cvtSel (w : Op) : Bool :=
  let sw := cvtW (cvtSrc w)
  (sw != 16 || w.opt < 2) && (sw ≤ 16 || w.opt == 0 || tyN.contains w.ty) && (!(w.ty == 20 || w.ty == 21) || w.opt == 0)

/-- The element number of FCLASS (R146). -/
def classSel (w : Op) : Bool := w.ty != 0 && (cvtW w.ty == 8 || w.opt < 2) || w.opt == 0

def rowsFloat : List Row := [
  rowF2 0x0C0 .fadd tyF rnd4 any,
  rowF2 0x0C1 .fsub tyF rnd4 any,
  rowF2 0x0C2 .fmul tyF rnd4 any,
  rowF3 0x0C3 .ffma tyF rnd4 any,
  rowF2 0x0C4 .fmin tyF m0,
  rowF2 0x0C5 .fmax tyF m0,
  rowF2 0x0C6 .fminm tyF m0,
  rowF2 0x0C7 .fmaxm tyF m0,
  rowF1 0x0C8 .fabs tyF m0,
  rowF1 0x0C9 .fneg tyF m0,
  rowF2 0x0CA .fcpys tyF m0,
  { opc := 0x0CB, make := .fcmp, forms := fB
    acc := fun w => { d := aP, a := aS, b := immB w aS, c := if w.opt == 0 then aNo else aP }
    ext := fun w => tyIn w tyF1 && w.m < 14 && (w.opt == 0 || w.form.x) },
  { opc := 0x0CC, make := .fclass, forms := fN, acc := fun _ => { d := aVU, a := aS }
    ext := fun w => tyIn w (tyF1 ++ tyN ++ [8]) && w.m == 0 && classSel w.toOp && uniOk w && immExact w.ty w.a },
  rowF1 0x0CD .frnd tyF rnd4only,
  { opc := 0x0CE, make := .fscale, forms := fB, acc := fun w => { d := aVU, a := aS, b := immB w aS }
    ext := fun w => tyIn w tyF && rnd4 w.m && w.opt == 0 && uniOk w && immExact w.ty w.a },
  rowF1 0x0CF .ffrx tyF1 m0 (fun o => o < 2),
  { opc := 0x0D0, make := .cvtf, forms := [.w64, .w96x]
    acc := fun w => { d := aVU, a := aS, b := aRaw, c := if w.ty == 20 || w.ty == 21 then aS else aNo }
    ext := fun w => tyIn w (tyF ++ tyN) && rnd5 w.m && (tyF ++ tyN ++ [8]).contains (cvtSrc w.toOp) && cvtSel w.toOp && uniSrcs w &&
      (!(w.ty == 20 || w.ty == 21) || w.form.x) && immExact (cvtSrc w.toOp) w.a && immExact (cvtSrc w.toOp) w.c },
  { opc := 0x0D1, make := .cvti, forms := fN
    acc := fun w => { d := aVU, a := aS.pairIf (wide (cvtSrc w.toOp)), b := aRaw }
    ext := fun w => tyIn w (tyF1 ++ tyN) && rnd5 w.m &&
      [9, 10, 11, 12, 13, 14, 15, 16].contains (cvtSrc w.toOp) && cvtSel w.toOp && uniSrcs w },
  { opc := 0x0D2, make := .cvtfi, forms := fN
    acc := fun w => { d := aVU.pairIf w.w64, a := aS, b := aRaw }
    ext := fun w => tyIn w [9, 10, 11, 12, 13, 14, 15, 16] && rnd4only w.m &&
      (tyF ++ tyN).contains (cvtSrc w.toOp) && cvtSel w.toOp && uniSrcs w && immExact (cvtSrc w.toOp) w.a },
  { opc := 0x0D3, make := .packb, forms := fB, acc := fun w => { d := aV, a := aV, b := immB w aUI }
    ext := fun w => tyIn w tyN && w.m == 0 && w.opt == 0 },
  { opc := 0x0D4, make := .unpkb, forms := fN, acc := fun _ => { d := aV, a := aV }
    ext := fun w => tyIn w tyN && w.m == 0 && w.opt < 3 },
  { opc := 0x0D5, make := .sclx, forms := fN, acc := fun _ => { d := aVU, a := aS }
    ext := fun w => tyIn w tyN && w.m == 0 && w.opt == 0 && uniOk w },
  rowF1 0x0D6 .exp2 tyF m0,
  rowF1 0x0D7 .log2 tyF m0,
  rowF1 0x0D8 .rcp tyF rnd4only,
  rowF1 0x0D9 .rsq tyF m0,
  rowF1 0x0DA .sqrt tyF rnd4only,
  rowF1 0x0DB .sin tyF m0,
  rowF1 0x0DC .cos tyF m0,
  rowF1 0x0DD .tanh tyF m0,
  rowF1 0x0DE .sigm tyF m0,
  rowF1 0x0DF .erf tyF m0,
  rowF2 0x0E0 .divf tyF rnd4only,
  { opc := 0x0E1, make := .divi, forms := fB, acc := fun w => { d := aVU, a := aS, b := immB w aS }
    ext := fun w => tyIn w [11, 15] && w.m == 0 && w.opt < 2 && uniOk w },
  { opc := 0x0E2, make := .flrd, forms := fN, acc := fun _ => { d := aVU }
    ext := fun w => w.ty == 0 && w.m == 0 && w.opt < 2 },
  { opc := 0x0E3, make := .flclr, forms := fN, acc := fun _ => { a := aS }, ext := fun w => w.mn == 0 },
  { opc := 0x0E4, make := .flset, forms := fN, acc := fun _ => { a := aS }, ext := fun w => w.mn == 0 },
  { opc := 0x0E5, make := .fcntrd, forms := fN, acc := fun _ => { d := aVU }
    ext := fun w => w.ty ≤ 8 && w.m == 0 },
  { opc := 0x0E6, make := .fcntclr, forms := fN, acc := fun _ => {}, ext := fun w => w.ty ≤ 8 && w.m < 2 },
  { opc := 0x0E7, make := .fmode, sel := fun w => w.opt == 0, forms := fB
    acc := fun w => { a := aUI, b := immB w aUI }, ext := fun w => w.ty == 0 && w.m == 0 },
  { opc := 0x0E7, make := .fmodeGet, sel := fun w => !(w.opt == 0), forms := fN
    acc := fun _ => { d := aVU }, ext := fun w => w.ty == 0 && w.m == 0 && w.opt == 1 },
  rowF3 0x0E8 .fdot2 [20, 21] rnd4,
  { opc := 0x0E9, make := .fdot4, forms := fC, acc := fun w => { d := aVU, a := aS, b := immB w aS, c := aS }
    ext := fun w => tyIn w tyN && rnd4 w.m && w.opt == 0 && uniOk w && immExact w.ty w.a && immExact w.ty w.b },
  rowF3 0x0EA .fmad2 [20, 21] (fun m => m < 8),
  rowF1 0x0EB .fsat tyF m0,
  rowF3 0x0EC .fmed3 tyF m0,
  { opc := 0x0ED, make := .fset, forms := fB, acc := fun w => { d := aVU, a := aS, b := immB w aS }
    ext := fun w => tyIn w tyF1 && w.m < 14 && w.opt < 2 && uniOk w }]
where
  /-- R106 for conversions, whose B is a type code. -/
  uniSrcs (w : Enc) : Bool := !(isU w.d) || (uniSrc w.a && uniSrc w.c)

/-! ## Memory (R186) -/

/-- R186: a uniform D requires uniform or immediate address operands. -/
def uniAddr (w : Enc) : Bool := !(isU w.d) || (!(isV w.a) && !(isV w.b))

/-- A load or store of global memory. -/
def rowMem (opc : Nat) (make : Op → Instr) (cp : Nat) : Row :=
  { opc, make, forms := fB
    acc := fun w => { d := aVU.pairIf (w.ty == 18), a := aVU.by 2, b := aVUI }
    ext := fun w => tyIn w tyMem && w.opt ≤ cp && w.m == 0 && uniAddr w }

def rowMem32 (opc : Nat) (make : Op → Instr) : Row :=
  { opc, make, forms := fB
    acc := fun w => { d := aVU.pairIf (w.ty == 18), a := aVU, b := aVUI }
    ext := fun w => tyIn w tyMem && w.opt == 0 && w.m == 0 && uniAddr w }

def rowBuf (opc : Nat) (make : Op → Instr) (cp : Nat) (pair : Bool) : Row :=
  { opc, make, forms := fB
    acc := fun w => { d := if pair then aV.by 2 else aVU.pairIf (w.ty == 18),
                      a := { u := true, al := 4, run := 4 }, b := aVUI }
    ext := fun w => tyIn w tyMem && w.opt ≤ cp && uniAddr w }

def rowMap (opc : Nat) (make : Op → Instr) : Row :=
  { opc, make, forms := fB
    acc := fun w => { d := aVU.pairIf (w.ty == 18), a := aVU.pairIf (w.mb 0), b := aVUI }
    ext := fun w => tyIn w tyB && w.opt == 0 && w.m < 2 && uniAddr w }

def rowQuad (opc : Nat) (make : Op → Instr) : Row :=
  { opc, make, forms := fB
    acc := fun _ => { d := aV.by 4, a := aVU.by 2, b := aVUI }
    ext := fun w => w.ty == 0 && w.opt ≤ 2 && w.m == 0 }

def rowCctl (n : Nat) (make : Op → Instr) : Row :=
  { opc := 0x14B, make, sel := fun w => w.m == n, forms := fB
    acc := fun _ => if n == 1 then {} else { a := aVU.by 2, b := aVUI }
    ext := fun w => w.ty == 0 && w.opt == 0 && (n != 1 || w.imm == 0) }

def rowsMem : List Row := [
  rowMem 0x140 .ld 2,
  rowMem 0x141 .st 2,
  rowMem32 0x142 .lds,
  rowMem32 0x143 .sts,
  rowBuf 0x144 .ldb 2 false,
  rowBuf 0x145 .stb 2 false,
  rowMap 0x146 .ldw,
  rowMap 0x147 .stw,
  rowMem 0x148 .ldnt 0,
  rowMem 0x149 .stnt 0,
  { opc := 0x14A, make := .pref, forms := fB, acc := fun _ => { a := aVU.by 2, b := aVUI }
    ext := fun w => w.mn < 2 },
  rowCctl 0 .cctlInv,
  rowCctl 1 (fun _ => .cctlInvall),
  rowCctl 2 .cctlClean,
  rowCctl 3 .cctlFlush,
  { opc := 0x14C, make := .probe, forms := fB
    acc := fun w => { d := aVU, a := aVU.pairIf (!(w.mb 0)), b := aVUI }
    ext := fun w => w.mn < 2 && uniAddr w },
  rowQuad 0x14D .ldq,
  rowQuad 0x14E .stq,
  { opc := 0x14F, make := .spill, forms := fB, acc := fun w => { d := aV.pairIf (w.ty == 18), a := aUI }
    ext := fun w => tyIn w tyB && w.opt == 0 && w.m == 0 },
  { opc := 0x150, make := .fill, forms := fB, acc := fun w => { d := aV.pairIf (w.ty == 18), a := aUI }
    ext := fun w => tyIn w tyB && w.opt == 0 && w.m == 0 },
  rowBuf 0x151 .addrx 0 true]

/-! ## Atomics and fences (R219, R220) -/

/-- SCOPE, SEM, OP and FL of an atomic word. -/
def aScope (w : Op) : Nat := w.mf 8 3
def aSem (w : Op) : Nat := w.mf 6 2
def aOp (w : Op) : Nat := w.mf 1 5
def aFl (w : Op) : Bool := w.mb 0

/-- Scopes: up to .sys, or up to .cluster in the scratchpad and cluster forms. -/
def scopeOk (w : Enc) (small : Bool) : Bool := aScope w.toOp ≤ (if small then 2 else 5)

/-- R186 for atomics: a uniform D requires uniform or immediate operands. -/
def uniAll (w : Enc) : Bool := !(isU w.d) || (!(isV w.a) && !(isV w.b) && !(isV w.c))

def rowAtom (opc : Nat) (make : Op → Instr) (d : Bool) (sp : Bool) : Row :=
  { opc, make, forms := fB
    acc := fun _ => { d := if d then aVU else aNo, a := if sp then aVU else aVU.by 2, b := aVUI }
    ext := fun w => aOp w.toOp ≤ 14 && (sp || !(aFl w.toOp)) && scopeOk w sp && (d || aSem w.toOp == 0 || aSem w.toOp == 2) && uniAll w }

def rowCas (opc : Nat) (make : Op → Instr) (sp : Bool) : Row :=
  { opc, make, forms := fC
    acc := fun w => { d := aVU.pairIf (aOp w.toOp == 1), a := if sp then aVU else aVU.by 2,
                      b := aVUI.pairIf (aOp w.toOp == 1), c := aVUI.pairIf (aOp w.toOp == 1) }
    ext := fun w => aOp w.toOp ≤ 1 && (sp || !(aFl w.toOp)) && scopeOk w sp && uniAll w }

def rowsAtomic : List Row := [
  rowAtom 0x180 .atom true false,
  rowAtom 0x181 .atoms true true,
  rowCas 0x182 .cas false,
  rowCas 0x183 .cass true,
  rowAtom 0x184 .red false false,
  rowAtom 0x185 .reds false true,
  { opc := 0x186, make := .ldacq, forms := fB
    acc := fun w => { d := aVU.pairIf (aOp w.toOp == 1), a := if aFl w.toOp then aVU else aVU.by 2 }
    ext := fun w => aOp w.toOp ≤ 1 && aSem w.toOp == 0 && scopeOk w (aFl w.toOp) && uniAll w },
  { opc := 0x187, make := .strel, forms := fB
    acc := fun w => { d := aVU.pairIf (aOp w.toOp == 1), a := if aFl w.toOp then aVU else aVU.by 2 }
    ext := fun w => aOp w.toOp ≤ 1 && aSem w.toOp == 0 && scopeOk w (aFl w.toOp) && uniAll w },
  { opc := 0x188, make := .fence, forms := f64, acc := fun _ => {}
    ext := fun w => aOp w.toOp == 0 && !(aFl w.toOp) && aSem w.toOp != 0 && scopeOk w false },
  { opc := 0x189, make := .fencex, forms := f64, acc := fun _ => {}
    ext := fun w => w.mf 1 1 == 0 && w.mf 2 4 != 0 && !(aFl w.toOp) && (aSem w.toOp == 1 || aSem w.toOp == 3) && scopeOk w false },
  { opc := 0x18A, make := .atom64, forms := fB
    acc := fun _ => { d := aVU.by 2, a := aVU.by 2, b := aVUI.by 2 }
    ext := fun w => aOp w.toOp ≤ 9 && !(aFl w.toOp) && scopeOk w false && uniAll w },
  { opc := 0x18B, make := .cas128, forms := fC
    acc := fun _ => { d := aV.by 4, a := aVU.by 2, b := aV.by 4, c := aV.by 4 }
    ext := fun w => aOp w.toOp == 0 && !(aFl w.toOp) && scopeOk w false },
  { opc := 0x18C, make := .redf, forms := fB, acc := fun _ => { a := aVU.by 2, b := aVUI }
    ext := fun w => aOp w.toOp ≤ 4 && !(aFl w.toOp) && (aSem w.toOp == 0 || aSem w.toOp == 2) && scopeOk w false },
  { opc := 0x18D, make := .waitv, forms := fB
    acc := fun w => { d := aVU.pairIf (w.mb 3), a := if w.mb 2 then aVU else aVU.by 2, b := aVUI.pairIf (w.mb 3),
                      c := if w.form.x then aVUI.pairIf (w.mb 3) else aNo }
    ext := fun w => !(w.mb 1) && !(w.mb 0) && aSem w.toOp == 0 && scopeOk w (w.mb 2) && uniAll w },
  { opc := 0x18E, make := .arrv, forms := fB
    acc := fun w => { d := if w.mb 5 then aNo else aVU.pairIf (w.mb 2), a := if w.mb 1 then aVU else aVU.by 2,
                      b := aVUI.pairIf (w.mb 2) }
    ext := fun w => w.mf 3 2 == 0 && !(w.mb 0) && 2 ≤ aSem w.toOp && scopeOk w (w.mb 1) && uniAll w },
  { opc := 0x18F, make := .xchg, forms := fB
    acc := fun w => { d := aVU.pairIf (aOp w.toOp == 1), a := if aFl w.toOp then aVU else aVU.by 2, b := aVUI.pairIf (aOp w.toOp == 1) }
    ext := fun w => aOp w.toOp ≤ 1 && scopeOk w (aFl w.toOp) && uniAll w }]

/-! ## System (R270) -/

/-- The system registers of R233, R395 and R440: whether 64 bits wide, and how many instances. -/
def sysRegOf (n : Nat) : Option (Bool × Nat) :=
  if n = 0x01 || n = 0x02 then some (false, 1) else if n = 0x03 then some (true, 1)
  else if 0x10 ≤ n && n ≤ 0x12 then some (false, 256)
  else if n = 0x22 || n = 0x24 then some (false, 1)
  else if 0x20 ≤ n && n ≤ 0x25 then some (true, 1)
  else if n = 0x30 || n = 0x31 then some (true, 8)
  else if 0x40 ≤ n && n ≤ 0x42 then some (true, 128)
  else if n = 0x50 || n = 0x60 || n = 0x61 || n = 0x70 then some (true, 1)
  else if n = 0x62 || n = 0x66 then some (true, 8) else if n = 0x63 then some (false, 8)
  else if n = 0x64 || n = 0x65 || n = 0x71 then some (false, 1)
  else if n = 0x72 then some (false, 47) else none

/-- The register number of SREAD and SWRITE: an assigned register of the word's width and an instance of it;
a per-lane register is not read to a uniform D (R233). Log entry 139 (DESIGN CHOICE). -/
def sysRegOk (w : Enc) (read : Bool) : Bool :=
  let n := w.imm.toNat
  bf n 24 8 == 0 &&
  (match sysRegOf (bf n 0 16) with
   | some (w64, k) => w64 == w.mb 0 && bf n 16 8 < k
   | none => false) && !(read && isU w.d && bf n 0 16 ≤ 3)

/-- The masks of PGATTR name only RD, W, D and NC, each in one of them (R283). -/
def pgMaskOk (n : Nat) : Bool := bf n 16 16 == 0 && (bf n 0 8 ||| bf n 8 8) &&& 0xC3 == 0 && bf n 0 8 &&& bf n 8 8 == 0

def rowThaw (n : Nat) (make : Op → Instr) : Row :=
  { opc := 0x1AA, make, sel := fun w => w.mf 0 2 == n, forms := f64
    acc := fun _ => { d := aU, a := aU, b := aUI }, ext := fun w => w.mn < 8 }

def rowsSystem : List Row := [
  { opc := 0x1A0, make := .launch, forms := f64, acc := fun _ => { d := aU, a := aU.by 2 }, ext := fun w => w.mn == 0 },
  { opc := 0x1A1, make := .launchw, forms := f64, acc := fun _ => { d := aU, a := aU.by 2 }, ext := fun w => w.mn == 0 },
  { opc := 0x1A2, make := .trap, forms := f64, acc := fun _ => {}, ext := fun w => w.mf 0 3 == 0 },
  { opc := 0x1A3, make := .eret, forms := f64, acc := fun _ => {}, ext := fun w => w.mn < 2 },
  { opc := 0x1A4, make := .sread, forms := f96, acc := fun w => { d := aVU.pairIf (w.mb 0) }
    ext := fun w => w.mn < 2 && sysRegOk w true },
  { opc := 0x1A5, make := .swrite, forms := f96, acc := fun w => { d := aU.pairIf (w.mb 0) }
    ext := fun w => w.mn < 2 && sysRegOk w false },
  { opc := 0x1A6, make := .ctxsave, forms := f64, acc := fun _ => { d := aU, a := aU.by 2, b := aU }, ext := fun w => w.mn == 0 },
  { opc := 0x1A7, make := .ctxload, forms := f64, acc := fun _ => { d := aU, a := aU.by 2, b := aUI }, ext := fun w => w.mn == 0 },
  { opc := 0x1A8, make := .preempt, forms := f64, acc := fun _ => { d := aU, a := aUI }, ext := fun w => w.mn == 0 },
  { opc := 0x1A9, make := .freeze, forms := f64, acc := fun _ => { a := aU }, ext := fun w => w.mn < 2 },
  rowThaw 0 .thawResume,
  rowThaw 1 .thawRetry,
  rowThaw 2 .thawTrap,
  rowThaw 3 .thawEnd,
  { opc := 0x1AB, make := .keyset, forms := f64, acc := fun _ => { d := aU, a := aUI, b := { u := true, al := 16, run := 16 } }
    ext := fun w => w.mn == 0 },
  { opc := 0x1AC, make := .keydrop, forms := f64, acc := fun _ => { d := aU, a := aUI }, ext := fun w => w.mn == 0 },
  { opc := 0x1AD, make := .watch, sel := fun w => !(w.mb 0), forms := f64, acc := fun _ => { a := aU.by 2, b := aUI }
    ext := fun w => w.mn == 0 },
  { opc := 0x1AD, make := .watchWait, sel := fun w => w.mb 0, forms := f64, acc := fun _ => { d := aU }
    ext := fun w => w.mn == 1 },
  { opc := 0x1AE, make := fun _ => .heatend, forms := f64, acc := fun _ => {}, ext := fun w => w.mn == 0 },
  { opc := 0x1AF, make := .monevWait, sel := fun w => w.mf 0 2 == 0, forms := f64
    acc := fun _ => { d := { u := true, al := 8, run := 8 } }, ext := fun w => w.mn == 0 },
  { opc := 0x1AF, make := .monevPost, sel := fun w => w.mf 0 2 == 1, forms := f64
    acc := fun _ => { a := aUI, b := aUI }, ext := fun w => w.mn == 1 },
  { opc := 0x1AF, make := .monevIrq, sel := fun w => w.mf 0 2 == 2, forms := f64
    acc := fun _ => { a := aUI }, ext := fun w => w.mn == 2 },
  { opc := 0x1B0, make := .getid, forms := f64, acc := fun _ => { d := aVU }, ext := fun w => w.mn < 11 },
  { opc := 0x1B1, make := .clkrd, forms := f64, acc := fun w => { d := aVU.pairIf (w.mf 0 2 < 2) }
    ext := fun w => w.mn < 3 },
  { opc := 0x1B2, make := .invtlb, forms := f64, acc := fun w => if w.mn == 0 then {} else if w.mn == 1 then { a := aU } else { a := aU, b := aU.by 2 }
    ext := fun w => w.mn < 3 },
  { opc := 0x1B3, make := .pgattr, forms := f96, acc := fun _ => { d := aU, a := aU, b := aU.by 2 }
    ext := fun w => w.mn == 0 && pgMaskOk w.imm.toNat }]

/-! ## Deferred (R318). Log entry 71 (DEDUCED). -/

def dred32 : List Nat := [0x01, 0x03, 0x04, 0x05, 0x06, 0x07, 0x08, 0x09, 0x0A, 0x0F, 0x10, 0x11]
def dred64 : List Nat := [0x02, 0x0B, 0x0C, 0x0D, 0x0E, 0x12, 0x13, 0x14, 0x15, 0x16]

def rowsDeferred : List Row := [
  { opc := 0x1C0, make := .dst, forms := fB
    acc := fun w => { d := aVU.pairIf (w.ty == 18), a := aVU.by 2, b := aVUI }
    ext := fun w => tyIn w tyMem && w.opt == 0 && w.m == 0 },
  { opc := 0x1C1, make := .dred, forms := fB, acc := fun _ => { d := aVU, a := aVU.by 2, b := aVUI }
    ext := fun w => w.mn < 64 && dred32.contains w.mn },
  { opc := 0x1C2, make := .dred64, forms := fB, acc := fun _ => { d := aVU.by 2, a := aVU.by 2, b := aVUI }
    ext := fun w => w.mn < 64 && dred64.contains w.mn },
  { opc := 0x1C3, make := .commit, sel := fun w => !(w.mb 3), forms := f64, acc := fun _ => {}
    ext := fun w => 1 ≤ w.mn && w.mn ≤ 4 },
  { opc := 0x1C3, make := .commitNw, sel := fun w => w.mb 3, forms := f64, acc := fun _ => {}
    ext := fun w => 9 ≤ w.mn && w.mn ≤ 12 },
  { opc := 0x1C4, make := .cpoll, forms := f64, acc := fun _ => { d := { v := true, u := true, p := true } }
    ext := fun w => w.mn == 0 },
  { opc := 0x1C5, make := fun _ => .dflush, forms := f64, acc := fun _ => {}, ext := fun w => w.mn == 0 },
  { opc := 0x1C6, make := .dcount, forms := f64, acc := fun _ => { d := aVU }, ext := fun w => w.mn < 2 },
  { opc := 0x1C7, make := .dmode, sel := fun w => !(w.mb 0), forms := fI
    acc := fun w => { a := aUI, b := immB w aUI }, ext := fun w => w.mn == 0 },
  { opc := 0x1C7, make := .dmodeGet, sel := fun w => w.mb 0, forms := fI, acc := fun _ => { d := aVU }
    ext := fun w => w.mn == 1 && w.imm == 0 },
  { opc := 0x1C8, make := .dbind, sel := fun w => !(w.mb 0), forms := fI
    acc := fun w => { d := aU, b := immB w aUI }, ext := fun w => w.mn == 0 },
  { opc := 0x1C8, make := .dbindRel, sel := fun w => w.mb 0, forms := fI
    acc := fun w => { d := aU, b := immB w aUI }, ext := fun w => w.mn == 1 }]

/-! ## Copy engine (R343) -/

def cSS (w : Op) : Nat := w.mf 9 2
def cDS (w : Op) : Nat := w.mf 7 2
def cP (w : Op) : Nat := w.mf 0 7

/-- The completion specification. -/
def cwOk (w : Enc) : Bool :=
  let n := w.imm.toNat
  bf n 18 13 == 0 && bf n 0 2 == 0 && (!(bit n 31) || bf n 2 16 == 0)

def rowCopy (opc : Nat) (make : Op → Instr) (b : Kinds) (ss ds : Nat) (p : Nat → Bool) : Row :=
  { opc, make, forms := fO
    acc := fun _ => { d := aU, a := { u := true, al := 4, run := 4 }, b }
    ext := fun w => cSS w.toOp ≤ ss && cDS w.toOp ≤ ds && p (cP w.toOp) && cwOk w }

def rowsCopy : List Row := [
  rowCopy 0x1D0 .cpy aU 2 2 m0,
  rowCopy 0x1D1 .cpyg aV 2 2 (fun p => p % 8 == 0 && p / 8 ≤ 10),
  rowCopy 0x1D2 .cpyx aV 2 2 (fun p => p % 8 == 0 && p / 8 ≤ 10),
  rowCopy 0x1D3 .feed aNo 2 0 m1,
  rowCopy 0x1D4 .drain aNo 0 2 (fun p => p < 8),
  rowCopy 0x1D5 .ovld aNo 0 0 m1,
  rowCopy 0x1D6 .winw aU 1 0 m0,
  { opc := 0x1D7, make := .cwait, forms := fI, acc := fun w => { a := aU, b := immB w aUI }, ext := fun w => w.mn == 0 },
  rowCopy 0x1D8 .cfill aU 0 2 m0,
  { opc := 0x1D9, make := .cstat, forms := f64, acc := fun _ => { d := aVU }, ext := fun w => w.mn == 0 },
  { opc := 0x1DA, make := .cqry, forms := fI, acc := fun w => { d := aVU, b := immB w aUI }, ext := fun w => w.mn == 0 }]

/-! ## Matrix and select (R356, R369) -/

/-- The class of a type pair (R356). -/
inductive MClass
  | h | q | i | f | t
deriving DecidableEq, Repr

def mClass (a b : Nat) : Option MClass :=
  if (a == 1 || a == 2) && (b == 1 || b == 2) then some .h
  else if (a == 3 || a == 4) && (b == 3 || b == 4) then some .q
  else if a == 9 && b == 9 then some .i
  else if (a == 5 || a == 6 || a == 7) && (b == 5 || b == 6 || b == 7) then some .f
  else if a == 19 && b == 9 then some .t
  else none

def barOk (w : Enc) : Bool := !(w.mb 4) || w.mf 0 4 == 0

def rowMma (opc : Nat) (make : Op → Instr) : Row :=
  { opc, make, forms := fO, acc := fun _ => { a := { u := true, i := true, al := 2, run := 2 } }
    ext := fun w =>
      let n := w.imm.toNat
      barOk w && bf n 0 5 == 0 &&
      (match mClass (bf n 27 5) (bf n 22 5) with
       | none => false
       | some k => !(w.mb 7 && k == .t)) }

def rowSel (opc : Nat) (make : Op → Instr) : Row :=
  { opc, make, forms := f64, acc := fun _ => { a := { u := true, al := 8, run := 8 } }
    ext := fun w => w.mf 6 5 == 0 && barOk w }

def rowsMatrix : List Row := [
  rowMma 0x1E0 .mma,
  rowMma 0x1E1 .mmaz,
  { opc := 0x1E2, make := .macrd, forms := f64, acc := fun _ => { d := aV, b := aUI }, ext := fun w => w.mf 1 7 == 0 },
  { opc := 0x1E3, make := .macz, forms := f64, acc := fun _ => {}, ext := fun w => w.mf 5 3 == 0 && barOk w },
  { opc := 0x1E4, make := .mres, forms := f64, acc := fun _ => { d := aU, b := aUI }, ext := fun w => w.mn == 0 },
  { opc := 0x1E5, make := .mrel, forms := f64, acc := fun _ => { d := aU }, ext := fun w => w.mn == 0 },
  rowSel 0x1E6 .selk,
  rowSel 0x1E7 .selkx,
  { opc := 0x1E8, make := .sample, forms := [.w96x]
    acc := fun _ => { d := aU, a := { u := true, al := 4, run := 4 }, b := aUI, d2 := aP }, ext := fun w => w.mn == 0 && noXt w },
  { opc := 0x1E9, make := .mstat, forms := f64, acc := fun _ => { d := aVU }, ext := fun w => w.mn < 2 }]
where
  /-- SAMPLE has XT zero, so it names no register above s255. -/
  noXt (w : Enc) : Bool :=
    let low : Opd → Bool := fun o => match o with | .u n => n.toNat < 256 | _ => true
    low w.d && low w.a && low w.b

/-! ## Migration (R412) -/

def rowPstub (n : Nat) (make : Op → Instr) : Row :=
  { opc := 0x1F2, make, sel := fun w => w.mf 0 2 == n, forms := f64
    acc := fun _ => { d := aU.by 2, a := aU }, ext := fun w => w.mn < 4 }

def rowsMigration : List Row := [
  { opc := 0x1EC, make := .migr, forms := fI
    acc := fun w => { d := aP, a := if w.form == .w96i then aNo else aVU }, ext := fun w => w.mn < 2 },
  { opc := 0x1ED, make := .migra, forms := fB, acc := fun _ => { d := aP, a := aVU.by 2, b := aVUI }, ext := fun w => w.mn < 2 },
  { opc := 0x1EE, make := fun _ => .mret, forms := f64, acc := fun _ => {}, ext := fun w => w.mn == 0 },
  { opc := 0x1EF, make := .pmove, forms := f64, acc := fun _ => { d := aU, a := aU.by 2, b := aU.by 2 }, ext := fun w => w.mn == 0 },
  { opc := 0x1F0, make := .pqry, forms := fB, acc := fun _ => { d := aVU.by 2, a := aVU.by 2, b := aVUI }
    ext := fun w => w.mn < 2 },
  { opc := 0x1F1, make := .owninv, forms := fB
    acc := fun w => if w.mb 0 then {} else { a := aVU.by 2, b := aVUI }
    ext := fun w => w.mn < 2 && (!(w.mb 0) || w.imm == 0) },
  rowPstub 0 .pstubRd,
  rowPstub 1 .pstubReclaim,
  rowPstub 2 .pstubKeep]

/-! ## Fabric (R445) -/

def rowBulk (opc : Nat) (make : Op → Instr) : Row :=
  { opc, make, forms := fO, acc := fun _ => { d := aU, a := { u := true, al := 8, run := 8 } }
    ext := fun w => w.mf 8 2 ≤ 1 && w.mf 0 8 == 0 && cwOk w }

def rowConn (n : Nat) (make : Op → Instr) : Row :=
  { opc := 0x1FB, make, sel := fun w => w.mf 0 3 == 1 && w.mf 3 3 == n, forms := f64
    acc := fun _ => { d := if n == 0 then { u := true, al := 8, run := 8 } else aU, a := aU }, ext := fun w => w.mn < 64 }

def rowsFabric : List Row := [
  rowBulk 0x1F4 .bput,
  rowBulk 0x1F5 .bget,
  { opc := 0x1F6, make := .rst, forms := fB
    acc := fun w => { d := aVU.pairIf (w.ty == 18), a := aVU.by 2, b := aVUI, c := if w.mb 9 then aU.by 2 else aNo }
    ext := fun w => tyIn w tyMem && w.m == 0 && (!(w.mb 9) || w.form.x) && uniAddr w },
  { opc := 0x1F7, make := .rld, forms := fB
    acc := fun w => { d := aVU.pairIf (w.ty == 18), a := aVU.by 2, b := aVUI }
    ext := fun w => tyIn w tyMem && w.m == 0 && !(w.mb 9) && uniAddr w },
  { opc := 0x1F8, make := .ratom, forms := fB
    acc := fun w => { d := aVU.pairIf (w.mb 9), a := aVU.by 2, b := aVUI.pairIf (w.mb 9),
                      c := if w.ty == 15 then aVUI.pairIf (w.mb 9) else aNo }
    ext := fun w => w.m == 0 && (w.ty == 15 && w.form.x || w.ty ≤ (if w.mb 9 then 9 else 14)) && uniAll w },
  { opc := 0x1F9, make := fun _ => .fack, forms := f64, acc := fun _ => {}, ext := fun w => w.mn == 0 },
  { opc := 0x1FA, make := .acnt, sel := fun w => !(w.mb 10), forms := f64
    acc := fun _ => { d := aU, a := aU, b := aUI }, ext := fun w => !(w.mb 0) && (w.mb 5 || w.mf 1 4 == 0) },
  { opc := 0x1FA, make := .acntRel, sel := fun w => w.mb 10, forms := f64
    acc := fun _ => { d := aU }, ext := fun w => w.mf 0 6 == 0 },
  { opc := 0x1FB, make := .await, sel := fun w => w.mf 0 3 == 0, forms := fI
    acc := fun w => { b := immB w aUI }, ext := fun w => w.mf 7 4 == 0 },
  rowConn 0 .connRd,
  rowConn 1 .connOpen,
  rowConn 2 .connReset]

/-! ## Bank units (R473) -/

def rowsBank : List Row := [
  { opc := 0x1FC, make := .bkmode, sel := fun w => w.mf 0 4 == 0, forms := f64
    acc := fun _ => { d := aU, a := aU.by 2 }, ext := fun w => w.mn == 0 },
  { opc := 0x1FC, make := .bkmodeOff, sel := fun w => w.mf 0 4 == 8, forms := f64
    acc := fun _ => { d := aU, a := aU.by 2 }, ext := fun w => w.mn == 8 },
  { opc := 0x1FC, make := .bkbc, sel := fun w => w.mf 0 3 == 1, forms := f64
    acc := fun _ => { a := aU.by 2, b := aV.by 4 }, ext := fun w => w.mf 8 3 == 0 },
  { opc := 0x1FC, make := .bkmac, sel := fun w => w.mf 0 3 == 2, forms := f64
    acc := fun _ => { a := aU.by 2, b := aUI }, ext := fun w => w.mn == 2 },
  { opc := 0x1FC, make := .bklutLd, sel := fun w => w.mf 0 3 == 3 && w.mb 3, forms := f64
    acc := fun _ => { a := aU.by 2, b := { u := true, al := 8, run := 8 } }, ext := fun w => w.mn == 11 },
  { opc := 0x1FC, make := .bklut, sel := fun w => w.mf 0 3 == 3 && !(w.mb 3), forms := f64
    acc := fun _ => { a := aU.by 2, b := aUI }, ext := fun w => w.mn == 3 },
  { opc := 0x1FD, make := .bkrda, sel := fun w => w.mf 0 3 == 0, forms := f64
    acc := fun _ => { d := aV.by 4, a := aU.by 2 }, ext := fun w => w.mn == 0 },
  { opc := 0x1FD, make := .bkadd, sel := fun w => w.mf 0 3 == 1, forms := fB
    acc := fun _ => { d := aVU, a := aVU.by 2, b := aVUI }
    ext := fun w => w.mf 4 7 == 0 },
  { opc := 0x1FD, make := .bkz, sel := fun w => w.mf 0 3 == 2, forms := f64
    acc := fun _ => { a := aU.by 2, b := aUI }, ext := fun w => w.mn == 2 }]

/-- Every word of the opcode map but PAIR. -/
def rows : List Row :=
  rowsControl ++ rowsInt ++ rowsFloat ++ rowsMem ++ rowsAtomic ++ rowsSystem ++ rowsDeferred ++
    rowsCopy ++ rowsMatrix ++ rowsMigration ++ rowsFabric ++ rowsBank

/-! ## PAIR (R37) -/

/-- The class of a pairable opcode: 0 integer ALU, 1 float ALU, 2 SFU. -/
def pairClass (o : Nat) : Option Nat :=
  if [0x040, 0x041, 0x042, 0x044, 0x045, 0x046, 0x047, 0x048, 0x049, 0x04A, 0x04B, 0x04C, 0x04D, 0x04E,
      0x04F, 0x050, 0x051, 0x052, 0x053, 0x054, 0x055, 0x056, 0x057, 0x05A, 0x05E].contains o then some 0
  else if [0x0C0, 0x0C1, 0x0C2, 0x0C3, 0x0C4, 0x0C5, 0x0C6, 0x0C7, 0x0C8, 0x0C9, 0x0CA, 0x0CD, 0x0CE,
      0x0EB, 0x0E8, 0x0EA, 0x0EC].contains o then some 1
  else if [0x0D6, 0x0D7, 0x0D8, 0x0D9, 0x0DA, 0x0DB, 0x0DC, 0x0DD, 0x0DE, 0x0DF].contains o then some 2
  else none

/-- How many sources a pairable opcode reads: A; A and B; A, B and C. -/
def pairSrcs (o : Nat) : Nat :=
  if [0x047, 0x048, 0x04C, 0x051, 0x052, 0x053, 0x05E, 0x0C8, 0x0C9, 0x0CD, 0x0EB].contains o then 1
  else if [0x044, 0x055, 0x056, 0x0C3, 0x0E8, 0x0EA, 0x0EC].contains o then 3
  else if 0x0D6 ≤ o && o ≤ 0x0DF then 1
  else 2

/-- The operands that a half stands for (R36). -/
def halfOp (h : Half) : Op :=
  let n := pairSrcs h.opc.toNat
  { d := .v h.d
    a := .v h.a
    b := if 2 ≤ n then .v h.b else .no
    c := if n = 3 then .v h.c else .no
    md := BitVec.ofNat 11 (h.ty.toNat * 16 + h.m.toNat) }

/-- The head that a half stands for (R36): the 64-bit form, or the 96-bit form with C. -/
def halfHead (p : Head) (h : Half) : Head :=
  { p with form := if pairSrcs h.opc.toNat = 3 then .w96x else .w64, hold := 0, la := h.la, lb := h.lb, lc := h.lc }

/-- The opcode of a half accepts its TYPE and M, and its unused fields are zero (R37). -/
def halfOk (h : Half) : Bool :=
  let o := h.opc.toNat
  let n := pairSrcs o
  !(wide h.ty.toNat) &&
  (match rows.find? (fun r => r.opc == o) with
   | some r => r.ext { halfOp h with h := halfHead {} h }
   | none => false) &&
  (2 ≤ n || (h.b == 0 && !h.lb)) && (n == 3 || (h.c == 0 && !h.lc))

/-- The registers a half reads. -/
def halfSrcs (h : Half) : List Nat := [h.a.toNat, h.b.toNat, h.c.toNat].take (pairSrcs h.opc.toNat)

/-- Every PAIR rule of R37 but the two on LEN and the reserved bits, which have no place here. -/
def pairOk (p : PairOp) : Bool :=
  let s := halfSrcs p.x ++ halfSrcs p.y
  (match pairClass p.x.opc.toNat, pairClass p.y.opc.toNat with
   | some 0, some 1 => true
   | some 1, some 2 => true
   | _, _ => false) &&
  s.length ≤ 4 && decide ((s.map (· % 4)).Nodup) && !(p.x.d == p.y.d) && halfOk p.x && halfOk p.y

end Machine
end Sys2Proof
end

