-- ==== Sys2Proof/Machine/State.lean ====
section
/-! DEFINITION. Machine/State.lean: everything the spec gives one GX40, as plain data, and the machine
right after board reset. Tables are sparse: what is not listed holds the default its reader names. -/

namespace Sys2Proof.Machine

/-- Why the machine stops. None of these is an outcome of the hardware: each says that the model was
asked for something that cannot come about. Log entry 3 (DESIGN CHOICE). -/
inductive Fault
  /-- Raised by every instruction word when no path has been chosen to execute it (R67). Safe. -/
  | noIssue
  /-- Raised by every event that the state does not allow to come about. Safe. -/
  | notEnabled
  /-- Raised by words and events of the compute dies while they have no power or are held in board
  reset (R17, R262). Safe. -/
  | dark
deriving DecidableEq, Repr

/-- Instructions without a meaning. -/
inductive Refusal
  /-- Raised by exec's own arm for an instruction that has no meaning yet. Safe. -/
  | notModelled (mnemonic : String)
deriving DecidableEq, Repr

/-! ## Lanes and crews -/

/-- A lane's PC (R53): slot, expected overlay id, byte offset. -/
structure Pc where
  slot : Nat := 0
  id : Nat := 0
  off : Nat := 0
deriving DecidableEq, Repr

/-- Park reasons (R59), each with what the lane waits for; `resume` is no park reason of R59 but a lane
that can issue again from the clock named (R72, R75, R251, R253). -/
inductive Park
  | no
  | rejoin (n : Nat)
  | barrier (cluster : Bool) (n : Nat) (phase : W32)
  | barw (cluster : Bool) (n : Nat) (token : W32)
  | wait (id : Nat)
  | fault
  | absent (word : Nat)
  | overlay
  | migration (mv : Nat)
  | row
  | log
  | heat
  | resume (clk : Nat)
deriving DecidableEq, Repr

/-- One latch of a lane (R27): the register it stands for and the words executed since it was set. -/
structure Latch where
  reg : Nat
  age : Nat
deriving DecidableEq, Repr

/-- A lane's fault record (R184, R248), and the number of the word that faulted. -/
structure FaultRec where
  cause : Nat
  code : Nat := 0
  addr : W64 := 0
  len : Nat := 0
  word : Nat := 0
deriving DecidableEq, Repr

/-- A rename-table entry (R98). -/
inductive VEntry
  | no
  | comp (v : W32)
  | row (vals : Tab W32)
deriving DecidableEq, Repr

/-- One write of a result: to lanes of a vector register, whole and uniform (R100), to a uniform
register, to a predicate's lanes, to %fl by OR, to %fl clearing bits (R158), to FPMODE (R160: value and
mask), or clearing the grid's event counters, of which the list is taken (R159). -/
inductive Wr
  | v (reg : Nat) (vals : Tab W32)
  | comp (reg : Nat) (val : W32)
  | u (reg : Nat) (val : W32)
  | q (n : Nat) (lanes vals : Mask)
  | fl (vals : Tab (BitVec 5))
  | flClr (vals : Tab (BitVec 5))
  | mode (val mask : W32)
  | cnt (l : List Nat)
deriving DecidableEq, Repr

/-- An outstanding result (R25, R71): the number of the issue that produced it (the two paths of one
clock share one), the earliest and latest clock of its writing, whether its value has come, its writes,
the vector and uniform registers it writes, those uniform registers that path 2 of its clock wrote as
well (R69), and the event counters it raises when written (R141). -/
structure Result where
  id : Nat
  serial : Nat
  lo : Nat
  hi : Option Nat
  ready : Bool
  wr : List Wr
  vs : List Nat := []
  us : List Nat := []
  noU : List Nat := []
  counts : List Nat := []
deriving DecidableEq, Repr

/-- What follows an incomplete release, acquire or fence (R209). -/
inductive After
  | fence
  | reqs (l : List Nat)
  | arrive (cluster : Bool) (n : Nat) (lanes : Mask)
  | commit (nw : Bool) (scope : Nat) (res : Nat)
  | heat
  | launch (d : Opd) (addr : W64) (wait : Bool) (res : Nat)
  | irq (vector : Nat)
  | move (ids : List Nat)
  | fack
deriving DecidableEq, Repr

/-- An incomplete release, acquire or fence of a crew (R209, R225): its halves, scope, lanes, the
bound below which its lanes' requests must be performed, engine kinds it waits for (bit 0 fabric, 1 bank,
2 matrix and select, 3 copy), what follows; for a release at system scope whether the chips of the pod have been asked to
clean, and those that have not answered. -/
structure Ord where
  rel : Bool
  acq : Bool
  scope : Nat
  lanes : Mask
  before : Nat
  engines : BitVec 4 := 0
  after : After := .fence
  pc : Pc := {}
  len : Nat := 0
  asked : Bool := false
  waitFor : List Nat := []
deriving DecidableEq, Repr

/-- A wait of lanes on a word of memory (R92, R226, R351, R450): one entry for each WAITW, WAITV,
CWAIT or AWAIT that issued; `since` is the clock of its last read, `also` the lanes that wait with the one lane for which a
uniform D has the word read (R220). -/
structure Wait where
  id : Nat
  kind : Nat
  lanes : Mask
  addrs : Tab W64
  cmp : Tab W64
  mask : Tab W64
  cond : Nat
  scope : Nat
  w64 : Bool
  sp : Bool
  dst : Opd
  pc : Pc
  len : Nat
  res : Nat
  since : Nat := 0
  also : Mask := 0
deriving DecidableEq, Repr

/-- What makes a crew a guest (R402): its origin, the header that formed it, the clock at which its first group
arrived, whether the window of R400 is over, the groups granted that have not arrived, the chips its lanes have been guests
on, and whether the origin has been told that its lanes have executed HEATEND (R409). -/
structure Guest where
  chip : Nat
  core : Nat
  slot : Nat
  cont : Cont
  formed : Nat
  open_ : Bool
  incoming : Nat := 0
  seen : List Nat := []
  told : Bool := false
deriving DecidableEq, Repr

/-- A host that an away lane reached (R405). -/
structure HostRec where
  chip : Nat
  core : Nat
  slot : Nat
  moving : Bool
deriving DecidableEq, Repr

/-- A crew's outstanding commit (R307): which, whether it is COMMIT.nw, and the result that waits for it. -/
structure CommitRef where
  id : Nat
  nw : Bool
  res : Nat
deriving DecidableEq, Repr

/-- A watch slot of a monitor crew (R278). -/
structure Watch where
  line : Nat
  armed : Bool
  fired : Bool
deriving DecidableEq, Repr

/-- Whether a crew slot is free, reserved for an incoming continuation, or holds a crew (R165). -/
inductive SlotSt
  | free
  | reserved
  | resident
deriving DecidableEq, Repr

/-- A crew slot: the state of R59 and the registers, the grid it belongs to, what it waits for. The age of
R63 is held as the clock it counts from (`since`), a YIELD hold as the last clock it covers (`yieldTo`); `leaving` marks a
crew whose own word sends it to the pending set (R65), `pendRel` the released registers and the results that each release
waits for (R101), `haltedAway` and `heatAway` the away lanes whose guest crews have halted (R410) and executed HEATEND (R409).
Log entry 7 (DESIGN CHOICE). -/
structure Crew where
  st : SlotSt := .free
  uid : Nat := 0
  grid : Nat := 0
  team : Nat := 0
  crewid : Nat := 0
  cluster : Nat := 0
  ts : Nat := 0
  ctx : Nat := 0
  priv : Bool := false
  group : Nat := 0xFFFF
  heat : Nat := 0
  tile : Nat := 32
  live : Mask := 0
  away : Mask := 0
  pc : Tab Pc := []
  park : Tab Park := []
  latch : Tab (List (Option Latch)) := []
  arrT : Tab W16 := []
  arrC : Tab (BitVec 4) := []
  rolls : Tab Mask := []
  arrivals : Tab Mask := []
  since : Nat := 0
  starve : Tab Nat := []
  starved : Option Nat := none
  paused : Bool := false
  yieldTo : Nat := 0
  active : Bool := false
  leaving : Bool := false
  promoted : Option Nat := none
  halted : Bool := false
  frozen : Bool := false
  fpmode : W32 := 0x41
  mfl : BitVec 5 := 0
  u : Tab W32 := []
  vent : Tab VEntry := []
  rows : Nat := 0
  floor : Nat := 0
  pendRel : List (Nat × List Nat) := []
  preds : Tab Mask := []
  fl : Tab (BitVec 5) := []
  results : List Result := []
  ords : List Ord := []
  waits : List Wait := []
  lasts : List (Nat × List Nat) := []
  trapinfo : Tab W32 := []
  trappc : Tab W32 := []
  trapaddr : Tab W64 := []
  trapent : W32 := 0xFFFFFFFF
  faults : Tab FaultRec := []
  seq : Tab W32 := []
  uncovered : Mask := 0
  commit : Option CommitRef := none
  lastScope : Nat := 1
  armedAt : Mask := 0
  watches : Tab Watch := []
  guest : Option Guest := none
  hosts : Tab HostRec := []
  haltedAway : Mask := 0
  heatAway : Mask := 0
  privBase : W64 := 0
  pshift : Nat := 0
  lostWrite : Bool := false
  sysHold : Nat := 0
deriving DecidableEq, Repr

/-! ## Teams, grids -/

/-- A barrier (R74, R363): phase and the clock it began in, expected and arrival counts, engine arrivals
of the phase; `joined` says that a packet has arrived in it through an arrival counter (R212, R444). -/
structure Bar where
  phase : W32 := 0
  since : Nat := 0
  expected : Nat := 0
  arrivals : Nat := 0
  engines : Nat := 0
  joined : Bool := false
deriving DecidableEq, Repr

/-- A team slot of a core (R294): the team or guest crew that holds it, its account (R304), its
destination set (R299), its barriers and what it reserves. `fwd` names the slot that a restored team's
acknowledgements go on to (R257), `dcfgWas` what DCFG held before the clock `dcfgAt` of its last write (R326), `remoteChunk` the
spill chunk that holds the chips of its destination set beyond 16 (R299), `rels` how many releases it has made (R299). -/
structure Team where
  uid : Nat := 0
  grid : Nat := 0
  index : Nat := 0
  cluster : Nat := 0
  live : Bool := true
  guest : Bool := false
  homeChip : Nat := 0
  crews : Nat := 0
  scrBase : Nat := 0
  scratch : Nat := 0
  bars : Tab Bar := []
  dcfg : W32 := 0
  dcfgWas : W32 := 0
  dcfgAt : Option Nat := none
  appended : Nat := 0
  acked : Nat := 0
  engines : List Nat := []
  remotes : Tab Nat := []
  remoteChunk : Option Nat := none
  rels : Nat := 0
  tiles : List Nat := []
  fwd : Option (Nat × Nat) := none
deriving DecidableEq, Repr

/-- A launch record (R237). -/
structure LaunchRec where
  entry : W32 := 0
  trapent : W32 := 0xFFFFFFFF
  img0 : W64 := 0
  img1 : W64 := 0
  id0 : Nat := 0
  sz0 : Nat := 0
  id1 : Nat := 0xFFFF
  sz1 : Nat := 0
  teams : Nat := 0
  crews : Nat := 0
  ccols : Nat := 1
  crows : Nat := 1
  flags : Nat := 0
  floor : Nat := 1
  pshift : Nat := 0
  heats : Nat := 0
  scratch : Nat := 0
  privbase : W64 := 0
  spillbase : W64 := 0
  spillsz : Nat := 0
  ctx : Nat := 0
  group : Nat := 0xFFFF
  done : Nat := 0
  timetable : W64 := 0
  kdesc : W64 := 0
  args : W64 := 0
  deps : List (Nat × Nat) := []
deriving DecidableEq, Repr

/-- A grid id (R236 to R244). `recent` lists the event counts of the last 256 clocks: clock, core and crew
slot, counter (R159); `tripped` the counters that have tripped since FCNTCLR took them below THR (R138). `hosted` lists the
chips that have had guest crews of the grid, `asked` and `waitFor` those that have been asked to stop for the end of a heat or
of the grid and have not answered (R404, R409, R411), `removing` the lanes that guest crews still hold of a grid that has been
ended: team, crewid, lanes (R411). -/
structure Grid where
  lr : LaunchRec := {}
  state : Nat := 0
  ended : Bool := false
  teamsLeft : Nat := 0
  retired : List Nat := []
  nextTeam : Nat := 0
  accepted : Nat := 0
  die : Nat := 0
  ready : Bool := false
  counters : Tab W32 := []
  recent : List (Nat × Nat × Nat × Nat) := []
  fcntctl : W32 := 0
  fcntstat : W32 := 0
  tripped : List Nat := []
  heat : Nat := 0
  heatStart : Nat := 0
  dogPosted : Bool := false
  timetable : List W32 := []
  podNo : Nat := 0
  vregs : List Nat := []
  uregs : List Nat := []
  saved : List Nat := []
  watermark : Nat := 0
  halting : List Nat := []
  closing : Bool := false
  monitor : Bool := false
  hosted : List Nat := []
  asked : Bool := false
  waitFor : List Nat := []
  removing : List (Nat × Nat × Mask) := []
deriving DecidableEq, Repr

/-- A cluster's barriers (R74), by grid and cluster index. -/
structure Cluster where
  grid : Nat
  index : Nat
  origin : Nat
  bars : Tab Bar := []
deriving DecidableEq, Repr

/-- An account that is waited for (R306): core, team slot, the team that held it, and APPENDED at the
release point. -/
structure Snap where
  core : Nat
  ts : Nat
  uid : Nat
  count : Nat
deriving DecidableEq, Repr

/-- A commit in progress (R306): scope, what it covers, the crews that have arrived, and after the
release point the accounts waited for; for .pod whether the other chips have been told of its arrival (`told`, R306) and sent its
token (R308). -/
structure Commit where
  id : Nat
  scope : Nat
  grid : Nat
  unit : Nat
  arrived : List Nat := []
  released : Bool := false
  snaps : List Snap := []
  number : Nat := 0
  told : Bool := false
  tokenSent : Bool := false
deriving DecidableEq, Repr

/-! ## Core -/

/-- An overlay slot (R52). -/
structure Overlay where
  id : Nat := 0xFFFF
  loading : Option Nat := none
  mem : Memory := []
deriving DecidableEq, Repr

/-- A sector of an L1 line: its 64 bytes and the poison marks of its two granules (R171, R173). -/
structure Sector where
  data : List Byte
  poison : BitVec 2
deriving DecidableEq, Repr

/-- An L1 line: global page number and line of the page, four sectors, deferred page, first to evict. -/
structure L1Line where
  key : Nat
  ctx : Nat
  sectors : Tab Sector
  deferred : Bool
  first : Bool
deriving DecidableEq, Repr

/-- A translation: what an inverted-table entry says of a page (R179). -/
structure Trans where
  gpn : Nat
  key : W64 := 0
  fw : Bool
  nc : Bool
  dfr : Bool
  w : Bool
  rd : Bool
  big : Bool
deriving DecidableEq, Repr

/-- A TLB entry (R178). -/
structure TlbEnt where
  ctx : Nat
  vpn : Nat
  tr : Trans
deriving DecidableEq, Repr

/-- Operations of a copy engine (R343, R446), placement's own image loads (R238) and the register writes of a
continuation (R401). -/
inductive CopyKind
  | cpy | cfill | cpyg | cpyx | feed | drain | ovld | winw | bput | bget | cont
deriving DecidableEq, Repr

/-- A piece of a bulk transfer (R446): offset, length, and its packet or the SEQ reserved for it. -/
structure BulkPc where
  off : Nat
  n : Nat
  pkt : Option (Nat × Nat) := none
deriving DecidableEq, Repr

/-- What a bulk transfer has beside a copy (R446): the peer, ORD, the arrival counter, the pinned path, the RC counter's
address (0 for none), the pieces not yet sent and those sent, and what is still to be added to the counter. -/
structure Bulk where
  peer : Option Nat
  ord : Bool
  act : Option (Nat × Nat)
  pin : Option Nat
  rc : Nat
  todo : List BulkPc
  out : List BulkPc := []
  adds : List Nat := []
deriving DecidableEq, Repr

/-- A queued or active operation of a copy engine (R333, R338): operands, the units already written,
bytes read ahead, completion word, what froze it, the remote writes of its units (chip, SEQ, unit), the lines whose
bytes it has written, the crew whose earlier writes it follows, the table entries a DRAIN waits for, and
the source bytes that it has itself overwritten (R345). -/
structure CopyOp where
  ticket : Nat
  kind : CopyKind
  slot : Nat
  ts : Nat
  grid : Nat
  ctx : Nat
  priv : Bool
  ss : Nat
  ds : Nat
  src : W64
  dst : W64
  n : Nat
  lanes : List (Nat × Nat) := []
  elem : Nat := 0
  stride : Nat := 0
  sel : Nat := 0
  aux : Nat := 0
  cw : Option Nat
  pc : W32
  pos : Nat := 0
  buf : Option (List Byte) := none
  active : Bool := false
  claims : List Nat := []
  cause : Nat := 0
  addr : W64 := 0
  seqs : List (Nat × Nat × Nat) := []
  done : List Nat := []
  uid : Nat := 0
  before : Nat := 0
  after : List Nat := []
  old : Tab Byte := []
  bulk : Option Bulk := none
deriving DecidableEq, Repr

/-- A log entry: the record and the team slot of the team that appended it (R287). -/
structure LogEnt where
  rcd : LogRec
  ts : Nat
deriving DecidableEq, Repr

/-- A spilled chunk: its number in the grid's spill region, its grid, its team slot, its records, and
whether its write is still under way (R291). -/
structure Chunk where
  no : Nat
  grid : Nat
  ts : Nat
  recs : List LogEnt
  writing : Bool
deriving DecidableEq, Repr

/-- An arrival counter (R444, R449). -/
structure ArrCtr where
  ts : Nat
  off : Nat
  threshold : W32
  bar : Option Nat
  armed : Bool
  sum : Nat
deriving DecidableEq, Repr

/-- One core (R8). `mapClr` holds the lines whose presence bit a map write cleared (R338), `busy` holds, for each seat, the clock from which its issue slot is free (R97, R100), `left` the clock after that of its last demotion
(R65). `copyWait` holds placement's loads that found the copy queue full (R349), `copyTurn` the operation that took a line last
(R333). -/
structure Core where
  slots : Tab Crew := []
  scratch : Tab Byte := []
  absent : Tab Bool := []
  mapClr : List Nat := []
  ov0 : Overlay := {}
  ov1 : Overlay := {}
  l1 : List L1Line := []
  tlb : List TlbEnt := []
  tlbBig : List TlbEnt := []
  copies : List CopyOp := []
  copyWait : List CopyOp := []
  copyTurn : Option Nat := none
  ticket : W32 := 0
  copyFrozen : Bool := false
  copyRun : Bool := true
  log : List LogEnt := []
  spill : List Chunk := []
  teams : Tab Team := []
  arrCtrs : Tab ArrCtr := []
  fifoA : List Byte := []
  fifoB : List Byte := []
  fifoTeam : Option Nat := none
  left : Tab Nat := []
  busy : Tab Nat := []
deriving DecidableEq, Repr

/-! ## Memory requests of lanes -/

/-- What a lane asks of memory: plain loads and stores, read-modify-writes (with or without a result),
keyed REDF, the read of a wait, deferred words, fabric words, BKADD, PREF, CCTL, and the words that only
translate (PROBE, MIGRA, PQRY, OWNINV, WATCH). -/
inductive Acc
  | load
  | acq
  | store
  | rel
  | rmw (fn : RmwFn) (ret : Bool)
  | redf (fn : RmwFn) (held : Bool)
  | wait (id : Nat)
  | dst
  | dred (op : Nat)
  | rst
  | rld
  | ratom (fn : RmwFn)
  | bkadd (float held : Bool)
  | pref (msc : Bool)
  | cctl (op : Nat)
  | probe
  | migra
  | pqry (home : Bool)
  | owninv
  | watch
deriving DecidableEq, Repr

/-- Bytes of one lane in a line request: lane, address of the first byte, where in the lane's value they
stand, how many, the bytes of a store or the operands of an RMW, and the lane's own address. -/
structure Piece where
  lane : Nat
  addr : Nat
  at_ : Nat
  len : Nat
  base : Nat
  data : List Byte := []
  b : BitVec 128 := 0
  c : BitVec 128 := 0
  key : Option Key := none
deriving DecidableEq, Repr

/-- Where a line request stands. The first six stages come before it is sent. -/
inductive Stage
  | look
  | walk
  | query (q : Nat)
  | ready
  | held
  | stalled
  | atOwner
  | remote (chip : Nat) (seq : Nat)
  | scratch
  | respond
deriving DecidableEq, Repr

/-- A line request (R169): its word, its crew, what it does, its space (0 global, 1 scratchpad, 2 on-chip
map) and core of that space, the line, its pieces, translation, owner, stage, and the bytes, poison marks
and old values that came back. `atom` marks the words of opcodes 0x180 to 0x18F, `hostOk` those that may
reach a host page (R266), `plain` private accesses, `rel` a release that is still to come, `absent` the
presence lines of the target's scratchpad that it waits for (R166), `relWord` the words that release (R286), `old` what the
walk found when it began, which an INVTLB since makes the walk's answer (`keepOld`, R282), `early` the bytes that have been
performed before the others of an access that is not single-copy atomic, by place in the line (R206). -/
structure Req where
  id : Nat
  word : Nat
  uid : Nat
  core : Nat
  slot : Nat
  ts : Nat
  res : Nat := 0
  acc : Acc
  space : Nat := 0
  tgt : Nat := 0
  ctx : Nat
  width : Nat
  line : Nat
  pieces : List Piece
  cp : Nat := 0
  nt : Bool := false
  fab : Bool := false
  plain : Bool := false
  ord : Bool := false
  rc : Option (Nat × Nat × Nat × Nat) := none
  rel : Bool := false
  atom : Bool := false
  hostOk : Bool := false
  pc : Pc
  len : Nat
  tr : Option Trans := none
  fresh : Bool := false
  owner : Option Owner := none
  stage : Stage := .look
  noFill : BitVec 4 := 0
  miss : BitVec 4 := 0
  data : Tab Byte := []
  olds : List (Nat × BitVec 128) := []
  poison : List Nat := []
  absent : List Nat := []
  relWord : Bool := false
  old : Option Trans := none
  keepOld : Bool := false
  early : Tab Byte := []
deriving DecidableEq, Repr

/-- How the bytes gathered for a word become its result: extended to 32 bits, whole registers, the sums
of ARRV, or nothing (CCTL). -/
inductive FillKind
  | ext (signed : Bool) (width : Nat)
  | regs (n : Nat)
  | arrv (w64 : Bool) (parts : List (Nat × Nat × Nat))
  | none
deriving DecidableEq, Repr

/-- What has come back for a word's result: by 16 × lane + byte; `comp` holds the lanes of a whole, uniform-producing load
(R100). -/
structure Fill where
  res : Nat
  core : Nat
  slot : Nat
  uid : Nat
  kind : FillKind
  dst : Opd
  lanes : Mask
  bytes : Tab Byte := []
  comp : Option Mask := none
deriving DecidableEq, Repr

/-! ## Quads -/

/-- A matrix request (R354): MMA, MMAZ or MACZ with its fields. `cleared` lists the counters that an FCNTCLR of its crew has
cleared since it entered (R159). -/
structure MReq where
  id : Nat
  core : Nat
  slot : Nat
  ts : Nat
  grid : Nat
  tile : Nat
  zero : Bool
  mul : Bool
  lv : W64
  aty : Nat
  bty : Nat
  sp : Bool
  ka : Bool
  kb : Bool
  groups : Nat
  m : Nat
  n : Nat
  bar : Option Nat
  prio : Nat
  age : Nat
  flOn : Bool
  cntOn : Bool
  next : Nat := 0
  readA : Nat := 0
  readB : Nat := 0
  flags : Tab (BitVec 5) := []
  infs : List Nat := []
  after : List Nat := []
  uid : Nat := 0
  cleared : List Nat := []
deriving DecidableEq, Repr

/-- An operation of the select unit (R365 to R368). -/
structure SReq where
  id : Nat
  core : Nat
  slot : Nat
  ts : Nat
  kind : Nat
  args : List W32
  pairs : Bool
  draw : W32
  bar : Option Nat
  res : Nat
  d : Opd
  d2 : Opd
  lanes : Mask
  claims : List Nat
  running : Bool
  uid : Nat := 0
deriving DecidableEq, Repr

/-- A read of a tile that waits for earlier entries: MACRD, or a DRAIN by its ticket (R364).
Log entry 79 (DEDUCED). -/
structure TileRead where
  id : Nat
  after : List Nat
  core : Nat
  slot : Nat
  tile : Nat
  row : Nat
  half : Nat
  lanes : Mask
  res : Nat
  d : Opd
  ticket : Option Nat := none
deriving DecidableEq, Repr

/-- A bin of a binning unit (R293, R296): its records with the clock at which each came. -/
structure Bin where
  chip : Option Nat := none
  recs : List (Nat × BinRec) := []
  lastUse : Nat := 0
  pin : Option (Nat × Nat) := none
deriving DecidableEq, Repr

/-- One quad (R7, R8). -/
structure Quad where
  acc : Tab W32 := []
  holders : Tab (Nat × Nat) := []
  table : List MReq := []
  running : Option Nat := none
  reads : List TileRead := []
  select : List SReq := []
  bins : Tab Bin := []
deriving DecidableEq, Repr

/-! ## Stacks -/

/-- A sector of the memory-side cache (R172): 64 bytes, dirty, poison marks, first to evict, context. -/
structure MscSector where
  data : List Byte
  dirty : Bool
  poison : BitVec 2
  first : Bool
  ctx : Nat
deriving DecidableEq, Repr

/-- A record an apply engine holds (R298): staged until released. -/
structure Staged where
  rcd : BinRec
  org : RecOrigin
  released : Bool
deriving DecidableEq, Repr

/-- An apply engine (R298 to R302). -/
structure Engine where
  staged : List Staged := []
  frozen : Bool := false
deriving DecidableEq, Repr

/-- A REDF or BKADD held in a heat with its key (R218, R470); `spilled` marks one beyond the slice's entries, which stands in
the hold region. Log entry 64 (DEDUCED). -/
structure HeldOp where
  key : Key
  grid : Nat
  addr : Nat
  fn : RmwFn
  value : W32
  chip : Nat
  core : Nat
  slot : Nat
  spilled : Bool := false
deriving DecidableEq, Repr

/-- A command to a base die (R466): its code, pseudo-channel, operands, who issued it. -/
structure BankCmd where
  id : Nat
  code : Nat
  pc : Nat
  row : Nat := 0
  sel : Nat := 0
  acc : Nat := 0
  on : Bool := false
  bytes : List Byte := []
  core : Nat
  slot : Nat
  uid : Nat
  ts : Nat
  lanes : Mask := 0
  res : Nat := 0
  d : Opd := .no
deriving DecidableEq, Repr

/-- A bank unit (R461). -/
structure BankUnit where
  bc : List Byte := []
  acc : Tab W32 := []
  lut : Tab W16 := []
deriving DecidableEq, Repr

/-- A pseudo-channel (R462): its claim (core and team slot), whether the switch has completed, its
16 bank units. -/
structure PcSt where
  claim : Option (Nat × Nat) := none
  on : Bool := false
  units : Tab BankUnit := []
deriving DecidableEq, Repr

/-- A forwarding stub (R387 to R390): 1 copying, 2 live, 3 reclaiming. `moved` says that the copy has been read
(state 1), or that something was forwarded since it asked (state 3); `granted` that the home has agreed. -/
structure Stub where
  gpn : Nat
  state : Nat
  succ : Owner
  count : Nat := 0
  keep : Bool := false
  quietFrom : Nat := 0
  moved : Bool := false
  granted : Bool := false
deriving DecidableEq, Repr

/-- Accesses counted for one page in a tracking period (R392). -/
structure TrkPage where
  gpn : Nat
  frame : Nat
  total : Nat
  otherDie : Nat
  chips : Tab Nat
deriving DecidableEq, Repr

/-- One stack with its controller (R8, R9). `frames` lists the pages that have left a frame, latest first;
`here` the page that the last move brought to a frame, `trackFrom` the reference clock at which the tracking period began. -/
structure Stack where
  itbase : W64 := 0
  anchorbase : W64 := 0
  stubbase : W64 := 0
  migcore : W32 := 0
  pgpool : W64 := 0
  engines : Tab Engine := []
  held : List HeldOp := []
  bankQ : List BankCmd := []
  pcs : Tab PcSt := []
  track : List TrkPage := []
  frames : Tab (List Nat) := []
  here : Tab Nat := []
  trackFrom : Nat := 0
deriving DecidableEq, Repr

/-- A format window (R175). -/
structure Win where
  ctl : W64 := 0
  size : W64 := 0
  view : W64 := 0
  closing : Bool := false
deriving DecidableEq, Repr

/-! ## Chip -/

/-- An event of a monitor queue (R248). -/
structure Event where
  typ : Nat
  cause : Nat := 0
  core : Nat := 0xFF
  slot : Nat := 0xFF
  grid : Nat := 0xFF
  team : Nat := 0
  lanes : Mask := 0
  value : W32 := 0
  addr : W64 := 0
  pc : W32 := 0
deriving DecidableEq, Repr

/-- A message on the mesh that a later event takes; `pkt` marks what a packet brought (R297, R299, R302, R405, R406, R410). -/
structure Msg where
  id : Nat
  dst : Nat
  chip : Nat
  body : Body
  pkt : Bool := false
deriving DecidableEq, Repr

/-- An owner query under way at this chip (R384): page, asking chip, answer when given. -/
structure Query where
  id : Nat
  gpn : Nat
  asker : Nat
  answered : Bool
  owner : Option Owner
  nstub : Nat := 0
deriving DecidableEq, Repr

/-- A page move under way (R387): stage 0 the page's frame is asked for (query `q`), 1 home asked, 2 home updated
and copying, 3 copy sent to another chip (`seqs`). -/
structure PMove where
  id : Nat
  gpn : Nat
  stack : Nat
  frame : Nat
  new : Owner
  core : Nat
  slot : Nat
  res : Nat
  stage : Nat
  tracker : Bool
  d : Opd := .no
  q : Nat := 0
  seqs : List (Nat × Nat) := []
deriving DecidableEq, Repr

/-- A lane move under way (R401, R413): stage 1 release (all the lanes of a word, `found` with each lane's chip,
core or none, and stack), then for each group 2 grant asked, 3 granted, 4 registers being written, 5 arrival
sent, 6 arrived, 7 refused; `seq` is that of the arrival packet. -/
structure LMove where
  id : Nat
  cont : Cont
  core : Nat
  slot : Nat
  lanes : Mask
  chip : Nat
  dcore : Option Nat
  stack : Nat
  stage : Nat
  gcore : Nat
  gslot : Nat
  cause : Nat
  fallback : Bool
  qd : Opd
  pc : Pc
  len : Nat
  found : Tab (Nat × Option Nat × Nat) := []
  seq : Nat := 0
deriving DecidableEq, Repr

/-- Lanes that went on from a guest crew of this chip (R410): their origin, where they were and where they went.
Log entry 115 (DEDUCED). -/
structure MovedOn where
  chip : Nat
  core : Nat
  slot : Nat
  lanes : Mask
  fromCore : Nat
  fromSlot : Nat
  toChip : Nat
  toCore : Nat
  toSlot : Nat
deriving DecidableEq, Repr

/-- A privileged write of a register with a behaviour of its own that is on its way to the unit. -/
structure SysWr where
  id : Nat
  core : Nat
  slot : Nat
  reg : Nat
  inst : Nat
  data : W64
  priv : Bool
  grid : Nat
deriving DecidableEq, Repr

/-- A packet that its sender keeps until it is acknowledged or answered (R438): whether it has left, its resends,
when it left last, the reason of a refusal (R439), whether its SEQ is reserved for a piece to come (R436), and, for
what a stub forwards, the chip and SEQ it came with and the stub's frame (R388); `redir` is the stub's frame of a bin that it
forwards, whose sender is told the new owner (R312). -/
structure Kept where
  pkt : Packet
  sent : Bool := false
  tries : Nat := 0
  at_ : Nat := 0
  refused : Nat := 0
  reserved : Bool := false
  behalf : Option (Nat × Nat × Nat) := none
  redir : Option Nat := none
deriving DecidableEq, Repr

/-- A connection (R435 to R438, R451). Receive half: every SEQ below `recvAll` is performed, and those of `recvSet`;
`known` lists the requesters of packets that were refused, forwarded, or performed above a gap, `saved` the results of
RMWs and where else an answer came from, `held` packets that wait. `waiting`
is the traffic of a lost send half that is sent again after a reset. -/
structure Conn where
  next : Nat := 0
  kept : List Kept := []
  lost : Bool := false
  resends : W32 := 0
  bytes : Tab W32 := []
  recvAll : Nat := 0
  recvSet : List Nat := []
  known : List (Nat × Nat × Nat × Nat) := []
  saved : List (Nat × Body) := []
  held : List Packet := []
  lastUse : Nat := 0
  waiting : List Kept := []
deriving DecidableEq, Repr

/-- A fabric port (R440). -/
structure Port where
  up : Bool := false
  frozen : Bool := false
  down : Bool := false
  trans : BitVec 12 := 0
  drop : BitVec 12 := 0
deriving DecidableEq, Repr

/-- An attestation report (R268, R269): the leaf that signed it, the identity it states, the key and the signature. -/
structure Report where
  leaf : Nat
  identity : Nat
  key : List Byte
  signature : List Byte
deriving DecidableEq, Repr

/-- The Gremen controller and the board (R16 to R18, R268, R269). Log entry 6 (DESIGN CHOICE). -/
structure Gremen where
  identity : Option Nat := none
  limit : Nat := 2400000
  hold : Bool := false
  holdFrom : Nat := 0
  tripLog : List Nat := []
  telemetry : List W32 := []
  throttleMatrix : Bool := false
  throttleBank : Bool := false
  step : Option Nat := none
  evals : Nat := 0
  firmware : List Byte := []
  monitor : Option Firmware := none
  leaf : Nat := 0
  bias : Tab Nat := []
deriving DecidableEq, Repr

/-- Start-up (R262) and power (R17). -/
inductive Phase
  | waitIdentity
  | started
  | running
  | off
deriving DecidableEq, Repr

/-- What path 2 sees of its crew as it was at the start of the clock (R84): live and away lanes, rolls, %tile. -/
structure AtStart where
  live : Mask
  away : Mask
  rolls : Tab Mask
  tile : Nat
deriving DecidableEq, Repr

/-- A path that issues: core, crew slot, its lanes, the head of its word (R23), whether it is path 2 of
its clock (R67 to R69), and for path 2 what it sees of its crew (R84). -/
structure Issue where
  core : Nat
  slot : Nat
  lanes : Mask
  h : Head := {}
  second : Bool := false
  pre : Option AtStart := none
deriving DecidableEq, Repr

/-- What a team's image holds (R256; its layout beyond 8 bytes is the chip's own). -/
structure SavedTeam where
  team : Team
  ts : Nat
  core : Nat
  crews : List (Nat × Crew)
  scratch : Tab Byte
  absent : List Nat
  mapClr : List Nat
  fifoA : List Byte
  fifoB : List Byte
  tiles : Tab W32
  banks : Tab PcSt
  arrs : Tab ArrCtr
  reqs : List Req := []
deriving DecidableEq, Repr

/-- A saved placement unit (R256): the grid, its teams, the cluster's barriers, the size written, the
slots of the save pool that it takes (R245). -/
structure SavedUnit where
  grid : Nat
  teams : List SavedTeam
  cluster : Option Cluster
  size : Nat
  pool : List Nat
deriving DecidableEq, Repr

/-- A read that an engine or a system word has sent to another chip: who asks, the virtual address, what
came back (a cause, or bytes with the poisoned granules' places among them). -/
structure RdJob where
  who : List Nat
  addr : Nat
  n : Nat
  chip : Nat
  seq : Nat
  ans : Option (Nat × List Byte × Bool) := none
deriving DecidableEq, Repr

/-- What a launch record is checked against (R240): context, privilege, commit group, priority. -/
structure Launcher where
  ctx : Nat
  priv : Bool
  group : Nat
  prio : Nat
deriving DecidableEq, Repr

/-- What a system word still has to do: read a launch record (R240), wait for a launched grid's end (R271), wait for a grid's halt (R275) or the
removal of its guest crews (R284), for a page's records (R283), save or restore a unit (R256, R258), or wait for a watch slot or
an event (R278, R280), for a stub's reclaim (R418), for a team's matrix requests (R373), or for the peer of a reset (R452). -/
inductive JobKind
  | launch (rcd : List Byte) (addr : Nat) (wait : Bool) (who : Launcher)
  | gridWait (grid : Nat)
  | preempt (grid : Nat)
  | thawEnd (grid : Nat)
  | pgattr (pages : List Nat) (snaps : Option (List Snap))
  | save (grid team : Nat) (addr : Nat) (pool : List Nat) (key : Nat) (seqs : List (Nat × Nat))
  | load (addr : Nat) (core : Option Nat)
  | watchWait
  | evWait
  | stub (key : Nat)
  | mrel
  | connReset (chip since : Nat)
deriving DecidableEq, Repr

/-- A system word that is not complete: its crew and the result it gives. -/
structure Job where
  id : Nat
  core : Nat
  slot : Nat
  uid : Nat
  res : Nat
  d : Opd
  kind : JobKind
deriving DecidableEq, Repr

/-- A record whose frame no longer holds its page: it waits for the page's owner (R297, R390). -/
structure LostRec where
  gpn : Nat
  rcd : BinRec
  org : RecOrigin
deriving DecidableEq, Repr

/-- Weight that an engine forwarded for an origin to a local engine (below 192) or to a chip (1000 and up),
since the origin's last notice (R312). -/
structure Fwd where
  src : Nat
  org : RecOrigin
  dst : Nat
  weight : Nat
deriving DecidableEq, Repr

/-- The whole machine. `ghosts` holds, by its number, a crew that has retired while requests of its lanes are still
under way (R87), `gcounts` the events that guests here have counted for grids of other chips, by chip and grid id (R137);
`arrivals` the chips whose crews have all arrived at a COMMIT.pod, with its group and number (R306), `keysGone` the contexts
whose keys KEYDROP has destroyed (R261, R301). Log entry 137 (DESIGN CHOICE) for `msix`, `hostReads` and `reports`. -/
structure State where
  -- the model's own
  free : Nat := 0
  env : List Instr := []
  cur : Option Issue := none
  second : Option Issue := none
  serial : Nat := 0
  nextId : Nat := 0
  -- what has left the chip
  wire : List (Nat × Packet) := []
  loop : List Packet := []
  msix : List Nat := []
  hostReads : List (Nat × Option (List Byte)) := []
  reports : List Report := []
  -- chip
  phase : Phase := .waitIdentity
  chipid : Nat := 0
  clk : Nat := 0
  refAcc : Nat := 0
  ref : Nat := 0
  nsAcc : Nat := 0
  podNs : Nat := 0
  mhz : Nat := 1200
  gremen : Gremen := {}
  cores : Tab Core := []
  quads : Tab Quad := []
  stks : Tab Stack := []
  grids : Tab Grid := []
  clusters : List Cluster := []
  commits : List Commit := []
  tokens : List (Nat × Nat × Nat) := []
  arrivals : List (Nat × Nat × Nat) := []
  keysGone : List Nat := []
  keys : Tab (BitVec 512) := []
  -- memory
  dram : Memory := []
  poison : Tab Bool := []
  gkey : Tab (BitVec 512) := []
  msc : Tab MscSector := []
  hostMem : Memory := []
  hostPages : Tab Nat := []
  reqs : List Req := []
  fills : List Fill := []
  ghosts : Tab Crew := []
  wins : Tab Win := []
  -- registers of the chip
  cwtbase : W64 := 0
  savebase : W64 := 0
  savesize : W32 := 0
  holdbase : W64 := 0
  holdsize : W32 := 0
  groupbase : W64 := 0
  hdmctl : W64 := 0
  homebase : W64 := 0
  hometab : W64 := 0
  stubcfg : W32 := 200
  trkcfg : W32 := 0x00000110
  connbase : W64 := 0
  fabcfg : W32 := 0x00000714
  sysWrs : List SysWr := []
  -- events
  evq0 : List Event := []
  evq1 : List Event := []
  evWait : List (Nat × Event) := []
  -- owners, moves
  ownerCache : List (Nat × Owner) := []
  queries : List Query := []
  pmoves : List PMove := []
  stubs : Tab Stub := []
  arriving : Tab Nat := []
  arrSrc : Tab Nat := []
  lmoves : List LMove := []
  movedOn : List MovedOn := []
  gcounts : List ((Nat × Nat) × Tab Nat) := []
  notes : List Msg := []
  net : List Msg := []
  -- fabric
  conns : Tab Conn := []
  ports : Tab Port := []
  -- the scheduler: by priority, the acceptance number of the grid placed last (R242)
  rotor : Tab Nat := []
  -- saved units
  saves : Tab SavedUnit := []
  jobs : List Job := []
  rdJobs : List RdJob := []
  -- deferred records of other chips, and forwarded ones
  rcvd : List (RecOrigin × Nat) := []
  rnotes : List (RecOrigin × Nat) := []
  fwds : List Fwd := []
  lost : List LostRec := []
deriving DecidableEq, Repr

/-- The machine right after board reset (R262 step 1): the compute dies are held in reset until the
board writes an identity record; every DRAM read returns zero, caches are invalid, every register has
its reset value, no context has a key. Log entries 4 (DEDUCED), 5 (DESIGN CHOICE), 6 (DESIGN CHOICE). -/
def State.reset : State :=
  { stks := (List.range 8).map fun m =>
      (m, { migcore := BitVec.ofNat 32 (24 * 256 + ((m / 4) * 96 + (m % 4) * 24)) }) }

end Sys2Proof.Machine
end

