-- ==== Sys2Proof/Machine/Ops.lean ====
section
/-! DEFINITION. Machine/Ops.lean: the named operations that every meaning uses: reaching a unit of the
chip, posting an event, taking a fault or a trap and returning from it, rows, results. -/

namespace Sys2Proof.Machine

abbrev Out := Host.Outcome State Fault Refusal

/-! ## Units -/

def State.core (s : State) (c : Nat) : Core := tget {} s.cores c
def State.setCore (s : State) (c : Nat) (x : Core) : State := { s with cores := tset s.cores c x }
def State.modCore (s : State) (c : Nat) (f : Core → Core) : State := s.setCore c (f (s.core c))

def Core.crew (o : Core) (k : Nat) : Crew := tget {} o.slots k
def Core.setCrew (o : Core) (k : Nat) (x : Crew) : Core := { o with slots := tset o.slots k x }
def Core.modCrew (o : Core) (k : Nat) (f : Crew → Crew) : Core := o.setCrew k (f (o.crew k))
def State.crew (s : State) (c k : Nat) : Crew := (s.core c).crew k
def State.modCrew (s : State) (c k : Nat) (f : Crew → Crew) : State := s.modCore c (·.modCrew k f)

def Core.team (o : Core) (t : Nat) : Team := tget {} o.teams t
def Core.modTeam (o : Core) (t : Nat) (f : Team → Team) : Core := { o with teams := tset o.teams t (f (o.team t)) }
def State.team (s : State) (c t : Nat) : Team := (s.core c).team t
def State.modTeam (s : State) (c t : Nat) (f : Team → Team) : State := s.modCore c (·.modTeam t f)

def State.grid (s : State) (g : Nat) : Grid := tget {} s.grids g
def State.modGrid (s : State) (g : Nat) (f : Grid → Grid) : State := { s with grids := tset s.grids g (f (s.grid g)) }

def State.quad (s : State) (q : Nat) : Quad := tget {} s.quads q
def State.modQuad (s : State) (q : Nat) (f : Quad → Quad) : State := { s with quads := tset s.quads q (f (s.quad q)) }

def State.stack (s : State) (m : Nat) : Stack := tget {} s.stks m
def State.modStack (s : State) (m : Nat) (f : Stack → Stack) : State :=
  { s with stks := tset s.stks m (f (s.stack m)) }

/-- The crew that a request belongs to, in its slot or retired. Log entry 135 (DEDUCED). -/
def State.owning (s : State) (c k uid : Nat) : Crew := if (s.crew c k).uid = uid then s.crew c k else tget {} s.ghosts uid
def State.modOwning (s : State) (c k uid : Nat) (f : Crew → Crew) : State :=
  if (s.crew c k).uid = uid then s.modCrew c k f
  else if (tget? s.ghosts uid).isSome then { s with ghosts := tset s.ghosts uid (f (tget {} s.ghosts uid)) } else s

/-- Row and column of a core (R6). -/
def rowOfCore (c : Nat) : Nat := c / 16
def colOfCore (c : Nat) : Nat := c % 16
/-- The die of a core (R6). -/
def dieOfCore (c : Nat) : Nat := if c < 96 then 0 else 1
/-- The quad of a core and the core's position in it (R7). -/
def quadOfCore (c : Nat) : Nat := rowOfCore c / 2 * 8 + colOfCore c / 2
def ciqOfCore (c : Nat) : Nat := rowOfCore c % 2 * 2 + colOfCore c % 2
/-- The core that a quad and a position in it name (R7). -/
def coreOfQuad (q ciq : Nat) : Nat := (q / 8 * 2 + ciq / 2) * 16 + (q % 8 * 2 + ciq % 2)
/-- The die of a stack (R9). -/
def dieOfStack (m : Nat) : Nat := if m < 4 then 0 else 1

/-- A fresh number. -/
def State.fresh (s : State) : Nat × State := (s.nextId, { s with nextId := s.nextId + 1 })

/-! ## Lanes of a crew -/

/-- %mask: the lanes that are live and not away (R59). -/
def Crew.mask (k : Crew) : Mask := k.live &&& ~~~k.away

def Crew.pcOf (k : Crew) (l : Nat) : Pc := tget {} k.pc l
def Crew.parkOf (k : Crew) (l : Nat) : Park := tget .no k.park l
def Crew.setPark (k : Crew) (l : Nat) (p : Park) : Crew := { k with park := tset k.park l p }
def Crew.setPc (k : Crew) (l : Nat) (p : Pc) : Crew := { k with pc := tset k.pc l p }

/-- Do something for each lane of a mask, in ascending order (R5). -/
def forLanes (m : Mask) (f : Nat → Crew → Crew) (k : Crew) : Crew := (lanesOf m).foldl (fun k l => f l k) k

/-- A lane is not parked: it has no park reason, or its resumption has come. Log entry 15 (DESIGN CHOICE). -/
def Park.free (clk : Nat) : Park → Bool
  | .no => true
  | .resume t => t ≤ clk
  | _ => false

/-- A guest crew that still waits for groups (R400). -/
def Crew.forming (k : Crew) : Bool := k.guest.any (fun g => !g.open_)

/-- A guest crew whose grid is another chip's. -/
def foreign (s : State) (k : Crew) : Bool := k.guest.any (fun g => g.chip != s.chipid)

/-- The ready lanes (R59); a frozen, halted or forming crew has none (R96, R255, R400). -/
def Crew.ready (k : Crew) (clk : Nat) : Mask :=
  if k.frozen || k.halted || k.forming || !(k.st == .resident) then 0
  else maskOf ((lanesOf k.mask).filter (fun l => (k.parkOf l).free clk))

/-- Unpark the lanes that a test picks, able to issue from a clock. -/
def Crew.unpark (k : Crew) (at_ : Nat) (p : Park → Bool) : Crew :=
  { k with park := k.park.map (fun e => if p e.2 then (e.1, Park.resume at_) else e) }

/-- The code address of a PC (R79). -/
def Pc.addr (p : Pc) : W32 := w32 (p.id * 65536 + (p.off / 4 % 2 ^ 14) * 4 + p.slot)
/-- The PC that a code address names (R79, R80). -/
def pcOfAddr (a : W32) : Pc := { slot := bf a.toNat 0 1, id := bf a.toNat 16 16, off := 4 * bf a.toNat 2 14 }

/-! ## Events (R248) -/

/-- Post an event to a die's queue; a source that finds it full waits. Log entry 99 (DEDUCED). -/
def State.post (s : State) (die : Nat) (e : Event) : State :=
  let q := if die = 0 then s.evq0 else s.evq1
  if q.length < Config.eventQueue then
    (if die = 0 then { s with evq0 := s.evq0 ++ [e] } else { s with evq1 := s.evq1 ++ [e] })
  else { s with evWait := s.evWait ++ [(die, e)] }

/-- The fields of an event that concern a crew; a guest's grid id is 0xFF (R403). -/
def State.crewEvent (s : State) (c k : Nat) (typ cause : Nat) (lanes : Mask) (addr : W64) (pc : W32) : Event :=
  let w := s.crew c k
  { typ, cause, core := c, slot := k, grid := if w.guest.isSome then 0xFF else w.grid, team := w.team, lanes, addr, pc }

/-! ## Taking a fault or a trap (R184, R252, R253) -/

/-- The causes that go to the monitor first (R252). -/
def monitorFirst (cause : Nat) : Bool := [0x10, 0x11, 0x13, 0x15, 0x30, 0x31].contains cause

/-- What a lane raises: cause, TRAP code, address. -/
structure Raise where
  lane : Nat
  cause : Nat
  code : Nat := 0
  addr : W64 := 0
  word : Nat := 0
deriving DecidableEq, Repr

/-- TRAPINFO while a lane is in its handler (R235). -/
def trapInfo (len code cause : Nat) : W32 :=
  w32 (2 ^ 31 + len % 4 * 2 ^ 24 + code % 256 * 2 ^ 16 + cause % 256)

def inTrap (w : W32) : Bool := bit w.toNat 31

/-- A monitor crew that freezes: vector 0 to the host, and the part is held until reset (R247).
Log entry 98 (DEDUCED). -/
def monitorDown (s : State) (c k : Nat) : State :=
  let w := s.crew c k
  if w.guest.isNone && (s.grid w.grid).monitor then { s with msix := s.msix ++ [0], phase := .off } else s

/-- Freeze a crew, cause 0x7F, and post a type 0x02 event that carries the original cause (R252). -/
def freezeCrew (s : State) (c k cause : Nat) (lanes : Mask) (pc : W32) : State :=
  if (s.crew c k).frozen then s
  else monitorDown ((s.modCrew c k (fun w => { w with frozen := true })).post (dieOfCore c)
        (s.crewEvent c k 0x02 cause lanes 0 pc)) c k

/-- TrapLane (R253), for a word at `pc` of length code `len`. Log entry 28 (DEDUCED). -/
def trapLane (s : State) (c k : Nat) (pc : Pc) (len : Nat) (r : Raise) : State :=
  let w := s.crew c k
  let rec_ (w : Crew) : Crew :=
    { w with faults := tset w.faults r.lane { cause := r.cause, code := r.code, addr := r.addr, len := len, word := if r.word = 0 then s.nextId else r.word } }
  if inTrap (tget 0 w.trapinfo r.lane) || w.trapent == 0xFFFFFFFF then
    freezeCrew (s.modCrew c k (fun w => rec_ (w.setPc r.lane pc))) c k r.cause (laneBit r.lane) pc.addr
  else
    s.modCrew c k (fun w =>
      let w := rec_ w
      { w with trapinfo := tset w.trapinfo r.lane (trapInfo len r.code r.cause)
               trappc := tset w.trappc r.lane pc.addr
               trapaddr := tset w.trapaddr r.lane r.addr
               pc := tset w.pc r.lane (pcOfAddr w.trapent)
               park := tset w.park r.lane (.resume (s.clk + 2)) })

/-- FaultSplit (R184): the lanes stand at the faulting word, parked with reason fault, and one type 0x01
event carries the lowest lane's cause and address. -/
def faultSplit (s : State) (c k : Nat) (pc : Pc) (len : Nat) (l : List Raise) : State :=
  match l with
  | [] => s
  | r :: _ =>
    let s := s.modCrew c k (fun w => l.foldl (fun w r =>
      { w with pc := tset w.pc r.lane pc
               park := tset w.park r.lane .fault
               faults := tset w.faults r.lane { cause := r.cause, code := r.code, addr := r.addr, len := len, word := if r.word = 0 then s.nextId else r.word } }) w)
    s.post (dieOfCore c) (s.crewEvent c k 0x01 r.cause (maskOf (l.map (·.lane))) r.addr pc.addr)

/-- Take the faults of a word's lanes, each by the handling of its cause (R252). -/
def takeFaults (s : State) (c k : Nat) (pc : Pc) (len : Nat) (l : List Raise) : State :=
  let s := faultSplit s c k pc len (l.filter (fun r => monitorFirst r.cause))
  (l.filter (fun r => !(monitorFirst r.cause))).foldl (fun s r => trapLane s c k pc len r) s

/-! ## Returning from a trap (R272) -/

/-- What ERET does in a lane that is in its handler: INTRAP is cleared and the PC is the saved one, past
the trapped word with .next. -/
def trapReturn (next : Bool) (l : Nat) (k : Crew) : Crew :=
  let ti := tget 0 k.trapinfo l
  let p := pcOfAddr (tget 0 k.trappc l)
  let n := bf ti.toNat 24 2
  let step := if n = 0 then 8 else if n = 1 then 12 else 16
  { k with trapinfo := tset k.trapinfo l (w32 (bf ti.toNat 0 31))
           pc := tset k.pc l (if next then { p with off := p.off + step } else p) }

/-! ## Rows (R98 to R101) -/

def Crew.ent (k : Crew) (n : Nat) : VEntry := tget .no k.vent n

/-- The register's value in a lane, whatever the state of its entry (R98). Log entry 7 (DESIGN CHOICE). -/
def VEntry.val (e : VEntry) (l : Nat) : W32 :=
  match e with
  | .no => 0
  | .comp v => v
  | .row t => tget 0 t l

def VEntry.isRow : VEntry → Bool
  | .row _ => true
  | _ => false

/-- The entry in row state: a new row reads 0, an expanded one the compressed value (R99). -/
def VEntry.expand : VEntry → VEntry
  | .no => .row []
  | .comp v => .row ((List.range 32).map (fun l => (l, v)))
  | e => e

/-- Rows lent beyond the reservation. -/
def Crew.loans (k : Crew) : Nat := k.rows - k.floor

/-- Free rows of the loan pool (R99): rows that no slot reserves and none has borrowed. -/
def Core.loanFree (o : Core) : Nat :=
  Config.poolRows - (o.slots.map (fun e => if e.2.st == .free then e.2.rows else e.2.floor + e.2.loans)).sum

/-- How many rows a write to these registers takes (R99, R100). -/
def rowsNeeded (k : Crew) (regs : List Nat) : Nat := (regs.filter (fun n => !(k.ent n).isRow)).length

/-- Can the rows be had now (R99)? -/
def rowsFree (o : Core) (k : Crew) (n : Nat) : Bool := n ≤ (k.floor - k.rows) + o.loanFree

/-- Take rows for the registers a word writes (R99). -/
def takeRows (k : Crew) (regs : List Nat) : Crew :=
  regs.foldl (fun k n => if (k.ent n).isRow then k
    else { k with vent := tset k.vent n (k.ent n).expand, rows := k.rows + 1 }) k

/-- Release a register's entry (R101). -/
def dropEnt (n : Nat) (k : Crew) : Crew :=
  { k with vent := tdel k.vent n, rows := if (k.ent n).isRow then k.rows - 1 else k.rows }

/-- Release after a last read (R101): now, or when the writes that are outstanding by then have landed, the word's own among
them.
Log entry 20 (DEDUCED). -/
def releaseLast (k : Crew) (n : Nat) : Crew :=
  let ids := (k.results.filter (fun r => r.vs.contains n)).map (·.id)
  if ids.isEmpty then dropEnt n k else { k with pendRel := k.pendRel ++ [(n, ids)] }

/-! ## Results (R25, R26, R71) -/

/-- Raise a lane's sticky flags (R134). -/
def orFl (k : Crew) (l : Nat) (f : BitVec 5) : Crew := { k with fl := tset k.fl l (tget 0 k.fl l ||| f) }

/-- The lanes of a predicate (R30): q0 reads 1 and a write to it is ignored. -/
def Crew.pred (k : Crew) (n : Nat) : Mask := if n = 0 then BitVec.allOnes 32 else tget 0 k.preds n
def writePred (k : Crew) (n : Nat) (lanes vals : Mask) : Crew :=
  if n = 0 then k else { k with preds := tset k.preds n ((tget 0 k.preds n &&& ~~~lanes) ||| (vals &&& lanes)) }

/-- Write some lanes of a vector register, in a row (R100). -/
def writeLanes (k : Crew) (n : Nat) (vals : Tab W32) : Crew :=
  let k := takeRows k [n]
  match k.ent n with
  | .row t => { k with vent := tset k.vent n (.row (vals.foldl (fun t e => tset t e.1 e.2) t)) }
  | _ => k

/-- Perform one write of a result. -/
def applyWr (noU : List Nat) (k : Crew) (w : Wr) : Crew :=
  match w with
  | .v n vals => writeLanes k n vals
  | .comp n x => let k := dropEnt n k; { k with vent := tset k.vent n (.comp x) }
  | .u n x => if noU.contains n then k else { k with u := tset k.u n x }
  | .q n lanes vals => writePred k n lanes vals
  | .fl vals => vals.foldl (fun k e => orFl k e.1 e.2) k
  | .flClr vals => { k with fl := vals.foldl (fun t e => tset t e.1 (tget 0 t e.1 &&& ~~~e.2)) k.fl }
  | .mode x m => { k with fpmode := (k.fpmode &&& ~~~m) ||| (x &&& m) }
  | .cnt _ => k

/-- The vector registers and the uniform registers that a write names. -/
def wrVreg : Wr → List Nat
  | .v n _ => [n]
  | .comp n _ => [n]
  | _ => []

def wrUreg : Wr → List Nat
  | .u n _ => [n]
  | _ => []

/-- Add events to one counter of a grid for a crew, saturating, with its trip: the counter passes THR, and has not tripped
since FCNTCLR took it below THR (R137, R138). A write of THR trips nothing. Log entry 139 (DESIGN CHOICE). -/
def addCounter (c k g n : Nat) (s : State) (i : Nat) : State :=
  let d := s.grid g
  if d.state = 0 || n = 0 then s else
  let old := tget 0 d.counters i
  let new := w32 (min (old.toNat + n) 0xFFFFFFFF)
  let thr := bf d.fcntctl.toNat 0 24
  let s := s.modGrid g (fun d => { d with
    counters := tset d.counters i new
    recent := d.recent.filter (fun e => s.clk < e.1 + 256) ++ List.replicate n (s.clk, c, k, i) })
  if thr ≠ 0 && old.toNat < thr && thr ≤ new.toNat && !(d.tripped.contains i) then
    let s := s.modGrid g (fun d => { d with tripped := i :: d.tripped })
    if bit d.fcntstat.toNat 31 then s
    else
      let s := s.modGrid g (fun d => { d with fcntstat := w32 (2 ^ 31 + i) })
      let s := if bit d.fcntctl.toNat 30 then s.post (dieOfCore c) { typ := 0x05, grid := g, value := w32 i } else s
      let vec := bf d.fcntctl.toNat 24 6
      if bit d.fcntctl.toNat 31 && vec ≠ 0 then { s with msix := s.msix ++ [vec] } else s
  else s

/-- Events that guests here have counted for a grid of another chip. Log entry 72 (DESIGN CHOICE). -/
def guestCount (s : State) (key : Nat × Nat) : Tab Nat := ((s.gcounts.find? (fun e => e.1 == key)).map (·.2)).getD []
def setGuestCount (s : State) (key : Nat × Nat) (t : Tab Nat) : State :=
  { s with gcounts := (if t.isEmpty then [] else [(key, t)]) ++ s.gcounts.filter (fun e => !(e.1 == key)) }

/-- The chip and grid id that a crew's grid has. -/
def gridKey (s : State) (w : Crew) : Nat × Nat := ((w.guest.map (·.chip)).getD s.chipid, w.grid)

/-- Raise event counters in order for a crew's words; those of another chip's grid are kept until that chip asks for them.
Log entry 72 (DESIGN CHOICE). -/
def bumpCounters (s : State) (c k : Nat) (l : List Nat) : State :=
  let w := s.crew c k
  if foreign s w then setGuestCount s (gridKey s w) (l.foldl (fun t i => tset t i (tget 0 t i + 1)) (guestCount s (gridKey s w)))
  else l.foldl (addCounter c k w.grid 1) s

/-- A message to a chip about the lanes of a crew or a grid (R405, R406, R410). -/
def sendNote (s : State) (chip : Nat) (b : Body) : State :=
  let (id, s) := s.fresh
  { s with notes := s.notes ++ [{ id, dst := chip, chip := s.chipid, body := b }] }

/-- Counters of a grid become zero, and may trip again (R138, R159). -/
def zeroCounters (g : Nat) (l : List Nat) (s : State) : State :=
  s.modGrid g (fun d => { d with
    counters := d.counters.filter (fun e => !(l.contains e.1))
    recent := d.recent.filter (fun e => !(l.contains e.2.2.2))
    tripped := d.tripped.filter (fun i => !(l.contains i)) })

/-- A matrix request of a crew from before a clear of counters no longer raises them. -/
def clearMatrix (uid id : Nat) (l : List Nat) (q : Quad) : Quad :=
  { q with table := q.table.map (fun e => if e.uid == uid && e.id < id then { e with cleared := e.cleared ++ l } else e) }

/-- FCNTCLR takes effect: the crew's events of before it are counted, and then the counters are zero (R159). Those of matrix
requests still under way are left out, and trip nothing. What guest crews have counted on other chips is cleared there.
Log entry 37 (DEDUCED). -/
def clearCounters (c k id : Nat) (s : State) (l : List Nat) : State :=
  let w := s.crew c k
  let early := (w.results.filter (fun r => r.id < id)).flatMap (fun r => r.counts.filter l.contains)
  let s := bumpCounters s c k early
  let drop (r : Result) : Result := if r.id < id then { r with counts := r.counts.filter (fun i => !(l.contains i)) } else r
  let s := s.modCrew c k (fun w => { w with results := w.results.map drop })
  let s := s.modQuad (quadOfCore c) (clearMatrix w.uid id l)
  if foreign s w then
    sendNote (setGuestCount s (gridKey s w) ((guestCount s (gridKey s w)).filter (fun e => !(l.contains e.1)))) (gridKey s w).1 (.clrCnt w.grid l true)
  else (s.grid w.grid).hosted.foldl (fun s chip => sendNote s chip (.clrCnt w.grid l false)) (zeroCounters w.grid l s)

/-- The counters that a result clears (R159). -/
def wrCnt : Wr → List Nat
  | .cnt l => l
  | _ => []

/-- A result raises its counters and makes its clear (R137, R159). -/
def countResult (c k : Nat) (s : State) (r : Result) : State :=
  let s := bumpCounters s c k r.counts
  let l := r.wr.flatMap wrCnt
  if l.isEmpty then s else clearCounters c k r.id s l

/-- Write a result, raise its counters, and make the releases that waited for it (R101, R141).
Log entry 20 (DEDUCED). -/
def writeResult (s : State) (c k : Nat) (r : Result) : State :=
  let s := countResult c k s r
  s.modCrew c k (fun w =>
    let w := { w with results := w.results.filter (fun q => !(q.id == r.id)) }
    let w := r.wr.foldl (applyWr r.noU) w
    let rel := w.pendRel.map (fun e => (e.1, e.2.filter (· != r.id)))
    let w := (rel.filter (·.2.isEmpty)).foldl (fun w e => dropEnt e.1 w) w
    { w with pendRel := rel.filter (fun e => !e.2.isEmpty) })

/-- RESULT_WRITEBACK: a result whose value has come and whose time is not before now is written (R26).
Log entry 3 (DESIGN CHOICE). -/
def execResultWriteback (c k id : Nat) (s : State) : Out :=
  match (s.crew c k).results.find? (fun r => r.id == id) with
  | some r => if r.ready && r.lo ≤ s.clk then .next (writeResult s c k r) else .fault .notEnabled
  | none => .fault .notEnabled

end Sys2Proof.Machine
end

