-- ==== Sys2Proof/Machine/Operands.lean ====
section
/-! DEFINITION. Machine/Operands.lean: how a word issues, and how it reads its operands and leaves its
results: the path and its executing lanes (R24), the latches (R27), last reads (R28, R101), rows (R99,
R100), every operand kind (R29, R30, R32), values read while a result is outstanding (R25). -/

namespace Sys2Proof.Machine

/-- A word as it issues: core, crew slot, path, executing lanes, head, PC of the word, number of the
issue, and the live and away lanes, the rolls and %tile at the start of the clock. -/
structure Ctx where
  c : Nat
  k : Nat
  path : Mask
  on : Mask
  h : Head
  pc : Pc
  serial : Nat
  live : Mask
  away : Mask
  second : Bool
  rolls : Tab Mask := []
  tile : Nat := 32
deriving DecidableEq, Repr

/-- %mask at the start of the clock (R59). -/
def Ctx.mask (x : Ctx) : Mask := x.live &&& ~~~x.away

/-- The lowest executing lane. Log entry 25 (DEDUCED). -/
def Ctx.low (x : Ctx) : Nat := (lanesOf x.on).headD 0

/-- The write executes in every lane of %mask and no lane of the crew is away (R100). -/
def Ctx.whole (x : Ctx) : Bool := x.on == x.mask && x.away == 0

def Ctx.lenCode (x : Ctx) : Nat := x.h.form.len

/-! ## Values read while results are outstanding (R25) -/

/-- Number under which a choice is asked for: registers of each kind have their own. -/
def choiceV (n : Nat) : Nat := n
def choiceU (n : Nat) : Nat := 1024 + n
def choiceQ (n : Nat) : Nat := 2048 + n

/-- One of the values that a read may return: the value before, or one that an outstanding write
delivers. Log entry 18 (DESIGN CHOICE). -/
def oneOf {α : Type} (free reg lane : Nat) (cur : α) : List α → α
  | [] => cur
  | l => (cur :: l).getD (Config.staleRead free reg lane % (l.length + 1)) cur

/-- The writes outstanding that another issue produced and whose values are known. -/
def Crew.pendingWr (k : Crew) (serial : Nat) : List Wr :=
  (k.results.filter (fun r => r.serial != serial)).flatMap (·.wr)

def wrV (n l : Nat) : Wr → Option W32
  | .v m vals => if m = n then tget? vals l else none
  | .comp m x => if m = n then some x else none
  | _ => none

def wrU (n : Nat) : Wr → Option W32
  | .u m x => if m = n then some x else none
  | _ => none

def wrQ (n l : Nat) : Wr → Option Bool
  | .q m lanes vals => if m = n && lanes.getLsbD l then some (vals.getLsbD l) else none
  | _ => none

def wrFl (l : Nat) : Wr → Option (BitVec 5)
  | .fl vals => tget? vals l
  | _ => none

/-- A lane of a vector register (R98, R25). Log entry 18 (DESIGN CHOICE). -/
def readV (s : State) (x : Ctx) (n l : Nat) : W32 :=
  let w := s.crew x.c x.k
  oneOf s.free (choiceV n) l ((w.ent n).val l) ((w.pendingWr x.serial).filterMap (wrV n l))

/-- A uniform register. Log entry 18 (DESIGN CHOICE). -/
def readU (s : State) (x : Ctx) (n : Nat) : W32 :=
  let w := s.crew x.c x.k
  oneOf s.free (choiceU n) 0 (tget 0 w.u n) ((w.pendingWr x.serial).filterMap (wrU n))

/-- A lane of a predicate; q0 reads 1 (R30). Log entry 18 (DESIGN CHOICE). -/
def readQ (s : State) (x : Ctx) (n l : Nat) : Bool :=
  let w := s.crew x.c x.k
  if n = 0 then true
  else oneOf s.free (choiceQ n) l ((w.pred n).getLsbD l) ((w.pendingWr x.serial).filterMap (wrQ n l))

/-- A lane's %fl, with or without each update that is outstanding (R141). Log entry 18 (DESIGN CHOICE). -/
def readFl (s : State) (x : Ctx) (l : Nat) : BitVec 5 :=
  let w := s.crew x.c x.k
  let p := (w.pendingWr x.serial).filterMap (wrFl l)
  (p.zipIdx).foldl (fun a e => if bit (Config.staleRead s.free 4096 l) e.2 then a ||| e.1 else a) (tget 0 w.fl l)

/-- The lanes of a mask in which a predicate reads 1. -/
def readQMask (s : State) (x : Ctx) (n : Nat) (m : Mask) : Mask :=
  maskOf ((lanesOf m).filter (fun l => readQ s x n l))

/-! ## Latches (R27) -/

/-- The register a latch stands for in a lane, within its two words. -/
def latchReg (k : Crew) (l i : Nat) : Option Nat :=
  match (tget [] k.latch l)[i]? with
  | some (some t) => if t.age < 2 then some t.reg else none
  | _ => none

/-- The latch numbers that a word names. -/
def latchesOf (w : Op) : List Nat :=
  [w.a, w.b, w.c, w.d].filterMap (fun o => match o with
    | .sp n => if 0xF0 ≤ n.toNat then some (n.toNat - 0xF0) else none
    | _ => none)

/-- A lane may execute the word: every latch it names stands for a register, and it writes no register
that a latch of the lane stands for within its two words. -/
def latchOk (k : Crew) (names dst : List Nat) (l : Nat) : Bool :=
  names.all (fun i => (latchReg k l i).isSome) &&
  [0, 1, 2].all (fun i => match latchReg k l i with
    | some r => !(dst.contains r)
    | none => true)

/-- After the word: one more word executed since each latch was set, and a new latch (HOLD).
Log entry 23 (DEDUCED). -/
def ageLatches (hold reg : Nat) (k : Crew) (l : Nat) : Crew :=
  let old := tget [] k.latch l
  let aged : List (Option Latch) := (List.range 3).map (fun i => match old[i]? with
    | some (some t) => if t.age < 1 then some { t with age := t.age + 1 } else none
    | _ => none)
  let new := if hold = 0 then aged else aged.set (hold - 1) (some { reg, age := 0 })
  if new.all (·.isNone) then (if old.isEmpty then k else { k with latch := tdel k.latch l })
  else { k with latch := tset k.latch l new }

/-! ## Operands (R29, R30, R32) -/

/-- A small immediate as an integer. -/
def immInt (n : BitVec 8) : Int := n.toInt

/-- A special operand of 32 bits in a lane (R30). -/
def readSp (s : State) (x : Ctx) (n l : Nat) : W32 :=
  let w := s.crew x.c x.k
  if n = 0x00 then w32 l
  else if n = 0x01 then w32 w.crewid
  else if n = 0x02 then w32 w.team
  else if n = 0x03 then w32 w.cluster
  else if n = 0x04 then w32 w.grid
  else if n = 0x05 then w32 s.chipid
  else if n = 0x06 then w32 w.heat
  else if n = 0x07 then w32 x.tile
  else if n ≤ 0x0F then tget 0 x.rolls (n - 8)
  else if n = 0x10 then (readFl s x l).setWidth 32
  else if n = 0x11 then x.mask
  else if n = 0x12 then lo32 s.clk
  else if n = 0x13 then hi32 s.clk
  else if predOk n then (if readQ s x (n - 0x80) l then 1 else 0)
  else
    match latchReg w l (n - 0xF0) with
    | some r => readV s x r l
    | none => 0

/-- A 32-bit operand in a lane. -/
def rd (s : State) (x : Ctx) (imm : W64) (o : Opd) (l : Nat) : W32 :=
  match o with
  | .no => 0
  | .v n => readV s x n.toNat l
  | .u n => readU s x n.toNat
  | .sp n => readSp s x n.toNat l
  | .im n => n.signExtend 32
  | .ext => imm.setWidth 32

/-- A 64-bit operand in a lane: a pair with the low word in the even register (R32), %clk whole (R31),
an immediate sign-extended where `sg` holds and otherwise zero-extended (R104); a small immediate is
always sign-extended (R29). Log entry 143 (DESIGN CHOICE). -/
def rd64 (s : State) (x : Ctx) (f : Form) (sg : Bool) (imm : W64) (o : Opd) (l : Nat) : W64 :=
  let two (a b : W32) : W64 := b ++ a
  match o with
  | .no => 0
  | .v n => two (readV s x n.toNat l) (readV s x (n.toNat + 1) l)
  | .u n => two (readU s x n.toNat) (readU s x (n.toNat + 1))
  | .sp n =>
    if n == 0x12 then w64 s.clk
    else if 0xF0 ≤ n.toNat then
      match latchReg (s.crew x.c x.k) l (n.toNat - 0xF0) with
      | some r => two (readV s x r l) (readV s x (r + 1) l)
      | none => 0
    else (readSp s x n.toNat l).setWidth 64
  | .im n => n.signExtend 64
  | .ext => if f == .w128i then imm else if sg then (imm.setWidth 32).signExtend 64 else imm

/-- A run of `n` registers in a lane, lowest first. -/
def rdRun (s : State) (x : Ctx) (o : Opd) (n l : Nat) : List W32 :=
  match o with
  | .v r => (List.range n).map (fun i => readV s x (r.toNat + i) l)
  | .u r => (List.range n).map (fun i => readU s x (r.toNat + i))
  | .im v => leWords n (wrapInt 128 v.toInt)
  | o => (List.range n).map (fun i => if i = 0 then rd s x 0 o l else 0)

/-- The vector registers a destination of `n` registers names. Log entry 21 (DEDUCED). -/
def vdst (o : Opd) (n : Nat) : List Nat :=
  match o with
  | .v r => (List.range n).map (fun i => r.toNat + i)
  | _ => []

/-- The uniform registers a destination of `n` registers names. -/
def udst (o : Opd) (n : Nat) : List Nat :=
  match o with
  | .u r => (List.range n).map (fun i => r.toNat + i)
  | _ => []

/-- A word is uniform-producing when its sources are all uniform (R100). Log entry 19 (DEDUCED). -/
def uniformProducing (w : Op) : Bool := uniSrc w.a && uniSrc w.b && uniSrc w.c

/-- The registers that the LAST bits of a word name, with the rest of each pair or run (R28).
Log entry 21 (DEDUCED). -/
def lastRegs (h : Head) (w : Op) (ra rb rc : Nat) : List Nat :=
  (if h.la then vdst w.a ra else []) ++ (if h.lb then vdst w.b rb else []) ++ (if h.lc then vdst w.c rc else [])

/-! ## Issuing a word -/

/-- What a word tells before it acts: the operands it names, how many registers A, B and C take, the
vector registers it reads beside them, those it writes, whether its value is uniform-producing, whether
it is collective, the last reads beside those of its head, the clocks its issue occupies by itself, and
whether its last reads wait for the checks of its lines (R184). -/
structure Pre where
  w : Op := {}
  ra : Nat := 1
  rb : Nat := 1
  rc : Nat := 1
  reads : List Nat := []
  dst : List Nat := []
  comp : Bool := false
  coll : Bool := false
  last : List Nat := []
  base : Nat := 1
  late : Bool := false

/-- The vector registers that a word reads. -/
def Pre.sources (p : Pre) : List Nat := vdst p.w.a p.ra ++ vdst p.w.b p.rb ++ vdst p.w.c p.rc ++ p.reads

/-- The clocks for which a word holds its path's issue slot: the most reads of one register bank (R97),
and one more to expand a compressed entry (R100). Log entry 17 (DESIGN CHOICE). -/
def Pre.hold (p : Pre) (x : Ctx) (k : Crew) : Nat :=
  let n (b : Nat) : Nat := (p.sources.filter (fun r => r % 4 == b)).length
  let comp (r : Nat) : Bool := match k.ent r with | .comp _ => true | _ => false
  p.base - 1 + max 1 (max (max (n 0) (n 1)) (max (n 2) (n 3))) +
    (if x.on != 0 && !(p.comp && x.whole) && p.dst.any comp then 1 else 0)

/-- The context of the path that issues. -/
def ctxOf (s : State) (i : Issue) : Ctx :=
  let w := s.crew i.core i.slot
  let x : Ctx := { c := i.core, k := i.slot, path := i.lanes, on := i.lanes, h := i.h
                   pc := w.pcOf ((lanesOf i.lanes).headD 0), serial := s.serial
                   live := (i.pre.map (·.live)).getD w.live, away := (i.pre.map (·.away)).getD w.away, second := i.second
                   rolls := (i.pre.map (·.rolls)).getD w.rolls, tile := (i.pre.map (·.tile)).getD w.tile }
  if i.h.gq == 0 then x
  else { x with on := maskOf ((lanesOf i.lanes).filter (fun l => readQ s x i.h.gq.toNat l != i.h.gn)) }

/-- Move the lanes of a path past its word. -/
def advance (x : Ctx) (k : Crew) : Crew :=
  forLanes x.path (fun l k => k.setPc l { x.pc with off := x.pc.off + x.h.form.bytes }) k

/-- No path issues any more. -/
def State.done (s : State) : State := { s with cur := none }

/-- Lanes that have faulted or trapped since the word issued: each has a new fault record (R184, R248). -/
def faulted (old k : Crew) (m : Mask) : Mask :=
  maskOf ((lanesOf m).filter (fun l => tget? k.faults l != tget? old.faults l || k.parkOf l == .fault))

/-- Latches age and are set in the lanes that executed the word without a fault (R27), unless its crew is another by now. -/
def ageAll (x : Ctx) (o : Opd) (old : Crew) (bad : Mask) (k : Crew) : Crew :=
  if k.uid == old.uid then (lanesOf (x.on &&& ~~~bad)).foldl (ageLatches x.h.hold.toNat ((vdst o 1).headD 0)) k else k

/-- Last reads release where the word executes in every live lane and none faults (R101). -/
def lastAll (x : Ctx) (p : Pre) (bad : Mask) (k : Crew) : Crew :=
  if !p.late && x.on == x.live && x.on != 0 && bad == 0 then
    (lastRegs x.h p.w p.ra p.rb p.rc ++ p.last).foldl releaseLast k else k

/-- After a word has read its sources: latches, last reads, and the rows that its lanes take where one writes (R99, R184).
Log entries 20 (DEDUCED), 23 (DEDUCED), 24 (DEDUCED). -/
def settleRows (x : Ctx) (p : Pre) (old k : Crew) : Crew :=
  let bad := faulted old k x.on
  let k := lastAll x p bad (ageAll x p.w.a old bad k)
  if x.on == bad || (p.comp && x.whole) then k else takeRows k p.dst

/-- A seat's issue slot is held until a clock (R97). Log entry 17 (DESIGN CHOICE). -/
def holdSeat (seat t : Nat) (o : Core) : Core := { o with busy := tset o.busy seat (max (tget 0 o.busy seat) t) }

/-- A word must wait: a marker with results outstanding (R25, R70). The choice of a crew has looked at both of its paths:
what path 1 leaves in the same clock is no earlier result for path 2 (R68). Log entry 16 (DESIGN CHOICE). -/
def Crew.atMarker (k : Crew) (h : Head) (second : Bool) : Bool := h.sw && !second && !k.results.isEmpty

/-- The state in which a word acts: its lanes' PCs have advanced (R24), its seat's slot is held, and the lanes that break
R27 have raised cause 0x01. -/
def begun (s : State) (p : Pre) (x : Ctx) (bad : List Nat) : State :=
  let s1 := s.modCrew x.c x.k (fun k => { advance x k with since := s.clk + 1 })
  let s1 := s1.modCore x.c (holdSeat (x.k % 4) (s.clk + p.hold x (s.crew x.c x.k)))
  takeFaults s1 x.c x.k x.pc x.lenCode (bad.map (fun l => { lane := l, cause := 0x01 }))

/-- After a word has acted: latches, last reads and rows, and the path issues no more. -/
def ended (p : Pre) (x : Ctx) (old : Crew) (s : State) : State :=
  { (s.modCrew x.c x.k (settleRows x p old)).done with free := s.free + 1 }

/-- The lanes that break R27; in a collective word one of them stops all (R78). -/
def latchBad (s : State) (p : Pre) (x : Ctx) : List Nat :=
  let bad := (lanesOf x.on).filter (fun l => !(latchOk (s.crew x.c x.k) (latchesOf p.w) p.dst l))
  if p.coll && !bad.isEmpty then lanesOf x.path else bad

/-- Some lane writes a row and none can be had (R99). -/
def rowWait (s : State) (p : Pre) (x : Ctx) : Bool :=
  x.on != 0 && !(p.comp && x.whole) && !(rowsFree (s.core x.c) (s.crew x.c x.k) (rowsNeeded (s.crew x.c x.k) p.dst))

/-- Issue the word of the current path. A marker waits (R25, R70); lanes that break R27 raise cause 0x01; a crew for
which no row is free parks (R99); then the word acts on the executing lanes, reading the state as it stands at issue.
Log entries 3 (DESIGN CHOICE), 16 (DESIGN CHOICE), 22 (DEDUCED). -/
def issue (s : State) (p : Pre) (body : Ctx → State → State) : Out :=
  match s.cur with
  | none => .fault .noIssue
  | some i =>
    if s.phase != .running then .fault .dark
    else
      let x := ctxOf s i
      if (s.crew x.c x.k).atMarker x.h x.second then .next s.done
      else
        let bad := latchBad s p x
        let x := { x with on := x.on &&& ~~~(maskOf bad) }
        if rowWait s p x then
          .next (s.modCrew x.c x.k (fun k => forLanes (k.ready s.clk) (fun l k => k.setPark l .row) k)).done
        else .next (ended p x (s.crew x.c x.k) (body x (begun s p x bad)))

/-- The path of the word would execute it now. -/
def wouldRun (s : State) (x : Ctx) : Bool := s.phase == .running && x.on != 0 && !((s.crew x.c x.k).atMarker x.h x.second)

/-- A word does not issue: its crew leaves for the pending set, and its seat may choose again in the same clock (R64, R65).
Log entry 14 (DESIGN CHOICE). -/
def bounced (s : State) (x : Ctx) : State :=
  (s.modCore x.c (fun o =>
    let o := o.modCrew x.k (fun k => { k with leaving := true })
    if x.second then o else { o with busy := tset o.busy (x.k % 4) s.clk })).done

def notNow (s : State) (x : Ctx) : Out := .next (bounced s x)

/-- A word whose path raises a cause in every lane (R22): guards are ignored. -/
def raisePath (s : State) (cause len : Nat) (addr : W64) : Out :=
  match s.cur with
  | none => .fault .noIssue
  | some i =>
    let w := s.crew i.core i.slot
    let pc := w.pcOf ((lanesOf i.lanes).headD 0)
    let s1 := s.modCrew i.core i.slot (fun k => { k with since := s.clk + 1 })
    .next { (takeFaults s1 i.core i.slot pc len ((lanesOf i.lanes).map (fun l => { lane := l, cause, addr }))).done
            with free := s.free + 1 }

/-! ## Leaving results -/

/-- Add an outstanding result. Path 2's write of a uniform register stands (R69). -/
def addResult (s : State) (x : Ctx) (r : Result) : State :=
  s.modCrew x.c x.k (fun k =>
    let old := if x.second then k.results.map (fun q =>
        if q.serial == x.serial then { q with noU := q.noU ++ r.us } else q) else k.results
    { k with results := old ++ [{ r with serial := x.serial }] })

/-- A result with a fixed latency (R26). Log entry 31 (DEDUCED). -/
def fixedResult (s : State) (x : Ctx) (lat : Nat) (wr : List Wr) (counts : List Nat := []) : State :=
  if wr.isEmpty && counts.isEmpty then s else
  let (id, s) := s.fresh
  addResult s x { id, serial := x.serial, lo := s.clk + lat, hi := some (s.clk + lat), ready := true, wr
                  vs := wr.flatMap wrVreg, us := wr.flatMap wrUreg, counts }

/-- A long-latency result whose value is known and whose time has bounds (R141). -/
def boundedResult (s : State) (x : Ctx) (lo hi : Nat) (wr : List Wr) (counts : List Nat := []) : State :=
  if wr.isEmpty && counts.isEmpty then s else
  let (id, s) := s.fresh
  addResult s x { id, serial := x.serial, lo := s.clk + lo, hi := some (s.clk + hi), ready := true, wr
                  vs := wr.flatMap wrVreg, us := wr.flatMap wrUreg, counts }

/-- A long-latency result whose value is known at issue. -/
def longResult (s : State) (x : Ctx) (wr : List Wr) : State :=
  if wr.isEmpty then s else
  let (id, s) := s.fresh
  addResult s x { id, serial := x.serial, lo := s.clk + 2, hi := none, ready := true, wr
                  vs := wr.flatMap wrVreg, us := wr.flatMap wrUreg }

/-- A long-latency result whose value comes later: its number, and the state. -/
def openResult (s : State) (x : Ctx) (vs us : List Nat) : Nat × State :=
  let (id, s) := s.fresh
  (id, addResult s x { id, serial := x.serial, lo := s.clk + 2, hi := none, ready := false, wr := [], vs, us })

/-- A crew's open result gets its value. -/
def Crew.fillRes (id : Nat) (wr : List Wr) (w : Crew) : Crew :=
  { w with results := w.results.map (fun r => if r.id == id then { r with ready := true, wr := r.wr ++ wr } else r) }

/-- The value of an open result has come; its crew may have been saved or placed elsewhere since (R230). -/
def fillResult (s : State) (c k id : Nat) (wr : List Wr) : State :=
  if (s.crew c k).results.any (fun r => r.id == id) then s.modCrew c k (Crew.fillRes id wr)
  else
    let fillTeam (t : SavedTeam) : SavedTeam := { t with crews := t.crews.map (fun e => (e.1, e.2.fillRes id wr)) }
    { s with
      cores := s.cores.map (fun c => (c.1, { c.2 with slots := c.2.slots.map (fun k => (k.1, k.2.fillRes id wr)) }))
      saves := s.saves.map (fun e => (e.1, { e.2 with teams := e.2.teams.map fillTeam })) }

/-- The writes of a 32-bit value for each executing lane, in the state its destination has (R100, R106).
Log entries 19 (DEDUCED), 25 (DEDUCED). -/
def wrOf (x : Ctx) (comp : Bool) (d : Opd) (val : Nat → W32) : List Wr :=
  if x.on == 0 then [] else
  match d with
  | .v n => if comp && x.whole then [.comp n.toNat (val x.low)]
            else [.v n.toNat ((lanesOf x.on).map (fun l => (l, val l)))]
  | .u n => [.u n.toNat (val x.low)]
  | .sp n => [.q (n.toNat - 0x80) x.on (maskOf ((lanesOf x.on).filter (fun l => val l != 0)))]
  | _ => []

/-- The next register of a run. -/
def nextReg (o : Opd) (i : Nat) : Opd :=
  match o with
  | .v n => .v (BitVec.ofNat 8 (n.toNat + i))
  | .u n => .u (BitVec.ofNat 9 (n.toNat + i))
  | o => o

/-- The writes of a run of 32-bit words for each executing lane, lowest register first. -/
def wrRun (x : Ctx) (comp : Bool) (d : Opd) (n : Nat) (val : Nat → List W32) : List Wr :=
  (List.range n).flatMap (fun i => wrOf x comp (nextReg d i) (fun l => (val l).getD i 0))

/-- The writes of a 64-bit value. -/
def wr64 (x : Ctx) (comp : Bool) (d : Opd) (val : Nat → W64) : List Wr :=
  wrRun x comp d 2 (fun l => leWords 2 (val l).toNat)

end Sys2Proof.Machine
end

