-- ==== Sys2Proof/Machine/Crew.lean ====
section
/-! DEFINITION. Machine/Crew.lean: rolls, barriers, releases and acquires, and the retirement of crews
and teams. -/

namespace Sys2Proof.Machine

/-! ## Rolls (R72, R88) -/

/-- Release(n): every arrived lane resumes, able to issue from the second clock; both masks become 0. -/
def releaseRoll (clk n : Nat) (k : Crew) : Crew :=
  let a := tget 0 k.arrivals n
  let k := forLanes a (fun l k => if k.parkOf l == .rejoin n then k.setPark l (.resume (clk + 2)) else k) k
  { k with rolls := tset k.rolls n 0, arrivals := tset k.arrivals n 0 }

/-- The roll releases when every member has arrived. -/
def checkRoll (clk n : Nat) (k : Crew) : Crew :=
  if tget 0 k.rolls n != 0 && tget 0 k.arrivals n == tget 0 k.rolls n then releaseRoll clk n k else k

/-- Leave(lane, n). -/
def leaveRoll (clk l n : Nat) (k : Crew) : Crew :=
  let m := ~~~(laneBit l)
  checkRoll clk n { k with rolls := tset k.rolls n (tget 0 k.rolls n &&& m)
                           arrivals := tset k.arrivals n (tget 0 k.arrivals n &&& m) }

/-! ## Barriers (R74, R75, R363) -/

def barReady (b : Bar) : Bool := 0 < b.expected && b.expected ≤ b.arrivals

/-- The next phase: engine arrivals no longer count as expected (R363). -/
def barNext (clk : Nat) (b : Bar) : Bar :=
  { phase := b.phase + 1, since := clk, expected := b.expected - b.engines, arrivals := 0, engines := 0 }

/-- A lane parked on barrier `n` resumes once its phase is over (R89). -/
def barOver (cl : Bool) (n : Nat) (phase : W32) : Park → Bool
  | .barrier c m p => c == cl && m == n && phase != p
  | .barw c m t => c == cl && m == n && decide (0 < (phase - t).toInt)
  | _ => false

/-- Arrived bits of a lane: team barriers in 0 to 15, cluster barriers in 0 to 3. -/
def arrived (k : Crew) (cl : Bool) (n l : Nat) : Bool :=
  if cl then (tget 0 k.arrC l).getLsbD n else (tget 0 k.arrT l).getLsbD n

def setArrived (k : Crew) (cl : Bool) (n l : Nat) : Crew :=
  if cl then { k with arrC := tset k.arrC l (tget 0 k.arrC l ||| BitVec.ofNat 4 (2 ^ n)) }
  else { k with arrT := tset k.arrT l (tget 0 k.arrT l ||| BitVec.ofNat 16 (2 ^ n)) }

/-- Every arrived bit of a barrier clears (R75). -/
def clearArrived (cl : Bool) (n : Nat) (k : Crew) : Crew :=
  if cl then { k with arrC := k.arrC.map (fun e => (e.1, e.2 &&& ~~~(BitVec.ofNat 4 (2 ^ n)))) }
  else { k with arrT := k.arrT.map (fun e => (e.1, e.2 &&& ~~~(BitVec.ofNat 16 (2 ^ n)))) }

/-- Do something to every resident crew of a core that a test picks. -/
def Core.mapCrews (o : Core) (p : Crew → Bool) (f : Crew → Crew) : Core :=
  { o with slots := o.slots.map (fun e => if e.2.st == .resident && p e.2 then (e.1, f e.2) else e) }

/-- Every line of a core's L1 is invalidated; loads in flight will fill nothing (R209, R204). -/
def invalL1 (s : State) (c : Nat) : State :=
  { s.modCore c (fun o => { o with l1 := [] }) with
    reqs := s.reqs.map (fun r => if r.core == c then { r with noFill := 0xF } else r) }

/-- A team barrier's phase completes if it can: the phase rises, the arrived bits clear, the lanes parked
on it resume from the second clock (R75). Where a packet's thread has joined it, no older copy stays in the L1 (R76,
R212). -/
def checkTeamBar (s : State) (c t n : Nat) : State :=
  let b := tget {} (s.team c t).bars n
  if barReady b then
    let b' := barNext s.clk b
    let s := if b.joined then invalL1 s c else s
    let s := s.modTeam c t (fun m => { m with bars := tset m.bars n b' })
    s.modCore c (fun o => o.mapCrews (fun k => k.ts == t)
      (fun k => (clearArrived false n k).unpark (s.clk + 2) (barOver false n b'.phase)))
  else s

/-- The crews of a cluster. -/
def inCluster (g i : Nat) (k : Crew) : Bool := k.grid == g && k.cluster == i && k.guest.isNone

def clusterOf (s : State) (g i : Nat) : Cluster :=
  (s.clusters.find? (fun x => x.grid == g && x.index == i)).getD { grid := g, index := i, origin := 0 }

def modCluster (s : State) (g i : Nat) (f : Cluster → Cluster) : State :=
  { s with clusters := s.clusters.map (fun x => if x.grid == g && x.index == i then f x else x) }

/-- A cluster barrier's phase completes if it can; its lanes resume core by core (CLUSTER_BARRIER_RESUME). -/
def checkClusterBar (s : State) (g i n : Nat) : State :=
  let b := tget {} (clusterOf s g i).bars n
  if barReady b then
    let s := modCluster s g i (fun x => { x with bars := tset x.bars n (barNext s.clk b) })
    { s with cores := s.cores.map (fun e => (e.1, e.2.mapCrews (inCluster g i) (clearArrived true n))) }
  else s

/-- A barrier of a crew's team or cluster. -/
def barOf (s : State) (c k : Nat) (cl : Bool) (n : Nat) : Bar :=
  let w := s.crew c k
  if cl then tget {} (clusterOf s w.grid w.cluster).bars n else tget {} (s.team c w.ts).bars n

def modBar (s : State) (c k : Nat) (cl : Bool) (n : Nat) (f : Bar → Bar) : State :=
  let w := s.crew c k
  if cl then modCluster s w.grid w.cluster (fun x => { x with bars := tset x.bars n (f (tget {} x.bars n)) })
  else s.modTeam c w.ts (fun m => { m with bars := tset m.bars n (f (tget {} m.bars n)) })

def checkBar (s : State) (c k : Nat) (cl : Bool) (n : Nat) : State :=
  let w := s.crew c k
  if cl then checkClusterBar s w.grid w.cluster n else checkTeamBar s c w.ts n

/-- Arrive(lane, x) of one lane, with the phase that it may complete (R75, R89). -/
def arriveLane (c k : Nat) (cl : Bool) (n : Nat) (s : State) (l : Nat) : State :=
  let s := s.modCrew c k (fun w => setArrived w cl n l)
  checkBar (modBar s c k cl n (fun b => { b with arrivals := b.arrivals + 1 })) c k cl n

/-- A packet's thread joins a barrier's phase (R211, R444). -/
def joinBar (s : State) (c t n : Nat) : State :=
  s.modTeam c t (fun m => { m with bars := tset m.bars n { tget ({} : Bar) m.bars n with joined := true } })

/-- An engine request arrives at a team barrier (R75, R363). -/
def arriveEngine (s : State) (c t n : Nat) : State :=
  checkTeamBar (s.modTeam c t (fun m =>
    let b := tget {} m.bars n
    { m with bars := tset m.bars n { b with arrivals := b.arrivals + 1, engines := b.engines + 1 } })) c t n

/-- An engine request that names a barrier is issued (R74). -/
def expectEngine (s : State) (c t n : Nat) : State :=
  s.modTeam c t (fun m =>
    let b := tget {} m.bars n
    { m with bars := tset m.bars n { b with expected := b.expected + 1 } })

/-! ## Releases and acquires (R209) -/

/-- A request that writes (an RMW reads and writes). -/
def Acc.writes : Acc → Bool
  | .store => true
  | .rel => true
  | .rmw _ _ => true
  | .redf _ _ => true
  | .dst => true
  | .dred _ => true
  | .rst => true
  | .ratom _ => true
  | .bkadd _ _ => true
  | _ => false

/-- BKADD, for which its crew never waits (R479). -/
def Acc.bank : Acc → Bool
  | .bkadd _ _ => true
  | _ => false

/-- A request that reads values. -/
def Acc.reads : Acc → Bool
  | .load => true
  | .acq => true
  | .rld => true
  | .wait _ => true
  | .rmw _ _ => true
  | .ratom _ => true
  | _ => false

def Req.lanes (r : Req) : Mask := maskOf (r.pieces.map (·.lane))

/-- A write or RMW of these lanes, issued before a bound, that has not been performed at its coherence
point (R209). -/
def Req.blocks (c k uid : Nat) (lanes : Mask) (before : Nat) (r : Req) : Bool :=
  r.core == c && r.slot == k && r.uid == uid && r.acc.writes && !r.acc.bank && r.id < before && (r.lanes &&& lanes) != 0 &&
  !(r.stage == .respond)

def writesOpen (s : State) (c k : Nat) (lanes : Mask) (before : Nat) : Bool :=
  let uid := (s.crew c k).uid
  s.reqs.any (Req.blocks c k uid lanes before)

/-- An acquire at a scope (R209); team and cluster scopes of a guest are performed at chip scope (R199). -/
def acquire (s : State) (c k scope : Nat) : State :=
  let scope := if (s.crew c k).guest.isSome && scope ≤ 2 && 1 ≤ scope then 3 else scope
  if 2 ≤ scope then invalL1 s c else s

/-- What follows a release when it needs nothing but the crew itself. -/
def afterRelease (s : State) (c k : Nat) (a : After) : State :=
  match a with
  | .arrive cl n lanes => (lanesOf lanes).foldl (arriveLane c k cl n) s
  | .reqs l => { s with reqs := s.reqs.map (fun r =>
      if l.contains r.id then { r with rel := false, stage := if r.stage == .held then (if r.space = 0 then .ready else .scratch) else r.stage } else r) }
  | _ => s

/-- Does the rest of the release wait for a later event? -/
def After.later : After → Bool
  | .fence => false
  | .reqs _ => false
  | .arrive _ _ _ => false
  | _ => true

/-- A read of these lanes, issued before a bound, that has not been performed (R201, R202). -/
def readsOpen (s : State) (c k : Nat) (lanes : Mask) (before : Nat) : Bool :=
  let uid := (s.crew c k).uid
  s.reqs.any (fun r => r.core == c && r.slot == k && r.uid == uid && r.acc.reads && r.id < before && (r.lanes &&& lanes) != 0 &&
    !(r.stage == .respond))

/-- Begin a release, an acquire or both for some lanes; it completes at once where nothing holds it. A fence
acquire covers the reads that precede it. Log entry 59 (DEDUCED). -/
def order (s : State) (x : Ctx) (rel acq : Bool) (scope : Nat) (lanes : Mask) (a : After) (engines : BitVec 4 := 0) : State :=
  let o : Ord := { rel, acq, scope, lanes, before := s.nextId, engines, after := a, pc := x.pc, len := x.lenCode }
  let waits := rel && (scope == 5 || (s.crew x.c x.k).lostWrite || writesOpen s x.c x.k lanes s.nextId)
  if a.later || waits || engines != 0 || (acq && a == .fence && readsOpen s x.c x.k lanes s.nextId) then
    s.modCrew x.c x.k (fun k => { k with ords := k.ords ++ [o] })
  else afterRelease (if acq then acquire s x.c x.k scope else s) x.c x.k a

/-! ## Retirement (R87, R244) -/

/-- Zero a tile of a quad (R355). -/
def zeroTile (t : Nat) (q : Quad) : Quad := { q with acc := q.acc.filter (fun e => !(e.1 / 4096 == t)) }

/-- End a team's reservation of tiles and FIFOs (R355). Log entry 81 (DEDUCED). -/
def endReservation (s : State) (c t : Nat) : State :=
  let held := ((s.quad (quadOfCore c)).holders.filter (fun e => e.2 == (c, t))).map (·.1)
  let s := s.modQuad (quadOfCore c) (fun q =>
    held.foldl (fun q i => zeroTile i { q with holders := tdel q.holders i }) q)
  let s := s.modTeam c t (fun m => { m with tiles := [] })
  if (s.core c).fifoTeam == some t then
    s.modCore c (fun o => { o with fifoA := [], fifoB := [], fifoTeam := none })
  else s

/-- End a team's claims once its bank commands are complete (R462). Log entry 133 (DEDUCED). -/
def endClaims (s : State) (c t : Nat) : State :=
  let busy := s.stks.any (fun e => e.2.bankQ.any (fun b => b.core == c && b.ts == t))
  if busy then s
  else
    { s with
      stks := s.stks.map (fun e => (e.1, { e.2 with pcs := e.2.pcs.filter (fun p => !(p.2.claim == some (c, t))) })) }

/-- End a team's pins (R325). -/
def endPins (s : State) (c t : Nat) : State :=
  s.modQuad (quadOfCore c) (fun q =>
    { q with bins := q.bins.map (fun e => if e.2.pin == some (c, t) then (e.1, { e.2 with pin := none }) else e) })

/-- Unbind a team's arrival counters (R449). -/
def unbindAll (s : State) (c t : Nat) : State :=
  s.modCore c (fun o => { o with arrCtrs := o.arrCtrs.filter (fun e => !(e.2.ts == t)) })

/-- TEAM_RETIRE: a team whose last crew has retired ends its reservations, claims and bindings, its tiles once
its matrix requests are complete (R355, R377); its account stays (R244, R304). -/
def retireTeam (s : State) (c t : Nat) : State :=
  let m := s.team c t
  if (s.core c).slots.any (fun e => e.2.st == .resident && e.2.ts == t) || !m.live then s
  else
    let s := unbindAll (endPins s c t) c t
    let q := s.quad (quadOfCore c)
    let busy := q.table.any (fun e => e.core == c && e.ts == t) || q.reads.any (fun r => m.tiles.contains r.tile)
    let s := if busy then s else endReservation s c t
    let s := s.modTeam c t (fun m => { m with live := false, crews := 0, scratch := 0, bars := [] })
    let s := endClaims s c t
    if m.guest then s
    else s.modGrid m.grid (fun g => { g with teamsLeft := g.teamsLeft - 1, retired := g.retired ++ [m.index] })

/-- CREW_RETIRE: a crew with no live or away lane frees its slot and its rows; its team retires with its
last crew (R87). Event counts of results still outstanding are kept (R137). -/
def retireCrew (s : State) (c k : Nat) : State :=
  let w := s.crew c k
  if w.live != 0 || w.st != .resident || w.guest.any (fun g => g.incoming != 0) then s
  else
    let s := w.results.foldl (countResult c k) s
    let s := if s.reqs.any (fun r => r.uid == w.uid) then { s with ghosts := tset s.ghosts w.uid w } else s
    let s := s.modCore c (fun o => { o with slots := tdel o.slots k })
    retireTeam s c w.ts

/-- An arrival of a lane that its release still holds back does not come (R87). -/
def dropHeldArrival (l : Nat) (o : Ord) : Ord :=
  match o.after with
  | .arrive cl n m => { o with after := .arrive cl n (m &&& ~~~(laneBit l)) }
  | _ => o

/-- One lane's EXIT: rolls, barriers, live bit (R87); a guest lane tells its origin (R406). -/
def exitLane (c k : Nat) (s : State) (l : Nat) : State :=
  let w := s.crew c k
  let s := s.modCrew c k (fun w => (List.range 8).foldl (fun w n => leaveRoll s.clk l n w) { w with ords := w.ords.map (dropHeldArrival l) })
  let out (cl : Bool) (s : State) (n : Nat) : State :=
    let a := arrived (s.crew c k) cl n l
    let s := s.modCrew c k (fun w => { w with
      arrT := if cl then w.arrT else tset w.arrT l (tget 0 w.arrT l &&& ~~~(BitVec.ofNat 16 (2 ^ n)))
      arrC := if cl then tset w.arrC l (tget 0 w.arrC l &&& ~~~(BitVec.ofNat 4 (2 ^ n))) else w.arrC })
    checkBar (modBar s c k cl n (fun b =>
      { b with expected := b.expected - 1, arrivals := if a then b.arrivals - 1 else b.arrivals })) c k cl n
  let s := match w.guest with
    | some g => sendNote s g.chip (.exitNote g.cont.grid g.cont.team g.cont.crewid (laneBit l) (g.seen ++ [s.chipid]))
    | none => (List.range 4).foldl (out true) ((List.range 16).foldl (out false) s)
  s.modCrew c k (fun w => { w with live := w.live &&& ~~~(laneBit l), away := w.away &&& ~~~(laneBit l)
                                   park := tdel w.park l, pc := tdel w.pc l })

end Sys2Proof.Machine
end

