-- ==== Sys2Proof/Machine/Flags.lean ====
section
/-! DEFINITION. Machine/Flags.lean: conditions and flags: integer comparison (R105), waiting conditions
(R92), the sticky flags of %fl (R134) and the event counters (R137). -/

namespace Sys2Proof.Machine

/-- The integer value of a number of `w` bits, signed or unsigned. -/
def intOf (sg : Bool) (w n : Nat) : Int := if sg then signedOf w n else (n : Int)

/-- Condition codes 0 to 5 of R105. -/
def cond (c : Nat) (a b : Int) : Bool :=
  if c = 0 then a == b else if c = 1 then a != b else if c = 2 then a < b
  else if c = 3 then a ≤ b else if c = 4 then b < a else b ≤ a

/-- Types compared as signed: .i8, .i16, .i32, .i64. -/
def signedTy (t : Nat) : Bool := 9 ≤ t && t ≤ 12

/-- WAITW and WAITV conditions (R92, R226): .eq, .ne, .gew, .ltw, with the difference taken at width `w`. -/
def waitCond (c w a b : Nat) : Bool :=
  let d := signedOf w ((a + (2 ^ w - b % 2 ^ w)) % 2 ^ w)
  if c = 0 then a == b else if c = 1 then a != b else if c = 2 then 0 ≤ d else d < 0

/-- BRU conditions (R85): .eqz, .nez, .ltz, .gez, .gtz, .lez. -/
def zeroCond (c : Nat) (v : Int) : Bool :=
  if c = 0 then v == 0 else if c = 1 then v != 0 else if c = 2 then v < 0
  else if c = 3 then 0 ≤ v else if c = 4 then 0 < v else v ≤ 0

/-- TRAPC conditions (R94): .eq, .ne, .lt, .ge. -/
def trapCond (c : Nat) (a b : Int) : Bool :=
  if c = 0 then a == b else if c = 1 then a != b else if c = 2 then a < b else b ≤ a

/-! ## %fl (R134) -/

abbrev Fl := BitVec 5
def flNone : Fl := 0
def flNV : Fl := 16
def flDZ : Fl := 8
def flOF : Fl := 4
def flUF : Fl := 2
def flNX : Fl := 1

/-- FPMODE.FL: flags are raised; FPMODE.CNT: events are counted (R136). -/
def Crew.flOn (k : Crew) : Bool := bit k.fpmode.toNat 6
def Crew.cntOn (k : Crew) : Bool := bit k.fpmode.toNat 7

/-- The write that raises flags in lanes; none where FPMODE.FL is 0 or nothing is raised. Log entry 31 (DEDUCED). -/
def flWr (on : Bool) (l : List (Nat × Fl)) : List Wr :=
  let l := l.filter (fun e => e.2 != 0)
  if on && !l.isEmpty then [.fl (l.foldl (fun t e => tset t e.1 (tget 0 t e.1 ||| e.2)) [])] else []

/-- The events of one result element against the counters of its format (R137). -/
def eventsOf (fmt : Nat) (nan infNew : Bool) (f : Fl) : List Nat :=
  (if nan then [fmt * 4] else []) ++ (if infNew then [fmt * 4 + 1] else []) ++
  (if f &&& flOF != 0 then [fmt * 4 + 2] else []) ++ (if f &&& flUF != 0 then [fmt * 4 + 3] else [])

end Sys2Proof.Machine
end

