-- ==== Sys2Proof/Machine/Control.lean ====
section
/-! DEFINITION. Machine/Control.lean: the control and convergence words (R82 to R94), and the events of
the seats (R65, R67, R75, R91, R99). WAITW stands in Machine/Order.lean with the other waits. -/

namespace Sys2Proof.Machine

/-- OFF16, bits [40:25] (R79). -/
def off16 (w : Op) : Int :=
  let n (o : Opd) : Nat := match o with | .v r => r.toNat | _ => 0
  signedOf 16 (n w.a + 256 * n w.b)

/-- Lanes of a mask with one cause. -/
def raises (m : Mask) (cause : Nat) (code : Nat := 0) : List Raise := (lanesOf m).map (fun l => { lane := l, cause, code })

/-- The word's lanes raise a cause. -/
def faultLanes (s : State) (x : Ctx) (l : List Raise) : State := takeFaults s x.c x.k x.pc x.lenCode l

/-- Send lanes to a PC. -/
def sendTo (s : State) (x : Ctx) (m : Mask) (p : Pc) : State := s.modCrew x.c x.k (forLanes m (fun l k => k.setPc l p))

/-- Jump(lane, off) for lanes of the path (R80, R86). -/
def jump (s : State) (x : Ctx) (m : Mask) (w : Op) : State :=
  let t : Int := x.pc.off + 4 * off16 w
  if t < 0 || 65532 < t then faultLanes s x (raises m 0x02)
  else sendTo s x m { x.pc with off := t.toNat }

/-- JumpCA(lane, ca) (R80, R86). -/
def jumpCA (s : State) (x : Ctx) (l : Nat) (ca : W32) : State :=
  if bit ca.toNat 1 then faultLanes s x [{ lane := l, cause := 0x02 }] else sendTo s x (laneBit l) (pcOfAddr ca)

/-- NOP does nothing; with a marker it waits (R41). -/
def execNop (s : State) : Out := issue s {} (fun _ s => s)

/-- BRA (R86). -/
def execBra (w : Op) (s : State) : Out := issue s { w } (fun x s => jump s x x.on w)

/-- BRA.far (R86). -/
def execBraFar (w : Op) (s : State) : Out :=
  issue s { w } (fun x s => (lanesOf x.on).foldl (fun s l => jumpCA s x l (w.imm.setWidth 32)) s)

/-- BRC: any, all or none of the executing lanes (R86). -/
def execBrc (w : Op) (s : State) : Out :=
  issue s { w } (fun x s =>
    let q := match w.d with | .sp n => n.toNat - 0x80 | _ => 0
    let t := readQMask s x q x.on
    let take := if w.mn = 0 then t != 0 else if w.mn = 1 then t == x.on else t == 0
    if take then jump s x x.on w else s)

/-- BRU: a uniform register compared with zero (R85, R86). -/
def execBru (w : Op) (s : State) : Out :=
  issue s { w } (fun x s => if zeroCond w.mn (rd s x 0 w.d 0).toInt then jump s x x.on w else s)

/-- BRX: a byte offset within the overlay (R85, R86). -/
def execBrx (w : Op) (s : State) : Out :=
  issue s { w } (fun x s => (lanesOf x.on).foldl (fun s l =>
    sendTo s x (laneBit l) { x.pc with off := 4 * bf (rd s x 0 w.a l).toNat 2 14 }) s)

/-- The link of CALL: the code address of the next word (R86). -/
def linkOf (x : Ctx) : W32 := { x.pc with off := x.pc.off + x.h.form.bytes : Pc }.addr

/-- CALL: the link is a fixed-latency result; a word that ends the slot raises cause 0x02 (R84, R86).
Log entries 29 (DESIGN CHOICE), 30 (DEDUCED). -/
def callWord (w : Op) (s : State) (go : Ctx → State → State) : Out :=
  issue s { w, dst := vdst w.d 1 } (fun x s =>
    if x.pc.off + x.h.form.bytes = 65536 then faultLanes s x (raises x.on 0x02)
    else go x (fixedResult s x 2 (wrOf x false w.d (fun _ => linkOf x))))

def execCall (w : Op) (s : State) : Out := callWord w s (fun x s => jump s x x.on w)

def execCallFar (w : Op) (s : State) : Out :=
  callWord w s (fun x s => (lanesOf x.on).foldl (fun s l => jumpCA s x l (w.imm.setWidth 32)) s)

/-- RET: a code address per lane (R86). -/
def execRet (w : Op) (s : State) : Out :=
  issue s { w } (fun x s =>
    let ca := (lanesOf x.on).map (fun l => (l, rd s x 0 w.a l))
    ca.foldl (fun s e => jumpCA s x e.1 e.2) s)

/-- EXIT ends each executing lane; a crew with no live or away lane retires (R87). -/
def execExit (s : State) : Out :=
  issue s {} (fun x s => retireCrew ((lanesOf x.on).foldl (exitLane x.c x.k) s) x.c x.k)

/-- ENROL (R88): every executing lane becomes a member, unless lanes have already arrived. -/
def execEnrol (w : Op) (s : State) : Out :=
  issue s { w } (fun x s =>
    let n := w.mf 0 3
    if tget 0 (s.crew x.c x.k).arrivals n != 0 then faultLanes s x (raises x.on 0x03)
    else s.modCrew x.c x.k (fun k => { k with rolls := tset k.rolls n (tget 0 k.rolls n ||| x.on) }))

/-- REJOIN (R88): members arrive and park; the roll releases when all have arrived (R72). -/
def execRejoin (w : Op) (s : State) : Out :=
  issue s { w } (fun x s =>
    let n := w.mf 0 3
    let m := tget 0 (s.crew x.c x.k).rolls n
    let s := s.modCrew x.c x.k (fun k =>
      let k := { k with arrivals := tset k.arrivals n (tget 0 k.arrivals n ||| (x.on &&& m)) }
      checkRoll s.clk n (forLanes (x.on &&& m) (fun l k => k.setPark l (.rejoin n)) k))
    faultLanes s x (raises (x.on &&& ~~~m) 0x03))

/-- LEAVE, LEAVE.all (R88). -/
def execLeave (w : Op) (s : State) : Out :=
  issue s { w } (fun x s =>
    let ns := if w.mb 3 then List.range 8 else [w.mf 0 3]
    s.modCrew x.c x.k (forLanes x.on (fun l k => ns.foldl (fun k n => leaveRoll s.clk l n k) k)))

/-- ROLLRD: the arrival mask, the same in every lane (R88). -/
def execRollrd (w : Op) (s : State) : Out :=
  issue s { w, dst := vdst w.d 1 } (fun x s =>
    let a := tget 0 (s.crew x.c x.k).arrivals (w.mf 0 3)
    fixedResult s x 2 (wrOf x false w.d (fun _ => a)))

/-- Lanes that hold the arrived bit of a barrier, or whose arrival waits for their release (R75). -/
def hasArrived (k : Crew) (cl : Bool) (n l : Nat) : Bool :=
  arrived k cl n l || k.ords.any (fun o => match o.after with
    | .arrive c m lanes => c == cl && m == n && lanes.getLsbD l
    | _ => false)

/-- Arrive(lane, x) for the executing lanes: a lane that has arrived raises cause 0x03; the others arrive
when their release is complete (R75, R76, R89). -/
def arrive (s : State) (x : Ctx) (cl : Bool) (n : Nat) (park : Bool) : State :=
  let k := s.crew x.c x.k
  let bad := maskOf ((lanesOf x.on).filter (hasArrived k cl n))
  let bad := if k.guest.isSome then x.on else bad
  let good := x.on &&& ~~~bad
  let p := (barOf s x.c x.k cl n).phase
  let s := if park then s.modCrew x.c x.k (forLanes good (fun l k => k.setPark l (.barrier cl n p))) else s
  let s := faultLanes s x (raises bad 0x03)
  if good == 0 then s else order s x true false (if cl then 2 else 1) good (.arrive cl n good)

/-- BART (R89). -/
def execBart (w : Op) (s : State) : Out := issue s { w } (fun x s => arrive s x false (w.mf 0 4) true)

/-- BARC (R89). -/
def execBarc (w : Op) (s : State) : Out := issue s { w } (fun x s => arrive s x true (w.mf 0 2) true)

/-- BARA: the phase is the token, in every executing lane; the lane arrives and goes on (R89). -/
def execBara (w : Op) (s : State) : Out :=
  issue s { w, dst := vdst w.d 1 } (fun x s =>
    let cl := w.mb 4
    let n := w.mf 0 4
    let k := s.crew x.c x.k
    let ok := if k.guest.isSome then 0 else x.on
    let p := (barOf s x.c x.k cl n).phase
    let s := fixedResult s x 2 (wrOf { x with on := ok } false w.d (fun _ => p))
    arrive s x cl n false)

/-- BARW: park until the phase has passed the token (R89). -/
def execBarw (w : Op) (s : State) : Out :=
  issue s { w } (fun x s =>
    let cl := w.mb 4
    let n := w.mf 0 4
    if (s.crew x.c x.k).guest.isSome then faultLanes s x (raises x.on 0x03)
    else
      let p := (barOf s x.c x.k cl n).phase
      let s' := s.modCrew x.c x.k (forLanes x.on (fun l k =>
        let t := rd s x 0 w.a l
        if (p - t).toInt ≤ 0 then k.setPark l (.barw cl n t) else k))
      if cl then acquire s' x.c x.k 2 else s')

/-- PAUSE: the crew leaves for the pending set, and is paused (R65, R90). -/
def execPause (s : State) : Out :=
  issue s {} (fun x s => if x.on == 0 then s
    else s.modCrew x.c x.k (fun k => { k with leaving := true, paused := true }))

/-- YIELD: hold the crew for the clocks that follow (R91). -/
def execYield (w : Op) (s : State) : Out :=
  issue s { w } (fun x s => if x.on == 0 then s
    else s.modCrew x.c x.k (fun k => { k with yieldTo := max k.yieldTo (s.clk + w.mf 0 8)
                                              leaving := k.leaving || decide (64 ≤ w.mf 0 8) }))

/-- The hold of YIELD is over (R91). -/
def execYieldHoldEnd (c k : Nat) (s : State) : Out :=
  let w := s.crew c k
  if w.yieldTo ≠ 0 && w.yieldTo < s.clk then .next (s.modCrew c k (fun w => { w with yieldTo := 0 }))
  else .fault .notEnabled

/-- A collective word lacks a lane of %mask in a tile of `t` lanes that it acts on (R78); guarded-off
lanes of the path count as not live (R24). -/
def notConverged (x : Ctx) (t : Nat) : Bool :=
  let need := x.mask &&& ~~~(x.path &&& ~~~x.on)
  (List.range (32 / t)).any (fun i =>
    let tile := maskOf ((List.range t).map (fun j => i * t + j))
    (x.on &&& tile) != 0 && (need &&& tile &&& ~~~x.on) != 0)

/-- Run a collective word, or raise cause 0x03 in the lanes that do execute (R78). -/
def collective (s : State) (x : Ctx) (t : Nat) (f : State → State) : State :=
  if notConverged x t then faultLanes s x (raises x.on 0x03) else f s

/-- SETTILE (R93). -/
def execSettile (w : Op) (s : State) : Out :=
  issue s { w, coll := true } (fun x s => collective s x 32 (fun s =>
    s.modCrew x.c x.k (fun k => { k with tile := 2 ^ w.mn })))

/-- LOOPU: decrement once per issue, and branch while not zero (R86). Log entry 30 (DEDUCED). -/
def execLoopu (w : Op) (s : State) : Out :=
  issue s { w } (fun x s =>
    if x.on == 0 then s
    else
      let k := rd s x 0 w.d 0 - 1
      let s := fixedResult s x 2 (wrOf x false w.d (fun _ => k))
      if k != 0 then jump s x x.on w else s)

/-- TRAPC: lanes whose comparison holds trap with cause 0x60 and the code (R94). -/
def execTrapc (w : Op) (s : State) : Out :=
  issue s { w } (fun x s =>
    let v (o : Opd) (l : Nat) : Int := intOf (w.mb 0) 32 (rd s x 0 o l).toNat
    let t := (lanesOf x.on).filter (fun l => trapCond (w.mf 1 2) (v w.a l) (v w.b l))
    faultLanes s x (raises (maskOf t) 0x60 (w.mf 3 8)))

/-! ## Events of the seats -/

/-- A core's lanes parked on a cluster barrier whose phase has completed resume, with an acquire at
cluster scope (R75, R76). -/
def execClusterBarrierResume (c i n : Nat) (s : State) : Out :=
  match s.clusters[i]? with
  | none => .fault .notEnabled
  | some q =>
    let p := (tget {} q.bars n).phase
    let o := s.core c
    let waits (k : Crew) : Bool := k.st == .resident && inCluster q.grid q.index k && k.park.any (fun e => barOver true n p e.2)
    if o.slots.any (fun e => waits e.2) then
      .next (invalL1 (s.modCore c (fun o => o.mapCrews waits (fun k => k.unpark (s.clk + 1) (barOver true n p)))) c)
    else .fault .notEnabled

/-- A crew's age (R63): clocks since it last issued, at most 511. -/
def Crew.age (k : Crew) (clk : Nat) : Nat := min 511 (clk - k.since)

/-- A lane that has gone 64 issues of its crew without issuing decides path 2 (R67). -/
def execLaneStarvationPath (c k : Nat) (s : State) : Out :=
  let w := s.crew c k
  match (lanesOf (w.ready s.clk)).find? (fun l => 64 ≤ tget 0 w.starve l) with
  | some l => if w.starved.isNone then .next (s.modCrew c k (fun w => { w with starved := some l }))
              else .fault .notEnabled
  | none => .fault .notEnabled

/-- A crew parked for a row tries again when one is free (R99). -/
def execRowWaitRetry (c k : Nat) (s : State) : Out :=
  let w := s.crew c k
  if w.st == .resident && w.park.any (fun e => e.2 == .row) && rowsFree (s.core c) w 1 then
    .next (s.modCrew c k (fun w => w.unpark s.clk (· == .row)))
  else .fault .notEnabled

end Sys2Proof.Machine
end

