-- ==== Sys2Proof/Machine/Aes.lean ====
section
/-! DEFINITION. Machine/Aes.lean: AES-256 and its XTS mode over one 32-byte granule (R174), with the
granule's device-physical address as the tweak. -/

namespace Sys2Proof.Machine

/-- Multiplication in GF(2^8) with the polynomial x^8 + x^4 + x^3 + x + 1. -/
def gmul (a b : Nat) : Nat :=
  let rec go : Nat → Nat → Nat → Nat → Nat
    | 0, _, _, r => r
    | k + 1, a, b, r =>
      go k (if 128 ≤ a then (2 * a) % 256 ^^^ 0x1B else 2 * a) (b / 2) (if b % 2 = 1 then r ^^^ a else r)
  go 8 a b 0

/-- The inverse in GF(2^8): the 254th power. -/
def ginv (a : Nat) : Nat :=
  let a2 := gmul a a
  let a4 := gmul a2 a2
  let a8 := gmul a4 a4
  let a16 := gmul a8 a8
  let a32 := gmul a16 a16
  let a64 := gmul a32 a32
  let a128 := gmul a64 a64
  gmul a128 (gmul a64 (gmul a32 (gmul a16 (gmul a8 (gmul a4 a2)))))

def rotl8 (x k : Nat) : Nat := (x * 2 ^ k + x / 2 ^ (8 - k)) % 256

def subByte (a : Nat) : Nat :=
  let b := ginv a
  b ^^^ rotl8 b 1 ^^^ rotl8 b 2 ^^^ rotl8 b 3 ^^^ rotl8 b 4 ^^^ 0x63

def invSubByte (a : Nat) : Nat := ginv (rotl8 a 1 ^^^ rotl8 a 3 ^^^ rotl8 a 6 ^^^ 0x05)

def xorL (a b : List Nat) : List Nat := List.zipWith (· ^^^ ·) a b

/-- The next four key words of the schedule, from the eight before them. -/
def nextWord (i : Nat) (rcon : Nat) (old prev : List Nat) : List Nat :=
  let t := if i % 8 = 0 then
      xorL ((prev.drop 1 ++ prev.take 1).map subByte) [rcon, 0, 0, 0]
    else if i % 8 = 4 then prev.map subByte else prev
  xorL old t

/-- The key schedule of AES-256: 15 round keys of 16 bytes. -/
def aesKeys (key : List Nat) : List (List Nat) :=
  let words := (List.range 8).map (fun i => (key.drop (4 * i)).take 4)
  let rec go : Nat → Nat → Nat → List (List Nat) → List (List Nat)
    | 0, _, _, w => w
    | k + 1, i, rcon, w =>
      go k (i + 1) (if i % 8 = 0 then gmul rcon 2 else rcon) (w ++ [nextWord i rcon (w.getD (i - 8) []) (w.getD (i - 1) [])])
  let w := go 52 8 1 words
  (List.range 15).map (fun r => (List.range 4).flatMap (fun c => w.getD (4 * r + c) []))

/-- ShiftRows, or its inverse. -/
def shiftRows (inv : Bool) (b : List Nat) : List Nat :=
  (List.range 16).map (fun i => b.getD ((if inv then i + 16 - 4 * (i % 4) else i + 4 * (i % 4)) % 16) 0)

/-- MixColumns with a circulant row. -/
def mixColumns (m : List Nat) (b : List Nat) : List Nat :=
  (List.range 16).map (fun i =>
    (List.range 4).foldl (fun a j => a ^^^ gmul (m.getD ((j + 4 - i % 4) % 4) 0) (b.getD (i / 4 * 4 + j) 0)) 0)

def aesEnc (keys : List (List Nat)) (b : List Nat) : List Nat :=
  let b := xorL b (keys.getD 0 [])
  let b := (List.range 13).foldl (fun b r =>
    xorL (mixColumns [2, 3, 1, 1] (shiftRows false (b.map subByte))) (keys.getD (r + 1) [])) b
  xorL (shiftRows false (b.map subByte)) (keys.getD 14 [])

def aesDec (keys : List (List Nat)) (b : List Nat) : List Nat :=
  let b := (shiftRows true (xorL b (keys.getD 14 []))).map invSubByte
  let b := (List.range 13).foldl (fun b r =>
    (shiftRows true (mixColumns [14, 11, 13, 9] (xorL b (keys.getD (13 - r) [])))).map invSubByte) b
  xorL b (keys.getD 0 [])

/-- The next block's tweak. -/
def xtsNext (t : Nat) : Nat := (2 * t) % 2 ^ 128 ^^^ (if 2 ^ 127 ≤ t then 0x87 else 0)

def natBytes (k n : Nat) : List Nat := (leBytes k n).map (·.toNat)
def bytesNat (l : List Nat) : Nat := leNat (l.map (BitVec.ofNat 8))

/-- AES-XTS-256 of one granule at a device-physical address, under a key pair whose low half is the data
key and whose high half is the tweak key. -/
def xts (dec : Bool) (pair : BitVec 512) (addr : Nat) (b : List Byte) : List Byte :=
  let k1 := aesKeys (natBytes 32 pair.toNat)
  let k2 := aesKeys (natBytes 32 (pair.toNat / 2 ^ 256))
  let t0 := bytesNat (aesEnc k2 (natBytes 16 addr))
  let one (t : Nat) (p : List Nat) : List Nat :=
    let m := natBytes 16 t
    xorL (if dec then aesDec k1 (xorL p m) else aesEnc k1 (xorL p m)) m
  let n := b.map (·.toNat)
  (one t0 (n.take 16) ++ one (xtsNext t0) (n.drop 16)).map (BitVec.ofNat 8)

end Sys2Proof.Machine
end

