-- ==== Sys2Proof/Machine/Dram.lean ====
section
/-! DEFINITION. Machine/Dram.lean: DRAM with its encryption and poison, the memory-side caches (R172 to
R174), and the format windows (R175 to R177). Addresses are device-physical (R163). -/

namespace Sys2Proof.Machine

/-! ## Addresses (R163, R292) -/

def devAddr (stack frame off : Nat) : Nat := stack * 2 ^ 36 + frame * 2 ^ 16 + off
def stackOf (a : Nat) : Nat := bf a 36 3
def frameOf (a : Nat) : Nat := bf a 16 20

/-- Pseudo-channel, bank, row and column of a DRAM address (R292). -/
structure DramLoc where
  pc : Nat
  bank : Nat
  row : Nat
  col : Nat
deriving DecidableEq, Repr

def dramLoc (a : Nat) : DramLoc :=
  let o := a % 2 ^ 36
  let c := o / 1024
  let q := c / 384
  { pc := c % 384, bank := q % 16, row := q / 16, col := o % 1024 }

/-- The first address of a row of a bank of a pseudo-channel of a stack. -/
def rowAddr (stack pc bank row : Nat) : Nat := stack * 2 ^ 36 + ((row * 16 + bank) * 384 + pc) * 1024

/-- The chip-wide index of the apply engine of an address (R292, R10). -/
def engineOf (a : Nat) : Nat := stackOf a * 24 + (dramLoc a).pc / 16

/-- Staging frames, which no translation may name (R292). -/
def stagingFrame (f : Nat) : Bool := Config.firstStagingFrame ≤ f

/-- An origin value (R487). -/
def originVal (chip core : Nat) (team : Bool) (slot : Nat) : W32 :=
  w32 (chip % 2 ^ 15 * 2 ^ 16 + core % 256 * 256 + b2n team * 128 + slot % 64)

/-! ## Granules -/

/-- The key pair of a context; context 0 has none (R260). -/
def keyOf (s : State) (ctx : Nat) : Option (BitVec 512) := if ctx = 0 then none else tget? s.keys ctx

/-- The 32 bytes of a granule as a context reads them: what was written under the same key comes back,
anything else is the AES-XTS decryption of the stored bytes (R260). -/
def granRead (s : State) (ctx g : Nat) : List Byte :=
  let p := s.dram.read 32 (32 * g)
  let tag := tget? s.gkey g
  let key := keyOf s ctx
  if tag == key then p
  else
    let c := match tag with | none => p | some k => xts false k (32 * g) p
    match key with | none => c | some k => xts true k (32 * g) c

/-- Write a granule under a context's key. -/
def granWrite (s : State) (ctx g : Nat) (b : List Byte) : State :=
  { s with dram := s.dram.write (32 * g) b
           gkey := match keyOf s ctx with | none => tdel s.gkey g | some k => tset s.gkey g k }

/-- Mark or clear a granule's poison. -/
def State.setPoison (s : State) (g : Nat) (p : Bool) : State := { s with poison := tput false s.poison g p }

/-- Post that a write met poison (R173). -/
def poisonEvent (s : State) (g : Nat) (org : W32) : State :=
  s.post (dieOfStack (stackOf (32 * g))) { typ := 0x06, value := org, addr := w64 (32 * g) }

/-! ## Memory-side cache -/

/-- Write a dirty sector to DRAM, with its poison marks. -/
def sectorBack (s : State) (sec : Nat) (e : MscSector) : State :=
  let s := granWrite (granWrite s e.ctx (2 * sec) (e.data.take 32)) e.ctx (2 * sec + 1) (e.data.drop 32)
  (s.setPoison (2 * sec) (e.poison.getLsbD 0)).setPoison (2 * sec + 1) (e.poison.getLsbD 1)

/-- Write a sector back if it is dirty, and keep it. -/
def cleanSector (s : State) (sec : Nat) : State :=
  match tget? s.msc sec with
  | some e => if e.dirty then { sectorBack s sec e with msc := tset s.msc sec { e with dirty := false } } else s
  | none => s

/-- Drop a sector without writing it back. -/
def dropSector (s : State) (sec : Nat) : State := { s with msc := tdel s.msc sec }

/-- Evict a sector: write it back if dirty, then drop it. -/
def evictSector (s : State) (sec : Nat) : State := dropSector (cleanSector s sec) sec

/-- The set of a sector's 256-byte line: each controller's 32 MiB are 8,192 sets of 16 ways (R8, R172); the spec does not
say which lines share a set. Log entry 39 (DESIGN CHOICE). -/
def mscSet (sec : Nat) : Nat × Nat := (stackOf (64 * sec), sec / 4 % 8192)

/-- The other lines that stand in a sector's set, and whether each is first to evict. -/
def mscOthers (s : State) (sec : Nat) : Tab Bool :=
  (s.msc.filter (fun e => mscSet e.1 == mscSet sec && e.1 / 4 != sec / 4)).foldl (fun t e => tset t (e.1 / 4) (e.2.first || tget false t (e.1 / 4))) []

/-- Evict a line: all its sectors. -/
def evictLine (s : State) (line : Nat) : State := [0, 1, 2, 3].foldl (fun s i => evictSector s (4 * line + i)) s

/-- Before a line enters a full set another one leaves: one marked first to evict if there is one, else a free choice
(R172). Log entry 39 (DESIGN CHOICE). -/
def mscRoom (s : State) (sec : Nat) : State :=
  let l := mscOthers s sec
  if l.length < 16 then s
  else
    let first := l.filter (·.2)
    let pool := if first.isEmpty then l else first
    evictLine { s with free := s.free + 1 } ((pool.map (·.1)).getD (Config.evict s.free % pool.length) 0)

/-- The sector as a context's accesses find it. A sector held under another key is written back and read
again from DRAM. Log entry 39 (DESIGN CHOICE). -/
def loadSector (s : State) (ctx sec : Nat) (nt : Bool) : State × MscSector :=
  match tget? s.msc sec with
  | some e =>
    if keyOf s e.ctx == keyOf s ctx then (s, e)
    else fill (evictSector s sec)
  | none => fill s
where
  fill (s : State) : State × MscSector :=
    let s := mscRoom s sec
    let e : MscSector := { data := granRead s ctx (2 * sec) ++ granRead s ctx (2 * sec + 1), dirty := false, first := nt, ctx
                           poison := BitVec.ofNat 2 (b2n (tget false s.poison (2 * sec)) + 2 * b2n (tget false s.poison (2 * sec + 1))) }
    ({ s with msc := tset s.msc sec e }, e)

/-- The sectors that `n` bytes from an address touch. -/
def sectorsOf (a n : Nat) : List Nat := if n = 0 then [] else (List.range ((a + n - 1) / 64 - a / 64 + 1)).map (a / 64 + ·)

/-- Read bytes through the memory-side cache: the bytes, and the poisoned granules among them. -/
def memRead (s : State) (ctx a n : Nat) (nt : Bool := false) : State × List Byte × List Nat :=
  let (s, l) := (sectorsOf a n).foldl (fun (acc : State × List (Nat × MscSector)) sec =>
    let (s, e) := loadSector acc.1 ctx sec nt
    (s, acc.2 ++ [(sec, e)])) (s, [])
  let data := l.flatMap (fun e => e.2.data)
  let bad := l.flatMap (fun e => ([0, 1].filter (fun i => e.2.poison.getLsbD i)).map (fun i => 2 * e.1 + i))
  (s, (data.drop (a % 64)).take n, bad.filter (fun g => a < 32 * g + 32 && 32 * g < a + n))

/-- Merge one granule's bytes into a sector: a whole granule clears its poison, a part of a poisoned one
is not written (R173). -/
def mergeGranule (sec i : Nat) (cells : List (Nat × Byte)) (acc : MscSector × List Nat) : MscSector × List Nat :=
  let g := 2 * sec + i
  let mine := cells.filter (fun c => c.1 / 32 == g)
  if mine.isEmpty then acc
  else
    let e := acc.1
    let whole := (List.range 32).all (fun j => mine.any (fun c => c.1 == 32 * g + j))
    if e.poison.getLsbD i && !whole then (e, acc.2 ++ [g])
    else
      ({ e with data := mine.foldl (fun d c => d.set (c.1 - 64 * sec) c.2) e.data
                poison := e.poison &&& ~~~(BitVec.ofNat 2 (2 ^ i)), dirty := true }, acc.2)

/-- Write bytes through the memory-side cache; later bytes of the list stand. The granules whose partial
write met poison are given back. -/
def memWrite (s : State) (ctx : Nat) (cells : List (Nat × Byte)) (nt : Bool := false) : State × List Nat :=
  ((cells.map (fun c => c.1 / 64)).eraseDups).foldl (fun (acc : State × List Nat) sec =>
    let (s, e) := loadSector acc.1 ctx sec nt
    let (e, bad) := mergeGranule sec 1 cells (mergeGranule sec 0 cells (e, acc.2))
    ({ s with msc := tset s.msc sec { e with ctx, first := e.first || nt } }, bad)) (s, [])

/-- A write with an origin: each partial write that meets poison is logged. -/
def memStore (s : State) (ctx : Nat) (cells : List (Nat × Byte)) (nt : Bool) (org : W32) : State :=
  let (s, bad) := memWrite s ctx cells nt
  bad.foldl (fun s g => poisonEvent s g org) s

/-- Plain 32-bit and 64-bit accesses of the tables in privileged memory, at context 0. Log entry 46 (DEDUCED). -/
def sysRead (s : State) (a n : Nat) : State × Nat := let (s, b, _) := memRead s 0 a n; (s, leNat b)
def sysWrite (s : State) (a n v : Nat) : State :=
  (memWrite s 0 ((leBytes n v).zipIdx.map (fun e => (a + e.2, e.1)))).1

/-- The same bytes as any agent would read them now, changing nothing. Log entry 46 (DEDUCED). -/
def sysPeek (s : State) (a n : Nat) : Nat := (sysRead s a n).2

/-- Every dirty sector of a test is written back and kept. Log entry 61 (DEDUCED). -/
def cleanAll (s : State) (p : Nat → MscSector → Bool) : State :=
  (s.msc.filter (fun e => e.2.dirty && p e.1 e.2)).foldl (fun s e => cleanSector s e.1) s

/-- KEYDROP on the cache (R174, R261): dirty sectors of the context are discarded and their granules
poisoned; clean ones are dropped; every L1 is invalidated. Log entry 101 (DEDUCED). -/
def dropContext (s : State) (ctx : Nat) : State :=
  let mine := s.msc.filter (fun e => e.2.ctx == ctx)
  let s := mine.foldl (fun s e =>
    let s := if e.2.dirty then (s.setPoison (2 * e.1) true).setPoison (2 * e.1 + 1) true else s
    dropSector s e.1) s
  { s with cores := s.cores.map (fun c => (c.1, { c.2 with l1 := [] }))
           reqs := s.reqs.map (fun r => { r with noFill := 0xF }) }

/-! ## Format windows (R175 to R177) -/

def Win.en (w : Win) : Bool := bit w.ctl.toNat 63
def Win.fmt (w : Win) : Nat := bf w.ctl.toNat 59 3
def Win.base (w : Win) : Nat := bf w.ctl.toNat 6 34 * 64
def Win.count (w : Win) : Nat := bf w.size.toNat 0 30
def Win.viewBase (w : Win) : Nat := bf w.view.toNat 16 24 * 65536
/-- Record size and element bits of a window's format. -/
def Win.recSize (w : Win) : Nat := if w.fmt ≤ 1 then 33 else if w.fmt ≤ 3 then 25 else 17
def Win.elemBits (w : Win) : Nat := if w.fmt ≤ 1 then 8 else if w.fmt ≤ 3 then 6 else 4

/-- The first address of the views (R163). -/
def viewSpace : Nat := 0xC0 * 2 ^ 32

/-- The controller of a view address. -/
def viewCtl (a : Nat) : Nat := (a - viewSpace) / 2 ^ 35

/-- The enabled window that covers a view address. -/
def windowOf (s : State) (a : Nat) : Option Win :=
  let m := viewCtl a
  ((List.range 16).map (fun n => tget ({} : Win) s.wins (m * 16 + n))).find?
    (fun w => w.en && w.viewBase ≤ a && a < w.viewBase + 33 * w.count)

/-- Where a view byte lies in its record: the address of the record, the first bit within it, and how
many bits (R128, R177). -/
def viewPlace (w : Win) (a : Nat) : Nat × Nat × Nat :=
  let o := a - w.viewBase
  if o < 32 * w.count then (w.base + o / 32 * w.recSize, 8 + w.elemBits * (o % 32), w.elemBits)
  else (w.base + (o - 32 * w.count) * w.recSize, 0, 8)

/-- Read one view byte through the records, with the poisoned granules met. -/
def viewByte (s : State) (ctx a : Nat) : State × Byte × List Nat :=
  match windowOf s a with
  | none => (s, 0, [])
  | some w =>
    let (r, lo, n) := viewPlace w a
    let (s, b, bad) := memRead s ctx (r + lo / 8) ((lo % 8 + n + 7) / 8)
    (s, BitVec.ofNat 8 (bf (leNat b) (lo % 8) n), bad)

/-- Write one view byte into its record. -/
def viewStore (s : State) (ctx a : Nat) (v : Byte) (org : W32) : State :=
  match windowOf s a with
  | none => s
  | some w =>
    let (r, lo, n) := viewPlace w a
    let k := (lo % 8 + n + 7) / 8
    let (s, b, _) := memRead s ctx (r + lo / 8) k
    memStore s ctx ((leBytes k (setBf (leNat b) (lo % 8) n v.toNat)).zipIdx.map (fun e => (r + lo / 8 + e.2, e.1))) false org

/-- The sectors of the records that a range of view bytes shows. -/
def viewSectors (s : State) (a n : Nat) : List Nat :=
  ((List.range n).flatMap (fun i => match windowOf s (a + i) with
    | none => []
    | some w => let (r, lo, k) := viewPlace w (a + i); sectorsOf (r + lo / 8) ((lo % 8 + k + 7) / 8))).eraseDups

/-! ## Device space: DRAM or views -/

/-- Read device-physical bytes: DRAM, or a view, whose poison shows for the 32 view bytes of an access's granule (the
spec does not say how poison in a record shows in its view). Log entry 141 (DESIGN CHOICE). -/
def devRead (s : State) (ctx a n : Nat) (nt : Bool := false) : State × List Byte × List Nat :=
  if a < viewSpace then memRead s ctx a n nt
  else (List.range n).foldl (fun acc i =>
    let (s, b, bad) := viewByte acc.1 ctx (a + i)
    (s, acc.2.1 ++ [b], acc.2.2 ++ (if bad.isEmpty then [] else [(a + i) / 32]))) (s, [], [])

/-- Write device-physical bytes. -/
def devWrite (s : State) (ctx : Nat) (cells : List (Nat × Byte)) (nt : Bool) (org : W32) : State :=
  match cells with
  | [] => s
  | c :: _ =>
    if c.1 < viewSpace then memStore s ctx cells nt org
    else cells.foldl (fun s e => viewStore s ctx e.1 e.2 org) s

end Sys2Proof.Machine
end

