-- ==== Sys2Proof/Machine/Paths.lean ====
section
/-! DEFINITION. Machine/Paths.lean: ports, links and the four paths of a connection (R428 to R434). Of the
links on a path, the model sees those of its own chip. -/

namespace Sys2Proof.Machine

def groupOf (chip : Nat) : Nat := chip / 32
def memberOf (chip : Nat) : Nat := chip % 32
/-- A value that names a chip (R12). -/
def namesChip (c : Nat) : Bool := c < Config.chipNames
/-- FABCFG's fields (R440): groups, resends before loss, retransmission timeout in µs. -/
def State.nGroups (s : State) : Nat := bf s.fabcfg.toNat 12 10 + 1
def State.retry (s : State) : Nat := max 1 (bf s.fabcfg.toNat 8 4)
def State.rto (s : State) : Nat := max 1 (bf s.fabcfg.toNat 0 8)

/-- Ports 0 to 30 are local, 31 to 46 global (R259). -/
def State.port (s : State) (p : Nat) : Port := tget {} s.ports p

/-- A port whose link carries packets. -/
def State.portLive (s : State) (p : Nat) : Bool := (s.port p).up && !(s.port p).frozen && !(s.port p).down

/-- The far end of a port: chip and port (R428, R429). -/
def farEnd (s : State) (p : Nat) : Option (Nat × Nat) :=
  let g := groupOf s.chipid
  let m := memberOf s.chipid
  if p < 31 then some (g * 32 + (m + p + 1) % 32, 30 - p)
  else
    let l := 16 * m + (p - 31)
    let n := s.nGroups
    if p < 47 && l + 1 < n then
      let f := n - 2 - l
      some ((g + l + 1) % n * 32 + f / 16, 31 + f % 16)
    else none

/-- The local port toward a member of the same group. -/
def localPort (a b : Nat) : Nat := (b + 31 - a) % 32

/-- The first port of the minimal route to a group (R434). -/
def portToGroup (s : State) (g : Nat) : Option Nat :=
  let n := s.nGroups
  let l := (g + n - groupOf s.chipid % n + n - 1) % n
  if n ≤ g || g == groupOf s.chipid then none
  else if l / 16 == memberOf s.chipid then some (31 + l % 16) else some (localPort (memberOf s.chipid) (l / 16))

/-- The first of at most 31 intermediates whose first port is live. -/
def firstLive (s : State) (port : Nat → Option Nat) : Nat → Nat → Option Nat
  | 0, _ => none
  | k + 1, x =>
    match port x with
    | some p => if s.portLive p then some p else firstLive s port k (x + 1)
    | none => firstLive s port k (x + 1)

/-- The first port of path `i` to a chip, if the path is live. Log entry 120 (DEDUCED). -/
def pathPort (s : State) (dst i : Nat) : Option Nat :=
  let a := memberOf s.chipid
  let b := memberOf dst
  let live (p : Option Nat) : Option Nat := p.filter s.portLive
  if groupOf dst == groupOf s.chipid then
    if i = 0 then live (some (localPort a b))
    else firstLive s (fun x => let x := x % 32; if x == a || x == b then none else some (localPort a x)) 32 (b + 8 * i)
  else
    let n := s.nGroups
    if i = 0 then live (portToGroup s (groupOf dst))
    else firstLive s (fun x => portToGroup s (x % n)) 32 (groupOf dst + 171 * i)

/-- The loopback connection needs no link; any other peer is reachable when one of its paths is live. -/
def reachable (s : State) (dst : Nat) : Bool :=
  namesChip dst && (dst == s.chipid || [0, 1, 2, 3].any (fun i => (pathPort s dst i).isSome))

end Sys2Proof.Machine
end

