-- ==== Sys2Proof/Machine/Link.lean ====
section
/-! DEFINITION. Machine/Link.lean: the send half of a reliable connection (R434 to R438): choosing a path,
taking a SEQ, keeping copies, and packets that take no SEQ. -/

namespace Sys2Proof.Machine

def State.conn (s : State) (chip : Nat) : Conn := tget {} s.conns chip
def State.modConn (s : State) (chip : Nat) (f : Conn → Conn) : State := { s with conns := tset s.conns chip (f (s.conn chip)) }

/-- Unacknowledged payload bytes of a connection on a path. -/
def pathLoad (q : Conn) (i : Nat) : Nat :=
  ((q.kept.filter (fun e => e.sent && e.pkt.path == i)).map (fun e => e.pkt.len)).sum

/-- The paths that are live toward a chip; the loopback has path 0 alone. Log entry 129 (DESIGN CHOICE). -/
def livePaths (s : State) (dst : Nat) : List Nat :=
  if dst = s.chipid then [0] else [0, 1, 2, 3].filter (fun i => (pathPort s dst i).isSome)

/-- The live path with the fewest unacknowledged bytes, ties to the lower number (R434): path 0 for the flag of R458. Log entry 120 (DEDUCED). -/
def choosePath (s : State) (dst : Nat) : Option Nat :=
  let q := s.conn dst
  (livePaths s dst).foldl (fun (b : Option Nat) i => match b with
    | none => some i
    | some j => if pathLoad q i < pathLoad q j then some i else b) none

/-- The next live path in cyclic order (R438). -/
def nextPath (s : State) (dst i : Nat) : Option Nat :=
  [i + 1, i + 2, i + 3, i + 4].findSome? (fun j => if (livePaths s dst).contains (j % 4) then some (j % 4) else none)

/-- A packet leaves: on the port of its path, or on the loopback. -/
def putOut (s : State) (p : Packet) : State :=
  if p.dst == s.chipid then { s with loop := s.loop ++ [p] }
  else match pathPort s p.dst p.path with
    | some port => { s with wire := s.wire ++ [(port, p)] }
    | none => s

/-- Send a packet that takes no SEQ (responses, acknowledgements, refusals, answers, resets). -/
def emit (s : State) (p : Packet) : State :=
  match choosePath s p.dst with
  | some i => putOut s { p with src := s.chipid, path := i }
  | none => s

/-- A connection is used: the 1,024 used last stand in the interface's SRAM (R435). -/
def useConn (s : State) (chip : Nat) : State :=
  { s.modConn chip (fun q => { q with lastUse := s.nextId + 1 }) with nextId := s.nextId + 1 }

def inSram (s : State) (chip : Nat) : Bool :=
  let u := (s.conn chip).lastUse
  u != 0 && (s.conns.filter (fun q => u < q.2.lastUse)).length < Config.connSram

/-- A copy takes the next SEQ of its connection and waits to leave (R436): its SEQ, and the state. -/
def queueCopy (s : State) (k : Kept) : Nat × State :=
  let s := useConn s k.pkt.dst
  let n := (s.conn k.pkt.dst).next
  (n, s.modConn k.pkt.dst (fun q => { q with
    next := (q.next + 1) % 2 ^ 24, kept := q.kept ++ [{ k with pkt := { k.pkt with src := s.chipid, seq := n }, sent := false, tries := 0, at_ := s.ref }] }))

def queuePkt (s : State) (p : Packet) (reserved : Bool := false) : Nat × State := queueCopy s { pkt := p, reserved }

/-- Traffic that no word sends is kept on a lost connection and takes its SEQ after the reset (R438). -/
def keepCopy (s : State) (k : Kept) : State :=
  if (s.conn k.pkt.dst).lost then s.modConn k.pkt.dst (fun q => { q with waiting := q.waiting ++ [k] }) else (queueCopy s k).2

def queueKept (s : State) (p : Packet) : State := keepCopy s { pkt := { p with src := s.chipid } }

/-- Take a kept copy away. -/
def dropKept (s : State) (chip seq : Nat) : State :=
  s.modConn chip (fun q => { q with kept := q.kept.filter (fun e => !(e.pkt.seq == seq)) })

def findKept (s : State) (chip seq : Nat) : Option Kept := (s.conn chip).kept.find? (fun e => e.pkt.seq == seq)

/-- A SEQ whose packet will not be sent again passes with a write of no bytes. -/
def fillSeq (s : State) (chip seq : Nat) : State :=
  let one (e : Kept) : Kept :=
    let p : Packet := { typ := 0x01, src := s.chipid, dst := chip, seq, ctx := e.pkt.ctx, reqKind := e.pkt.reqKind, reqIdx := e.pkt.reqIdx }
    if e.pkt.seq == seq then { pkt := p, at_ := s.ref } else e
  s.modConn chip (fun q => { q with kept := q.kept.map one })

/-- The packet for a SEQ that was reserved. -/
def putReserved (s : State) (chip seq : Nat) (p : Packet) : State :=
  let one (e : Kept) : Kept := if e.pkt.seq == seq then { pkt := { p with src := s.chipid, seq }, at_ := s.ref } else e
  s.modConn chip (fun q => { q with kept := q.kept.map one })

/-- Distance of a SEQ above another, mod 2^24. -/
def seqDist (a b : Nat) : Nat := (a + 2 ^ 24 - b % 2 ^ 24) % 2 ^ 24

/-- The oldest SEQ that is not yet acknowledged. -/
def Conn.oldest (q : Conn) : Nat := match q.kept with | [] => q.next | e :: _ => e.pkt.seq

/-- PACKET_SEND: the first packet of a connection that has not left leaves on a live path, unless its SEQ
is reserved for a piece to come or lies 256 or more above the oldest unacknowledged (R434, R436). -/
def sendNext (s : State) (chip : Nat) : Option State :=
  let q := s.conn chip
  match q.kept.find? (fun e => !e.sent) with
  | none => none
  | some e =>
    if e.reserved || e.refused != 0 || 256 ≤ seqDist e.pkt.seq q.oldest || q.lost then none
    else
      let pinned := if e.pkt.pin && (livePaths s chip).contains e.pkt.path then some e.pkt.path else choosePath s chip
      match pinned with
      | none => none
      | some i =>
        let p := { e.pkt with path := i }
        let s := s.modConn chip (fun q => { q with kept := q.kept.map (fun f =>
          if f.pkt.seq == p.seq then { f with pkt := p, sent := true, at_ := s.ref } else f) })
        some (putOut s p)

end Sys2Proof.Machine
end

