-- ==== Sys2Proof/Machine/Owners.lean ====
section
/-! DEFINITION. Machine/Owners.lean: the two stages of translation: the inverted tables and their walker
(R178 to R180), the owner cache (R181), homes and the home directory (R382 to R384), and what a frame
holds (R385 to R390). -/

namespace Sys2Proof.Machine

/-! ## The virtual stage (R179, R180) -/

/-- The hash of a page key. -/
def anchorHash (ctx big key : Nat) : Nat :=
  ((bf key 0 23) ^^^ (bf key 23 18) ^^^ (ctx * 0x0D31) ^^^ (big * 2 ^ 22)) % 2 ^ 23

def nilLink : Nat := 0xFFFFFFFF

/-- The anchor link of a hash. -/
def anchorOf (s : State) (h : Nat) : Nat := sysPeek s ((s.stack (h / 2 ^ 20)).anchorbase.toNat + 4 * (h % 2 ^ 20)) 4

/-- The device address of the entry that a link names. -/
def entryAddr (s : State) (link : Nat) : Nat := (s.stack (bf link 21 3)).itbase.toNat + 32 * bf link 0 21

/-- The fields of an inverted-table entry. -/
def entNext (e : Nat) : Nat := bf e 224 32
def entGpn (e : Nat) : Nat := bf e 128 39
def entKey (e : Nat) : Nat := bf e 64 41
def entCtx (e : Nat) : Nat := bf e 8 12

def entTrans (e gpn : Nat) : Trans :=
  { gpn, key := w64 (entKey e), fw := bit e 6, nc := bit e 5, dfr := bit e 4, w := bit e 3, rd := bit e 2, big := bit e 1 }

/-- What a chain gives: the link of the entry found, none, or none after 256 links. -/
inductive Chain
  | found (link : Nat)
  | none
  | long

/-- Follow a chain for a page. -/
def chase (s : State) (ctx big key : Nat) : Nat → Nat → Chain
  | 0, link => if link = nilLink then .none else .long
  | k + 1, link =>
    if link = nilLink then .none
    else
      let e := sysPeek s (entryAddr s link) 32
      if bit e 0 && entCtx e == ctx && b2n (bit e 1) == big && entKey e == key then .found link
      else chase s ctx big key k (entNext e)

/-- The page key of an address. -/
def pageKey (big va : Nat) : Nat := if big = 0 then bf va 16 41 else bf va 21 36 * 32 + 31

/-- What the walker finds for an address: the link and translation, and whether a chain was too long.
Log entry 40 (DEDUCED). -/
def walk (s : State) (ctx va : Nat) : Option (Nat × Trans) × Bool :=
  let one (big : Nat) : Chain := chase s ctx big (pageKey big va) 256 (anchorOf s (anchorHash ctx big (pageKey big va)))
  let hit (link big : Nat) : Option (Nat × Trans) :=
    let e := sysPeek s (entryAddr s link) 32
    some (link, entTrans e (entGpn e + (if big = 1 then bf va 16 5 else 0)))
  match one 0 with
  | .found l => (hit l 0, false)
  | .long => match one 1 with
    | .found l => (hit l 1, true)
    | _ => (none, true)
  | .none => match one 1 with
    | .found l => (hit l 1, false)
    | .none => (none, false)
    | .long => (none, true)

/-- A walk with its report of an overlong chain (R180, R249). -/
def walkReport (s : State) (die ctx va : Nat) : State × Option Trans :=
  let (r, long) := walk s ctx va
  (if long then s.post die { typ := 0x0C, value := w32 ctx, addr := w64 va } else s, r.map (·.2))

/-- TLB lookup. A 2 MiB entry gives the page of the address. Log entry 38 (PRESUMED). -/
def tlbLookup (o : Core) (ctx va : Nat) : Option Trans :=
  match o.tlb.find? (fun e => e.ctx == ctx && e.vpn == va / 2 ^ 16) with
  | some e => some e.tr
  | none => (o.tlbBig.find? (fun e => e.ctx == ctx && e.vpn == va / 2 ^ 21)).map
      (fun e => { e.tr with gpn := e.tr.gpn + bf va 16 5 })

/-- Fill a TLB after a walk; in a full set a free choice is replaced (R178). Log entry 38 (PRESUMED). -/
def tlbFill (o : Core) (free ctx va : Nat) (t : Trans) : Core :=
  if t.big then
    let keep := o.tlbBig.filter (fun e => !(e.ctx == ctx && e.vpn == va / 2 ^ 21))
    let keep := if 32 ≤ keep.length then keep.eraseIdx (Config.tlbVictim free % 32) else keep
    { o with tlbBig := { ctx, vpn := va / 2 ^ 21, tr := { t with gpn := t.gpn - bf va 16 5 } } :: keep }
  else
    let v := va / 2 ^ 16
    let keep := o.tlb.filter (fun e => !(e.ctx == ctx && e.vpn == v))
    let mine := keep.filter (fun e => e.vpn % 32 == v % 32)
    let keep := if 8 ≤ mine.length then
        let out := mine[Config.tlbVictim free % 8]?
        keep.filter (fun e => !(some e == out))
      else keep
    { o with tlb := { ctx, vpn := v, tr := t } :: keep }

/-! ## Owners and homes (R382, R383) -/

def ownerBits : Owner → Nat
  | .dram c m f => c * 2 ^ 23 + m * 2 ^ 20 + f
  | .host _ => 0
def ownerOfBits (n : Nat) : Owner := .dram (bf n 23 15) (bf n 20 3) (bf n 0 20)
def ownerHere (s : State) : Owner → Bool
  | .dram c _ _ => c == s.chipid
  | .host _ => false
def ownerChip : Owner → Option Nat
  | .dram c _ _ => some c
  | .host _ => none

/-- A frame key: stack × 2^20 + frame. -/
def frameKey (m f : Nat) : Nat := m * 2 ^ 20 + f

/-- The home chip of a page (R382). -/
def homeOf (s : State) (g : Nat) : Nat :=
  let h := bf g 0 8 ^^^ bf g 8 8 ^^^ bf g 16 8 ^^^ bf g 24 8 ^^^ bf g 32 7
  sysPeek s (s.hometab.toNat + 2 * h) 2

/-- The device address of a home entry. -/
def homeAddr (s : State) (i : Nat) : Nat := s.homebase.toNat + 4 * 2 ^ 20 + 32 * i

/-- Follow a home chain. -/
def homeChase (s : State) (g : Nat) : Nat → Nat → Option Nat
  | 0, _ => none
  | k + 1, i =>
    if i = nilLink then none
    else
      let e := sysPeek s (homeAddr s (i % 2 ^ 21)) 32
      if bf e 185 39 == g && bit e 4 then some (i % 2 ^ 21) else homeChase s g k (bf e 224 32)

/-- The home entry of a page. -/
def homeFind (s : State) (g : Nat) : Option Nat :=
  homeChase s g 256 (sysPeek s (s.homebase.toNat + 4 * (bf g 0 20 ^^^ bf g 20 19)) 4)

def homeRead (s : State) (i : Nat) : Nat := sysPeek s (homeAddr s i) 32
def homeWrite (s : State) (i v : Nat) : State := sysWrite s (homeAddr s i) 32 v
def homeOwner (e : Nat) : Owner := ownerOfBits (bf e 147 38)
def homeStubA (e : Nat) : Nat := bf e 109 38
def homeStubB (e : Nat) : Nat := bf e 71 38
def homeGen (e : Nat) : Nat := bf e 32 32
def homeFlight (e : Nat) : Bool := bit e 3
def homeNstub (e : Nat) : Nat := bf e 0 2

/-! ## The owner cache (R181) -/

def ocFind (s : State) (g : Nat) : Option Owner := (s.ownerCache.find? (fun e => e.1 == g)).map (·.2)

/-- A use of an entry makes it the most recent. -/
def ocTouch (s : State) (g : Nat) : State :=
  match ocFind s g with
  | some o => { s with ownerCache := (g, o) :: s.ownerCache.filter (fun e => !(e.1 == g)) }
  | none => s

/-- Write an entry; a full set loses its least recently used. -/
def ocPut (s : State) (g : Nat) (o : Owner) : State :=
  let rest := s.ownerCache.filter (fun e => !(e.1 == g))
  let mine := rest.filter (fun e => e.1 % 512 == g % 512)
  let rest := if 8 ≤ mine.length then rest.filter (fun e => !(some e.1 == (mine.getLast?).map (·.1))) else rest
  { s with ownerCache := (g, o) :: rest }

def ocDrop (s : State) (g : Nat) : State := { s with ownerCache := s.ownerCache.filter (fun e => !(e.1 == g)) }

/-- What the owner stage knows of a page at once: an owner, a cause, or that the home must be asked. -/
inductive OwnerNow
  | known (o : Owner)
  | ask
  | bad (cause : Nat)

/-- The owner stage (R181, R266, R382). -/
def ownerNow (s : State) (g : Nat) : OwnerNow :=
  match tget? s.hostPages g with
  | some f => .known (.host f)
  | none => match ocFind s g with
    | some o => .known o
    | none =>
      let h := homeOf s g
      if !(reachable s h) then .bad 0x30 else if (s.conn h).lost then .bad 0x31 else .ask

/-- A fresh query to a page's home (R384): its number; another chip is asked with a packet. -/
def newQuery (s : State) (g : Nat) : Nat × State :=
  match s.queries.find? (fun q => q.gpn == g && q.asker == s.chipid && !q.answered) with
  | some q => (q.id, s)
  | none =>
    let (id, s) := s.fresh
    let s := { s with queries := s.queries ++ [{ id, gpn := g, asker := s.chipid, answered := false, owner := none }] }
    let h := homeOf s g
    if h == s.chipid then (id, s)
    else (id, queueKept s { typ := 0x0A, src := s.chipid, dst := h, gpn := g, reqKind := 5, tag := id % 2 ^ 21, body := .query g })

/-- Can the chip of an owner be reached? -/
def ownerReachable (s : State) : Owner → Bool
  | .dram c _ _ => reachable s c
  | .host _ => true

/-! ## What a frame of this chip holds (R385) -/

/-- Serve, hold (a page that is arriving, or being copied away), forward, or refuse. -/
inductive FrameSt
  | serve
  | hold
  | stub (succ : Owner)
  | gone
deriving DecidableEq, Repr

/-- The owner that a frame of this chip is. -/
def ownerAt (s : State) (k : Nat) : Owner := .dram s.chipid (k / 2 ^ 20) (k % 2 ^ 20)

/-- The inverted-table entry of a frame of this chip (R179). -/
def frameEntry (s : State) (m f : Nat) : Nat :=
  let at_ (j : Nat) : Nat := sysPeek s ((s.stack m).itbase.toNat + 32 * j) 32
  let e := at_ f
  let b := at_ (f / 32 * 32)
  if !(bit e 0) && bit b 0 && bit b 1 then b else e

/-- The page that the entry gives a frame. -/
def frameGpn (s : State) (m f : Nat) : Nat :=
  let e := frameEntry s m f
  entGpn e + (if bit e 1 then f % 32 else 0)

/-- A frame holds a page (R385): the page that a move brought here, or the one that the frame's inverted-table entry
describes (R179), unless it has left. Log entry 118 (DEDUCED). -/
def holdsPage (s : State) (m f g : Nat) : Bool :=
  tget? (s.stack m).here f == some g || (frameGpn s m f == g && !((tget [] (s.stack m).frames f).contains g))

/-- What a frame does with a request for a page (R385): it refuses those that it does not hold.
Log entry 118 (DEDUCED). -/
def frameSt (s : State) (m f g : Nat) : FrameSt :=
  let k := frameKey m f
  match tget? s.stubs k with
  | some b => if b.gpn == g then (if b.state = 1 then .hold else .stub b.succ) else inner k
  | none => inner k
where
  inner (k : Nat) : FrameSt :=
    if tget? s.arriving k == some g then .hold
    else if holdsPage s m f g then .serve
    else .gone

/-- A stub counts one for each request or bin that it forwards (R389). Log entry 118 (DEDUCED). -/
def countFwd (s : State) (k : Nat) : State :=
  match tget? s.stubs k with
  | some b => { s with stubs := tset s.stubs k { b with count := min 0xFFFFFFFF (b.count + 1), moved := true, quietFrom := s.ref } }
  | none => s

/-- Count an access for the hot-page tracker (R392). -/
def trackAccess (s : State) (m f g : Nat) (chip : Nat) (otherDie : Bool) : State :=
  s.modStack m (fun k =>
    let bump (p : TrkPage) : TrkPage := { p with
      frame := f, total := p.total + 1, otherDie := p.otherDie + b2n (chip == s.chipid && otherDie)
      chips := tset p.chips chip (tget 0 p.chips chip + 1) }
    if k.track.any (fun p => p.gpn == g) then { k with track := k.track.map (fun p => if p.gpn == g then bump p else p) }
    else if k.track.length < 64 then { k with track := k.track ++ [bump { gpn := g, frame := f, total := 0, otherDie := 0, chips := [] }] }
    else k)

end Sys2Proof.Machine
end

