-- ==== Sys2Proof/Machine/Cache.lean ====
section
/-! DEFINITION. Machine/Cache.lean: the L1 (R171, R173, R186) and the sectors that line requests touch. -/

namespace Sys2Proof.Machine

/-- The sectors of its line that a piece touches. -/
def Piece.mask (p : Piece) : BitVec 4 :=
  BitVec.ofNat 4 (([0, 1, 2, 3].filter (fun i => p.addr % 256 / 64 ≤ i && i ≤ (p.addr % 256 + p.len - 1) / 64)).map (2 ^ ·)).sum

def Req.mask (r : Req) : BitVec 4 := r.pieces.foldl (fun m p => m ||| p.mask) 0

def secList (m : BitVec 4) : List Nat := [0, 1, 2, 3].filter (fun i => m.getLsbD i)
def secMask (l : List Nat) : BitVec 4 := l.foldl (fun m i => m ||| BitVec.ofNat 4 (2 ^ i)) 0

/-- What names a line in an L1: its page and place in it; view pages have numbers of their own. -/
def l1Key (t : Trans) (line : Nat) : Nat := t.gpn * 256 + line / 256 % 256 + (if t.fw then 2 ^ 60 else 0)

def Req.key (r : Req) : Option Nat := r.tr.map (fun t => l1Key t r.line)

/-- The line as a context's accesses find it. -/
def l1Find (s : State) (c ctx key : Nat) : Option L1Line :=
  (s.core c).l1.find? (fun e => e.key == key && keyOf s e.ctx == keyOf s ctx)

/-- A use makes a line the most recent. -/
def l1Touch (s : State) (c key : Nat) : State :=
  s.modCore c (fun o => match o.l1.find? (fun e => e.key == key) with
    | some e => { o with l1 := e :: o.l1.filter (fun f => !(f.key == key)) }
    | none => o)

/-- Invalidate sectors of a line. -/
def l1Drop (s : State) (c key : Nat) (m : BitVec 4) : State :=
  s.modCore c (fun o => { o with l1 := (o.l1.map (fun e =>
    if e.key == key then { e with sectors := e.sectors.filter (fun q => !(m.getLsbD q.1)) } else e)).filter (fun e => !e.sectors.isEmpty) })

/-- Loads of a core that are in flight will not fill these sectors. Log entry 42 (DEDUCED). -/
def markNoFill (s : State) (c key : Nat) (m : BitVec 4) : State :=
  { s with reqs := s.reqs.map (fun r =>
      if r.core == c && r.key == some key && r.miss != 0 then { r with noFill := r.noFill ||| m } else r) }

/-- Lines that must leave before a new line of a set enters: first a line marked first to evict, else the
least recently used (R171, R186). Log entry 38 (PRESUMED). -/
def l1Room (l : List L1Line) (key : Nat) : List L1Line :=
  let mine := l.filter (fun e => e.key % 64 == key % 64)
  if mine.length < 8 then l
  else
    let out := match (mine.filter (·.first)).getLast? with
      | some e => some e.key
      | none => mine.getLast?.map (·.key)
    l.filter (fun e => !(some e.key == out))

/-- Fill sectors after a load (R171). -/
def l1Fill (s : State) (c ctx key : Nat) (dfr first : Bool) (secs : Tab Sector) : State :=
  if secs.isEmpty then s else
  s.modCore c (fun o =>
    let old := o.l1.find? (fun e => e.key == key && keyOf s e.ctx == keyOf s ctx)
    let rest := o.l1.filter (fun e => !(e.key == key))
    let line : L1Line := match old with
      | some e => { e with sectors := secs.foldl (fun t q => tset t q.1 q.2) e.sectors, first := e.first || first }
      | none => { key, ctx, sectors := secs, deferred := dfr, first }
    { o with l1 := line :: (if old.isSome then rest else l1Room rest key) })

/-- Bytes stored into a valid sector: whole granules clear their mark (R173). Cells are places in the line. -/
def sectorStore (i : Nat) (cells : List (Nat × Byte)) (e : Sector) : Sector :=
  let mine := cells.filter (fun c => c.1 / 64 == i)
  let whole (g : Nat) : Bool := (List.range 32).all (fun j => mine.any (fun c => c.1 == 64 * i + 32 * g + j))
  { data := mine.foldl (fun d c => d.set (c.1 % 64) c.2) e.data
    poison := e.poison &&& ~~~(BitVec.ofNat 2 (b2n (whole 0) + 2 * b2n (whole 1))) }

/-- A store of the core meets its L1: policies 0 and 2 update the valid sectors, policy 1 invalidates them
(R171, R186). Loads in flight do not fill what it touched. -/
def l1Store (s : State) (c key cp : Nat) (cells : List (Nat × Byte)) : State :=
  let m := secMask ((cells.map (fun e => e.1 / 64)).eraseDups)
  let s := markNoFill s c key m
  if cp = 1 then l1Drop s c key m
  else s.modCore c (fun o => { o with l1 := o.l1.map (fun e =>
    if e.key == key then { e with sectors := e.sectors.map (fun q => (q.1, sectorStore q.1 cells q.2)), first := e.first || cp == 2 } else e) })

/-- An access of the core that reads or writes around its L1 leaves no older copy there (R204).
Log entry 42 (DEDUCED). -/
def l1Bypass (s : State) (c key : Nat) (m : BitVec 4) : State := markNoFill (l1Drop s c key m) c key m

/-- Miss-status entries in use: distinct missing sectors in flight (R170). -/
def missSet (s : State) (c : Nat) : List (Nat × Nat) :=
  ((s.reqs.filter (fun r => r.core == c && r.miss != 0)).flatMap (fun r => match r.key with
    | some k => (secList r.miss).map (fun i => (k, i))
    | none => [])).eraseDups

/-- Invalidate the lines of deferred pages in a core's L1 (R305). -/
def l1DropDeferred (s : State) (c : Nat) : State :=
  let s := s.modCore c (fun o => { o with l1 := o.l1.filter (fun e => !e.deferred) })
  { s with reqs := s.reqs.map (fun r => if r.core == c && (match r.tr with | some t => t.dfr | none => false) then { r with noFill := 0xF } else r) }

end Sys2Proof.Machine
end

