-- ==== Sys2Proof/Machine/Log.lean ====
section
/-! DEFINITION. Machine/Log.lean: the core's log of deferred records: pieces, keys, appending, spilling
(R287 to R291, R314). -/

namespace Sys2Proof.Machine

/-! ## Heats -/

/-- The heat count of a crew's grid. Log entry 72 (DESIGN CHOICE). -/
def heatsOf (s : State) (w : Crew) : Nat :=
  match w.guest with
  | some g => g.cont.heats
  | none => (s.grid w.grid).lr.heats

/-- A crew is inside a heat while %heat is below its grid's heat count (R250). -/
def inHeat (s : State) (w : Crew) : Bool := w.heat < heatsOf s w

/-- The key of a lane's next keyed operation (R216). -/
def nextKey (w : Crew) (l : Nat) : Key := { heat := w.heat, team := w.team, lane := w.crewid * 32 + l, seq := (tget 0 w.seq l).toNat }

/-- The order of keys (R216). -/
def keyLt (a b : Key) : Bool :=
  let n (k : Key) : Nat := ((k.heat * 2 ^ 24 + k.team) * 2 ^ 11 + k.lane) * 2 ^ 32 + k.seq
  n a < n b

/-! ## Records -/

/-- MW of bytes `o` to `o + n - 1` of a word (R288). -/
def mwOf (o n : Nat) : Nat :=
  if n = 8 then 0 else if n = 4 then 1 + o / 4 else if n = 2 then 4 + o / 2 else 8 + o

/-- First byte and number of bytes of an MW code. -/
def mwBytes (mw : Nat) : Nat × Nat :=
  if mw = 0 then (0, 8) else if mw ≤ 2 then ((mw - 1) * 4, 4) else if 4 ≤ mw && mw ≤ 7 then ((mw - 4) * 2, 2) else (mw - 8, 1)

/-- The largest piece that starts at an address and does not pass `n` bytes (R290). -/
def pieceLen (a n : Nat) : Nat :=
  if a % 8 = 0 && 8 ≤ n then 8 else if a % 4 = 0 && 4 ≤ n then 4 else if a % 2 = 0 && 2 ≤ n then 2 else 1

/-- The STORE records of a page's bytes from a device-physical address upward (R290). -/
def storeRecs (chip gpn : Nat) : Nat → Nat → List Byte → List LogRec
  | 0, _, _ => []
  | k + 1, a, b =>
    if b.isEmpty then []
    else
      let n := pieceLen a b.length
      { op := 0, mw := mwOf (a % 8) n, chip, wi := a / 8, value := w64 (leNat (b.take n)), gpn }
        :: storeRecs chip gpn k (a + n) (b.drop n)

/-! ## The log (R291, R314) -/

/-- A keyed record takes two slots. -/
def recSlots (r : LogRec) : Nat := if r.key.isSome then 2 else 1

def entSlots (l : List LogEnt) : Nat := (l.map (fun e => recSlots e.rcd)).sum

/-- Log slots in use: records in the log, and those whose chunk is still being written. -/
def Core.logUsed (o : Core) : Nat :=
  entSlots o.log + ((o.spill.filter (·.writing)).map (fun c => entSlots c.recs)).sum

def Core.logFree (o : Core) : Nat := Config.logSlots - o.logUsed

/-- Oldest entries up to a number of slots. -/
def takeSlots : Nat → List LogEnt → List LogEnt
  | _, [] => []
  | n, e :: t => if recSlots e.rcd ≤ n then e :: takeSlots (n - recSlots e.rcd) t else []

/-- The lowest free chunk of a grid's spill region. Log entry 66 (DESIGN CHOICE). -/
def freeChunk (s : State) (g : Nat) : Option Nat :=
  let used := s.cores.flatMap (fun c => (c.2.spill.filter (fun k => k.grid == g)).map (·.no) ++
    (c.2.teams.filter (fun t => t.2.grid == g)).filterMap (·.2.remoteChunk))
  (List.range ((s.grid g).lr.spillsz * 16)).find? (fun n => !(used.contains n))

/-- LOG_SPILL: the log starts to write its oldest records, 256 slots of the oldest record's team, to a free
chunk of their grid's spill region (R291); none if there is no free chunk. Log entry 66 (DESIGN CHOICE). -/
def logSpill (s : State) (c : Nat) : Option State :=
  let o := s.core c
  match o.log with
  | [] => none
  | e :: _ =>
    let g := (o.team e.ts).grid
    match freeChunk s g with
    | none => none
    | some no =>
      let mine := takeSlots 256 (o.log.filter (fun q => q.ts == e.ts))
      let log := (o.log.foldl (fun (acc : Nat × List LogEnt) q =>
        if q.ts == e.ts && acc.1 < mine.length then (acc.1 + 1, acc.2) else (acc.1, acc.2 ++ [q])) (0, [])).2
      some (s.modCore c (fun o => { o with log, spill := o.spill ++ [{ no, grid := g, ts := e.ts, recs := mine, writing := true }] }))

/-- What appending a lane's records comes to. -/
inductive Append
  | done (s : State)
  | full (s : State)
  | noChunk

/-- A lane's records enter the log, keyed inside a heat, if there is room for all of them; otherwise a chunk
write is under way or starts (R290, R291, R304, R404). -/
def appendLane (s : State) (c k uid l : Nat) (recs : List LogRec) : Append :=
  let w := s.owning c k uid
  let heat := inHeat s w
  let n := recs.length
  let need := if heat then 2 * n else n
  if need ≤ (s.core c).logFree then
    let keyed := recs.zipIdx.map (fun e => if heat then
      { e.1 with key := some { nextKey w l with seq := ((tget 0 w.seq l).toNat + e.2) % 2 ^ 32 } } else e.1)
    let s := s.modCore c (fun o => { o with log := o.log ++ keyed.map (fun r => { rcd := r, ts := w.ts }) })
    let s := s.modTeam c w.ts (fun m => { m with appended := m.appended + n })
    .done (s.modOwning c k uid (fun w =>
      if heat then { w with seq := tset w.seq l (tget 0 w.seq l + BitVec.ofNat 32 n) }
      else if n = 0 then w else { w with uncovered := w.uncovered ||| laneBit l, armedAt := w.armedAt &&& ~~~(laneBit l) }))
  else if (s.core c).spill.any (·.writing) then .full s
  else match logSpill s c with
    | some s => .full s
    | none => .noChunk

end Sys2Proof.Machine
end

