-- ==== Sys2Proof/Machine/Map.lean ====
section
/-! DEFINITION. Machine/Map.lean: scratchpads with their presence bits (R166) and the on-chip map (R164,
R165). -/

namespace Sys2Proof.Machine

/-! ## Scratchpads -/

/-- Is the presence bit of a 64-byte line of a core's scratchpad set? -/
def Core.present (o : Core) (line : Nat) : Bool := !(tget false o.absent line)

/-- The 64-byte lines that `n` bytes from an address touch. -/
def linesOf (a n : Nat) : List Nat := if n = 0 then [] else (List.range ((a + n - 1) / 64 - a / 64 + 1)).map (a / 64 + ·)

/-- Lanes parked on absent lines resume once no request of theirs waits for one (R166); with a uniform D the
word's one access stands for all. Log entry 54 (DEDUCED). -/
def wakeAbsent (s : State) : State :=
  let has (r : Req) (l : Nat) : Bool := r.pieces.any (fun p => p.lane == l)
  let waits (c k w l : Nat) : Bool :=
    let mine := s.reqs.filter (fun r => r.core == c && r.slot == k && r.word == w)
    mine.any (fun r => !r.absent.isEmpty && (has r l || !(mine.any (fun q => has q l))))
  let wake (c k : Nat) (w : Crew) : Crew := { w with park := w.park.map (fun e => match e.2 with
    | .absent n => (e.1, if waits c k n e.1 then e.2 else .resume s.clk)
    | _ => e) }
  { s with cores := s.cores.map (fun c => (c.1, { c.2 with slots := c.2.slots.map (fun k => (k.1, wake c.1 k.1 k.2)) })) }

/-- Set or clear a presence bit of a core; requests that wait for the line go on. -/
def setPresent (s : State) (c line : Nat) (b : Bool) : State :=
  let s := s.modCore c (fun o => { o with absent := tput false o.absent line (!b), mapClr := if b then o.mapClr.filter (· != line) else o.mapClr })
  if b then
    let hit (r : Req) : Bool := r.space == 1 && r.tgt == c && r.absent.contains line
    if s.reqs.any hit then
      wakeAbsent { s with reqs := s.reqs.map (fun r => if hit r then { r with absent := r.absent.filter (· != line) } else r) }
    else s
  else s

def setPresentAll (s : State) (c : Nat) (lines : List Nat) (b : Bool) : State := lines.foldl (fun s l => setPresent s c l b) s

/-- Bytes of a core's scratchpad. -/
def Core.scrRead (o : Core) (a n : Nat) : List Byte := (List.range n).map (fun i => tget 0 o.scratch (a + i))
def Core.scrWrite (o : Core) (cells : List (Nat × Byte)) : Core :=
  { o with scratch := cells.foldl (fun t e => tput 0 t e.1 e.2) o.scratch }

/-- Consecutive bytes from an address. -/
def cellsAt (a : Nat) (b : List Byte) : List (Nat × Byte) := b.zipIdx.map (fun e => (a + e.2, e.1))

/-! ## The on-chip map -/

def mapCore (o : Nat) : Nat := bf o 30 8
def mapReg (o : Nat) : Nat := bf o 27 3
def mapOfs (o : Nat) : Nat := bf o 0 27
def mapSize (reg : Nat) : Nat :=
  match reg with
  | 0 => 262144
  | 1 => 2097152
  | 2 => 131072
  | 3 => 131072
  | 4 => 512
  | _ => 0

/-- Crew registers may be reached only while the slot is free, reserved, halted or frozen (R165); a guest crew that
still waits for groups holds its slot reserved for them (R400). -/
def slotOpen (s : State) (c k : Nat) : Bool :=
  let w := s.crew c k
  !(w.st == .resident) || w.halted || w.frozen || w.forming

/-- Does the map hold these bytes, and may they be reached now (R164, R165)?. Log entry 53 (DEDUCED). -/
def mapOk (s : State) (o n : Nat) : Bool :=
  let r := mapReg o
  let f := mapOfs o
  mapCore o < Config.nCores && f + n ≤ mapSize r &&
  (if r = 1 then slotOpen s (mapCore o) (f / 32768) && slotOpen s (mapCore o) ((f + n - 1) / 32768)
   else if r = 2 then slotOpen s (mapCore o) (f / 2048) && slotOpen s (mapCore o) ((f + n - 1) / 2048) else true)

/-- The tile of a region 3 access. -/
def mapTiles (o n : Nat) : List Nat := ((List.range n).map (fun i => (mapOfs o + i) / 16384)).eraseDups

/-- Accesses to a tile wait until no entry issued before them names it; row writes wait for a row (R165,
R364). Log entry 53 (DEDUCED). -/
def mapReady (s : State) (before o n : Nat) (write : Bool) : Bool :=
  let c := mapCore o
  if mapReg o = 3 then
    (mapTiles o n).all (fun t => !((s.quad (quadOfCore c)).table.any (fun e => e.tile == t && e.id < before)))
  else if mapReg o = 1 && write then
    let k := mapOfs o / 32768
    let regs := ((List.range n).map (fun i => (mapOfs o + i) % 32768 / 128)).eraseDups
    rowsFree (s.core c) (s.crew c k) (rowsNeeded (s.crew c k) regs)
  else true

/-- One byte of the map. -/
def mapByte (s : State) (o : Nat) : Byte :=
  let c := mapCore o
  let f := mapOfs o
  let pick (w : W32) (i : Nat) : Byte := BitVec.ofNat 8 (w.toNat / 2 ^ (8 * i))
  match mapReg o with
  | 0 => tget 0 (s.core c).scratch f
  | 1 => pick (((s.crew c (f / 32768)).ent (f % 32768 / 128)).val (f % 128 / 4)) (f % 4)
  | 2 => pick (tget 0 (s.crew c (f / 2048)).u (f % 2048 / 4)) (f % 4)
  | 3 => pick (tget 0 (s.quad (quadOfCore c)).acc (f / 4)) (f % 4)
  | 4 => BitVec.ofNat 8 (((List.range 8).map (fun i => b2n ((s.core c).present (8 * f + i)) * 2 ^ i)).sum)
  | _ => 0

/-- Write one byte of the map. -/
def mapPut (s : State) (o : Nat) (v : Byte) : State :=
  let c := mapCore o
  let f := mapOfs o
  let put (w : W32) : W32 := w32 (setBf w.toNat (8 * (f % 4)) 8 v.toNat)
  match mapReg o with
  | 0 => s.modCore c (fun q => q.scrWrite [(f, v)])
  | 1 =>
    let n := f % 32768 / 128
    let l := f % 128 / 4
    s.modCrew c (f / 32768) (fun k => writeLanes k n [(l, put ((k.ent n).val l))])
  | 2 => s.modCrew c (f / 2048) (fun k => { k with u := tset k.u (f % 2048 / 4) (put (tget 0 k.u (f % 2048 / 4))) })
  | 3 => s.modQuad (quadOfCore c) (fun q => { q with acc := tput 0 q.acc (f / 4) (put (tget 0 q.acc (f / 4))) })
  | 4 => (List.range 8).foldl (fun s i =>
      let s := setPresent s c (8 * f + i) (v.getLsbD i)
      if v.getLsbD i then s else s.modCore c (fun q => { q with mapClr := (8 * f + i) :: q.mapClr.filter (· != 8 * f + i) })) s
  | _ => s

def mapRead (s : State) (o n : Nat) : List Byte := (List.range n).map (fun i => mapByte s (o + i))
def mapWrite (s : State) (cells : List (Nat × Byte)) : State := cells.foldl (fun s e => mapPut s e.1 e.2) s

end Sys2Proof.Machine
end

