-- ==== Sys2Proof/Machine/IntAlu.lean ====
section
/-! DEFINITION. Machine/IntAlu.lean: the integer and uniform words (R104 to R116, R121). -/

namespace Sys2Proof.Machine

/-! ## Values -/

/-- A lane's result from TYPE, M, the predicate it selects by and its sources A, B and C. -/
abbrev LaneFn := Nat → Nat → Bool → Nat → Nat → Nat → Nat

/-- Element width of an integer type (R108). -/
def elemW (t : Nat) : Nat :=
  if t = 9 || t = 13 then 8 else if t = 10 || t = 14 then 16 else if t = 12 || t = 16 then 64 else 32

/-- An element of a register. -/
def elem (w v e : Nat) : Nat := bf v (w * e) w

/-- Saturate to the range of `w` bits. -/
def clampTo (sg : Bool) (w : Nat) (t : Int) : Int :=
  let lo : Int := if sg then -(2 ^ (w - 1) : Nat) else 0
  let hi : Int := if sg then (2 ^ (w - 1) : Nat) - 1 else (2 ^ w : Nat) - 1
  if t < lo then lo else if hi < t then hi else t

/-- Elementwise arithmetic with saturation (R108). -/
def perElem (f : Int → Int → Int → Int) (sat : Bool) (t a b c : Nat) : Nat :=
  let w := elemW t
  let g (v e : Nat) : Int := intOf (signedTy t) w (elem w v e)
  ((List.range (32 / w)).map (fun e =>
    let r := f (g a e) (g b e) (g c e)
    wrapInt w (if sat then clampTo (signedTy t) w r else r) * 2 ^ (w * e))).sum

def fIadd : LaneFn := fun t m _ a b c => perElem (fun a b _ => a + b) (bit m 0) t a b c
def fIsub : LaneFn := fun t m _ a b c => perElem (fun a b _ => a - b) (bit m 0) t a b c
def fImul : LaneFn := fun t m _ a b c => perElem (fun a b _ => a * b) (bit m 0) t a b c
def fImad : LaneFn := fun t m _ a b c => perElem (fun a b c => a * b + c) (bit m 0) t a b c
def fImulh : LaneFn := fun t _ _ a b c => perElem (fun a b _ => (a * b) / (2 ^ 32 : Nat)) false t a b c
def fImin : LaneFn := fun t _ _ a b c => perElem (fun a b _ => min a b) false t a b c
def fImax : LaneFn := fun t _ _ a b c => perElem (fun a b _ => max a b) false t a b c
def fIabs : LaneFn := fun t m _ a b c => perElem (fun a _ _ => a.natAbs) (bit m 0) t a b c
def fIneg : LaneFn := fun t m _ a b c => perElem (fun a _ _ => -a) (bit m 0) t a b c

/-- 64-bit sums and products (R109). -/
def sat64 (t : Nat) (sat : Bool) (v : Int) : Nat := wrapInt 64 (if sat then clampTo (signedTy t) 64 v else v)
def fAdd64 : LaneFn := fun t m _ a b _ => sat64 t (bit m 0) (intOf (signedTy t) 64 a + intOf (signedTy t) 64 b)
def fSub64 : LaneFn := fun t m _ a b _ => sat64 t (bit m 0) (intOf (signedTy t) 64 a - intOf (signedTy t) 64 b)
def fMad64 : LaneFn := fun t _ _ a b c =>
  let s := signedTy t
  wrapInt 64 (intOf s 32 a * intOf s 32 b + intOf s 64 c)

/-- Width of a logic type (R110). -/
def bitW (t : Nat) : Nat := if wide t then 64 else 32
def notN (w a : Nat) : Nat := 2 ^ w - 1 - a % 2 ^ w

def fAnd : LaneFn := fun t m _ a b _ => a &&& (if bit m 0 then notN (bitW t) b else b)
def fOr : LaneFn := fun t m _ a b _ => a ||| (if bit m 0 then notN (bitW t) b else b)
def fXor : LaneFn := fun t m _ a b _ => a ^^^ (if bit m 0 then notN (bitW t) b else b)
def fNot : LaneFn := fun t _ _ a _ _ => notN (bitW t) a
def fShl : LaneFn := fun t _ _ a k _ => if bitW t ≤ k then 0 else a * 2 ^ k % 2 ^ bitW t
def fShr : LaneFn := fun t _ _ a k _ => if bitW t ≤ k then 0 else a / 2 ^ k
def fShra : LaneFn := fun t _ _ a k _ =>
  let w := bitW t
  wrapInt w (signedOf w a / (2 ^ (min k w) : Nat))
def fRot : LaneFn := fun _ m _ a b _ =>
  let k := if bit m 0 then (32 - b % 32) % 32 else b % 32
  (a * 2 ^ k + a / 2 ^ (32 - k)) % 2 ^ 32
def fPopc : LaneFn := fun t _ _ a _ _ => popcount (bitW t) a
def fClz : LaneFn := fun t _ _ a _ _ => bitW t - bitLen (bitW t) a
def fBrev : LaneFn := fun t _ _ a _ _ =>
  let w := bitW t
  ((List.range w).map (fun i => bf a i 1 * 2 ^ (w - 1 - i))).sum

/-- BFX, BFI and PRMB (R111). -/
def fBfx : LaneFn := fun t _ _ a b _ =>
  let pos := bf b 0 8
  let len := min (bf b 8 8) 32
  let sg := signedTy t
  let f := wrapInt 256 (intOf sg 32 a) / 2 ^ pos % 2 ^ len
  if len = 0 then 0
  else if pos ≤ 224 then wrapInt 32 (intOf sg len f)
  else if sg && bit a 31 then 2 ^ 32 - 1 else 0
def fBfi : LaneFn := fun _ _ _ a b c =>
  let pos := bf b 0 8
  let len := min (bf b 8 8) 32
  setBf c pos (min len (32 - pos)) a
def fPrmb : LaneFn := fun _ _ _ a b c =>
  let x := b * 2 ^ 32 + a
  ((List.range 4).map (fun i =>
    let y := bf x (8 * bf c (4 * i) 3) 8
    (if bit c (4 * i + 3) then (if bit y 7 then 255 else 0) else y) * 2 ^ (8 * i))).sum
def fSel : LaneFn := fun _ _ q a b _ => if q then a else b

/-- LEA (R113). -/
def fLea : LaneFn := fun t m _ a b _ => (a + b * 2 ^ m) % 2 ^ bitW t
def fMov : LaneFn := fun _ _ _ a _ _ => a

/-- The comparison of R105 on a type. -/
def compare (t c a b : Nat) : Bool := cond c (intOf (signedTy t) (elemW t) a) (intOf (signedTy t) (elemW t) b)

/-- ISET (R112): 1 or 0, or ones or 0 in every bit. -/
def isetVal (t c : Nat) (ones : Bool) (a b : Nat) : Nat :=
  if compare t c a b then (if ones then 2 ^ elemW t - 1 else 1) else 0

/-! ## Words -/

/-- A source of one register, a small immediate placed in every element of the type (R29). -/
def rdE (s : State) (x : Ctx) (imm : W64) (t : Nat) (o : Opd) (l : Nat) : Nat :=
  match o with
  | .im n =>
    let w := min (elemW t) 32
    ((List.range (32 / w)).map (fun e => wrapInt w n.toInt * 2 ^ (w * e))).sum
  | o => (rd s x imm o l).toNat

/-- A source of `n` registers of a word with type `t`. -/
def rdN (s : State) (x : Ctx) (w : Op) (n : Nat) (o : Opd) (l : Nat) : Nat :=
  if n = 2 then (rd64 s x x.h.form (signedTy w.ty) w.imm o l).toNat else rdE s x w.imm w.ty o l

/-- The writes of a value of one or two registers. -/
def wrN (x : Ctx) (comp : Bool) (d : Opd) (n : Nat) (val : Nat → Nat) : List Wr :=
  if n = 2 then wr64 x comp d (fun l => w64 (val l)) else wrOf x comp d (fun l => w32 (val l))

/-- Registers that D, A, B and C take. -/
structure Widths where
  d : Nat := 1
  a : Nat := 1
  b : Nat := 1
  c : Nat := 1

/-- A word that computes each lane's value from its own sources, with a fixed latency (R107). -/
def laneWord (w : Op) (n : Widths) (lat : Nat) (f : Ctx → State → Nat → Nat → Nat → Nat → Nat) (s : State)
    (comp : Bool := uniformProducing w) : Out :=
  issue s { w, ra := n.a, rb := n.b, rc := n.c, dst := vdst w.d n.d, comp } (fun x s =>
    fixedResult s x lat (wrN x comp w.d n.d (fun l =>
      f x s l (rdN s x w n.a w.a l) (rdN s x w n.b w.b l) (rdN s x w n.c w.c l))))

/-- A word whose lane result is a LaneFn of TYPE, M and its sources. -/
def fnWord (w : Op) (n : Widths) (lat : Nat) (f : LaneFn) (s : State) : Out :=
  laneWord w n lat (fun _ _ _ => f w.ty w.m false) s

/-- Every operand of the type's width. -/
def same (w : Op) : Widths := let n := if w.w64 then 2 else 1; { d := n, a := n, b := n, c := n }
/-- B is 32 bits wide. -/
def sameAD (w : Op) : Widths := { same w with b := 1 }
/-- D is 32 bits wide. -/
def sameA (w : Op) : Widths := { same w with d := 1 }

def execIadd (w : Op) (s : State) : Out := fnWord w {} 4 fIadd s
def execIsub (w : Op) (s : State) : Out := fnWord w {} 4 fIsub s
def execImul (w : Op) (s : State) : Out := fnWord w {} 6 fImul s
def execImulh (w : Op) (s : State) : Out := fnWord w {} 6 fImulh s
def execImad (w : Op) (s : State) : Out := fnWord w {} 6 fImad s
def execImin (w : Op) (s : State) : Out := fnWord w {} 4 fImin s
def execImax (w : Op) (s : State) : Out := fnWord w {} 4 fImax s
def execIabs (w : Op) (s : State) : Out := fnWord w {} 4 fIabs s
def execIneg (w : Op) (s : State) : Out := fnWord w {} 4 fIneg s
def execAndW (w : Op) (s : State) : Out := fnWord w (same w) 4 fAnd s
def execOrW (w : Op) (s : State) : Out := fnWord w (same w) 4 fOr s
def execXorW (w : Op) (s : State) : Out := fnWord w (same w) 4 fXor s
def execNotW (w : Op) (s : State) : Out := fnWord w (same w) 4 fNot s
def execShl (w : Op) (s : State) : Out := fnWord w (sameAD w) 4 fShl s
def execShr (w : Op) (s : State) : Out := fnWord w (sameAD w) 4 fShr s
def execShra (w : Op) (s : State) : Out := fnWord w (sameAD w) 4 fShra s
def execRot (w : Op) (s : State) : Out := fnWord w {} 4 fRot s
def execPopc (w : Op) (s : State) : Out := fnWord w (sameA w) 4 fPopc s
def execClz (w : Op) (s : State) : Out := fnWord w (sameA w) 4 fClz s
def execBrev (w : Op) (s : State) : Out := fnWord w (same w) 4 fBrev s
def execBfx (w : Op) (s : State) : Out := fnWord w {} 4 fBfx s
def execBfi (w : Op) (s : State) : Out := fnWord w {} 4 fBfi s
def execPrmb (w : Op) (s : State) : Out := fnWord w {} 4 fPrmb s
def execLea (w : Op) (s : State) : Out := fnWord w (sameAD w) 4 fLea s
def execAdd64 (w : Op) (s : State) : Out := fnWord w (same w) 4 fAdd64 s
def execSub64 (w : Op) (s : State) : Out := fnWord w (same w) 4 fSub64 s
def execMad64 (w : Op) (s : State) : Out := fnWord w { d := 2, c := 2 } 8 fMad64 s
def execMov (w : Op) (s : State) : Out := fnWord w (same w) 2 fMov s

/-- SEL selects by the predicate that M names; its value is per lane, whatever its sources (R111).
Log entry 19 (DEDUCED). -/
def execSel (w : Op) (s : State) : Out :=
  laneWord w (same w) 4 (fun x s l => fSel w.ty w.m (readQ s x w.m l)) s (comp := false)

/-- ISET (R112). -/
def execIset (w : Op) (s : State) : Out :=
  laneWord w (same w) 4 (fun _ _ _ a b _ => isetVal w.ty w.m (w.mb 9) a b) s

/-- A comparison combined with qC (R112, R145). -/
def combine (op : Nat) (c q : Bool) : Bool :=
  if op = 0 then c else if op = 1 then c && q else if op = 2 then c || q else c ^^ q

/-- ICMP (R112). -/
def execIcmp (w : Op) (s : State) : Out :=
  laneWord w { same w with d := 1, c := 1 } 4 (fun _ _ _ a b c =>
    b2n (combine w.opt (compare w.ty w.m a b) (c != 0))) s

/-- MOVI: the immediate of the extension; uniform-producing (R115). Log entry 19 (DEDUCED).
Log entry 143 (DESIGN CHOICE). -/
def execMovi (w : Op) (s : State) : Out :=
  laneWord w (same w) 2 (fun _ _ _ _ _ _ => if w.w64 then w.imm.toNat else w.imm.toNat % 2 ^ 32) s (comp := true)

/-- A cross-lane read of a vector register (R114). -/
def laneOf (s : State) (x : Ctx) (w : Op) (l : Nat) : Nat := rdN s x w (same w).a w.a l

/-- VBCAST: A in lane B mod 32, written to every executing lane; uniform-producing (R115). Log entry 19 (DEDUCED). -/
def execVbcast (w : Op) (s : State) : Out :=
  laneWord w { same w with b := 1 } 4 (fun x s _ _ b _ => laneOf s x w (b % 32)) s (comp := true)

/-- V2S (R115). -/
def execV2s (w : Op) (s : State) : Out :=
  laneWord w { same w with b := 1 } 4 (fun x s _ _ b _ => laneOf s x w (if w.mb 0 then x.low else b % 32)) s

/-! ## Predicates (R116) -/

def predWord (w : Op) (f : Bool → Bool → Bool) (s : State) : Out :=
  laneWord w {} 2 (fun _ _ _ a b _ => b2n (f ((a != 0) != w.mb 0) ((b != 0) != w.mb 1))) s

def execPand (w : Op) (s : State) : Out := predWord w (· && ·) s
def execPor (w : Op) (s : State) : Out := predWord w (· || ·) s
def execPxor (w : Op) (s : State) : Out := predWord w (· ^^ ·) s
def execPnot (w : Op) (s : State) : Out := laneWord w {} 2 (fun _ _ _ a _ _ => b2n (a == 0)) s

/-- P2V: the lane's bit, or the mask of the predicate over the executing lanes. -/
def execP2v (w : Op) (s : State) : Out :=
  laneWord w {} 2 (fun x s _ a _ _ =>
    if w.mb 0 then (maskOf ((lanesOf x.on).filter (fun l => rd s x 0 w.a l != 0))).toNat else a) s

/-- V2P: A ≠ 0, or the lane's bit of A. -/
def execV2p (w : Op) (s : State) : Out :=
  laneWord w {} 2 (fun _ _ l a _ _ => if w.mb 0 then bf a l 1 else b2n (a != 0)) s

/-! ## Uniform words (R121) -/

/-- UMOV: a run of uniform registers, or one value. -/
def execUmov (w : Op) (s : State) : Out :=
  issue s { w } (fun x s =>
    let n := 2 ^ w.opt * (if w.w64 then 2 else 1)
    let v := match w.a with
      | .u _ => rdRun s x w.a n 0
      | a => leWords n (rdN s x w n a x.low)
    fixedResult s x 2 (wrRun x false w.d n (fun _ => v)))

/-- ULOOP. -/
def execUloop (w : Op) (s : State) : Out :=
  laneWord w {} 2 (fun _ _ _ a b _ => let k := (a + 1) % 2 ^ 32; if b ≤ k then 0 else k) s

/-- UCMP. -/
def execUcmp (w : Op) (s : State) : Out :=
  laneWord w {} 2 (fun _ _ _ a b _ => b2n (compare w.ty w.m a b)) s

/-- UAND. -/
def execUand (w : Op) (s : State) : Out :=
  laneWord w {} 2 (fun x _ _ a _ _ => a &&& x.on.toNat) s

end Sys2Proof.Machine
end

