-- ==== Sys2Proof/Machine/Fp.lean ====
section
/-! DEFINITION. Machine/Fp.lean: the floating-point formats, exact values and RoundTo (R122 to R133). -/

namespace Sys2Proof.Machine

/-! ## Formats (R122), by the R43 codes 0 to 7 -/

/-- Exponent bits, mantissa bits and bias. -/
def fmtX (f : Nat) : Nat := if f = 0 || f = 2 then 8 else if f = 1 || f = 4 then 5 else if f = 3 then 4 else if f = 5 then 3 else 2
def fmtM (f : Nat) : Nat := if f = 0 then 23 else if f = 1 then 10 else if f = 2 then 7 else if f = 3 || f = 6 then 3 else if f = 7 then 1 else 2
def fmtBias (f : Nat) : Int := if f = 0 || f = 2 then 127 else if f = 1 || f = 4 then 15 else if f = 3 then 7 else if f = 5 then 3 else 1
def fmtInf (f : Nat) : Bool := f = 0 || f = 1 || f = 2 || f = 4
def fmtNan (f : Nat) : Bool := fmtInf f || f = 3
/-- The place of the sign bit. -/
def fmtS (f : Nat) : Nat := fmtX f + fmtM f
/-- The exponent of the smallest subnormal. -/
def fmtQmin (f : Nat) : Int := 1 - fmtBias f - fmtM f
/-- The pattern of the largest finite magnitude. -/
def fmtMax (f : Nat) : Nat :=
  let ones := 2 ^ fmtX f - 1
  if fmtInf f then ones * 2 ^ fmtM f - 1 else if f = 3 then 0x7E else 2 ^ (fmtX f + fmtM f) - 1
/-- CanonNaN (R127). -/
def canonNan (f : Nat) : Nat :=
  if f = 0 then 0x7FC00000 else if f = 1 then 0x7E00 else if f = 2 then 0x7FC0 else if f = 3 then 0x7F
  else if f = 4 then 0x7E else 0xFF
/-- 1.0. -/
def fmtOne (f : Nat) : Nat := if f = 0 then 0x3F800000 else if f = 1 then 0x3C00 else 0x3F80

/-- Exact extended reals (R131): a finite value is ±n × 2^e, or, with the sticky mark, some value strictly
between n × 2^e and (n + 1) × 2^e. -/
inductive XR
  | nan
  | inf (neg : Bool)
  | fin (neg : Bool) (n : Nat) (e : Int) (sticky : Bool)
deriving DecidableEq, Repr

def XR.isNan : XR → Bool
  | .nan => true
  | _ => false
def XR.isInf : XR → Bool
  | .inf _ => true
  | _ => false
def XR.isZero : XR → Bool
  | .fin _ n _ st => n == 0 && !st
  | _ => false
def XR.isNeg : XR → Bool
  | .nan => false
  | .inf g => g
  | .fin g _ _ _ => g
def XR.negate : XR → XR
  | .nan => .nan
  | .inf g => .inf (!g)
  | .fin g n e st => .fin (!g) n e st
def XR.zero (g : Bool) : XR := .fin g 0 0 false

/-- The length of a number in bits. -/
def numLen (n : Nat) : Nat := if n = 0 then 0 else Nat.log2 n + 1

/-- FPMODE's fields (R136). -/
structure FpEnv where
  rnd : Nat
  ftzs : Bool
  ftzh : Bool
deriving DecidableEq, Repr

def Crew.env (k : Crew) : FpEnv := { rnd := bf k.fpmode.toNat 0 3, ftzs := bit k.fpmode.toNat 4, ftzh := bit k.fpmode.toNat 5 }

/-- FtzOn of a word that R133 lists. -/
def FpEnv.ftz (v : FpEnv) (f : Nat) : Bool := if f = 0 then v.ftzs else (f = 1 || f = 2) && v.ftzh

/-- The rounding of an RND field (R130). -/
def FpEnv.mode (v : FpEnv) (m : Nat) : Nat := if m % 8 = 0 then v.rnd else m % 8

/-- Decode (R123, R125); with `flush` followed by FlushIn (R131). -/
def decodeF (f : Nat) (flush : Bool) (v : Nat) : XR :=
  if f = 8 then
    let e := v % 256
    if e = 255 then .nan else .fin false 1 ((e : Int) - 127) false
  else
    let x := fmtX f
    let m := fmtM f
    let g := bit v (x + m)
    let e := bf v m x
    let n := bf v 0 m
    if e + 1 = 2 ^ x && fmtInf f then (if n = 0 then .inf g else .nan)
    else if f = 3 && e = 15 && n = 7 then .nan
    else if e = 0 then (if flush then XR.zero g else .fin g n (fmtQmin f) false)
    else .fin g (2 ^ m + n) ((e : Int) - 1 + fmtQmin f) false

/-- A magnitude rounded to a multiple of 2^q (R132): the multiple, and whether it is exact. -/
def roundMag (rnd : Nat) (g : Bool) (n : Nat) (e : Int) (st : Bool) (q : Int) : Nat × Bool :=
  if q ≤ e then (n * 2 ^ (e - q).toNat, !st)
  else
    let sh := (q - e).toNat
    let m := n / 2 ^ sh
    let r := n % 2 ^ sh
    let half := 2 ^ (sh - 1)
    let inexact := r != 0 || st
    let up :=
      if rnd = 1 then half < r || (r == half && (st || m % 2 == 1))
      else if rnd = 3 then g && inexact
      else if rnd = 4 then !g && inexact
      else if rnd = 5 then inexact && m % 2 == 0
      else false
    (if up then m + 1 else m, !inexact)

/-- The pattern with a sign. -/
def signed_ (f : Nat) (g : Bool) (v : Nat) : Nat := v + (if g then 2 ^ fmtS f else 0)

/-- The pattern of an infinity. -/
def infPat (f : Nat) (g : Bool) : Nat := signed_ f g (fmtMax f + 1)

/-- RoundTo (R132), the rounding already taken from FPMODE where RND was 0. -/
def roundTo (ftz : Bool) (x : XR) (f rnd : Nat) (satfin : Bool) : Nat × Fl :=
  match x with
  | .nan => if fmtNan f then (canonNan f, 0) else (0, flNV)
  | .inf g =>
    if fmtInf f && !satfin then (infPat f g, 0) else (signed_ f g (fmtMax f), if fmtInf f then 0 else flNV)
  | .fin g n e st =>
    if n == 0 && !st then (signed_ f g 0, 0)
    else
      let top : Int := numLen n + e
      let free : Int := top - (fmtM f + 1)
      let q := max (fmtQmin f) free
      let (m, exact) := roundMag rnd g n e st q
      let (t, _) := roundMag rnd g n e st free
      let pat := (q - fmtQmin f).toNat * 2 ^ fmtM f + m
      let fl : Fl := if exact then 0 else flNX
      if fmtMax f < pat then
        let toInf := fmtInf f && !satfin && (rnd == 1 || (rnd == 4 && !g) || (rnd == 3 && g))
        (if toInf then infPat f g else signed_ f g (fmtMax f), fl ||| flOF ||| flNX)
      else
        let tiny : Bool := (numLen t : Int) + free ≤ 1 - fmtBias f
        let fl := if tiny && !exact then fl ||| flUF else fl
        if pat < 2 ^ fmtM f && pat != 0 && ftz then (signed_ f g 0, fl ||| flUF ||| flNX)
        else (signed_ f g pat, fl)

/-! ## Exact arithmetic -/

def XR.mul : XR → XR → XR
  | .fin g n e _, .fin h m d _ => .fin (g != h) (n * m) (e + d) false
  | .nan, _ => .nan
  | _, .nan => .nan
  | a, b => if a.isZero || b.isZero then .nan else .inf (a.isNeg != b.isNeg)

/-- A finite value as an integer multiple of 2^q. -/
def XR.asInt (q : Int) : XR → Int
  | .fin g n e _ => let v : Int := (n * 2 ^ (e - q).toNat : Nat); if g then -v else v
  | _ => 0

def XR.exp : XR → Int
  | .fin _ _ e _ => e
  | _ => 0

/-- ZeroSign (R131). -/
def zeroSign (l : List XR) (rnd : Nat) : XR :=
  if l.all (fun t => t.isZero && t.isNeg) then XR.zero true
  else if l.all (fun t => t.isZero && !t.isNeg) then XR.zero false
  else XR.zero (rnd == 3)

/-- The exact sum of terms that are no NaN (R142): Inf − Inf is NaN with NV. -/
def sumX (l : List XR) (rnd : Nat) : XR × Fl :=
  let p := l.any (fun t => t.isInf && !t.isNeg)
  let n := l.any (fun t => t.isInf && t.isNeg)
  if p && n then (.nan, flNV)
  else if p then (.inf false, 0)
  else if n then (.inf true, 0)
  else
    let q := l.foldl (fun q t => min q t.exp) 0
    let v := (l.map (XR.asInt q)).sum
    if v = 0 then (zeroSign l rnd, 0) else (.fin (v < 0) v.natAbs q false, 0)

/-- A sum of products and addends by R142 and R157. Log entry 32 (DEDUCED). -/
def dotX (prods : List (XR × XR)) (adds : List XR) (rnd : Nat) : XR × Fl :=
  if prods.any (fun p => p.1.isNan || p.2.isNan) || adds.any XR.isNan then (.nan, 0)
  else
    let l := prods.map (fun p => p.1.mul p.2)
    if l.any XR.isNan then (.nan, flNV) else sumX (l ++ adds) rnd

/-- The order of two values that are no NaN, with −0 below +0 (R143). -/
def ltX (zeros : Bool) (a b : XR) : Bool :=
  match a, b with
  | .inf g, .inf h => g && !h
  | .inf g, _ => g
  | _, .inf h => !h
  | a, b =>
    let q := min a.exp b.exp
    let x := a.asInt q
    let y := b.asInt q
    x < y || (zeros && x == y && a.isNeg && !b.isNeg)

/-- A finite magnitude rounded to an integer (R147, R150): the integer, and whether it is exact. -/
def toIntegral (rnd : Nat) : XR → Nat × Bool
  | .fin g n e st => roundMag rnd g n e st 0
  | _ => (0, true)

/-- floor(log2 |x|) of a finite value that is not zero. -/
def log2X : XR → Int
  | .fin _ n e _ => (numLen n : Int) - 1 + e
  | _ => 0

/-- An integer as a value. -/
def ofInt (v : Int) : XR := .fin (v < 0) v.natAbs 0 false

/-- A small immediate in a format (R29). -/
def immPat (f : Nat) (n : Int) : Nat := (roundTo false (ofInt n) f 1 false).1

/-- a ÷ b of magnitudes that are not zero, to 96 bits with a sticky mark. -/
def divX (g : Bool) (n : Nat) (e : Int) (m : Nat) (d : Int) : XR :=
  let k := 96 + numLen m
  .fin g (n * 2 ^ k / m) (e - d - k) (n * 2 ^ k % m != 0)

/-- The square root of a magnitude that is not zero, to 96 bits with a sticky mark. -/
def sqrtX (n : Nat) (e : Int) : XR :=
  let k : Nat := if (e % 2) = 0 then 192 else 193
  let v := n * 2 ^ k
  let r := Nat.sqrt v
  .fin false r ((e - k) / 2) (r * r != v)

end Sys2Proof.Machine
end

