-- ==== Sys2Proof/Machine/Sfu.lean ====
section
/-! DEFINITION. Machine/Sfu.lean: the exact functions of the SFU words (R153), as values that RoundTo
rounds correctly. An irrational value is enclosed in fixed point until 80 of its bits are certain. -/

namespace Sys2Proof.Machine

/-! ## Fixed point with `p` bits after the point -/

/-- Multiply two fixed-point numbers. -/
def fxMul (p a b : Nat) : Nat := a * b / 2 ^ p

/-- The sum of a series whose next term comes from the index and the term before, until it vanishes. -/
def series (next : Nat → Nat → Nat) : Nat → Nat → Nat → Nat
  | 0, _, _ => 0
  | fuel + 1, i, t => if t = 0 then 0 else t + series next fuel (i + 1) (next i t)

/-- The same with alternating signs, as the difference of the terms at even and at odd places. -/
def alternating (next : Nat → Nat → Nat) : Nat → Nat → Nat → Int
  | 0, _, _ => 0
  | fuel + 1, i, t => if t = 0 then 0 else (t : Int) - alternating next fuel (i + 1) (next i t)

/-- The odd power series Σ t^(2i+1) / (2i+1), for |t| < 1, and its alternating form. -/
def atanhFx (p t : Nat) : Nat :=
  let t2 := fxMul p t t
  let rec go : Nat → Nat → Nat → Nat
    | 0, _, _ => 0
    | fuel + 1, i, u => if u = 0 then 0 else u / (2 * i + 1) + go fuel (i + 1) (fxMul p u t2)
  go (4 * p) 0 t

/-- atan(1/k). -/
def atanInv (p k : Nat) : Int :=
  let rec go : Nat → Nat → Nat → Int
    | 0, _, _ => 0
    | fuel + 1, i, u => if u = 0 then 0 else (u / (2 * i + 1) : Nat) - go fuel (i + 1) (u / (k * k))
  go (4 * p) 0 (2 ^ p / k)

/-- π. -/
def piFx (p : Nat) : Nat := (16 * atanInv p 5 - 4 * atanInv p 239).toNat

/-- ln 2. -/
def ln2Fx (p : Nat) : Nat := 2 * atanhFx p (2 ^ p / 3)

/-- e^r for 0 ≤ r < 1. -/
def expSmall (p r : Nat) : Nat := series (fun i t => fxMul p t r / (i + 1)) (4 * p) 0 (2 ^ p)

/-- e^y for y ≥ 0, as a fixed-point number and a power of two. -/
def expFx (p y : Nat) : Nat × Nat :=
  let l := ln2Fx p
  (expSmall p (y % l), y / l)

/-- sin(πr) for 0 ≤ r ≤ 1/2. -/
def sinPi (p r : Nat) : Nat :=
  let x := fxMul p (piFx p) r
  let x2 := fxMul p x x
  (alternating (fun i t => fxMul p t x2 / ((2 * i + 2) * (2 * i + 3))) (4 * p) 0 x).toNat

/-- erf x for 0 < x < 8: 2/√π · e^(−x²) · Σ 2^i x^(2i+1) / (1·3·5···(2i+1)). -/
def erfFx (p x : Nat) : Nat :=
  let x2 := fxMul p x x
  let s := series (fun i t => 2 * fxMul p t x2 / (2 * i + 3)) (4 * p) 0 x
  let (m, k) := expFx p x2
  let root := Nat.sqrt (piFx p * 2 ^ p)
  2 * s * 2 ^ p / root * 2 ^ p / m / 2 ^ k

/-! ## Values -/

/-- A finite value as fixed point, rounded down. Log entry 35 (DEDUCED). -/
def fxOf (p : Nat) (n : Nat) (e : Int) : Nat :=
  if 0 ≤ e + p then n * 2 ^ (e + p).toNat else n / 2 ^ (-(e + p)).toNat

/-- The value of an irrational function: `f p` is within 2^32 units of 2^p times its magnitude.
Log entry 35 (DEDUCED). -/
def enclose (f : Nat → Nat) (neg : Bool) (sc : Int) : List Nat → XR
  | [] => .nan
  | p :: more =>
    let v := f p
    let k := numLen v - 80
    let lo := (v - 2 ^ 32) / 2 ^ k
    let hi := (v + 2 ^ 32) / 2 ^ k
    if lo = hi || more.isEmpty then .fin neg lo (k + sc - p) true else enclose f neg sc more

/-- The working precisions. -/
def precisions : List Nat := [256, 768, 2304]

/-- A positive value below every magnitude that a format rounds to anything but its least. -/
def tinyX (neg : Bool) : XR := .fin neg 1 (-1000) true
/-- A value just inside 1. -/
def below1 (neg : Bool) : XR := .fin neg (2 ^ 80 - 1) (-80) true

/-- The SFU functions, by opcode (R153). Log entry 35 (DEDUCED). -/
def sfuFn (opc : Nat) (a : XR) : XR × Fl :=
  let one : XR := .fin false 1 0 false
  match a with
  | .nan => (.nan, 0)
  | .inf g =>
    if opc = 0x0D6 then (if g then XR.zero false else .inf false, 0)
    else if opc = 0x0D7 || opc = 0x0DA then (if g then (.nan, flNV) else (.inf false, 0))
    else if opc = 0x0D8 then (XR.zero g, 0)
    else if opc = 0x0D9 then (if g then (.nan, flNV) else (XR.zero false, 0))
    else if opc = 0x0DB || opc = 0x0DC then (.nan, flNV)
    else if opc = 0x0DE then (if g then XR.zero false else one, 0)
    else (.fin g 1 0 false, 0)
  | .fin g n e _ =>
    if n = 0 then
      if opc = 0x0D6 || opc = 0x0DC then (one, 0)
      else if opc = 0x0D7 then (.inf true, flDZ)
      else if opc = 0x0D8 || opc = 0x0D9 then (.inf g, flDZ)
      else if opc = 0x0DE then (.fin false 1 (-1) false, 0)
      else (XR.zero g, 0)
    else if g && (opc = 0x0D7 || opc = 0x0D9 || opc = 0x0DA) then (.nan, flNV)
    else if opc = 0x0D8 then (divX g 1 0 n e, 0)
    else if opc = 0x0DA then (sqrtX n e, 0)
    else if opc = 0x0D9 then
      let b : Nat := if e % 2 = 0 then 320 else 321
      let r := Nat.sqrt (2 ^ b / n)
      (.fin false r ((-e - b) / 2) (r * r * n != 2 ^ b), 0)
    else if opc = 0x0D7 then
      let top : Int := (numLen n : Int) - 1
      if n = 2 ^ top.toNat then (ofInt (top + e), 0)
      else
        -- a = m × 2^k with m from 3/4 to 3/2
        let up : Bool := 3 * 2 ^ top.toNat ≤ 2 * n
        let k : Int := top + e + (if up then 1 else 0)
        let d : Nat := if up then 2 ^ (top.toNat + 1) else 2 ^ top.toNat
        let small := n < d
        let f (p : Nat) : Int :=
          let z := (if small then d - n else n - d) * 2 ^ p / (n + d)
          let t : Int := (2 * atanhFx p z * 2 ^ p / ln2Fx p : Nat)
          k * (2 ^ p : Nat) + (if small then -t else t)
        (enclose (fun p => (f p).natAbs) (f 256 < 0) 0 precisions, 0)
    else if opc = 0x0D6 then
      -- a = i + r with 0 ≤ r < 1
      let i : Int := if 0 ≤ e then (ofInt (if g then -1 else 1)).asInt 0 * (n * 2 ^ (min e 20).toNat : Nat)
                     else (if g then -((n : Int)) else n) / (2 ^ (-e).toNat : Nat)
      if 200 < i then (.fin false 1 200 false, 0)
      else if i < -200 then (tinyX false, 0)
      else if 0 ≤ e then (.fin false 1 i false, 0)
      else
        let den : Nat := 2 ^ (-e).toNat
        let r := ((if g then -((n : Int)) else n) - i * den).toNat
        if r = 0 then (.fin false 1 i false, 0)
        else (enclose (fun p => expSmall p (fxMul p (r * 2 ^ p / den) (ln2Fx p))) false i precisions, 0)
    else if opc = 0x0DB || opc = 0x0DC then
      -- |a| mod 2 as r / den; COS a = SIN (a + 1/2), and COS is even
      let den : Nat := 2 ^ (1 - min e 0).toNat
      let v : Nat := n * 2 ^ (e + 1 - min e 0).toNat
      let r := (if opc = 0x0DC then v + den / 2 else v) % (2 * den)
      let flip := (opc = 0x0DB && g) != (den < r)
      let h := if den < r then r - den else r
      let h := min h (den - h)
      if h = 0 then (if opc = 0x0DC then XR.zero false else XR.zero g, 0)
      else if 2 * h = den then (.fin flip 1 0 false, 0)
      else (enclose (fun p => sinPi p (h * 2 ^ p / den)) flip 0 precisions, 0)
    else
      let big : Bool := 128 * 2 ^ (-(min e 0)).toNat ≤ n * 2 ^ (max (min e 20) 0).toNat
      let x (p : Nat) : Nat := fxOf p n e
      if opc = 0x0DD then
        if big then (below1 g, 0)
        else (enclose (fun p =>
          let (m, k) := expFx p (2 * x p)
          let t := m * 2 ^ k
          (t - 2 ^ p) * 2 ^ p / (t + 2 ^ p)) g 0 precisions, 0)
      else if opc = 0x0DE then
        if big && !g then (below1 false, 0)
        else if big && 200 * 2 ^ (-(min e 0)).toNat ≤ n * 2 ^ (max (min e 20) 0).toNat then (tinyX false, 0)
        else (enclose (fun p =>
          let (m, k) := expFx p (x p)
          let t := m * 2 ^ k
          if g then 2 ^ (2 * p) / (t + 2 ^ p) else t * 2 ^ p / (t + 2 ^ p)) false 0 precisions, 0)
      else
        let far : Bool := 8 * 2 ^ (-(min e 0)).toNat ≤ n * 2 ^ (max (min e 20) 0).toNat
        if far then (below1 g, 0) else (enclose (fun p => erfFx p (x p)) g 0 precisions, 0)

end Sys2Proof.Machine
end

