-- ==== Sys2Proof/Machine/FloatAlu.lean ====
section
/-! DEFINITION. Machine/FloatAlu.lean: the floating-point, SFU, conversion, flag and mode words (R140 to
R160). -/

namespace Sys2Proof.Machine

/-! ## One element -/

/-- What a lane of a float word gives: value, flags, event counters. -/
structure FRes where
  val : Nat
  fl : Fl := 0
  counts : List Nat := []
deriving DecidableEq, Repr

/-- A lane's result from FPMODE, TYPE, M, OPT and its sources A, B and C. -/
abbrev FLane := FpEnv → Nat → Nat → Nat → Nat → Nat → Nat → FRes

/-- The element format of a float type. -/
def fcode (t : Nat) : Nat := if t = 20 then 1 else if t = 21 then 2 else t
def packed (t : Nat) : Bool := t = 20 || t = 21

/-- Count (R137) of one result element. -/
def countOf (f r : Nat) (fl : Fl) (srcInf : Bool) : List Nat :=
  let x := decodeF f false r
  eventsOf f x.isNan (x.isInf && !srcInf) fl

/-- An element function: value, flags, counts. -/
abbrev FElem := Nat → Nat → Nat → Nat → FRes

/-- Both halves of a packed type, or element 0 (R126, R142). -/
def perHalf (t : Nat) (g : FElem) (a b c : Nat) : FRes :=
  let f := fcode t
  if packed t then
    let lo := g f (a % 2 ^ 16) (b % 2 ^ 16) (c % 2 ^ 16)
    let hi := g f (bf a 16 16) (bf b 16 16) (bf c 16 16)
    { val := lo.val + hi.val * 2 ^ 16, fl := lo.fl ||| hi.fl, counts := lo.counts ++ hi.counts }
  else g f a b c

/-- Sat01 (R142). -/
def sat01 (f r : Nat) : Nat :=
  let x := decodeF f false r
  if x.isNan || x.isNeg || x.isZero then 0
  else if ltX false (.fin false 1 0 false) x then fmtOne f else r

/-- Round, saturate and count a result of R142. -/
def finish (v : FpEnv) (f rnd : Nat) (sat : Bool) (x : XR × Fl) (srcInf : Bool) : FRes :=
  let (r, fl) := roundTo (v.ftz f) x.1 f rnd false
  let r := if sat then sat01 f r else r
  { val := r, fl := fl ||| x.2, counts := countOf f r (fl ||| x.2) srcInf }

def negIf (n : Bool) (x : XR) : XR := if n then x.negate else x

/-! ## Arithmetic (R142) -/

def fSum (sub : Bool) : FLane := fun v t m o => perHalf t fun f a b _ =>
  let a := negIf (bit o 0) (decodeF f (v.ftz f) a)
  let b := negIf (bit o 1 != sub) (decodeF f (v.ftz f) b)
  finish v f (v.mode m) (bit m 3) (dotX [] [a, b] (v.mode m)) (a.isInf || b.isInf)

def fFadd : FLane := fSum false
def fFsub : FLane := fSum true

def fFmul : FLane := fun v t m o => perHalf t fun f a b _ =>
  let a := negIf (bit o 0) (decodeF f (v.ftz f) a)
  let b := negIf (bit o 1) (decodeF f (v.ftz f) b)
  finish v f (v.mode m) (bit m 3) (dotX [(a, b)] [] (v.mode m)) (a.isInf || b.isInf)

/-- FFMA: 0 × Inf raises NV even when C is NaN. Log entry 32 (DEDUCED). -/
def fFfma : FLane := fun v t m o => perHalf t fun f a b c =>
  let a := negIf (bit o 0) (decodeF f (v.ftz f) a)
  let b := decodeF f (v.ftz f) b
  let c := negIf (bit o 1) (decodeF f (v.ftz f) c)
  let x := if !a.isNan && !b.isNan && (a.mul b).isNan then (.nan, flNV) else dotX [(a, b)] [c] (v.mode m)
  finish v f (v.mode m) (bit m 3) x (a.isInf || b.isInf || c.isInf)

/-! ## Minimum, maximum, median, saturation (R143) -/

/-- The pattern of a value that its format holds. -/
def encodeF (f : Nat) (x : XR) : Nat := (roundTo false x f 1 false).1

/-- minimumNumber or maximumNumber. -/
def minNum (max : Bool) (a b : XR) : XR :=
  if a.isNan then b else if b.isNan then a
  else if ltX true b a != max then b else a

/-- minimum or maximum. -/
def minNan (max : Bool) (a b : XR) : XR := if a.isNan || b.isNan then .nan else minNum max a b

/-- A word of R143: no flags, NaN results counted. -/
def pick2 (g : XR → XR → XR → XR) : FLane := fun v t _ _ => perHalf t fun f a b c =>
  let d := decodeF f (v.ftz f)
  let r := encodeF f (g (d a) (d b) (d c))
  { val := r, counts := eventsOf f (decodeF f false r).isNan false 0 }

def fFmin : FLane := pick2 fun a b _ => minNum false a b
def fFmax : FLane := pick2 fun a b _ => minNum true a b
def fFminm : FLane := pick2 fun a b _ => minNan false a b
def fFmaxm : FLane := pick2 fun a b _ => minNan true a b
def fFmed3 : FLane := pick2 fun a b c => minNum true (minNum false a b) (minNum false (minNum true a b) c)
def fFsat : FLane := fun v t _ _ => perHalf t fun f a _ _ => { val := sat01 f (encodeF f (decodeF f (v.ftz f) a)) }

/-! ## Sign operations (R144) -/

def fFabs : FLane := fun _ t _ _ => perHalf t fun f a _ _ => { val := bf a 0 (fmtS f) }
def fFneg : FLane := fun _ t _ _ => perHalf t fun f a _ _ => { val := signed_ f (!(bit a (fmtS f))) (bf a 0 (fmtS f)) }
def fFcpys : FLane := fun _ t _ _ => perHalf t fun f a b _ => { val := signed_ f (bit b (fmtS f)) (bf a 0 (fmtS f)) }

/-! ## Comparison and classification (R145, R146) -/

/-- Conditions 0 to 13 of R145. -/
def fcond (c : Nat) (a b : XR) : Bool :=
  if a.isNan || b.isNan then 7 ≤ c
  else if c = 6 then true else if c = 7 then false
  else cond (if 8 ≤ c then c - 8 else c) (if ltX false a b then -1 else if ltX false b a then 1 else 0) 0

/-- A comparison of a float type. -/
def fcompare (v : FpEnv) (f c a b : Nat) : Bool := fcond c (decodeF f (v.ftz f) a) (decodeF f (v.ftz f) b)

/-- Classify (R131), as the bit number of R146. -/
def classify (f v : Nat) : Nat :=
  match decodeF f false v with
  | .nan => 8
  | .inf g => if g then 0 else 7
  | .fin g n _ _ =>
    if n = 0 then (if g then 3 else 4)
    else if f ≠ 8 && bf v (fmtM f) (fmtX f) = 0 then (if g then 2 else 5)
    else if g then 1 else 6

/-! ## Integral values, scaling, splitting (R147) -/

def fFrnd : FLane := fun v t m _ => perHalf t fun f a _ _ =>
  let x := decodeF f (v.ftz f) a
  let y := match x with
    | .fin g _ _ _ => .fin g (toIntegral (v.mode m) x).1 0 false
    | x => x
  let r := encodeF f y
  { val := r, counts := eventsOf f (decodeF f false r).isNan false 0 }

/-- FSCALE: beyond ±1000 the power of two makes no difference to RoundTo. -/
def fFscale : FLane := fun v t m _ => perHalf t fun f a b _ =>
  let n : Int := max (-1000) (min 1000 (if packed t then signedOf 16 b else signedOf 32 b))
  let x := decodeF f (v.ftz f) a
  let y := match x with
    | .fin g k e st => .fin g k (e + n) st
    | x => x
  finish v f (v.mode m) (bit m 3) (y, 0) x.isInf

/-- FFRX: the significand, counted like any result, or the exponent. -/
def fFfrx : FLane := fun v t _ o a _ _ =>
  let x := decodeF t (v.ftz t) a
  if bit o 0 then
    { val := match x with
        | .nan => 0x80000000
        | .inf _ => 0x7FFFFFFF
        | .fin _ n _ _ => if n = 0 then 0 else wrapInt 32 (log2X x) }
  else
    let y := match x with
      | .fin g n e _ => if n = 0 then x else .fin g n (e - log2X x) false
      | x => x
    let r := encodeF t y
    { val := r, counts := eventsOf t (decodeF t false r).isNan false 0 }

/-! ## Conversions (R148 to R150) -/

/-- Element `k` of a source of width `w` (R148). -/
def cvtElem (w k v : Nat) : Nat := if w ≤ 16 then bf v (w * k) w else v

/-- A converted value of a float format, in its place in D (R148). -/
def toFloat (v : FpEnv) (dt m : Nat) (x : XR) : FRes :=
  let f := fcode dt
  let (r, fl) := roundTo (v.ftz f) x f (v.mode m) (bit m 3)
  { val := r, fl, counts := countOf f r fl x.isInf }

/-- CVTF: A into element `o` of D, or A and C into the halves. -/
def fCvtf (st : Nat) : FLane := fun v t m o a _ c =>
  let f := fcode st
  let src (k y : Nat) : XR := decodeF f (v.ftz f) (cvtElem (cvtW st) k y)
  if packed t then
    let lo := toFloat v t m (src 0 a)
    let hi := toFloat v t m (src 0 c)
    { val := lo.val + hi.val * 2 ^ 16, fl := lo.fl ||| hi.fl, counts := lo.counts ++ hi.counts }
  else
    let r := toFloat v t m (src o a)
    if cvtW t = 8 then { r with val := r.val * 2 ^ (8 * o) } else r

/-- CVTI. -/
def fCvti (st : Nat) : FLane := fun v t m o a _ _ =>
  let r := toFloat v t m (ofInt (intOf (signedTy st) (cvtW st) (cvtElem (cvtW st) o a)))
  if cvtW t = 8 then { r with val := r.val * 2 ^ (8 * o) } else r

/-- CVTFI: NaN gives 0, a value out of range the nearer bound, both with NV. -/
def fCvtfi (st : Nat) : FLane := fun v t m o a _ _ =>
  let f := fcode st
  let w := cvtW t
  let out : Nat := if w = 64 then 64 else 32
  let x := decodeF f (v.ftz f) (cvtElem (cvtW st) o a)
  let bound (g : Bool) : Int := clampTo (signedTy t) w (if g then -(2 ^ 70) else 2 ^ 70)
  match x with
  | .nan => { val := 0, fl := flNV }
  | .inf g => { val := wrapInt out (bound g), fl := flNV }
  | .fin g _ _ _ =>
    let (n, exact) := toIntegral (v.mode m) x
    let i : Int := if g then -n else n
    if clampTo (signedTy t) w i = i then { val := wrapInt out i, fl := if exact then 0 else flNX }
    else { val := wrapInt out (bound g), fl := flNV }

/-- SCLX (R151). -/
def fSclx : FLane := fun _ t _ _ a _ _ =>
  let emax : Int := if t = 3 then 8 else if t = 4 then 15 else if t = 5 then 4 else 2
  match decodeF 0 false a with
  | .nan => { val := 0xFF }
  | .inf _ => { val := 0xFF }
  | .fin g n e st =>
    { val := if n = 0 then 0x7F else (max 0 (min 254 (log2X (.fin g n e st) - emax + 127))).toNat }

/-! ## SFU and division (R153, R154) -/

def sfuRnd (v : FpEnv) (opc m : Nat) : Nat := if opc = 0x0D8 || opc = 0x0DA then v.mode m else 1

def fSfu (opc : Nat) : FLane := fun v t m _ => perHalf t fun f a _ _ =>
  let x := decodeF f (v.ftz f) a
  finish v f (sfuRnd v opc m) false (sfuFn opc x) x.isInf

def fDivf : FLane := fun v t m _ => perHalf t fun f a b _ =>
  let x := decodeF f (v.ftz f) a
  let y := decodeF f (v.ftz f) b
  let g := x.isNeg != y.isNeg
  let q : XR × Fl :=
    if x.isNan || y.isNan then (.nan, 0)
    else if (x.isZero && y.isZero) || (x.isInf && y.isInf) then (.nan, flNV)
    else if x.isInf then (.inf g, 0)
    else if y.isInf || x.isZero then (XR.zero g, 0)
    else if y.isZero then (.inf g, flDZ)
    else match x, y with
      | .fin _ n e _, .fin _ m d _ => (divX g n e m d, 0)
      | _, _ => (.nan, 0)
  finish v f (v.mode m) false q (x.isInf || y.isInf)

/-- DIVI (R155). -/
def fDivi : FLane := fun _ t _ o a b _ =>
  let sg := signedTy t
  let x := intOf sg 32 a
  let y := intOf sg 32 b
  if y = 0 then { val := if bit o 0 then a else 2 ^ 32 - 1, fl := flDZ }
  else if sg && x = -2 ^ 31 && y = -1 then { val := if bit o 0 then 0 else 2 ^ 31, fl := flNV }
  else { val := wrapInt 32 (if bit o 0 then x.tmod y else x.tdiv y) }

/-! ## Dot products (R157) -/

def fDot (n w : Nat) : FLane := fun v t m _ a b c =>
  let f := fcode t
  let z := decodeF 0 v.ftzs c
  let p := (List.range n).map (fun i => (decodeF f (v.ftz f) (bf a (w * i) w), decodeF f (v.ftz f) (bf b (w * i) w)))
  finish v 0 (v.mode m) (bit m 3) (dotX p [z] (v.mode m)) (z.isInf || p.any (fun e => e.1.isInf || e.2.isInf))

def fFdot2 : FLane := fDot 2 16
def fFdot4 : FLane := fDot 4 8
def fFmad2 : FLane := fun v t m _ a b c =>
  let f := fcode t
  let x := decodeF f (v.ftz f) (bf a (if bit m 0 then 16 else 0) 16)
  let y := decodeF f (v.ftz f) (bf b (if bit m 1 then 16 else 0) 16)
  let z := decodeF 0 v.ftzs c
  finish v 0 v.rnd (bit m 2) (dotX [(x, y)] [z] v.rnd) (x.isInf || y.isInf || z.isInf)

/-! ## Operands -/

/-- A small immediate as a source of a float type (R29). Log entry 34 (DEDUCED). -/
def fImmed (t : Nat) (n : Int) : Nat :=
  if t = 8 then (n.natAbs.log2 + 127) * 0x01010101
  else if packed t then immPat (fcode t) n * 0x10001
  else if cvtW t = 8 then immPat t n * 0x01010101
  else immPat t n

/-- A source of a float type. -/
def rdF (s : State) (x : Ctx) (imm : W64) (t : Nat) (o : Opd) (l : Nat) : Nat :=
  match o with
  | .im n => fImmed t n.toInt
  | o => (rd s x imm o l).toNat

/-! ## Words -/

/-- How long a float word takes (R141). -/
inductive FLat
  | fixed (n : Nat)
  | long (lo hi : Nat)

/-- A float word from what each lane gives. A uniform D computes once, and its flags go to every
executing lane (R106, R134). Log entry 31 (DEDUCED). -/
def floatWord (w : Op) (base : Nat) (lat : FLat) (wd wa : Nat) (comp : Bool)
    (val : Ctx → State → FpEnv → Nat → FRes) (s : State) : Out :=
  issue s { w, ra := wa, dst := vdst w.d wd, comp, base } (fun x s =>
    if x.on == 0 then s
    else
      let k := s.crew x.c x.k
      let v := k.env
      let lanes := if isU w.d then [x.low] else lanesOf x.on
      let res : Tab FRes := lanes.map (fun l => (l, val x s v l))
      let at_ (l : Nat) : FRes := tget { val := 0 } res l
      let fls := (lanesOf x.on).map (fun l => (l, (at_ (if isU w.d then x.low else l)).fl))
      let wr := wrN x comp w.d wd (fun l => (at_ l).val) ++ flWr k.flOn fls
      let counts := if k.cntOn then res.flatMap (fun e => e.2.counts) else []
      match lat with
      | .fixed n => fixedResult s x n wr counts
      | .long lo hi => boundedResult s x lo hi wr counts)

/-- A word whose sources A, B and C are of its type. -/
def fWord (w : Op) (lat : Nat) (g : FLane) (s : State) : Out :=
  floatWord w 1 (.fixed lat) 1 1 (uniformProducing w) (fun x s v l =>
    g v w.ty w.m w.opt (rdF s x w.imm w.ty w.a l) (rdF s x w.imm w.ty w.b l) (rdF s x w.imm w.ty w.c l)) s

def execFadd (w : Op) (s : State) : Out := fWord w 6 fFadd s
def execFsub (w : Op) (s : State) : Out := fWord w 6 fFsub s
def execFmul (w : Op) (s : State) : Out := fWord w 6 fFmul s
def execFfma (w : Op) (s : State) : Out := fWord w 6 fFfma s
def execFmin (w : Op) (s : State) : Out := fWord w 4 fFmin s
def execFmax (w : Op) (s : State) : Out := fWord w 4 fFmax s
def execFminm (w : Op) (s : State) : Out := fWord w 4 fFminm s
def execFmaxm (w : Op) (s : State) : Out := fWord w 4 fFmaxm s
def execFmed3 (w : Op) (s : State) : Out := fWord w 4 fFmed3 s
def execFsat (w : Op) (s : State) : Out := fWord w 4 fFsat s
def execFabs (w : Op) (s : State) : Out := fWord w 4 fFabs s
def execFneg (w : Op) (s : State) : Out := fWord w 4 fFneg s
def execFcpys (w : Op) (s : State) : Out := fWord w 4 fFcpys s
def execFrnd (w : Op) (s : State) : Out := fWord w 6 fFrnd s
def execFfrx (w : Op) (s : State) : Out := fWord w 6 fFfrx s

/-- FSCALE, whose B is an integer. -/
def execFscale (w : Op) (s : State) : Out :=
  floatWord w 1 (.fixed 6) 1 1 (uniformProducing w) (fun x s v l =>
    fFscale v w.ty w.m w.opt (rdF s x w.imm w.ty w.a l) (rdE s x w.imm (if packed w.ty then 10 else 11) w.b l) 0) s

/-- FCMP (R145, R112). -/
def execFcmp (w : Op) (s : State) : Out :=
  floatWord w 1 (.fixed 4) 1 1 (uniformProducing w) (fun x s v l =>
    { val := b2n (combine w.opt (fcompare v w.ty w.m (rdF s x w.imm w.ty w.a l) (rdF s x w.imm w.ty w.b l))
        (rd s x 0 w.c l != 0)) }) s

/-- FSET (R145). -/
def execFset (w : Op) (s : State) : Out :=
  floatWord w 1 (.fixed 4) 1 1 (uniformProducing w) (fun x s v l =>
    { val := if fcompare v w.ty w.m (rdF s x w.imm w.ty w.a l) (rdF s x w.imm w.ty w.b l)
        then (if bit w.opt 0 then 2 ^ 32 - 1 else fmtOne w.ty) else 0 }) s

/-- FCLASS (R146). -/
def execFclass (w : Op) (s : State) : Out :=
  floatWord w 1 (.fixed 4) 1 1 (uniformProducing w) (fun x s _ l =>
    { val := 2 ^ classify w.ty (cvtElem (cvtW w.ty) w.opt (rdF s x w.imm w.ty w.a l)) }) s

/-- The conversions, whose B is the source type. -/
def cvtWord (w : Op) (wd wa : Nat) (src : State → Ctx → Opd → Nat → Nat) (g : FLane) (s : State) : Out :=
  let w := { w with b := .no }
  floatWord w 1 (.fixed 6) wd wa (uniformProducing w) (fun x s v l =>
    g v w.ty w.m w.opt (src s x w.a l) 0 (src s x w.c l)) s

def execCvtf (w : Op) (s : State) : Out :=
  cvtWord w 1 1 (fun s x o l => rdF s x 0 (cvtSrc w) o l) (fCvtf (cvtSrc w)) s

def execCvti (w : Op) (s : State) : Out :=
  let n := if wide (cvtSrc w) then 2 else 1
  cvtWord w 1 n (fun s x o l => rdN s x { w with md := BitVec.ofNat 11 (cvtSrc w * 16) } n o l) (fCvti (cvtSrc w)) s

def execCvtfi (w : Op) (s : State) : Out :=
  cvtWord w (if w.w64 then 2 else 1) 1 (fun s x o l => rdF s x 0 (cvtSrc w) o l) (fCvtfi (cvtSrc w)) s

/-- SCLX, whose A is .f32. -/
def execSclx (w : Op) (s : State) : Out :=
  floatWord w 1 (.fixed 6) 1 1 (uniformProducing w) (fun x s v l => fSclx v w.ty w.m w.opt (rdF s x 0 0 w.a l) 0 0) s

/-! ## Block records (R128, R152) -/

/-- Bits of one element of a record. -/
def recBits (t : Nat) : Nat := if t = 3 || t = 4 then 8 else if t = 7 then 4 else 6

/-- PACKB, UNPKB: the crew's tile must be whole, and its lanes converged (R78). Log entry 26 (DEDUCED). -/
def recordWord (w : Op) (go : Ctx → State → State) (s : State) : Out :=
  issue s { w, dst := vdst w.d 1, coll := true, base := 1 } (fun x s =>
    if x.on == 0 then s
    else if (s.crew x.c x.k).tile != 32 then faultLanes s x (raises x.on 0x01)
    else collective s x 32 (go x))

def execPackb (w : Op) (s : State) : Out :=
  recordWord w (fun x s =>
    let n := recBits w.ty
    let e (i : Nat) : Nat := if x.mask.getLsbD i then bf (rd s x 0 w.a i).toNat 0 n else 0
    let sc := bf (rd s x w.imm w.b x.low).toNat 0 8
    let rec_ := sc + 256 * ((List.range 32).map (fun i => e i * 2 ^ (n * i))).sum
    fixedResult s x 8 (wrOf x false w.d (fun l => w32 (bf rec_ (32 * l) 32)))) s

def execUnpkb (w : Op) (s : State) : Out :=
  recordWord w (fun x s =>
    let n := recBits w.ty
    let k := s.crew x.c x.k
    let rec_ := ((List.range 9).map (fun i => (rd s x 0 w.a i).toNat * 2 ^ (32 * i))).sum
    let sc := bf rec_ 0 8
    let e (l : Nat) : Nat := bf rec_ (8 + n * l) n
    let val (l : Nat) : FRes :=
      if w.opt = 0 then { val := e l } else if w.opt = 1 then { val := sc }
      else
        let v : XR := if sc = 255 then .nan else match decodeF w.ty false (e l) with
          | .fin g m d _ => .fin g m (d + sc - 127) false
          | y => y
        let (r, fl) := roundTo k.env.ftzs v 0 1 false
        { val := r, fl, counts := countOf 0 r fl false }
    let res : Tab FRes := (lanesOf x.on).map (fun l => (l, val l))
    fixedResult s x 8 (wrOf x false w.d (fun l => w32 (tget { val := 0 } res l).val) ++
        flWr k.flOn (res.map (fun e => (e.1, e.2.fl))))
      (if k.cntOn then res.flatMap (fun e => e.2.counts) else [])) s

/-! ## SFU, division -/

/-- An SFU word holds its issue slot for 4 clocks, 8 when packed (R141). -/
def sfuBase (t : Nat) : Nat := if packed t then 8 else 4

def sfuWord (w : Op) (lat : FLat) (g : FLane) (s : State) : Out :=
  floatWord w (sfuBase w.ty) lat 1 1 (uniformProducing w) (fun x s v l =>
    g v w.ty w.m w.opt (rdF s x w.imm w.ty w.a l) (rdF s x w.imm w.ty w.b l) 0) s

def execExp2 (w : Op) (s : State) : Out := sfuWord w (.fixed 12) (fSfu 0x0D6) s
def execLog2 (w : Op) (s : State) : Out := sfuWord w (.fixed 12) (fSfu 0x0D7) s
def execRcp (w : Op) (s : State) : Out := sfuWord w (.fixed 12) (fSfu 0x0D8) s
def execRsq (w : Op) (s : State) : Out := sfuWord w (.fixed 12) (fSfu 0x0D9) s
def execSqrt (w : Op) (s : State) : Out := sfuWord w (.long 20 48) (fSfu 0x0DA) s
def execSin (w : Op) (s : State) : Out := sfuWord w (.fixed 12) (fSfu 0x0DB) s
def execCos (w : Op) (s : State) : Out := sfuWord w (.fixed 12) (fSfu 0x0DC) s
def execTanh (w : Op) (s : State) : Out := sfuWord w (.fixed 12) (fSfu 0x0DD) s
def execSigm (w : Op) (s : State) : Out := sfuWord w (.fixed 12) (fSfu 0x0DE) s
def execErf (w : Op) (s : State) : Out := sfuWord w (.fixed 12) (fSfu 0x0DF) s
def execDivf (w : Op) (s : State) : Out := sfuWord w (.long 20 48) fDivf s

def execDivi (w : Op) (s : State) : Out :=
  floatWord w 4 (.long 20 48) 1 1 (uniformProducing w) (fun x s v l =>
    fDivi v w.ty w.m w.opt (rdE s x w.imm w.ty w.a l) (rdE s x w.imm w.ty w.b l) 0) s

/-! ## Dot products -/

/-- A and B are of the type, C is .f32. -/
def dotWord (w : Op) (lat : Nat) (g : FLane) (s : State) : Out :=
  floatWord w 1 (.fixed lat) 1 1 (uniformProducing w) (fun x s v l =>
    g v w.ty w.m w.opt (rdF s x w.imm w.ty w.a l) (rdF s x w.imm w.ty w.b l) (rdF s x w.imm 0 w.c l)) s

def execFdot2 (w : Op) (s : State) : Out := dotWord w 6 fFdot2 s
def execFdot4 (w : Op) (s : State) : Out := dotWord w 8 fFdot4 s
def execFmad2 (w : Op) (s : State) : Out := dotWord w 6 fFmad2 s

/-! ## Flags, counters, mode (R158 to R160) -/

/-- FLRD: the lane's %fl, or the OR of the executing lanes'. -/
def execFlrd (w : Op) (s : State) : Out :=
  issue s { w, dst := vdst w.d 1 } (fun x s =>
    let all := (lanesOf x.on).foldl (fun a l => a ||| readFl s x l) 0
    fixedResult s x 2 (wrOf x false w.d (fun l =>
      (if bit w.opt 0 || isU w.d then all else readFl s x l).setWidth 32)))

/-- FLCLR and FLSET act whatever FPMODE.FL is, and are seen from the next clock. Log entry 36 (DEDUCED). -/
def flagWord (w : Op) (mk : Tab (BitVec 5) → Wr) (s : State) : Out :=
  issue s { w } (fun x s =>
    if x.on == 0 then s
    else fixedResult s x 1 [mk ((lanesOf x.on).map (fun l => (l, (rd s x 0 w.a l).setWidth 5)))])

def execFlclr (w : Op) (s : State) : Out := flagWord w .flClr s
def execFlset (w : Op) (s : State) : Out := flagWord w .fl s

/-- FCNTRD: events that other crews wrote within the last 256 clocks may be missing from the value.
Log entry 37 (DEDUCED). -/
def execFcntrd (w : Op) (s : State) : Out :=
  issue s { w, dst := vdst w.d 1 } (fun x s =>
    let k := s.crew x.c x.k
    let d := s.grid k.grid
    let i := w.ty * 4 + w.opt
    let late := (d.recent.filter (fun e => e.2.2.2 == i && s.clk < e.1 + 256 && !((e.2.1, e.2.2.1) == (x.c, x.k)))).length
    let v := if foreign s k then Config.staleRead s.free (12288 + i) k.grid else (tget 0 d.counters i).toNat - Config.staleRead s.free (8192 + i) 0 % (late + 1)
    boundedResult s x 2 400 (wrOf x false w.d (fun _ => w32 v)))

/-- FCNTCLR: words issued from the next clock see the cleared counters; events of the crew's earlier words are counted
before the clear (R141, R159). Log entry 37 (DEDUCED). -/
def execFcntclr (w : Op) (s : State) : Out :=
  issue s { w } (fun x s =>
    if x.on == 0 then s
    else fixedResult s x 1 [.cnt (if w.mb 0 then List.range 36 else [w.ty * 4 + w.opt])])

/-- FPMODE as the words that have issued leave it (R160, R69). Log entry 36 (DEDUCED). -/
def modeNow (k : Crew) : W32 :=
  (k.results.flatMap (·.wr)).foldl (fun v w => match w with
    | .mode a m => (v &&& ~~~m) ||| (a &&& m)
    | _ => v) k.fpmode

/-- FMODE: A under the mask B, from the next clock; a rounding code that R136 does not name raises cause
0x01. Log entry 36 (DEDUCED). -/
def execFmode (w : Op) (s : State) : Out :=
  issue s { w } (fun x s =>
    if x.on == 0 then s
    else
      let a := rd s x w.imm w.a x.low
      let m := rd s x w.imm w.b x.low &&& 0xF7
      let new := (modeNow (s.crew x.c x.k) &&& ~~~m) ||| (a &&& m)
      let r := bf new.toNat 0 3
      if r = 0 || 5 ≤ r then faultLanes s x (raises x.on 0x01)
      else fixedResult s x 1 [.mode a m])

def execFmodeGet (w : Op) (s : State) : Out :=
  issue s { w, dst := vdst w.d 1 } (fun x s =>
    let v := (s.crew x.c x.k).fpmode
    fixedResult s x 2 (wrOf x false w.d (fun _ => v)))

end Sys2Proof.Machine
end

