-- ==== Sys2Proof/Machine/Rmw.lean ====
section
/-! DEFINITION. Machine/Rmw.lean: what a read-modify-write or a deferred operator does with an old value
(R221, R222, R289). -/

namespace Sys2Proof.Machine

/-- A float sum rounded to nearest, never flushed (R221, R289). -/
def addF (f a b : Nat) : Nat := (roundTo false (dotX [] [decodeF f false a, decodeF f false b] 1).1 f 1 false).1

/-- The lesser or greater by R143. -/
def minF (max : Bool) (f a b : Nat) : Nat := encodeF f (minNum max (decodeF f false a) (decodeF f false b))

/-- Each half of a packed word. -/
def perHalves (g : Nat → Nat → Nat) (a b : Nat) : Nat :=
  g (a % 65536) (b % 65536) + 65536 * g (a / 65536 % 65536) (b / 65536 % 65536)

/-- The minimum or maximum of two numbers of `w` bits. -/
def minI (max sg : Bool) (w a b : Nat) : Nat :=
  if (intOf sg w a < intOf sg w b) != max then a else b

/-- Table 32 (w = 32) and table 64 (w = 64) of R221. -/
def tableOp (w op m b : Nat) : Nat :=
  match op with
  | 0 => (m + b) % 2 ^ w
  | 1 => minI false true w m b
  | 2 => minI true true w m b
  | 3 => minI false false w m b
  | 4 => minI true false w m b
  | 5 => m &&& b
  | 6 => m ||| b
  | 7 => m ^^^ b
  | 8 => if b ≤ m then 0 else m + 1
  | 9 => if m = 0 || b < m then b else m - 1
  | 10 => addF 0 m b
  | 11 => minF false 0 m b
  | 12 => minF true 0 m b
  | 13 => perHalves (addF 1) m b
  | _ => perHalves (addF 2) m b

/-- The new value of an RMW of `n` bytes, or none where a compare fails (R222). -/
def rmwNew (fn : RmwFn) (n old b c : Nat) : Option Nat :=
  match fn with
  | .t32 op => some (tableOp 32 op old (b % 2 ^ 32))
  | .t64 op => some (tableOp 64 op old (b % 2 ^ 64))
  | .xchg => some (b % 2 ^ (8 * n))
  | .cas => if old = b % 2 ^ (8 * n) then some (c % 2 ^ (8 * n)) else none

/-! ## Deferred operators (R289) -/

/-- The rank of an ARGMIN or ARGMAX pair: NaN outermost, −0 below +0, between equal values the lower index
wins. A larger rank loses. -/
def argRank (max : Bool) (p : Nat) : Int :=
  let v : Nat := p / 2 ^ 32 % 2 ^ 32
  let i : Nat := p % 2 ^ 32
  let nan := (decodeF 0 false v).isNan
  let key : Int := if v < 2 ^ 31 then (v : Int) + 1 else -((v : Int) - 2 ^ 31)
  let key := if max then -key else key
  let key : Int := if nan then 2 ^ 33 else key
  key * 2 ^ 32 + (i : Int)

/-- A pair with its NaN made canonical. -/
def argCanon (p : Nat) : Nat :=
  if (decodeF 0 false (p / 2 ^ 32 % 2 ^ 32)).isNan then 0x7FC00000 * 2 ^ 32 + p % 2 ^ 32 else p

def argBest (max : Bool) (m v : Nat) : Nat :=
  let m := argCanon m
  let v := argCanon v
  if argRank max v < argRank max m then v else m

/-- The new value of the touched bytes, `n` of them, under a record's operator (R289). -/
def recNew (op n m v : Nat) : Nat :=
  match op with
  | 0x00 => v % 2 ^ (8 * n)
  | 0x01 => tableOp 32 0 m v
  | 0x02 => tableOp 64 0 m v
  | 0x03 => addF 0 m v
  | 0x04 => perHalves (addF 2) m v
  | 0x05 => minI false true 32 m v
  | 0x06 => minI true true 32 m v
  | 0x07 => minI false false 32 m v
  | 0x08 => minI true false 32 m v
  | 0x09 => minF false 0 m v
  | 0x0A => minF true 0 m v
  | 0x0B => minI false true 64 m v
  | 0x0C => minI true true 64 m v
  | 0x0D => minI false false 64 m v
  | 0x0E => minI true false 64 m v
  | 0x0F => m &&& v
  | 0x10 => m ||| v
  | 0x11 => m ^^^ v
  | 0x12 => m &&& v
  | 0x13 => m ||| v
  | 0x14 => m ^^^ v
  | 0x15 => argBest false m v
  | _ => argBest true m v

/-- The record operator of a table 32 operator, if it has one (R285). -/
def recordOp (op : Nat) : Option Nat :=
  match op with
  | 0 => some 0x01
  | 1 => some 0x05
  | 2 => some 0x06
  | 3 => some 0x07
  | 4 => some 0x08
  | 5 => some 0x0F
  | 6 => some 0x10
  | 7 => some 0x11
  | 10 => some 0x03
  | 11 => some 0x09
  | 12 => some 0x0A
  | 14 => some 0x04
  | _ => none

/-- The table 32 operator of a REDF operator (R220). -/
def redfOp (op : Nat) : Nat :=
  match op with
  | 0 => 10
  | 1 => 13
  | 2 => 14
  | 3 => 11
  | _ => 12

end Sys2Proof.Machine
end

