-- ==== Sys2Proof/Machine/Mem.lean ====
section
/-! DEFINITION. Machine/Mem.lean: the path of a lane's access: line requests (R169), checks (R182 to R184),
sending (R170, R386), results. -/

namespace Sys2Proof.Machine

/-! ## Forming line requests (R169) -/

/-- One lane's access: `n` bytes from an address; `at0` is where they stand in the lane's value, `space` the
space (0 global, 1 scratchpad, 2 on-chip map), `tgt` the core whose scratchpad or registers it reaches; `share` marks a lane
whose read-modify-write is that of a lower lane (R227). -/
structure LaneAcc where
  lane : Nat
  addr : Nat
  n : Nat
  space : Nat := 0
  tgt : Nat := 0
  at0 : Nat := 0
  data : List Byte := []
  b : BitVec 128 := 0
  c : BitVec 128 := 0
  key : Option Key := none
  share : Bool := false
deriving DecidableEq, Repr

/-- The pieces of an access with their lines, from byte `pos` on. -/
def cutLines (x : LaneAcc) : Nat → Nat → List (Nat × Piece)
  | 0, _ => []
  | k + 1, pos =>
    if x.n ≤ pos then []
    else
      let a := (x.addr + pos) % 2 ^ 64
      let m := min (x.n - pos) (256 - a % 256)
      (a / 256 * 256, { lane := x.lane, addr := a, at_ := x.at0 + pos, len := m, base := x.addr
                        data := (x.data.drop pos).take m, b := x.b, c := x.c, key := x.key })
        :: cutLines x k (pos + m)

/-- Pieces grouped by line, the lines in the order of their lowest lane. -/
def groupLines (l : List (Nat × Piece)) : List (Nat × List Piece) :=
  l.foldl (fun acc e =>
    if acc.any (fun g => g.1 == e.1) then acc.map (fun g => if g.1 == e.1 then (g.1, g.2 ++ [e.2]) else g)
    else acc ++ [(e.1, [e.2])]) []

/-- The line requests of a word: one for each line, or with `each` one for each lane (R447). A lane that shares
the read-modify-write of a lower lane (R227) has a piece of no bytes. Log entry 41 (DEDUCED). -/
def lineGroups (each : Bool) (l : List LaneAcc) : List (Nat × List Piece) :=
  let ps := l.flatMap (fun x => if x.share then [(x.addr / 256 * 256, { lane := x.lane, addr := x.addr, at_ := 0, len := 0, base := x.addr })]
    else cutLines x 3 0)
  if each then ps.map (fun e => (e.1, [e.2])) else groupLines ps

/-- The lines of an access whose presence bits are 0 (R166). -/
def absentLines (o : Core) (a n : Nat) : List Nat := (linesOf a n).filter (fun i => !(o.present i))

/-- The request of one line, which takes a fresh number. A lane that shares a lower lane's access waits for the same lines. -/
def lineReq (s : State) (base : Req) (e : Nat × List Piece) : Req :=
  let n (p : Piece) : Nat := if p.len = 0 then base.width else p.len
  { base with id := s.nextId, line := e.1, pieces := e.2
              absent := if base.space = 1 then e.2.flatMap (fun p => absentLines (s.core base.tgt) p.addr (n p)) else [] }

/-- Add the requests of a word, which take fresh numbers, after the core's others. Log entry 41 (DEDUCED). -/
def addReqs (s : State) (base : Req) (g : List (Nat × List Piece)) : List Nat × State :=
  g.foldl (fun (acc : List Nat × State) e =>
    (acc.1 ++ [acc.2.nextId], { acc.2 with reqs := acc.2.reqs ++ [lineReq acc.2 base e], nextId := acc.2.nextId + 1 })) ([], s)

/-! ## Changing requests -/

def findReq (s : State) (id : Nat) : Option Req := s.reqs.find? (fun r => r.id == id)
def setReq (s : State) (r : Req) : State := { s with reqs := s.reqs.map (fun q => if q.id == r.id then r else q) }

/-- A request that is sent or served stands behind all others from then on. -/
def moveEnd (s : State) (r : Req) : State := { s with reqs := s.reqs.filter (fun q => !(q.id == r.id)) ++ [r] }

/-- Stages before the checks of R182 are done. -/
def Stage.unchecked : Stage → Bool
  | .look => true
  | .walk => true
  | .query _ => true
  | _ => false

/-- Stages before the request is sent. -/
def Stage.unsent : Stage → Bool
  | .ready => true
  | .held => true
  | .stalled => true
  | g => g.unchecked

/-! ## Results -/

/-- The value of a lane's result, as register words, lowest first (R187). -/
def Fill.words (f : Fill) (l : Nat) : List W32 :=
  let num (lane n : Nat) : Nat := leNat ((List.range n).map (fun i => tget 0 f.bytes (16 * lane + i)))
  match f.kind with
  | .ext sg w => [w32 (if sg then sext32 (8 * w) (num l w) else num l w)]
  | .regs n => leWords n (num l (4 * n))
  | .arrv w64 parts =>
    let n := if w64 then 8 else 4
    match parts.find? (fun p => p.1 == l) with
    | some (_, src, add) => leWords (n / 4) ((num src n + add) % 2 ^ (8 * n))
    | none => []
  | .none => []

/-- How many registers a result takes. -/
def FillKind.regCount : FillKind → Nat
  | .ext _ _ => 1
  | .regs n => n
  | .arrv w64 _ => if w64 then 2 else 1
  | .none => 0

/-- The writes of a gathered result, in the lanes that received their data; a whole, uniform-producing load is stored
compressed (R100). -/
def Fill.wr (f : Fill) : List Wr :=
  let lanes := lanesOf f.lanes
  if lanes.isEmpty then [] else
  (List.range f.kind.regCount).flatMap (fun i =>
    match f.dst with
    | .v n => if f.comp == some f.lanes then [.comp (n.toNat + i) ((f.words (lanes.headD 0)).getD i 0)]
              else [.v (n.toNat + i) (lanes.map (fun l => (l, (f.words l).getD i 0)))]
    | .u n => [.u (n.toNat + i) ((f.words (lanes.headD 0)).getD i 0)]
    | _ => [])

/-- A result whose requests are all done gets its value. -/
def closeFill (s : State) (res : Nat) : State :=
  if res = 0 || s.reqs.any (fun r => r.res == res) || s.cores.any (fun c => c.2.slots.any (fun k =>
      k.2.waits.any (fun w => w.res == res))) then s
  else match s.fills.find? (fun f => f.res == res) with
    | some f => fillResult { s with fills := s.fills.filter (fun g => !(g.res == res)) } f.core f.slot res f.wr
    | none => s

/-- Take a request away; its word's result may be complete, and a retired crew may have none left. -/
def dropReq (s : State) (r : Req) : State :=
  let reqs := s.reqs.filter (fun q => !(q.id == r.id))
  closeFill { s with reqs, ghosts := s.ghosts.filter (fun e => reqs.any (fun q => q.uid == e.1)) } r.res

/-- Bytes of a lane reach its result. -/
def putBytes (s : State) (res lane at0 : Nat) (b : List Byte) : State :=
  { s with fills := s.fills.map (fun f =>
      if f.res == res then { f with bytes := (b.zipIdx).foldl (fun t e => tset t (16 * lane + at0 + e.2) e.1) f.bytes } else f) }

/-! ## Faults (R182 to R184) -/

/-- Lanes of a crew that can still take a fault of a word: those live here that have not already faulted at
the word or an earlier one. -/
def canFault (s : State) (r : Req) (l : Nat) : Bool :=
  let w := s.crew r.core r.slot
  let old : FaultRec := tget { cause := 0 } w.faults l
  w.uid == r.uid && w.st == .resident && w.mask.getLsbD l &&
  !((w.parkOf l == .fault || inTrap (tget 0 w.trapinfo l)) && old.word ≤ r.word)

/-- What the crew drops when lanes leave a word: its last reads, the lanes' wait, release and acquire. Lanes that waited with
a lane of a word with a uniform D go on. -/
def crewLeaves (r : Req) (ids : List Nat) (m : Mask) (w : Crew) : Crew :=
  let mine (o : Ord) : Bool := match o.after with
    | .reqs l => l.any (ids.contains ·)
    | _ => false
  let ords := w.ords.map (fun o => if mine o then { o with lanes := o.lanes &&& ~~~m } else o)
  let waits := w.waits.map (fun q => if r.acc == .wait q.id then { q with lanes := q.lanes &&& ~~~m } else q)
  let w := (waits.filter (fun q => q.lanes == 0)).foldl (fun w q => forLanes q.also (fun l w => w.setPark l .no) w) w
  { w with lasts := w.lasts.filter (fun e => !(e.1 == r.word)), waits := waits.filter (fun q => q.lanes != 0), ords := ords.filter (fun o => !(mine o && o.lanes == 0)) }

/-- Lanes leave what their word still has to do: its result, its unsent writes, its release or acquire, its
last reads, its wait. -/
def leaveWord (s : State) (r : Req) (m : Mask) : State :=
  let ids := (s.reqs.filter (fun q => q.word == r.word)).map (·.id)
  let cut (q : Req) : Req :=
    if q.word == r.word && (q.id == r.id || (q.stage.unsent && q.acc.writes)) then
      { q with pieces := q.pieces.filter (fun p => !(m.getLsbD p.lane)) } else q
  let s := { s with reqs := (s.reqs.map cut).filter (fun q => !(q.word == r.word && q.pieces.isEmpty)) }
  let s := { s with fills := s.fills.map (fun (f : Fill) => if f.res == r.res then { f with lanes := f.lanes &&& ~~~m } else f) }
  let s := s.modCrew r.core r.slot (fun w => if w.uid == r.uid then crewLeaves r ids m w else w)
  closeFill s r.res

/-- Lanes of a request fault, each with its own address (R184). Log entry 55 (DEDUCED). -/
def failLanes (s : State) (r : Req) (l : List (Nat × Nat)) : State :=
  if l.isEmpty then s else
  let m := maskOf (l.map (·.1))
  let hit := l.filter (fun e => canFault s r e.1)
  let addr (lane : Nat) : W64 := w64 (((r.pieces.find? (fun p => p.lane == lane)).map (·.base)).getD r.line)
  let rs := hit.map (fun e => { lane := e.1, cause := e.2, addr := addr e.1, word := r.word : Raise })
  takeFaults (leaveWord s r m) r.core r.slot r.pc r.len rs

/-- Every lane of a request fails with one cause; PREF never faults (R192). -/
def failReq (s : State) (r : Req) (cause : Nat) : State :=
  match r.acc with
  | .pref _ => dropReq s r
  | _ => failLanes s r ((lanesOf r.lanes).map (fun l => (l, cause)))

/-! ## The checks of steps 3 to 6 -/

/-- Step 4: RD for loads, W for stores; an RMW that returns a value needs both (R182). Log entry 43 (DEDUCED). -/
def Acc.permits (a : Acc) (t : Trans) : Bool :=
  match a with
  | .load | .acq | .rld | .wait _ | .pref _ | .migra => t.rd
  | .rmw _ ret => t.w && (t.rd || !ret)
  | .ratom _ => t.w && t.rd
  | .store | .rel | .rst | .dst | .dred _ | .redf _ _ => t.w
  | .bkadd _ _ => t.w && t.rd
  | .watch => t.rd
  | .cctl _ | .probe | .pqry _ | .owninv => true

/-- Words whose checks end with the virtual stage or do not ask what a page permits. Log entry 43 (DEDUCED). -/
def Acc.looksOnly : Acc → Bool
  | .probe => true
  | .pqry _ => true
  | .owninv => true
  | _ => false

/-- A view page that a word may not reach: one with D set, or any for the words that only lines of memory take (R177,
R228). Log entry 44 (DEDUCED). -/
def badView (r : Req) (t : Trans) : Bool :=
  let view : Bool := match r.acc with
    | .rmw _ _ | .redf _ _ | .ratom _ | .bkadd _ _ | .dst | .dred _ => true
    | _ => r.atom
  t.fw && (t.dfr || view)

/-- A host page that a word may not reach (R266): its kind is not allowed there, or the entry sets D.
Log entry 44 (DEDUCED). -/
def badHost (r : Req) (t : Trans) (host : Bool) : Bool := host && (t.dfr || !r.hostOk)

/-- Words that a deferred page, or a page that is not deferred, refuses with cause 0x14 (R286).
Log entry 65 (DEDUCED). -/
def badDeferred (r : Req) (t : Trans) : Bool :=
  match r.acc with
  | .dst | .dred _ => !t.dfr
  | .rmw fn ret => t.dfr && (ret || r.relWord || (match fn with
      | .t32 op => (recordOp op).isNone
      | _ => true))
  | .redf fn _ => t.dfr && (r.relWord || (match fn with
      | .t32 op => (recordOp op).isNone
      | _ => true))
  | .rel | .rst | .ratom _ => t.dfr
  | _ => false

/-- A request appends records instead of storing (R285). Log entry 67 (DEDUCED). -/
def Req.defers (r : Req) : Bool :=
  (match r.tr with | some t => t.dfr && !t.fw | none => false) && !r.plain &&
  (match r.acc with | .store | .dst | .dred _ | .redf _ _ => true | .rmw _ ret => !ret | _ => false)

/-- Step 6: the lanes of a view access that no enabled window covers. MIGRA stops at step 5 (R398). -/
def uncovered (s : State) (r : Req) (t : Trans) : List Nat :=
  if !t.fw || r.acc.looksOnly || r.acc == .migra then []
  else (r.pieces.filter (fun p => (List.range p.len).any (fun i =>
    (windowOf s (t.gpn * 65536 + (p.addr + i) % 65536)).isNone))).map (·.lane)

/-- A BKADD's last checks: the owner is this chip, each address is a multiple of 4, the page is not deferred, the
context has no key (R464, R465, R479). -/
def checkBkadd (s : State) (r : Req) (t : Trans) (c f : Nat) : State :=
  let s := setReq s { r with stage := .ready }
  if c != s.chipid || stagingFrame f then failReq s r 0x11
  else
    let s := failLanes s r ((r.pieces.filter (fun p => p.base % 4 != 0)).map (fun p => (p.lane, 0x11)))
    match findReq s r.id with
    | some r => if t.dfr then failReq s r 0x14 else if (keyOf s r.ctx).isSome then failReq s r 0x40 else s
    | none => s

/-- The owner is known: step 5 and what follows it; last of all the alignment of DRED and DRED64 (R319). -/
def checkOwner (s : State) (r : Req) (t : Trans) (o : Owner) : State :=
  let r := { r with owner := some o }
  match o with
  | .host _ => setReq s { r with stage := .ready }
  | .dram c _ f =>
    if !(reachable s c) then failReq (setReq s r) r 0x30
    else match r.acc with
      | .pqry _ => setReq s { r with stage := .ready }
      | .bkadd _ _ => checkBkadd s r t c f
      | _ =>
        if stagingFrame f || r.rc.any (fun v => v.1 != c) then failReq (setReq s r) r 0x11
        else if c != s.chipid && (match r.acc with | .redf _ h => h | _ => false) then failReq (setReq s r) r 0x50
        else match r.acc with
          | .dred _ =>
            let r := { r with stage := .ready }
            failLanes (setReq s r) r ((r.pieces.filter (fun p => p.base % r.width != 0)).map (fun p => (p.lane, 0x11)))
          | _ => setReq s { r with stage := .ready }

/-- The owner stage of a request whose translation is known. WATCH takes no line that is not on a host page (R278); PQRY.home
always asks, so the home must answer (R416). -/
def askOwner (s : State) (r : Req) (t : Trans) : State :=
  let r := { r with tr := some t }
  let ask (s : State) : State := let (q, s) := newQuery s t.gpn; setReq s { r with stage := .query q }
  let home := homeOf s t.gpn
  match r.acc with
  | .probe | .owninv => setReq s { r with stage := .ready }
  | .watch => if t.fw then failReq (setReq s r) r 0x11 else
    match ownerNow s t.gpn with
    | .known o => checkOwner (ocTouch s t.gpn) r t o
    | .ask => ask s
    | .bad c => failReq (setReq s r) r c
  | a =>
    if t.fw then
      let bad := uncovered s r t
      let s := setReq s { r with stage := .ready }
      if bad.isEmpty then s
      else match a with
        | .pref _ => dropReq s r
        | _ => failLanes s r (bad.eraseDups.map (fun l => (l, 0x10)))
    else match a, ownerNow s t.gpn with
      | .pqry true, .known (.host f) => checkOwner s r t (.host f)
      | .pqry true, .known _ =>
        if !(reachable s home) then failReq (setReq s r) r 0x30 else if (s.conn home).lost then failReq (setReq s r) r 0x31 else ask s
      | _, .known o => checkOwner (ocTouch s t.gpn) r t o
      | _, .ask => ask s
      | _, .bad c => failReq (setReq s r) r c

/-- A walk begins: what it finds now is its answer if the TLBs are invalidated before it ends (R282).
Log entry 40 (DEDUCED). -/
def beginWalk (s : State) (r : Req) : State := setReq s { r with stage := .walk, old := (walk s r.ctx r.line).1.map (·.2), keepOld := false }

/-- A translation is found: step 4, then the owner stage. A TLB entry that forbids the access is walked again
first (R183). Log entry 44 (DEDUCED). -/
def checkEntry (s : State) (r : Req) (t : Trans) : State :=
  let host := (tget? s.hostPages t.gpn).isSome && !t.fw
  if !r.acc.looksOnly && (!(r.acc.permits t) || badView r t) then
    (if r.fresh then failReq s r 0x11 else beginWalk s r)
  else if !r.acc.looksOnly && badHost r t host then failReq s r 0x11
  else if badDeferred r t then failReq s r 0x14
  else askOwner s r t

/-- A request looks in the TLB (R178). -/
def lookUp (s : State) (r : Req) : State :=
  match tlbLookup (s.core r.core) r.ctx r.line with
  | some t => checkEntry s r t
  | none => beginWalk s r

/-- What a walk under way finds: the tables as they are, or as they were before an INVTLB (R282). -/
def walkAnswer (s : State) (r : Req) : State × Option Trans :=
  if r.keepOld then (s, r.old) else walkReport s (dieOfCore r.core) r.ctx r.line

/-- TABLE_WALK_DONE: the walker's answer fills the TLB and the checks go on (R180, R182, R183); an entry that INVTLB has
overtaken serves this access alone. Log entry 40 (DEDUCED). -/
def walked (s : State) (r : Req) : State :=
  let (s, t) := walkAnswer s r
  match t with
  | some t =>
    let s := if r.keepOld then s else s.modCore r.core (fun o => tlbFill o s.free r.ctx r.line t)
    checkEntry { s with free := s.free + 1 } { r with fresh := true, old := none, keepOld := false } t
  | none =>
    match r.acc with
    | .probe => setReq s { r with stage := .ready }
    | _ => failReq s r 0x10

/-! ## Deferred records of a word (R188, R290, R319) -/

/-- The device address of a piece at its owner. -/
def devOf (r : Req) (a : Nat) : Nat :=
  match r.tr, r.owner with
  | some t, some (.dram _ m f) => if t.fw then t.gpn * 65536 + a % 65536 else devAddr m f (a % 65536)
  | some t, _ => t.gpn * 65536 + a % 65536
  | none, _ => 0

/-- The records of one piece. -/
def pieceRecs (r : Req) (p : Piece) : List LogRec :=
  let chip := (r.owner.bind ownerChip).getD 0
  let gpn := (r.tr.map (·.gpn)).getD 0
  let a := devOf r p.addr
  let one (op n : Nat) : List LogRec := [{ op, mw := mwOf (a % 8) n, chip, wi := a / 8, value := p.b.setWidth 64, gpn }]
  match r.acc with
  | .dred op => one op (if r.width = 8 then 8 else 4)
  | .rmw (.t32 op) _ => one ((recordOp op).getD 0) 4
  | .redf (.t32 op) _ => one ((recordOp op).getD 0) 4
  | _ => storeRecs chip gpn 16 a p.data

/-- The records of the next lane of a word in ascending address order (R290), and the lane. -/
def nextLane (s : State) (word : Nat) : Option (Nat × List LogRec) :=
  let mine := s.reqs.filter (fun r => r.word == word && r.defers)
  let ps := mine.flatMap (fun r => r.pieces.map (fun p => (r, p)))
  match (List.range 32).find? (fun l => ps.any (fun e => e.2.lane == l)) with
  | none => none
  | some l => some (l, ((ps.filter (fun e => e.2.lane == l)).foldl (fun (t : Tab (List LogRec)) e =>
      tset t e.2.at_ (pieceRecs e.1 e.2)) []).flatMap (·.2))

/-- Take a lane's deferred pieces out of a word. -/
def dropLane (s : State) (word l : Nat) : State :=
  { s with reqs := (s.reqs.map (fun r => if r.word == word && r.defers then
      { r with pieces := r.pieces.filter (fun p => !(p.lane == l)) } else r)).filter (fun r => !(r.word == word && r.pieces.isEmpty)) }

/-- A word's records enter the log lane by lane. While the log is full the crew parks with every ready lane
and the rest waits; without a free chunk the remaining lanes raise cause 0x15 (R291). -/
def appendWord (c k word : Nat) (r : Req) : Nat → State → State
  | 0, s => s
  | n + 1, s =>
    match nextLane s word with
    | none => s
    | some (l, recs) =>
      match appendLane s c k r.uid l recs with
      | .done s => appendWord c k word r n (dropLane s word l)
      | .full s => if (s.crew c k).uid = r.uid then s.modCrew c k (fun w => forLanes (w.ready s.clk) (fun l w => w.setPark l .log) w) else s
      | .noChunk =>
        let lanes := ((s.reqs.filter (fun q => q.word == word && q.defers)).flatMap (fun q => q.pieces.map (·.lane))).eraseDups
        let s' := lanes.foldl (fun s l => dropLane s word l) s
        failLanes s' r (lanes.map (fun l => (l, 0x15)))

/-! ## PROBE (R194) -/

/-- The status word of a lane. -/
def probeWord (s : State) (r : Req) (p : Piece) : Nat :=
  match r.tr with
  | none => 0
  | some t =>
    let flags := b2n t.rd * 2 + b2n t.w * 4 + b2n t.dfr * 8 + b2n t.fw * 16
    let key := l1Key t r.line
    let l1 := match l1Find s r.core r.ctx key with
      | some e => 32 + 64 * b2n ((tget? e.sectors (p.addr % 256 / 64)).isSome)
      | none => 0
    let own := if t.fw then 0 else match ocFind s t.gpn with
      | some (.dram c _ _) => 2 ^ 31 + c * 2 ^ 16 + 128 * b2n (c != s.chipid)
      | _ => 0
    1 + flags + l1 + own

/-- PQRY's pair (R416). -/
def pqryWord (r : Req) (nstub : Nat) : Nat :=
  match r.tr, r.owner with
  | some t, some (.dram c m f) => if t.fw then 0 else f + m * 2 ^ 20 + nstub % 4 * 2 ^ 23 + 2 ^ 31 + c * 2 ^ 32
  | _, _ => 0

/-! ## Sending (R170, R385, R386, R436) -/

/-- Is a sent request of the same requester to the same page outstanding at another owner (R386)? -/
def otherOwner (s : State) (r : Req) : Bool :=
  let g := r.tr.map (·.gpn)
  s.reqs.any (fun q => q.core == r.core && q.space == 0 && q.tr.map (·.gpn) == g && q.id != r.id && q.owner != r.owner &&
    (match q.stage with | .atOwner => true | .remote _ _ => true | _ => false))

/-- The bytes a request writes, as places in the line; later lanes stand (R169). -/
def lineCells (r : Req) : List (Nat × Byte) :=
  (r.pieces.flatMap (fun p => cellsAt (p.addr % 256) p.data)).foldl (fun t e => tset t e.1 e.2) []

/-- What stands in the place of a frame in a packet to a format window's view: it never leaves the chip. -/
def viewMark : Nat := 2 ^ 23

/-- The packet of a remote request (R432, R433). Log entry 52 (DEDUCED). -/
def reqPacket (s : State) (r : Req) (t : Trans) (c m f : Nat) : Packet :=
  let off := r.line % 65536
  let sectors := (secList (if r.miss = 0 then r.mask else r.miss)).map (fun i => (off + 64 * i, 64))
  let ranges := (r.pieces.map (fun p => (p.addr % 65536, p.len))).eraseDups
  let cells := (lineCells r).map (fun e => (off + e.1, e.2))
  let lanes (fn : RmwFn) : List RmwLane := r.pieces.filterMap (fun p =>
    if p.len = 0 then none else some { lane := p.lane, off := p.addr % 65536, width := r.width, fn, b := p.b, c := p.c })
  let (typ, len, body) := match r.acc with
    | .store | .rel | .rst => (0x01, cells.length, Body.bytes cells)
    | .cctl op => (0x01, 0, Body.clean (op == 3))
    | .rmw fn _ => (0x04, r.pieces.length * r.width, Body.rmw (lanes fn))
    | .redf fn _ => (0x04, r.pieces.length * r.width, Body.rmw (lanes fn))
    | .ratom fn => (0x04, r.pieces.length * r.width, Body.rmw (lanes fn))
    | .rld => (0x02, 0, Body.ranges ranges)
    | _ => (0x02, 0, Body.ranges sectors)
  { typ, ord := r.ord, rc := r.rc.map (·.2), src := s.chipid, dst := c, ctx := r.ctx
    gpn := t.gpn, off, frame := if t.fw then viewMark else frameKey m f, reqKind := 0, reqIdx := r.core, tag := r.id % 2 ^ 21
    slot := r.slot, len, body }

/-- A request's connection fails: its write is lost, or its lanes fault (R438); a prefetch is only dropped (R192), and a clean
or flush has not reached DRAM (R193). -/
def loseReq (s : State) (r : Req) (cause : Nat) : State :=
  let waits : Bool := r.acc.reads || (match r.acc with | .cctl _ => true | _ => false)
  match r.acc with
  | .pref _ => dropReq s r
  | _ => if cause = 0x31 && !waits then dropReq (s.modOwning r.core r.slot r.uid (fun w => { w with lostWrite := true })) r
    else failReq s r cause

/-- A request leaves for its owner: to the memory-side cache of this chip, the host port, or as a packet.
Words of the fabric chapter always travel as packets (R447). -/
def route (s : State) (r : Req) (t : Trans) : State :=
  let dest : Option (Nat × Nat × Nat) := match r.owner with
    | some (.host _) => none
    | some (.dram c m f) => if c == s.chipid && !r.fab then none else some (c, m, f)
    | none => if r.fab then some (s.chipid, 0, 0) else none
  match dest with
  | none => moveEnd s { r with stage := .atOwner }
  | some (c, m, f) =>
    if !(reachable s c) then failReq s r 0x30
    else if (s.conn c).lost then loseReq s r 0x31
    else
      let (n, s) := queuePkt s (reqPacket s r t c m f)
      moveEnd s { r with stage := .remote c n }

/-- Copies that an access leaves in the L1 of its core. Log entry 60 (DEDUCED). -/
def l1Effect (s : State) (r : Req) (t : Trans) : State :=
  let key := l1Key t r.line
  match r.acc with
  | .store | .rel => if t.nc then l1Bypass s r.core key r.mask else l1Store s r.core key r.cp (lineCells r)
  | .rmw _ _ | .redf _ _ | .rst | .ratom _ => l1Bypass s r.core key r.mask
  | .wait _ | .rld | .acq => l1Bypass s r.core key r.miss
  | .load => if r.cp = 1 || r.nt then l1Bypass s r.core key r.miss else s
  | _ => s

/-- Sectors of the line that a load finds in its L1, copied into the request. Log entry 60 (DEDUCED). -/
def takeHits (s : State) (r : Req) (t : Trans) : Req × BitVec 4 :=
  match r.acc, l1Find s r.core r.ctx (l1Key t r.line) with
  | .load, some e | .pref false, some e =>
    if r.cp = 1 || t.nc then (r, 0) else
    let hit := (secList r.mask).filter (fun i => (tget? e.sectors i).isSome)
    (hit.foldl (fun r i => match tget? e.sectors i with
      | some q => { r with
          data := (q.data.zipIdx).foldl (fun d b => tset d (64 * i + b.2) b.1) r.data
          poison := r.poison ++ ([0, 1].filter (fun g => q.poison.getLsbD g)).map (fun g => 2 * i + g) }
      | none => r) r, secMask hit)
  | _, _ => (r, 0)

/-- The sectors of a request that take new miss-status entries fit beside those in use (R170). -/
def entriesFit (s : State) (r : Req) (t : Trans) (m : BitVec 4) : Bool :=
  let used := missSet s r.core
  used.length + ((secList m).filter (fun i => !(used.contains (l1Key t r.line, i)))).length ≤ Config.missEntries

/-- A read: the sectors that miss take entries; without entries the coalescer stops (R170). The boolean says
whether the request got past the coalescer. -/
def sendRead (s : State) (r : Req) (t : Trans) : State × Bool :=
  let (r, hit) := takeHits s r t
  let miss := r.mask &&& ~~~hit
  let s := if hit == 0 then s else l1Touch s r.core (l1Key t r.line)
  if miss == 0 then (moveEnd s { r with stage := .respond }, true)
  else
    if !(entriesFit s r t miss) then
      (match r.acc with
       | .pref _ => (dropReq s r, true)
       | _ => (setReq s { r with stage := .stalled, data := [], poison := [] }, false))
    else
      let r := { r with miss }
      (route (l1Effect s r t) r t, true)

/-- A REDF or BKADD that will be held takes its lanes' next keys (R216, R218, R470). Log entry 64 (DEDUCED). -/
def giveKeys (s : State) (r : Req) : State × Req :=
  let held : Bool := match r.acc with
    | .redf _ h => h
    | .bkadd _ h => h
    | _ => false
  match held with
  | true =>
    let w := s.owning r.core r.slot r.uid
    let r := { r with pieces := r.pieces.map (fun p => { p with key := some (nextKey w p.lane) }) }
    (s.modOwning r.core r.slot r.uid (fun w => { w with seq := r.pieces.foldl (fun t p => tset t p.lane (tget 0 t p.lane + 1)) w.seq }), r)
  | false => (s, r)

/-- A halted crew that has parked on a full log executes its word again when it runs on (R95). -/
def logHeld (s : State) (r : Req) : Bool :=
  let w := s.crew r.core r.slot
  w.uid == r.uid && w.halted && w.park.any (fun p => p.2 == .log)

/-- One request in stage ready tries to leave the coalescer. The boolean says whether it did. -/
def trySend (s : State) (r : Req) : State × Bool :=
  let siblings := s.reqs.any (fun q => q.word == r.word && q.stage.unchecked)
  match r.acc with
  | .probe => (dropReq (r.pieces.foldl (fun s p => putBytes s r.res p.lane 0 (leBytes 4 (probeWord s r p))) s) r, true)
  | .owninv => (dropReq (match r.tr with | some t => ocDrop s t.gpn | none => s) r, true)
  | .pqry _ =>
    (dropReq (r.pieces.foldl (fun s p => putBytes s r.res p.lane 0 (leBytes 8 (pqryWord r r.cp))) s) r, true)
  | .migra =>
    let dest : Nat × Option Nat × Nat := ((r.owner.bind ownerChip).getD s.chipid, none, match r.owner with | some (.dram _ m _) => m | _ => 0)
    let put (m : LMove) : LMove := if m.id == r.word then { m with found := r.pieces.foldl (fun t p => tset t p.lane dest) m.found } else m
    (dropReq { s with lmoves := s.lmoves.map put } r, true)
  | .watch =>
    (match r.owner with
     | some (.host f) =>
       let s := r.pieces.foldl (fun s p => s.modCrew r.core r.slot (fun w =>
         let old : Watch := tget { line := 0, armed := false, fired := false } w.watches p.b.toNat
         { w with watches := tset w.watches p.b.toNat { old with line := (f * 65536 + p.addr % 65536) / 64, armed := true } })) s
       (dropReq s r, true)
     | _ => (failReq s r 0x11, true))
  | a =>
    match r.tr with
    | none => (dropReq s r, true)
    | some t =>
      if a.writes && siblings then (s, false)
      else if r.rel then (setReq s { r with stage := .held }, false)
      else if r.defers then
        if logHeld s r then (s, false)
        else
          let s := appendWord r.core r.slot r.word r 33 s
          (s, !(s.reqs.any (fun q => q.id == r.id)))
      else match a with
        | .cctl 0 => (dropReq (l1Bypass s r.core (l1Key t r.line) 0xF) r, true)
        | _ =>
          if otherOwner s r then (s, false)
          else if a.reads && !a.writes then sendRead s r t
          else match a with
            | .pref false => sendRead s r t
            | .pref true => sendRead s { r with cp := 1 } t
            | .rmw _ true | .ratom _ =>
              if entriesFit s r t r.mask then (let r := { r with miss := r.mask }; (route (l1Effect s r t) r t, true))
              else (setReq s { r with stage := .stalled }, false)
            | _ =>
              let (s, r) := giveKeys s r
              (route (l1Effect s r t) r t, true)

/-- A crew's LAST bits take effect once every line of the word has passed step 6 (R184). -/
def settleLasts (s : State) (c k : Nat) : State :=
  s.modCrew c k (fun w =>
    let done := w.lasts.filter (fun e => !(s.reqs.any (fun q => q.word == e.1 && q.stage.unchecked)))
    let w := { w with lasts := w.lasts.filter (fun e => !(done.contains e)) }
    (done.flatMap (·.2)).foldl releaseLast w)

/-- Requests in stage ready leave in order: a crew's later ones stay behind its earlier ones, and behind a
stopped coalescer everything stays (R169, R170). -/
def sendAll (c : Nat) : List Nat → List Nat → State → State
  | [], _, s => s
  | id :: t, blocked, s =>
    match findReq s id with
    | none => sendAll c t blocked s
    | some r =>
      if !r.stage.unsent || blocked.contains r.slot then sendAll c t blocked s
      else if r.stage == .stalled then s
      else if r.stage == .ready then
        let (s, gone) := trySend s r
        match findReq s id with
        | some q => if q.stage == .stalled then s else sendAll c t (if gone then blocked else r.slot :: blocked) s
        | none => sendAll c t blocked s
      else sendAll c t (r.slot :: blocked) s

/-- Move a core's requests on as far as they go: TLB lookups, then sending. -/
def pump (s : State) (c : Nat) : State :=
  let look := (s.reqs.filter (fun r => r.core == c && r.space == 0 && r.stage == .look)).map (·.id)
  let s := look.foldl (fun s id => match findReq s id with
    | some r => if r.stage == .look then lookUp s r else s
    | none => s) s
  let s := sendAll c ((s.reqs.filter (fun r => r.core == c && r.space == 0 && r.stage.unsent)).map (·.id)) [] s
  ((s.core c).slots.filter (fun e => !e.2.lasts.isEmpty)).foldl (fun s e => settleLasts s c e.1) s

end Sys2Proof.Machine
end

