-- ==== Sys2Proof/Machine/Waits.lean ====
section
/-! DEFINITION. Machine/Waits.lean: starting a memory word, and lanes that wait on a word of memory (R92,
R226, R351, R450). -/

namespace Sys2Proof.Machine

/-! ## A memory word -/

/-- What a memory word asks: the pattern of its requests, its result, whether each lane has a request of its
own, its release and acquire. -/
structure MemWord where
  acc : Acc
  width : Nat := 0
  cp : Nat := 0
  nt : Bool := false
  plain : Bool := false
  atom : Bool := false
  hostOk : Bool := false
  fab : Bool := false
  ord : Bool := false
  rc : Option (Nat × Nat × Nat × Nat) := none
  long : Bool := false
  kind : FillKind := .none
  dst : Opd := .no
  zero : Mask := 0
  each : Bool := false
  rel : Bool := false
  acq : Bool := false
  scope : Nat := 0
  uni : Bool := false
deriving DecidableEq, Repr

/-- The first stage of a request: global lines are looked up; others go to their scratchpad or registers. -/
def MemWord.stage (m : MemWord) (space : Nat) : Stage := if space = 0 then .look else if m.rel then .held else .scratch

/-- Hold back the last reads of a word until its lines have passed their checks (R184). -/
def holdLast (s : State) (x : Ctx) (p : Pre) (word : Nat) (clean : Bool) : State :=
  let regs := lastRegs x.h p.w p.ra p.rb p.rc
  if clean && x.on == x.live && !regs.isEmpty then
    s.modCrew x.c x.k (fun k => { k with lasts := k.lasts ++ [(word, regs)] })
  else s

/-- Open a word's result, to be gathered for some lanes; 0 where it has none. -/
def openFill (s : State) (x : Ctx) (m : MemWord) (lanes : Mask) (comp : Bool) : Nat × State :=
  if m.long && lanes != 0 then
    let uid := (s.crew x.c x.k).uid
    let (res, s) := openResult s x (vdst m.dst m.kind.regCount) (udst m.dst m.kind.regCount)
    let comp := if comp && x.whole && lanes == x.on then some lanes else none
    (res, { s with fills := s.fills ++ [{ res, core := x.c, slot := x.k, uid, kind := m.kind, dst := m.dst, lanes, comp }] })
  else (0, s)

/-- What the requests of a word share. -/
def wordBase (s : State) (x : Ctx) (m : MemWord) (word res : Nat) : Req :=
  let w := s.crew x.c x.k
  { id := 0, word, uid := w.uid, core := x.c, slot := x.k, ts := w.ts, res, acc := m.acc, ctx := w.ctx, width := m.width, line := 0
    pieces := [], cp := m.cp, nt := m.nt, fab := m.fab, plain := m.plain, atom := m.atom, hostOk := m.hostOk, ord := m.ord
    rc := m.rc, rel := m.rel, relWord := m.rel, pc := x.pc, len := x.lenCode }

/-- The requests of a word's accesses: those of one space and core together. -/
def wordReqs (s : State) (m : MemWord) (base : Req) (l : List LaneAcc) : List Nat × State :=
  ((l.map (fun y => (y.space, y.tgt))).eraseDups).foldl (fun (acc : List Nat × State) t =>
    let r := addReqs acc.2 { base with space := t.1, tgt := t.2, stage := m.stage t.1 }
      (lineGroups m.each (l.filter (fun y => y.space == t.1 && y.tgt == t.2)))
    (acc.1 ++ r.1, r.2)) ([], s)

/-- The requests of lanes that wait for absent lines: each lane has its own (R166). -/
def absentReqs (s : State) (m : MemWord) (base : Req) (l : List LaneAcc) : List Nat × State :=
  l.foldl (fun (acc : List Nat × State) y =>
    let r := addReqs acc.2 { base with space := 1, tgt := y.tgt, stage := m.stage 1 } (lineGroups true [y])
    (acc.1 ++ r.1, r.2)) ([], s)

/-- The release or acquire of a word joins its crew's orders (R224, R225). -/
def wordOrder (s : State) (x : Ctx) (m : MemWord) (lanes : Mask) (before : Nat) (ids : List Nat) : State :=
  if (m.rel || m.acq) && !ids.isEmpty then s.modCrew x.c x.k (fun k => { k with
      ords := k.ords ++ [{ rel := m.rel, acq := m.acq, scope := m.scope, lanes, before, after := .reqs ids, pc := x.pc, len := x.lenCode }] })
  else s

/-- An access waits for an absent line of a scratchpad (R166). -/
def accWaits (s : State) (y : LaneAcc) : Bool := y.space == 1 && !(absentLines (s.core y.tgt) y.addr y.n).isEmpty

/-- Start a memory word for the lanes that passed steps 1 and 2: its result, its requests, its ordering.
Lanes that touch absent lines park, each with requests of its own (R166). Log entry 54 (DEDUCED). -/
def startWord (s : State) (x : Ctx) (p : Pre) (m : MemWord) (clean : Bool) (l : List LaneAcc) : State :=
  if x.on == 0 then s else
  let word := s.nextId
  let s := holdLast s.fresh.2 x p word clean
  let lanes := maskOf (l.map (·.lane)) ||| m.zero
  let o := openFill s x m lanes p.comp
  let base := wordBase o.2 x m word o.1
  let stop := l.filter (accWaits o.2)
  let a := wordReqs o.2 m base (l.filter (fun y => !(accWaits o.2 y)))
  let b := absentReqs a.2 m base stop
  let parked := if stop.isEmpty then 0 else if m.uni then x.on else maskOf (stop.map (·.lane))
  let s := b.2.modCrew x.c x.k (forLanes parked (fun l k => k.setPark l (.absent word)))
  closeFill (pump (wordOrder s x m lanes o.2.nextId (a.1 ++ b.1)) x.c) o.1

/-! ## Waiting lanes -/

/-- The reads of a wait, for the lanes that still wait. -/
def askWait (s : State) (c k : Nat) (w : Wait) : State :=
  let cr := s.crew c k
  let n := if w.w64 then 8 else 4
  let l : List LaneAcc := (lanesOf w.lanes).map (fun i => { lane := i, addr := (tget 0 w.addrs i).toNat, n, tgt := c })
  let base : Req := { id := 0, word := w.id, uid := cr.uid, core := c, slot := k, ts := cr.ts, res := w.res, acc := .wait w.id
                      space := if w.sp then 1 else 0, tgt := c, ctx := cr.ctx, width := n, line := 0, pieces := []
                      atom := w.kind == 1, pc := w.pc, len := w.len, stage := if w.sp then .scratch else .look }
  pump (addReqs s base (lineGroups false l)).2 c

/-- Lanes begin to wait: they park, and the first reads go out. The wait ends as a long-latency result.
Log entry 136 (DEDUCED). -/
def startWait (s : State) (x : Ctx) (w : Wait) : State :=
  if w.lanes == 0 then s else
  let n := if w.kind = 1 then (if w.w64 then 2 else 1) else 0
  let (id, s) := s.fresh
  let (res, s) := openResult s x (vdst w.dst n) (udst w.dst n)
  let uid := (s.crew x.c x.k).uid
  let w := { w with id, res, pc := x.pc, len := x.lenCode, since := s.clk }
  let s := s.modCrew x.c x.k (fun k => forLanes (w.lanes ||| w.also) (fun l k => k.setPark l (.wait id)) { k with waits := k.waits ++ [w] })
  let s := { s with fills := s.fills ++ [{ res, core := x.c, slot := x.k, uid, kind := if n = 0 then .none else .regs n, dst := w.dst, lanes := w.lanes }] }
  askWait s x.c x.k w

/-- Does a word end a lane's wait (R92, R226)? AWAIT and CWAIT wait for a signed difference of at least 0. -/
def waitDone (w : Wait) (l v : Nat) : Bool :=
  let n := if w.w64 then 64 else 32
  waitCond w.cond n (v &&& (tget (BitVec.allOnes 64) w.mask l).toNat % 2 ^ n) ((tget 0 w.cmp l).toNat % 2 ^ n)

/-- Lanes leave a wait, and with the last of them those that wait with it. -/
def endWait (s : State) (c k id : Nat) (m : Mask) : State :=
  s.modCrew c k (fun w =>
    let m := (w.waits.filter (fun q => q.id == id && q.lanes &&& ~~~m == 0)).foldl (fun m q => m ||| q.also) m
    let w := forLanes m (fun l w => if w.parkOf l == .wait id then w.setPark l (.resume s.clk) else w) w
    { w with waits := (w.waits.map (fun q => if q.id == id then { q with lanes := q.lanes &&& ~~~m } else q)).filter (fun q => q.lanes != 0) })

/-- The words read for a wait have come: lanes whose condition holds acquire and go on; a wait that has a D
receives the word (R92, R226). Log entry 136 (DEDUCED). -/
def answerWait (s : State) (r : Req) (id : Nat) (val : List (Nat × Nat)) : State :=
  match (s.crew r.core r.slot).waits.find? (fun w => w.id == id) with
  | none => s
  | some w =>
    let go := val.filter (fun e => w.lanes.getLsbD e.1 && waitDone w e.1 e.2)
    if go.isEmpty then s
    else
      let s := go.foldl (fun s e => putBytes s w.res e.1 0 (leBytes (if w.w64 then 8 else 4) e.2)) s
      endWait (acquire s r.core r.slot w.scope) r.core r.slot id (maskOf (go.map (·.1)))

/-- WAITW_RECHECK: waiting lanes read their words again (R92). Log entry 136 (DEDUCED). -/
def execWaitwRecheck (c k id : Nat) (s : State) : Out :=
  match (s.crew c k).waits.find? (fun w => w.id == id) with
  | some w =>
    if s.reqs.any (fun r => r.core == c && r.slot == k && r.acc == .wait id) || (s.crew c k).halted || (s.crew c k).frozen then .fault .notEnabled
    else .next (askWait (s.modCrew c k (fun k => { k with waits := k.waits.map (fun q => if q.id == id then { q with since := s.clk } else q) })) c k w)
  | none => .fault .notEnabled

end Sys2Proof.Machine
end

