-- ==== Sys2Proof/Machine/Memory.lean ====
section
/-! DEFINITION. Machine/Memory.lean: the memory words (R185 to R194) and the events that carry them out
(R170, R172, R173, R180, R208). -/

namespace Sys2Proof.Machine

/-! ## Addresses (R185) -/

/-- The byte offset `k` of a word. -/
def kOff (x : Ctx) (w : Op) : Int := if x.h.form.imm32 then signedOf 32 (w.imm.toNat % 2 ^ 32) else 0

/-- The index, or the small offset that B holds. -/
def indexOf (s : State) (x : Ctx) (w : Op) (l : Nat) : Int :=
  match w.b with
  | .im n => n.toInt
  | o => ((rd s x 0 o l).toNat : Int)

/-- A lane's global address. -/
def gaddr (s : State) (x : Ctx) (w : Op) (l : Nat) : Nat :=
  wrapInt 64 ((rd64 s x x.h.form false 0 w.a l).toNat + indexOf s x w l + kOff x w)

/-- A lane's address in a 32-bit space. -/
def saddr (s : State) (x : Ctx) (w : Op) (l : Nat) : Nat :=
  wrapInt 32 ((rd s x 0 w.a l).toNat + indexOf s x w l + kOff x w)

/-- R162. Log entry 47 (DEDUCED). -/
def canonical (a n : Nat) : Bool := a + n ≤ 2 ^ 57

/-- The lanes a word acts for: with a uniform D only the lowest executing lane (R106, R186). -/
def actLanes (x : Ctx) (d : Opd) : List Nat := if x.on == 0 then [] else if isU d then [x.low] else lanesOf x.on

/-- Width in bytes of a memory type (R186). -/
def tyBytes (t : Nat) : Nat := if t = 9 || t = 13 then 1 else if t = 10 || t = 14 then 2 else if t = 18 then 8 else 4

/-- How a load's bytes fill D (R187). -/
def tyKind (t : Nat) : FillKind :=
  if t = 9 || t = 10 then .ext true (tyBytes t) else if t = 13 || t = 14 then .ext false (tyBytes t)
  else .regs (if t = 18 then 2 else 1)

/-- A store's bytes (R187). -/
def storeData (s : State) (x : Ctx) (w : Op) (n l : Nat) : List Byte :=
  leBytes n (leNat ((rdRun s x w.d ((n + 3) / 4) l).flatMap (fun v => leBytes 4 v.toNat)))

/-- What a memory word with `r` registers at D tells before it issues. A load whose sources are all uniform reads one address
for all lanes and is uniform-producing (R100). Log entry 19 (DEDUCED). -/
def memPre (w : Op) (ra r : Nat) (store : Bool) : Pre :=
  { w, ra, reads := if store then vdst w.d r else [], dst := if store then [] else vdst w.d r, late := true, comp := !store && uniformProducing w }

/-! ## Step 2 of R182 -/

/-- One lane's access, or the address it fails step 2 with. -/
inductive Step2
  | ok (a : LaneAcc)
  | bad (lane addr : Nat)

def Step2.acc : Step2 → Option LaneAcc
  | .ok a => some a
  | .bad _ _ => none

/-- Its fault, cause 0x11 (R182). -/
def Step2.fault : Step2 → Option Raise
  | .ok _ => none
  | .bad lane addr => some { lane, cause := 0x11, addr := w64 addr }

/-- Start a word whose lanes have been through step 2. -/
def startChecked (s : State) (x : Ctx) (p : Pre) (m : MemWord) (l : List Step2) : State :=
  let bad := l.filterMap Step2.fault
  startWord (faultLanes s x bad) x p m bad.isEmpty (l.filterMap Step2.acc)

/-- A global access. -/
def checkGlobal (y : LaneAcc) : Step2 := if canonical y.addr y.n then .ok y else .bad y.lane y.addr

/-- A scratchpad offset of a team on a core; a guest has none (R166, R403). -/
def checkScratch (s : State) (x : Ctx) (tgt ts off : Nat) (y : LaneAcc) : Step2 :=
  let t := s.team tgt ts
  if (s.crew x.c x.k).guest.isNone && off + y.n ≤ t.scratch then .ok { y with addr := t.scrBase + off, space := 1, tgt }
  else .bad y.lane y.addr

/-- The core of a rank of the crew's cluster, and the slot of its team (R190). -/
def rankTeam (s : State) (c k rank : Nat) : Option (Nat × Nat) :=
  let w := s.crew c k
  let r := (s.grid w.grid).lr
  if r.ccols * r.crows ≤ rank || w.guest.isSome then none
  else
    let t := if r.ccols * r.crows = 1 then c else (clusterOf s w.grid w.cluster).origin + rank / r.ccols * 16 + rank % r.ccols
    if t = c then some (c, w.ts)
    else ((s.core t).teams.find? (fun e => e.2.live && !e.2.guest && e.2.grid == w.grid && e.2.cluster == w.cluster)).map (fun e => (t, e.1))

/-- A cluster-form address. -/
def checkCluster (s : State) (x : Ctx) (y : LaneAcc) : Step2 :=
  match rankTeam s x.c x.k (y.addr / 2 ^ 24) with
  | some (t, ts) => checkScratch s x t ts (y.addr % 2 ^ 24) y
  | none => .bad y.lane y.addr

/-- A map offset (R164, R165, R190). -/
def checkMap (s : State) (x : Ctx) (y : LaneAcc) : Step2 :=
  if !(s.crew x.c x.k).priv || 2 ^ 38 ≤ y.addr || !(mapOk s y.addr y.n) then .bad y.lane y.addr
  else if mapReg y.addr = 0 then .ok { y with addr := mapOfs y.addr, space := 1, tgt := mapCore y.addr }
  else .ok { y with space := 2, tgt := mapCore y.addr }

/-! ## Loads and stores (R187, R190, R191) -/

/-- The pattern of a load of `kind`, or of a store. -/
def MemWord.of (w : Op) (store : Bool) (n : Nat) (kind : FillKind) : MemWord :=
  { acc := if store then .store else .load, width := n, cp := w.opt, long := !store, kind := if store then .none else kind
    dst := if store then .no else w.d, uni := isU w.d }

/-- A load or store at the lanes' addresses in one space. -/
def accessWord (w : Op) (m : MemWord) (ra n : Nat) (store : Bool) (addr : State → Ctx → Op → Nat → Nat)
    (check : State → Ctx → LaneAcc → Step2) (s : State) : Out :=
  let p := memPre w ra ((n + 3) / 4) store
  issue s p (fun x s =>
    let l : List LaneAcc := (actLanes x w.d).map (fun l => { lane := l, addr := addr s x w l, n, data := if store then storeData s x w n l else [] })
    startChecked s x p m (l.map (check s x)))

def globalWord (w : Op) (store nt : Bool) (s : State) : Out :=
  let n := tyBytes w.ty
  accessWord w { MemWord.of w store n (tyKind w.ty) with nt, hostOk := true } 2 n store gaddr (fun _ _ => checkGlobal) s

def execLd (w : Op) (s : State) : Out := globalWord w false false s
def execSt (w : Op) (s : State) : Out := globalWord w true false s
def execLdnt (w : Op) (s : State) : Out := globalWord w false true s
def execStnt (w : Op) (s : State) : Out := globalWord w true true s

/-- LDS and STS, the offset within the team's run. -/
def scratchWord (w : Op) (store : Bool) (s : State) : Out :=
  let n := tyBytes w.ty
  accessWord w { MemWord.of w store n (tyKind w.ty) with cp := 0 } 1 n store saddr
    (fun s x y => checkScratch s x x.c (s.crew x.c x.k).ts y.addr y) s

def execLds (w : Op) (s : State) : Out := scratchWord w false s
def execSts (w : Op) (s : State) : Out := scratchWord w true s

/-- LDW and STW: the cluster form, or with .map the on-chip map. -/
def mapWord (w : Op) (store : Bool) (s : State) : Out :=
  let n := tyBytes w.ty
  let m := { MemWord.of w store n (tyKind w.ty) with cp := 0 }
  if w.mb 0 then accessWord w m 2 n store gaddr checkMap s
  else accessWord w m 1 n store saddr checkCluster s

def execLdw (w : Op) (s : State) : Out := mapWord w false s
def execStw (w : Op) (s : State) : Out := mapWord w true s

def execLdq (w : Op) (s : State) : Out := accessWord w (MemWord.of w false 16 (.regs 4)) 2 16 false gaddr (fun _ _ => checkGlobal) s
def execStq (w : Op) (s : State) : Out := accessWord w (MemWord.of w true 16 .none) 2 16 true gaddr (fun _ _ => checkGlobal) s

/-- The address of a lane's private offset (R103). -/
def privAddr (k : Crew) (o l : Nat) : Nat := k.privBase.toNat + o / 4 * 128 + l * 4 + o % 4

/-- SPILL and FILL: each 4-byte word of a lane at its own private offset (R191). -/
def privateWord (w : Op) (store : Bool) (s : State) : Out :=
  let n := tyBytes w.ty
  let p := { memPre w 1 (n / 4) store with comp := false }
  issue s p (fun x s =>
    let k := s.crew x.c x.k
    let o := wrapInt 32 ((rd s x 0 w.a 0).toInt + kOff x w)
    let word (l i : Nat) : LaneAcc := { lane := l, addr := privAddr k (o + 4 * i) l, n := 4, at0 := 4 * i
                                        data := if store then ((storeData s x w n l).drop (4 * i)).take 4 else [] }
    let ok := o % 4 = 0 && o + n ≤ 256 * 2 ^ k.pshift
    let lane (l : Nat) : List Step2 :=
      let ws := (List.range (n / 4)).map (word l)
      if ok && ws.all (fun y => canonical y.addr 4) then ws.map .ok else [.bad l (privAddr k o l)]
    startChecked s x p { MemWord.of w store n (tyKind w.ty) with cp := 0, plain := true } ((lanesOf x.on).flatMap lane))

def execSpill (w : Op) (s : State) : Out := privateWord w true s
def execFill (w : Op) (s : State) : Out := privateWord w false s

/-! ## Buffer records (R167, R168, R189) -/

/-- A lane's address, if the swizzle mode names one, and whether it is in bounds. Log entry 49 (DEDUCED). -/
def bufLane (s : State) (x : Ctx) (w : Op) (n l : Nat) : Option Nat × Bool :=
  let r := leNat ((rdRun s x w.a 4 l).flatMap (fun v => leBytes 4 v.toNat))
  let base := bf r 0 64
  let stride := bf r 64 16
  let ext := bf r 80 32
  let swz := bf r 112 4
  let i := (rd s x 0 w.b l).toNat
  let k := kOff x w
  let j : Option Nat := if swz = 0 then some i else if swz ≤ 7 then some (i ^^^ (i / 2 ^ (swz + 2) % 8)) else none
  (j.map (fun j => wrapInt 64 ((base + j * stride : Nat) + k)),
   j.isSome && i < ext && (stride == 0 || k + (n : Int) ≤ (stride : Int)))

/-- qP receives the bound in each executing lane. Log entry 49 (DEDUCED). -/
def boundPred (s : State) (x : Ctx) (w : Op) (n : Nat) : List Wr :=
  if w.m = 0 || x.on == 0 then [] else [.q w.m x.on (maskOf ((lanesOf x.on).filter (fun l => (bufLane s x w n l).2)))]

/-- LDB and STB. -/
def bufWord (w : Op) (store : Bool) (s : State) : Out :=
  let n := tyBytes w.ty
  let p := memPre w 4 ((n + 3) / 4) store
  issue s p (fun x s =>
    let lanes := (actLanes x w.d).map (fun l => (l, bufLane s x w n l))
    let l : List LaneAcc := lanes.filterMap (fun e => match e.2 with
      | (some a, true) => some { lane := e.1, addr := a, n, data := if store then storeData s x w n e.1 else [] }
      | _ => none)
    let out := maskOf ((lanes.filter (fun e => !e.2.2)).map (·.1))
    let q := boundPred s x w n
    startChecked (fixedResult s x 4 q) x p { MemWord.of w store n (tyKind w.ty) with zero := if store then 0 else out } (l.map checkGlobal))

def execLdb (w : Op) (s : State) : Out := bufWord w false s
def execStb (w : Op) (s : State) : Out := bufWord w true s

/-- ADDRX (R189). -/
def execAddrx (w : Op) (s : State) : Out :=
  let comp := uniformProducing w
  let n := tyBytes w.ty
  issue s { w, ra := 4, dst := vdst w.d 2, comp } (fun x s =>
    fixedResult s x 4 (wr64 x comp w.d (fun l => w64 ((bufLane s x w n l).1.getD 0)) ++ boundPred s x w n))

/-! ## Prefetch, cache control, probe (R192 to R194) -/

/-- PREF: the whole line; lanes whose address is not canonical are dropped. Log entry 48 (DEDUCED). -/
def execPref (w : Op) (s : State) : Out :=
  let p := memPre w 2 0 true
  issue s p (fun x s =>
    let l : List LaneAcc := (lanesOf x.on).map (fun l => { lane := l, addr := gaddr s x w l / 256 * 256, n := 256 })
    startWord s x p { acc := .pref (w.mb 0), hostOk := true } true (l.filter (fun y => canonical y.addr y.n)))

/-- CCTL.inv, .clean, .flush: a long-latency result without a value. Log entry 52 (DEDUCED). -/
def cctlWord (w : Op) (op : Nat) (s : State) : Out :=
  let p := memPre w 2 0 true
  issue s p (fun x s =>
    let l : List LaneAcc := (lanesOf x.on).map (fun l => { lane := l, addr := gaddr s x w l, n := 1 })
    startChecked s x p { acc := .cctl op, hostOk := true, long := true } (l.map checkGlobal))

def execCctlInv (w : Op) (s : State) : Out := cctlWord w 0 s
def execCctlClean (w : Op) (s : State) : Out := cctlWord w 2 s
def execCctlFlush (w : Op) (s : State) : Out := cctlWord w 3 s

def execCctlInvall (s : State) : Out :=
  issue s {} (fun x s =>
    if x.on == 0 then s
    else let (id, s) := openResult (invalL1 s x.c) x [] []; fillResult s x.c x.k id [])

/-- The status of PROBE.sp: the presence bit of the offset's line, and whether it lies within .scratch. -/
def probeScratch (s : State) (x : Ctx) (o : Nat) : W32 :=
  let k := s.crew x.c x.k
  let t := s.team x.c k.ts
  if k.guest.isSome || t.scratch ≤ o then 0
  else w32 (1 + 256 * b2n ((s.core x.c).present ((t.scrBase + o) / 64)))

/-- PROBE: a lane whose address is not canonical has no entry. Log entry 50 (DEDUCED). -/
def execProbe (w : Op) (s : State) : Out :=
  let p := { memPre w (if w.mb 0 then 1 else 2) 1 false with late := !(w.mb 0) }
  issue s p (fun x s =>
    if w.mb 0 then longResult s x (wrOf x false w.d (fun l => probeScratch s x (saddr s x w l)))
    else
      let l : List LaneAcc := (actLanes x w.d).map (fun l => { lane := l, addr := gaddr s x w l, n := 1 })
      let out := maskOf ((l.filter (fun y => !(canonical y.addr 1))).map (·.lane))
      startWord s x p { acc := .probe, long := true, kind := .regs 1, dst := w.d, zero := out, hostOk := true, uni := isU w.d } true
        (l.filter (fun y => canonical y.addr 1)))

/-! ## Events of the coalescer and the walker -/

/-- COALESCER_RESUME: entries have come free and the line that stopped goes on (R170). -/
def execCoalescerResume (c : Nat) (s : State) : Out :=
  match s.reqs.find? (fun r => r.core == c && r.stage == .stalled) with
  | none => .fault .notEnabled
  | some r =>
    let t := pump (setReq s { r with stage := .ready }) c
    if t.reqs.any (fun q => q.id == r.id && q.stage == .stalled) then .fault .notEnabled else .next t

/-- TABLE_WALK_DONE (R180). Log entry 40 (DEDUCED). -/
def execTableWalkDone (id : Nat) (s : State) : Out :=
  match findReq s id with
  | some r => if r.stage == .walk then .next (pump (walked s r) r.core) else .fault .notEnabled
  | none => .fault .notEnabled

/-! ## At the owner (R172, R173, R177, R208, R385, R386) -/

/-- Requests of one core to one page are served in the order sent. -/
def ownerTurn (s : State) (r : Req) : Bool :=
  (s.reqs.find? (fun q => q.core == r.core && q.stage == .atOwner && q.tr.map (·.gpn) == r.tr.map (·.gpn))).map (·.id) == some r.id

/-- A request at this chip's owner can be served now. -/
def served (s : State) (r : Req) : Bool :=
  r.stage == .atOwner && ownerTurn s r &&
  (match r.tr, r.owner with
   | some t, some (.dram _ m f) => t.fw || frameSt s m f t.gpn == .serve
   | some _, _ => true
   | none, _ => false)

/-- Accesses that reach a stack are counted (R392). -/
def track (s : State) (r : Req) : State :=
  match r.tr, r.owner with
  | some t, some (.dram _ m f) => if t.fw then s else trackAccess s m f t.gpn s.chipid (dieOfCore r.core != dieOfStack m)
  | _, _ => s

/-- The address of a line in host memory, if the host owns its page. Log entry 8 (DESIGN CHOICE). -/
def hostAddr (r : Req) (a : Nat) : Option Nat :=
  match r.owner with
  | some (.host f) => some (f * 65536 + a % 65536)
  | _ => none

/-- Bytes of a request's line at its owner, with their poisoned granules by place in the line. -/
def ownerRead (s : State) (r : Req) (pos n : Nat) : State × List Byte × List Nat :=
  match hostAddr r (r.line + pos) with
  | some a => (s, s.hostMem.read n a, [])
  | none =>
    let a := devOf r (r.line + pos)
    let (s, b, bad) := devRead s r.ctx a n r.nt
    (s, b, bad.map (fun g => g - (a - pos) / 32))

/-- The origin of a lane's write (R487). -/
def laneOrigin (s : State) (r : Req) : W32 := originVal s.chipid r.core false r.slot

/-- Write bytes of a request's line at its owner. -/
def ownerWrite (s : State) (r : Req) (cells : List (Nat × Byte)) : State :=
  match hostAddr r r.line with
  | some a => { s with hostMem := cells.foldl (fun m e => m.set (a + e.1) e.2) s.hostMem }
  | none => let a := devOf r r.line; devWrite s r.ctx (cells.map (fun e => (a + e.1, e.2))) r.nt (laneOrigin s r)

/-- Requests to a scratchpad or register of a crew to one line are served in the order issued; a tile or row
may have to be waited for (R165, R166). Behind a coalescer that has stopped, those of later words wait (R170). -/
def scratchTurn (s : State) (r : Req) : Bool :=
  r.stage == .scratch && r.absent.isEmpty &&
  !(s.reqs.any (fun q => q.core == r.core && q.stage == .stalled && q.word < r.word)) &&
  (s.reqs.find? (fun q => q.core == r.core && q.slot == r.slot && q.space == r.space && q.tgt == r.tgt && q.line == r.line &&
    q.stage == .scratch)).map (·.id) == some r.id &&
  (r.space != 2 || r.pieces.all (fun p => mapReady s r.id p.addr p.len r.acc.writes))

/-- A map access that has become impossible (R165). Log entry 53 (DEDUCED). -/
def mapGone (s : State) (r : Req) : Bool := r.space == 2 && r.pieces.any (fun p => !(mapOk s p.addr p.len))

/-- A piece of an access that is performed as its individual bytes: all but single bytes, aligned accesses of 4 or 8 bytes,
and private words (R206). -/
def tornPiece (r : Req) (p : Piece) : Bool := !r.plain && !(r.width == 1 || ((r.width == 4 || r.width == 8) && p.base % r.width == 0))

/-- Bytes of its line, by place, that a load or store may perform one by one, as far as it has not.
Log entry 142 (DEDUCED). -/
def tornPlaces (r : Req) : List Nat :=
  match r.acc with
  | .load | .acq | .store | .rel =>
    let places (torn : Bool) : List Nat := (r.pieces.filter (fun p => tornPiece r p == torn)).flatMap (fun p => (List.range p.len).map (p.addr % 256 + ·))
    (places true).eraseDups.filter (fun i => !((places false).contains i) && (tget? r.early i).isNone && (r.miss == 0 || r.miss.getLsbD (i / 64)))
  | _ => []

/-- The bytes that are performed now, before the others: a free choice (R206); none where all that is left is performed.
Log entry 142 (DEDUCED). -/
def earlyPlaces (s : State) (r : Req) : List Nat :=
  let want := tornPlaces r
  if want.isEmpty then []
  else
    let now := want.filter (fun i => (Config.tear s.free).testBit i)
    if now.length == want.length then [] else now

/-- Bytes of a request's line that it has read or written before the others. -/
def setEarly (s : State) (r : Req) (l : List (Nat × Byte)) (poison : List Nat) : State :=
  setReq { s with free := s.free + 1 } { r with early := l.foldl (fun t e => tset t e.1 e.2) r.early, poison := r.poison ++ poison }

/-- Some bytes of a load are read at its owner before the others. -/
def readEarly (s : State) (r : Req) (l : List Nat) : State :=
  let (s, b, bad) := l.foldl (fun (acc : State × List (Nat × Byte) × List Nat) i =>
    let (s, b, bad) := ownerRead acc.1 r i 1
    (s, acc.2.1 ++ [(i, b.headD 0)], acc.2.2 ++ bad)) (s, [], [])
  setEarly s r b bad

/-- The bytes of a store that it has not written yet, by place in the line. -/
def lateCells (r : Req) : List (Nat × Byte) := (lineCells r).filter (fun e => (tget? r.early e.1).isNone)

/-- Some bytes of a store are written at its owner before the others; where a granule is poisoned all its bytes are written
together (R173). -/
def writeEarly (s : State) (r : Req) (l : List Nat) : State :=
  let cells := (lateCells r).filter (fun e => l.contains e.1 && (ownerRead s r (e.1 / 32 * 32) 32).2.2.isEmpty)
  setEarly (ownerWrite s r cells) r cells []

/-- The same in a scratchpad. -/
def scrEarly (s : State) (r : Req) (l : List Nat) : State :=
  let cells := if r.acc.writes then (lateCells r).filter (fun e => l.contains e.1)
    else l.map (fun i => (i, tget 0 (s.core r.tgt).scratch (r.line + i)))
  setEarly (if r.acc.writes then s.modCore r.tgt (·.scrWrite (cells.map (fun e => (r.line + e.1, e.2)))) else s) r cells []

/-- MEMORY_READ_AT_OWNER: the sectors a request asks for are read at the memory-side cache. -/
def execMemoryReadAtOwner (id : Nat) (s : State) : Out :=
  match findReq s id with
  | none => .fault .notEnabled
  | some r =>
    let reads := match r.acc with
      | .load | .acq | .wait _ | .pref _ => true
      | _ => false
    if !reads || !(served s r) then .fault .notEnabled
    else if !(earlyPlaces s r).isEmpty then .next (readEarly s r (earlyPlaces s r))
    else
      let s := track s r
      let (s, d, bad) := (secList (if r.miss == 0 then r.mask else r.miss)).foldl (fun (acc : State × Tab Byte × List Nat) i =>
        let (s, b, bad) := ownerRead acc.1 r (64 * i) 64
        (s, (b.zipIdx).foldl (fun d e => tset d (64 * i + e.2) e.1) acc.2.1, acc.2.2 ++ bad)) (s, r.data, r.poison)
      match r.acc with
      | .pref true => .next (pump (dropReq s r) r.core)
      | _ => .next (pump (moveEnd s { r with stage := .respond, data := d, poison := bad }) r.core)

/-- Write a line's dirty sectors back; a flush drops them as well (R193). -/
def cleanLine (s : State) (dev : Nat) (flush : Bool) : State :=
  let secs := if dev < viewSpace then sectorsOf dev 256 else viewSectors s dev 256
  secs.foldl (fun s i => if flush then evictSector s i else cleanSector s i) s

/-- Writes of this chip's cores to a line that are at its owner here. -/
def writesTo (l : List Req) (dev : Nat) : Bool := l.any (fun q => q.stage == .atOwner && q.acc.writes && devOf q q.line == dev)

/-- A write of any core to the line of a clean is already in flight to the owner (R193). -/
def writesBefore (s : State) (r : Req) : Bool :=
  writesTo ((s.reqs.takeWhile (fun q => q.id != r.id)).filter (fun q => q.owner == r.owner)) (devOf r r.line)

/-- The L1's part of a flush, at its end (R193). -/
def flushL1 (s : State) (r : Req) : State :=
  match r.acc, r.tr with
  | .cctl 3, some t => l1Bypass s r.core (l1Key t r.line) 0xF
  | _, _ => s

/-- MEMORY_WRITE_AT_OWNER: a write is performed where its line is serialised; a clean or flush is done.
Log entry 52 (DEDUCED). -/
def execMemoryWriteAtOwner (id : Nat) (s : State) : Out :=
  match findReq s id with
  | none => .fault .notEnabled
  | some r =>
    match r.acc with
    | .store | .rel =>
      let early := if r.space = 2 then [] else earlyPlaces s r
      if r.space = 0 then
        (if !(served s r) then .fault .notEnabled
         else if !early.isEmpty then .next (writeEarly s r early)
         else .next (pump (dropReq (ownerWrite (track s r) r (lateCells r)) r) r.core))
      else if !(scratchTurn s r) then .fault .notEnabled
      else if mapGone s r then .next (failReq s r 0x11)
      else if !early.isEmpty then .next (scrEarly s r early)
      else
        let cells := (r.pieces.flatMap (fun p => cellsAt p.addr p.data)).filter (fun e => (tget? r.early (e.1 % 256)).isNone)
        .next (dropReq (if r.space = 1 then s.modCore r.tgt (·.scrWrite cells) else mapWrite s cells) r)
    | .cctl op =>
      if !(served s r) || writesBefore s r then .fault .notEnabled
      else
        let s := match r.owner with
          | some (.host _) => s
          | _ => cleanLine s (devOf r r.line) (op == 3)
        .next (pump (dropReq (flushL1 s r) r) r.core)
    | _ => .fault .notEnabled

/-! ## Read-modify-writes -/

/-- Where an RMW of a lane finds its bytes: the old value, the poison met. -/
def rmwRead (s : State) (r : Req) (p : Piece) : State × Nat × Bool :=
  if r.space = 0 then
    let (s, b, bad) := ownerRead s r (p.addr % 256) p.len
    (s, leNat b, !bad.isEmpty)
  else (s, leNat ((s.core r.tgt).scrRead p.addr p.len), false)

def rmwWrite (s : State) (r : Req) (p : Piece) (v : Nat) : State :=
  let b := leBytes p.len v
  if r.space = 0 then ownerWrite s r (cellsAt (p.addr % 256) b) else s.modCore r.tgt (·.scrWrite (cellsAt p.addr b))

/-- The lanes of a request in ascending order, each one indivisible: their old values, and the lanes that met
poison and wrote nothing (R222, R228). Log entry 51 (DEDUCED). -/
def rmwAll (s : State) (r : Req) (fn : RmwFn) : State × List (Nat × BitVec 128) × List Nat :=
  r.pieces.foldl (fun (acc : State × List (Nat × BitVec 128) × List Nat) p =>
    let (s, old, bad) := rmwRead acc.1 r p
    if p.len = 0 then
      (if r.pieces.any (fun q => q.addr == p.addr && acc.2.2.contains q.lane) then (acc.1, acc.2.1, acc.2.2 ++ [p.lane]) else acc)
    else if bad then (s, acc.2.1, acc.2.2 ++ [p.lane])
    else
      let s := match rmwNew fn p.len old p.b.toNat p.c.toNat with
        | some v => rmwWrite s r p v
        | none => s
      (s, acc.2.1 ++ [(p.lane, BitVec.ofNat 128 old)], acc.2.2)) (s, [], [])

/-- After an RMW: the lanes that met poison fault; the others respond, or are done. Log entry 51 (DEDUCED). -/
def rmwFinish (s : State) (r : Req) (ret : Bool) (olds : List (Nat × BitVec 128)) (bad : List Nat) : State :=
  let s := failLanes s r (bad.map (fun l => (l, 0x13)))
  match findReq s r.id with
  | none => s
  | some r => if ret then moveEnd s { r with stage := .respond, olds } else dropReq s r

/-- ATOMIC_AT_OWNER: the RMWs of a line request are performed at their coherence point. -/
def execAtomicAtOwner (id : Nat) (s : State) : Out :=
  match findReq s id with
  | none => .fault .notEnabled
  | some r =>
    let go (fn : RmwFn) (ret : Bool) : Out :=
      if !(if r.space = 0 then served s r else scratchTurn s r) then .fault .notEnabled
      else
        let (s, olds, bad) := rmwAll (track s r) r fn
        .next (pump (rmwFinish s r ret olds bad) r.core)
    match r.acc with
    | .rmw fn ret => go fn ret
    | .redf fn false => go fn false
    | _ => .fault .notEnabled

/-! ## Responses -/

/-- The place of a poisoned granule lies within a piece. -/
def pieceHit (bad : List Nat) (p : Piece) : Bool :=
  bad.any (fun g => p.addr % 256 < 32 * g + 32 && 32 * g < p.addr % 256 + p.len)

/-- Bytes of a line that an engine's write packet covers. -/
def packetCovers (p : Packet) (c key : Nat) : Bool :=
  p.typ == 0x01 && p.reqKind == 1 && p.reqIdx == c && p.gpn == key / 256 && p.off / 256 ≤ key % 256 && key % 256 ≤ (p.off + p.len - 1) / 256

/-- A write of the core's copy engine or of a fabric word is under way to the line as a packet: what a load has read of it
may be older, and does not stay in the L1 (R212). Log entry 60 (DEDUCED). -/
def overtaken (s : State) (c key : Nat) : Bool :=
  s.reqs.any (fun q => q.core == c && q.fab && q.acc.writes && q.key == some key && (match q.stage with | .remote _ _ => true | _ => false)) ||
  s.conns.any (fun q => q.2.kept.any (fun e => packetCovers e.pkt c key))

/-- Sectors that a response fills into the L1 (R171, R186, R187). -/
def fillL1 (s : State) (r : Req) : State :=
  let fills : Bool := match r.acc with
    | .load => r.cp != 1 && !r.nt
    | .pref _ => true
    | _ => false
  match r.tr with
  | some t =>
    if !fills || t.nc || overtaken s r.core (l1Key t r.line) then s
    else
      let sec (i : Nat) : Sector := { data := (List.range 64).map (fun j => tget 0 r.data (64 * i + j))
                                      poison := BitVec.ofNat 2 (b2n (r.poison.contains (2 * i)) + 2 * b2n (r.poison.contains (2 * i + 1))) }
      l1Fill s r.core r.ctx (l1Key t r.line) t.dfr (r.cp == 2) ((secList (r.miss &&& ~~~r.noFill)).map (fun i => (i, sec i)))
  | none => s

/-- The bytes of a piece as a request has them. -/
def pieceBytes (s : State) (r : Req) (p : Piece) : List Byte :=
  if !r.olds.isEmpty then leBytes p.len (((r.olds.find? (fun e => e.1 == p.lane)).map (·.2.toNat)).getD 0)
  else if r.space = 0 then (List.range p.len).map (fun i => (tget? r.early (p.addr % 256 + i)).getD (tget 0 r.data (p.addr % 256 + i)))
  else if r.space = 1 then (List.range p.len).map (fun i => (tget? r.early (p.addr % 256 + i)).getD (tget 0 (s.core r.tgt).scratch (p.addr + i)))
  else mapRead s p.addr p.len

/-- The bytes of a request reach its word's lanes, or end its wait. -/
def deliver (s : State) (r : Req) : State :=
  let got := r.pieces.map (fun p => (p, pieceBytes s r p))
  match r.acc with
  | .wait id =>
    let s := { s with reqs := s.reqs.filter (fun q => !(q.id == r.id)) }
    closeFill (answerWait s r id (got.map (fun e => (e.1.lane, leNat e.2)))) r.res
  | .pref _ => dropReq s r
  | _ => dropReq (got.foldl (fun s e => putBytes s r.res e.1.lane e.1.at_ e.2) s) r

/-- Responses that fill one line of an L1 keep their order. -/
def respondTurn (s : State) (r : Req) : Bool :=
  r.stage == .respond &&
  (r.miss == 0 || (s.reqs.find? (fun q => q.core == r.core && q.stage == .respond && q.miss != 0 && q.key == r.key)).map (·.id) == some r.id)

/-- LOAD_RESPONSE: data returns; the L1 is filled; lanes that meet poison raise cause 0x13 (R173, R187). -/
def execLoadResponse (id : Nat) (s : State) : Out :=
  match findReq s id with
  | none => .fault .notEnabled
  | some r =>
    if r.space != 0 && r.stage == .scratch then
      (match r.acc with
       | .load | .acq | .wait _ =>
         if !(scratchTurn s r) then .fault .notEnabled
         else if mapGone s r then .next (failReq s r 0x11)
         else if r.space = 1 && !(earlyPlaces s r).isEmpty then .next (scrEarly s r (earlyPlaces s r))
         else .next (deliver s r)
       | _ => .fault .notEnabled)
    else if !(respondTurn s r) then .fault .notEnabled
    else
      let s := fillL1 s r
      let bad := ((r.pieces.filter (pieceHit r.poison)).map (·.lane)).eraseDups
      let s := match r.acc with
        | .pref _ => s
        | _ => failLanes s r (bad.map (fun l => (l, 0x13)))
      .next (pump (match findReq s id with
        | some r => deliver s r
        | none => s) r.core)

end Sys2Proof.Machine
end

