-- ==== Sys2Proof/Machine/Engine.lean ====
section
/-! DEFINITION. Machine/Engine.lean: the accesses of engines and system words to virtual memory (R182,
R336, R385), system words that are not complete at once, and the accounts that they and the commits wait for
(R304). -/

namespace Sys2Proof.Machine

/-! ## System words under way -/

/-- Begin a system word that gives its result later. -/
def startJob (s : State) (x : Ctx) (d : Opd) (n : Nat) (kind : JobKind) : State :=
  let (res, s) := openResult s x (vdst d n) (udst d n)
  let (id, s) := s.fresh
  { s with jobs := s.jobs ++ [{ id, core := x.c, slot := x.k, uid := (s.crew x.c x.k).uid, res, d, kind }] }

def dropJob (s : State) (j : Job) : State := { s with jobs := s.jobs.filter (fun q => !(q.id == j.id)) }
def setJob (s : State) (j : Job) : State := { s with jobs := s.jobs.map (fun q => if q.id == j.id then j else q) }

/-- Words of a uniform destination, lowest register first. -/
def giveWords (d : Opd) (l : List W32) : List Wr :=
  match d with
  | .u n => l.zipIdx.map (fun e => Wr.u (n.toNat + e.2) e.1)
  | _ => []

/-- A system word completes with these words. -/
def endJob (s : State) (j : Job) (l : List W32) : State := fillResult (dropJob s j) j.core j.slot j.res (giveWords j.d l)

/-! ## Looking at an address -/

/-- Where an engine's access to an address goes. -/
inductive Place2
  | here (stack : Nat) (dev : Nat) (t : Trans)
  | away (chip stack frame : Nat) (t : Trans)
  | wait
  | bad (cause : Nat)

/-- The owner stage for an engine: a frame of this chip serves, holds, or has passed the page on.
Log entry 118 (DEDUCED). -/
def lookOwner (s : State) (t : Trans) (va : Nat) : Owner → State × Place2
  | .host _ => (s, .bad 0x11)
  | .dram c m f =>
    if stagingFrame f then (s, .bad 0x11)
    else if !(reachable s c) then (s, .bad 0x30)
    else if c != s.chipid then (s, .away c m f t)
    else match frameSt s m f t.gpn with
      | .serve => (s, .here m (devAddr m f (va % 65536)) t)
      | .hold => (s, .wait)
      | .stub o => (ocPut (countFwd s (frameKey m f)) t.gpn o, .wait)
      | .gone => (let s := ocDrop s t.gpn; let (_, s) := newQuery s t.gpn; (s, .wait))

/-- The owner stage of a known translation. -/
def askedOwner (s : State) (t : Trans) (va : Nat) : State × Place2 :=
  match ownerNow s t.gpn with
  | .known o => lookOwner (ocTouch s t.gpn) t va o
  | .ask =>
    let none_ (q : Query) : Bool := q.gpn == t.gpn && q.asker == s.chipid && q.answered && q.owner.isNone
    if s.queries.any none_ then ({ s with queries := s.queries.filter (fun q => !(none_ q)) }, .bad 0x10)
    else (let (_, s) := newQuery s t.gpn; (s, .wait))
  | .bad c => (s, .bad c)

/-- Translate and check an address for an engine (R182 steps 2 to 6). Log entries 58 (DEDUCED), 74 (DEDUCED). -/
def engLook (s : State) (die ctx va : Nat) (write : Bool) : State × Place2 :=
  if 2 ^ 57 ≤ va then (s, .bad 0x11)
  else
    let (s, t) := walkReport s die ctx va
    match t with
    | none => (s, .bad 0x10)
    | some t =>
      if !(if write then t.w else t.rd) || (t.fw && t.dfr) then (s, .bad 0x11)
      else if t.fw then
        let a := t.gpn * 65536 + va % 65536
        if (windowOf s a).isNone then (s, .bad 0x10) else (s, .here (viewCtl a) a t)
      else if (tget? s.hostPages t.gpn).isSome then (s, .bad 0x11)
      else askedOwner s t va

/-- An engine's request to a page waits while one of its requests to that page is outstanding at another owner (R386). -/
def engineWaits (s : State) (core gpn chip key : Nat) : Bool :=
  s.conns.any (fun q => q.2.kept.any (fun e => e.pkt.reqKind == 1 && e.pkt.reqIdx == core && e.pkt.gpn == gpn && !e.reserved &&
    !(e.pkt.dst == chip && e.pkt.frame == key)))

/-- Look at an address for the engine of a core, and wait where R386 says so. -/
def engSeek (s : State) (core ctx va : Nat) (write : Bool) : State × Place2 :=
  match engLook s (dieOfCore core) ctx va write with
  | (s, .here m a t) => if !t.fw && engineWaits s core t.gpn s.chipid (frameKey m (frameOf a)) then (s, .wait) else (s, .here m a t)
  | (s, .away c m f t) => if engineWaits s core t.gpn c (frameKey m f) then (s, .wait) else (s, .away c m f t)
  | r => r

/-! ## Reading -/

/-- What an engine's read gives. -/
inductive Got
  | ok (b : List Byte)
  | wait
  | bad (cause addr : Nat)

/-- Pieces of a range that stay within a line. -/
def linePieces (va : Nat) : Nat → Nat → List (Nat × Nat)
  | 0, _ => []
  | k + 1, n =>
    if n = 0 then []
    else
      let m := min n (256 - va % 256)
      (va % 2 ^ 64, m) :: linePieces (va + m) k (n - m)

/-- A read within one line: the answer of a read already sent, the bytes here, or a request to their chip. -/
def readPiece (s : State) (who : List Nat) (core ctx va n : Nat) : State × Got :=
  match s.rdJobs.find? (fun j => j.who == who && j.addr == va) with
  | some j => (s, match j.ans with
    | some (0, b, poison) => if poison then .bad 0x13 va else .ok b
    | some (c, _, _) => .bad c va
    | none => .wait)
  | none =>
    match engSeek s core ctx va false with
    | (s, .bad c) => (s, .bad c va)
    | (s, .wait) => (s, .wait)
    | (s, .here m a t) =>
      let s := if t.fw then s else trackAccess s m (frameOf a) t.gpn s.chipid (dieOfCore core != dieOfStack m)
      let (s, b, bad) := devRead s ctx a n
      (s, if bad.isEmpty then .ok b else .bad 0x13 va)
    | (s, .away c m f t) =>
      if (s.conn c).lost then (s, .bad 0x31 va)
      else
        let (id, s) := s.fresh
        let (q, s) := queuePkt s { typ := 0x02, src := s.chipid, dst := c, ctx, gpn := t.gpn, off := va % 65536, frame := frameKey m f
                                   reqKind := 1, reqIdx := core, tag := id % 2 ^ 21, body := .ranges [(va % 65536, n)] }
        ({ s with rdJobs := s.rdJobs ++ [{ who, addr := va, n, chip := c, seq := q }] }, .wait)

/-- Forget the reads of one asker. -/
def dropReads (s : State) (who : List Nat) : State := { s with rdJobs := s.rdJobs.filter (fun j => !(j.who == who)) }

/-- Read a range: every piece must be there. -/
def engRead (s : State) (who : List Nat) (core ctx va n : Nat) : State × Got :=
  let (s, g) := (linePieces va (n / 256 + 2) n).foldl (fun (acc : State × Got) p =>
    match acc.2 with
    | .bad c a => (acc.1, .bad c a)
    | .wait => (match readPiece acc.1 who core ctx p.1 p.2 with
      | (s, .bad c a) => (s, .bad c a)
      | (s, _) => (s, .wait))
    | .ok b => (match readPiece acc.1 who core ctx p.1 p.2 with
      | (s, .ok q) => (s, .ok (b ++ q))
      | (s, g) => (s, g))) (s, .ok [])
  match g with
  | .wait => (s, .wait)
  | g => (dropReads s who, g)

/-! ## Writing -/

/-- What an engine's write gives; a write to another chip names its packet. -/
inductive Put
  | done
  | sent (chip seq : Nat)
  | deferred (chip dev gpn : Nat)
  | wait
  | bad (cause : Nat)

/-- A copy engine keeps the L1 of its core current (R212). -/
def engL1 (s : State) (core : Nat) (t : Trans) (va : Nat) (b : List Byte) : State :=
  if t.nc then s else l1Store s core (l1Key t (va / 256 * 256)) 0 (cellsAt (va % 256) b)

/-- Write bytes that lie within one line. A deferred page's owner is answered for its records (R337). -/
def engWrite (s : State) (core ctx va : Nat) (b : List Byte) (org : W32) (kind : Nat := 1) : State × Put :=
  match engSeek s core ctx va true with
  | (s, .bad c) => (s, .bad c)
  | (s, .wait) => (s, .wait)
  | (s, .here m a t) =>
    if t.dfr then (s, .deferred s.chipid a t.gpn)
    else
      let s := if t.fw then s else trackAccess s m (frameOf a) t.gpn s.chipid (dieOfCore core != dieOfStack m)
      (engL1 (devWrite s ctx (cellsAt a b) false org) core t va b, .done)
  | (s, .away c m f t) =>
    if t.dfr then (s, .deferred c (devAddr m f (va % 65536)) t.gpn)
    else if (s.conn c).lost then (s, .bad 0x31)
    else
      let (id, s) := s.fresh
      let p : Packet := { typ := 0x01, src := s.chipid, dst := c, ctx, gpn := t.gpn, off := va % 65536, frame := frameKey m f, reqKind := kind
                          reqIdx := core, tag := id % 2 ^ 21, slot := org.toNat % 64, len := b.length, body := .bytes (cellsAt (va % 65536) b) }
      let (q, s) := queuePkt (engL1 s core t va b) p
      (s, .sent c q)

/-- Has a packet been acknowledged or answered? -/
def pktDone (s : State) (p : Nat × Nat) : Bool := (findKept s p.1 p.2).isNone

/-! ## Accounts (R304) -/

/-- The account of a team slot as it stands. -/
def snapOf (s : State) (c t : Nat) : Snap := let m := s.team c t; { core := c, ts := t, uid := m.uid, count := m.appended }

/-- ACKED has reached the snapshot; a slot that has passed to another team had no weight left. -/
def snapDone (s : State) (p : Snap) : Bool :=
  match tget? (s.core p.core).teams p.ts with
  | some m => m.uid != p.uid || p.count ≤ m.acked
  | none => true

/-- Acknowledged weight reaches an account, and the account of the team restored elsewhere (R257). -/
def creditTeam : Nat → State → Nat → Nat → Nat → State
  | 0, s, _, _, _ => s
  | n + 1, s, c, t, w =>
    let m := s.team c t
    let s := s.modTeam c t (fun m => { m with acked := m.acked + w })
    match m.fwd with
    | some (c', t') => creditTeam n s c' t' w
    | none => s

/-- Weight that an engine appends for a team is charged to its account, and to the account of the team restored elsewhere,
which the acknowledgements reach too (R257, R304). -/
def chargeTeam : Nat → State → Nat → Nat → Nat → State
  | 0, s, _, _, _ => s
  | n + 1, s, c, t, w =>
    let m := s.team c t
    let s := s.modTeam c t (fun m => { m with appended := m.appended + w })
    match m.fwd with
    | some (c', t') => chargeTeam n s c' t' w
    | none => s

/-- Matrix requests of a team, or reads of its tiles, that are not complete (R364, R373). -/
def tilesBusy (s : State) (c t : Nat) : Bool :=
  let q := s.quad (quadOfCore c)
  q.table.any (fun e => e.core == c && e.ts == t) || q.reads.any (fun r => q.holders.any (fun h => h.1 == r.tile && h.2 == (c, t)))

/-- The same, or select operations (R377). -/
def quadBusy (s : State) (c t : Nat) : Bool :=
  tilesBusy s c t || (s.quad (quadOfCore c)).select.any (fun e => e.core == c && e.ts == t)

/-- A team slot that placement may take: never used, or its team gone with no weight outstanding, no engine, bank
command or request at work for it, and no arrival counter bound to it (R294, R449). -/
def slotFree (s : State) (c t : Nat) : Bool :=
  let o := s.core c
  match tget? o.teams t with
  | none => true
  | some m => !m.live && m.acked == m.appended && !(o.log.any (fun e => e.ts == t)) && !(o.spill.any (fun e => e.ts == t)) && !(quadBusy s c t) &&
    !(s.reqs.any (fun r => r.core == c && r.ts == t)) && !((o.copies ++ o.copyWait).any (fun p => p.ts == t)) && !(o.arrCtrs.any (fun a => a.2.ts == t)) &&
    !(s.stks.any (fun k => k.2.bankQ.any (fun b => b.core == c && b.ts == t)))

/-- The lowest free team slot of a core. -/
def freeTeamSlot (s : State) (c : Nat) : Option Nat := (List.range 64).find? (slotFree s c)

/-! ## Tiles that are to be read or given back (R355, R364, R372, R373) -/

/-- The row of a MACRD is there once no entry issued before it names the tile. -/
def settleReads (s : State) (q : Nat) : State :=
  let u := s.quad q
  let ready (r : TileRead) : Bool := r.ticket.isNone && !(u.table.any (fun e => r.after.contains e.id))
  let done := u.reads.filter ready
  let s := s.modQuad q (fun u => { u with reads := u.reads.filter (fun r => !(ready r)) })
  done.foldl (fun s r =>
    let val (l : Nat) : W32 := tget 0 u.acc (r.tile * 4096 + r.row * 64 + 32 * r.half + l)
    let n : Nat := match r.d with | .v n => n.toNat | _ => 0
    fillResult s r.core r.slot r.res [.v n ((lanesOf r.lanes).map (fun l => (l, val l)))]) s

/-- MREL answers, and a retired team gives back its reservation, once nothing is outstanding.
Log entry 81 (DEDUCED). -/
def settleFrees (s : State) (q : Nat) : State :=
  let s := s.jobs.foldl (fun s j =>
    let t := (s.crew j.core j.slot).ts
    if j.kind == .mrel && quadOfCore j.core == q && !(tilesBusy s j.core t) then endJob (endReservation s j.core t) j [0] else s) s
  let gone := ((s.quad q).holders.map (·.2)).eraseDups.filter (fun h => !(s.team h.1 h.2).live && !(tilesBusy s h.1 h.2))
  gone.foldl (fun s h => endReservation s h.1 h.2) s

def settleQuad (s : State) (q : Nat) : State := settleFrees (settleReads s q) q

end Sys2Proof.Machine
end

