-- ==== Sys2Proof/Machine/Bins.lean ====
section
/-! DEFINITION. Machine/Bins.lean: binning units (R293 to R297, R299), apply engines (R298 to R302, R312),
their messages, and the drained log. -/

namespace Sys2Proof.Machine

/-! ## Messages -/

/-- Send a message over the mesh; messages of one unit to one engine keep their order (R297). -/
def sendMsg (s : State) (dst chip : Nat) (body : Body) (pkt : Bool := false) : State :=
  let (id, s) := s.fresh
  { s with net := s.net ++ [{ id, dst, chip, body, pkt }] }

/-- Records of a bin, in slots. -/
def binSlotsOf (l : List BinRec) : Nat := (l.map (fun r => if r.key.isSome then 2 else 1)).sum

/-- A packet of another requester than a word: bins (type 0x08), notices and acknowledgements (0x09). -/
def unitPacket (s : State) (typ kind idx dst len : Nat) (body : Body) (orig : Option (Nat × Nat) := none) : State :=
  queueKept s { typ, src := s.chipid, dst, reqKind := kind, reqIdx := idx, len, body, orig }

/-! ## Folding (R295) -/

/-- Keyed records combine only under one heat, team and lane, and float sums never (R315). -/
def keysFold (op : Nat) : Option Key → Option Key → Bool
  | none, none => true
  | some a, some b => a.heat == b.heat && a.team == b.team && a.lane == b.lane && op != 3 && op != 4
  | _, _ => false

/-- The record that `y` and a later `x` of the same word and origin become, if they combine. -/
def foldRec (y x : BinRec) : Option BinRec :=
  let (yo, yn) := mwBytes y.mw
  let (xo, xn) := mwBytes x.mw
  let wt := y.wt + x.wt
  let within := yo ≤ xo && xo + xn ≤ yo + yn
  let covers := xo ≤ yo && yo + yn ≤ xo + xn
  if 255 < wt || !(keysFold x.op y.key x.key) || !(keysFold y.op y.key x.key) then none
  else if y.op = 0 && within then
    let v := y.value.toNat
    let lo := 8 * (xo - yo)
    some { y with wt, key := x.key, value := w64 (setBf v lo (8 * xn) (recNew x.op xn (bf v lo (8 * xn)) x.value.toNat)) }
  else if x.op = 0 && covers then some { x with wt }
  else if y.op != 0 && y.op == x.op && y.mw == x.mw then
    some { y with wt, key := x.key, value := w64 (recNew y.op yn y.value.toNat x.value.toNat) }
  else none

/-- Same word and same origin. -/
def sameWord (y x : BinRec) : Bool := y.wi == x.wi && y.gpn == x.gpn && y.ciq == x.ciq && y.ts == x.ts

/-- The 128 bits of a bin record (R294). -/
def binBits (r : BinRec) : BitVec 128 :=
  BitVec.ofNat 128 (b2n r.key.isSome * 2 ^ 127 + r.ciq * 2 ^ 125 + r.ts * 2 ^ 119 + r.wt * 2 ^ 111 + r.mw * 2 ^ 107 + r.op * 2 ^ 101 +
    r.wi * 2 ^ 64 + r.value.toNat)

/-- Add a record to a bin's records: fold into the most recent record of its word and origin, or append. -/
def foldIn (clk : Nat) (fold : Bool) (l : List (Nat × BinRec)) (x : BinRec) : List (Nat × BinRec) :=
  match l.reverse.findIdx? (fun e => sameWord e.2 x) with
  | some i =>
    let j := l.length - 1 - i
    (match l[j]? with
     | some y => (match if fold then foldRec y.2 x else none with
       | some z => l.set j (y.1, z)
       | none => l ++ [(clk, x)])
     | none => l ++ [(clk, x)])
  | none => l ++ [(clk, x)]

/-! ## Shipping (R296, R297, R299) -/

def State.bin (s : State) (q b : Nat) : Bin := tget {} (s.quad q).bins b
def State.modBin (s : State) (q b : Nat) (f : Bin → Bin) : State :=
  s.modQuad q (fun u => { u with bins := tset u.bins b (f (tget {} u.bins b)) })

/-- Remote chips of a team's destination set beyond 16 stand in a chunk of its grid's spill region (R299).
Log entry 66 (DESIGN CHOICE). -/
def spillDests (s : State) (c t : Nat) : State :=
  let m := s.team c t
  if m.remotes.length ≤ 16 || m.remoteChunk.isSome then s
  else let no := freeChunk s m.grid; s.modTeam c t (fun m => { m with remoteChunk := no })

/-- A record joins its team's destination set. -/
def noteDest (q b : Nat) (chip : Option Nat) (s : State) (r : BinRec) : State :=
  let c := coreOfQuad q r.ciq
  spillDests (s.modTeam c r.ts (fun m => match chip with
    | none => { m with engines := if m.engines.contains b then m.engines else m.engines ++ [b] }
    | some c => { m with remotes := tset m.remotes c (tget 0 m.remotes c + r.wt) })) c r.ts

/-- The frame that a record's word lies in. -/
def recFrame (r : BinRec) : Nat := frameKey (stackOf (8 * r.wi)) (frameOf (8 * r.wi))

def findMsg (s : State) (id : Nat) : Option Msg := s.net.find? (fun m => m.id == id)
def dropMsg (s : State) (m : Msg) : State := { s with net := s.net.filter (fun n => !(n.id == m.id)) }

/-- The chip that a bin on its way goes to: destinations from 192 up name a chip. -/
def msgChip (s : State) (m : Msg) : Nat := if m.dst < 192 then s.chipid else m.dst - 192

/-- Records of a binning unit that are outstanding at an owner, each with the owner's chip: bins older than `id` on the mesh
or waiting to leave, packets that are not acknowledged, and records that have come back and go out again (R297, R386). -/
def unitOpen (s : State) (q id : Nat) : List (Nat × BinRec) :=
  let recs (b : Body) : List BinRec := match b with | .bin u l => if u == q then l else [] | _ => []
  let net := s.net.filter (fun m => m.chip == s.chipid && !m.pkt && m.id < id)
  net.flatMap (fun m => (recs m.body).map (fun r => (msgChip s m, r))) ++
  s.conns.flatMap (fun c => (c.2.kept ++ c.2.waiting).flatMap (fun e =>
    if e.pkt.typ = 0x08 && e.pkt.reqKind = 2 then (recs e.pkt.body).map (fun r => (c.1, r)) else [])) ++
  (s.lost.filter (fun l => l.org.quad == q)).map (fun l => (2 ^ 15, l.rcd))

/-- A bin waits while its unit has a record of one of its pages outstanding at another owner (R386).
Log entry 118 (DEDUCED). -/
def unitWaits (s : State) (q id chip : Nat) (recs : List BinRec) : Bool :=
  (unitOpen s q id).any (fun e => recs.any (fun r => r.gpn == e.2.gpn && !(e.1 == chip && recFrame e.2 == recFrame r)))

/-- A bin for another chip leaves as a packet, unless it must wait. -/
def departBin (s : State) (id : Nat) : Option State :=
  match findMsg s id with
  | some m => (match m.body with
    | .bin q recs =>
      let turn := (s.net.find? (fun n => n.dst == m.dst && n.chip == s.chipid && (match n.body with | .bin u _ => u == q | _ => false))).map (·.id) == some id
      if m.dst < 192 || m.pkt || m.chip != s.chipid || !turn || unitWaits s q id (msgChip s m) recs then none
      else some (unitPacket (dropMsg s m) 0x08 2 q (m.dst - 192) (16 * binSlotsOf recs) (.bin q recs))
    | _ => none)
  | none => none

/-- A bin leaves for another chip, at once if it may. -/
def sendBin (s : State) (q chip : Nat) (recs : List BinRec) : State :=
  let s := sendMsg s (192 + chip) s.chipid (.bin q recs)
  match s.net.getLast? with
  | some m => (departBin s m.id).getD s
  | none => s

/-- BIN_SHIP. -/
def shipBin (s : State) (q b : Nat) : State :=
  let v := s.bin q b
  let recs := v.recs.map (·.2)
  if recs.isEmpty then s
  else
    let s := s.modBin q b (fun v => { v with recs := [] })
    if b < 192 then sendMsg (recs.foldl (noteDest q b none) s) b s.chipid (.bin q recs)
    else match v.chip with
      | some c => sendBin (recs.foldl (noteDest q b (some c)) s) q c recs
      | none => s

/-- The remote bin that a record to another chip takes: the one that holds the chip, a free one, or the least
recently used that is not pinned, which ships first (R293). -/
def remoteBin (s : State) (q chip : Nat) : Nat × State :=
  let all := (List.range 64).map (fun i => (192 + i, s.bin q (192 + i)))
  match all.find? (fun e => e.2.chip == some chip) with
  | some e => (e.1, s)
  | none => match all.find? (fun e => e.2.chip.isNone) with
    | some e => (e.1, s.modBin q e.1 (fun v => { v with chip := some chip }))
    | none =>
      let lru := (all.filter (fun e => e.2.pin.isNone)).foldl (fun (b : Option (Nat × Bin)) e => match b with
        | none => some e
        | some f => if e.2.lastUse < f.2.lastUse then some e else b) none
      match lru with
      | some e => (e.1, (shipBin s q e.1).modBin q e.1 (fun v => { v with chip := some chip }))
      | none => (255, s)

/-- Bins that hold records of a page at another owner ship before a record for its new owner comes in (R386). -/
def shipOthers (s : State) (q chip : Nat) (x : BinRec) : State :=
  let other (b : Nat × Bin) : Bool := b.2.recs.any (fun r => r.2.gpn == x.gpn &&
    !((if b.1 < 192 then s.chipid else b.2.chip.getD s.chipid) == chip && recFrame r.2 == recFrame x))
  ((s.quad q).bins.filter other).foldl (fun s b => shipBin s q b.1) s

/-- A drained record reaches the binning unit of its core's quad (R293 to R296). -/
def binRecord (s : State) (c : Nat) (e : LogEnt) : State :=
  let q := quadOfCore c
  let r := e.rcd
  let x : BinRec := { ciq := ciqOfCore c, ts := e.ts, wt := 1, op := r.op, mw := r.mw, wi := r.wi, value := r.value, key := r.key
                      gpn := r.gpn, gen := (s.team c e.ts).rels }
  let s := shipOthers s q r.chip x
  let (b, s) := if r.chip == s.chipid then (engineOf (8 * r.wi), s) else remoteBin s q r.chip
  let fold := !(bit (s.team c e.ts).dcfg.toNat 16)
  let v := s.bin q b
  let l := foldIn s.clk fold v.recs x
  if Config.binSlots < binSlotsOf (l.map (·.2)) then
    (shipBin s q b).modBin q b (fun v => { v with recs := [(s.clk, x)], lastUse := s.clk })
  else
    let s := s.modBin q b (fun v => { v with recs := l, lastUse := s.clk })
    if binSlotsOf (l.map (·.2)) = Config.binSlots then shipBin s q b else s

/-! ## Draining (R291) -/

/-- The next record that a core's log drains: its oldest, or the chunk of that team that stands before it.
Log entry 66 (DESIGN CHOICE). -/
def nextDrain (o : Core) : Option (LogEnt × Core) :=
  let ofChunk (k : Chunk) : Option (LogEnt × Core) :=
    match k.recs with
    | e :: t => if k.writing then none else some (e, { o with spill := (o.spill.map (fun g =>
        if g.no == k.no && g.grid == k.grid then { g with recs := t } else g)).filter (fun g => g.writing || !g.recs.isEmpty) })
    | [] => none
  match o.log with
  | e :: t => (match o.spill.find? (fun k => k.ts == e.ts) with
    | some k => ofChunk k
    | none => some (e, { o with log := t }))
  | [] => (o.spill.find? (fun k => !k.writing)).bind ofChunk

/-- Lanes parked on a full log try again (R59), but for those of halted crews (R95). -/
def wakeLog (s : State) (c : Nat) : State :=
  if (s.core c).slots.any (fun e => e.2.park.any (fun p => p.2 == .log)) || s.reqs.any (fun r => r.core == c && r.stage == .ready && r.defers) then
    pump (s.modCore c (fun o => o.mapCrews (fun k => !k.halted) (fun k => k.unpark s.clk (· == .log)))) c
  else s

/-- BIN_RECORD_ADD: one record leaves the log of a core (R295). -/
def execBinRecordAdd (c : Nat) (s : State) : Out :=
  match nextDrain (s.core c) with
  | some (e, o) => .next (wakeLog (binRecord (s.setCore c o) c e) c)
  | none => .fault .notEnabled

/-- Drain a team's records, those of its chunks first. -/
def drainTeam (s : State) (c t : Nat) : State :=
  let o := s.core c
  let recs := (o.spill.filter (fun k => k.ts == t)).flatMap (·.recs) ++ o.log.filter (fun e => e.ts == t)
  let s := s.setCore c { o with spill := o.spill.filter (fun k => !(k.ts == t)), log := o.log.filter (fun e => !(e.ts == t)) }
  recs.foldl (fun s e => binRecord s c e) s

/-- Ship every bin of the quad that holds a record of a team. -/
def shipTeam (s : State) (c t : Nat) : State :=
  let q := quadOfCore c
  ((s.quad q).bins.filter (fun e => e.2.recs.any (fun r => r.2.ts == t && r.2.ciq == ciqOfCore c))).foldl (fun s e => shipBin s q e.1) s

def originOf (s : State) (c t : Nat) : RecOrigin := { chip := s.chipid, quad := quadOfCore c, ciq := ciqOfCore c, ts := t }

/-- A team's records drain and ship, and release notices follow them to the engines of this chip (R299). What is left to tell:
other chips and the weight sent to each. -/
def releaseHere (s : State) (c t : Nat) : State × List (Nat × Nat) :=
  let s := shipTeam (drainTeam s c t) c t
  let m := s.team c t
  let s := m.engines.foldl (fun s e => sendMsg s e s.chipid (.notice (originOf s c t) 0)) s
  (wakeLog (s.modTeam c t (fun m => { m with engines := [], remotes := [], remoteChunk := none, rels := m.rels + 1 })) c, m.remotes)

/-- The release point of a team (R306). -/
def releaseTeam (s : State) (c t : Nat) : State :=
  let (s, l) := releaseHere s c t
  l.foldl (fun s r => unitPacket s 0x09 2 (quadOfCore c) r.1 0 (.notice (originOf s c t) r.2)) s

/-- Several teams release together: each other chip hears of all of them at once, so that its engines apply their keyed
records in key order (R316). Log entry 69 (DEDUCED). -/
def releaseTeams (s : State) (l : List (Nat × Nat)) : State :=
  let (s, far) := l.foldl (fun (acc : State × Tab (List (RecOrigin × Nat))) t =>
    let (s, r) := releaseHere acc.1 t.1 t.2
    (s, r.foldl (fun f e => tset f e.1 (tget [] f e.1 ++ [(originOf s t.1 t.2, e.2)])) acc.2)) (s, [])
  far.foldl (fun s e => unitPacket s 0x09 2 0 e.1 0 (.notices e.2)) s

/-- LOG_SPILL_DONE: the chunk that was being written stands in the spill region, as far as it is mapped (R291). -/
def execLogSpillDone (c : Nat) (s : State) : Out :=
  match (s.core c).spill.find? (·.writing) with
  | none => .fault .notEnabled
  | some k =>
    let g := s.grid k.grid
    let keyVal (q : Key) : Nat := q.heat * 2 ^ 72 + q.team * 2 ^ 48 + q.lane * 2 ^ 32 + q.seq
    let val (r : LogRec) : Nat := b2n r.key.isSome * 2 ^ 126 + r.mw * 2 ^ 122 + r.op * 2 ^ 116 + r.chip * 2 ^ 101 + r.wi * 2 ^ 64 + r.value.toNat
    let bytes := k.recs.flatMap (fun e => leBytes 16 (val e.rcd) ++ (match e.rcd.key with
      | some q => leBytes 16 (keyVal q)
      | none => []))
    let base := g.lr.spillbase.toNat + 4096 * k.no
    let s := (linePieces base 20 bytes.length).foldl (fun s p =>
      match engLook s (dieOfCore c) g.lr.ctx p.1 true with
      | (s, .here _ a _) => devWrite s g.lr.ctx (cellsAt a ((bytes.drop (p.1 - base)).take p.2)) false (originVal s.chipid c true k.ts)
      | (s, _) => s) s
    .next (wakeLog (s.modCore c (fun o => { o with spill := (o.spill.map (fun q =>
      if q.no == k.no && q.grid == k.grid then { q with writing := false } else q)).filter (fun q => !q.recs.isEmpty) })) c)

/-- BIN_AGE_EXPIRY: a bin whose oldest record of some team has waited longer than that team's AGE ships (R296). -/
def execBinAgeExpiry (q b : Nat) (s : State) : Out :=
  let old (e : Nat × BinRec) : Bool :=
    let age := bf (s.team (coreOfQuad q e.2.ciq) e.2.ts).dcfg.toNat 0 16
    age != 0 && e.1 + 256 * age < s.clk
  if (s.bin q b).recs.any old then .next (shipBin s q b) else .fault .notEnabled

/-! ## Apply engines -/

def State.engine (s : State) (e : Nat) : Engine := tget {} (s.stack (e / 24)).engines (e % 24)
def State.modEngine (s : State) (e : Nat) (f : Engine → Engine) : State :=
  s.modStack (e / 24) (fun m => { m with engines := tset m.engines (e % 24) (f (tget {} m.engines (e % 24))) })

/-- What a record's frame does with it: hold it staged, forward it, or refuse a page that it does not hold (R385, R390). -/
def recSt (s : State) (r : BinRec) : FrameSt := frameSt s (recFrame r / 2 ^ 20) (recFrame r % 2 ^ 20) r.gpn

/-- Weight forwarded for an origin. -/
def noteFwd (s : State) (src : Nat) (org : RecOrigin) (dst w : Nat) : State :=
  if s.fwds.any (fun f => f.src == src && f.org == org && f.dst == dst) then
    { s with fwds := s.fwds.map (fun f => if f.src == src && f.org == org && f.dst == dst then { f with weight := f.weight + w } else f) }
  else { s with fwds := s.fwds ++ [{ src, org, dst, weight := w }] }

/-- A record's place under another owner. -/
def rehome (r : BinRec) (m f : Nat) : BinRec := { r with wi := devAddr m f (8 * r.wi % 65536) / 8 }

/-- The page of a forwarded bin has moved: its origin chip hears of the successor (R312, R388), at once where that is this
chip. -/
def tellOrigin (s : State) (chip gpn stub : Nat) (succ : Owner) : State :=
  if chip == s.chipid then sendMsg s 0 ((ownerChip succ).getD s.chipid) (.redirect gpn (ownerAt s stub) succ)
  else emit s { typ := 0x0A, src := s.chipid, dst := chip, gpn, reqKind := 5, body := .redirect gpn (ownerAt s stub) succ }

/-- Records of one page and one binning unit go on from engine `src`, as one bin, to the owner that the stub names, with their
origin and weight; the origin chip hears of it once the successor has them (R312, R388, R389). Log entry 69 (DEDUCED).
Log entry 123 (DEDUCED). -/
def forwardBin (s : State) (src stub chip quad : Nat) (recs : List BinRec) : Owner → State
  | .dram c m f =>
    let l := recs.map (fun r => rehome r m f)
    let gpn := ((l.head?).map (·.gpn)).getD 0
    let e := ((l.head?).map (fun x => engineOf (8 * x.wi))).getD 0
    let s := recs.foldl (fun s r => noteFwd s src { chip, quad, ciq := r.ciq, ts := r.ts } (if c == s.chipid then e else 1000 + c) r.wt) s
    if l.isEmpty then s
    else if c == s.chipid then tellOrigin (sendMsg s e chip (.bin quad l)) chip gpn stub (.dram c m f)
    else keepCopy s { redir := some stub, pkt := { typ := 0x08, src := s.chipid, dst := c, gpn, frame := frameKey m f, reqKind := 3, reqIdx := src
                                                   len := 16 * binSlotsOf l, body := .bin quad l, orig := some (chip, 0) } }
  | .host _ => s

/-- Release notices go on to every engine to which the origin's records were forwarded (R312). -/
def passNotices (s : State) (src : Nat) (org : RecOrigin) : State :=
  let mine := s.fwds.filter (fun f => f.src == src && f.org == org)
  let s := { s with fwds := s.fwds.filter (fun f => !(f.src == src && f.org == org)) }
  mine.foldl (fun s f => if f.dst < 192 then sendMsg s f.dst org.chip (.notice org 0)
    else unitPacket s 0x09 3 src (f.dst - 1000) 0 (.notice org f.weight)) s

/-- An engine releases the staged records of an origin. -/
def releaseOrigin (s : State) (e : Nat) (org : RecOrigin) : State :=
  passNotices (s.modEngine e (fun g => { g with staged := g.staged.map (fun r => if r.org == org then { r with released := true } else r) })) e org

/-- A record comes back to its binning unit, which drops what its chip knows of the page's owner and asks the home (R297,
R385); to another chip it goes in a packet of type 0x09. Log entry 69 (DEDUCED). -/
def sendBack (s : State) (e : Nat) (org : RecOrigin) (r : BinRec) : State :=
  if org.chip == s.chipid then { ocDrop s r.gpn with lost := s.lost ++ [{ gpn := r.gpn, rcd := r, org }] }
  else unitPacket s 0x09 3 e org.chip 0 (.back org.quad [r])

/-- One record of an accepted bin that is not forwarded. -/
def stageRec (s : State) (e : Nat) (org : RecOrigin) (r : BinRec) : State :=
  match recSt s r with
  | .gone => sendBack s e org r
  | .stub _ => s
  | _ => s.modEngine e (fun g => { g with staged := g.staged ++ [{ rcd := r, org, released := false }] })

def recOrg (chip quad : Nat) (r : BinRec) : RecOrigin := { chip, quad, ciq := r.ciq, ts := r.ts }

/-- A remote notice takes effect once the weight it names has been received (R299). -/
def settleNotices (s : State) : State :=
  s.rnotes.foldl (fun s n =>
    let got := ((s.rcvd.find? (fun e => e.1 == n.1)).map (·.2)).getD 0
    if got < n.2 then s
    else
      let s := { s with rnotes := s.rnotes.erase n, rcvd := (s.rcvd.map (fun e => if e.1 == n.1 then (e.1, e.2 - n.2) else e)).filter (fun e => e.2 != 0) }
      (List.range 192).foldl (fun s e => if (s.engine e).staged.any (fun r => r.org == n.1) || s.fwds.any (fun f => f.src == e && f.org == n.1)
        then releaseOrigin s e n.1 else s) s) s

/-- Weight received from an origin on another chip. -/
def noteRcvd (s : State) (org : RecOrigin) (w : Nat) : State :=
  { s with rcvd := if s.rcvd.any (fun e => e.1 == org) then s.rcvd.map (fun e => if e.1 == org then (e.1, e.2 + w) else e) else s.rcvd ++ [(org, w)] }

/-- The binning unit that a message comes from. -/
def msgUnit (m : Msg) : Nat × Nat :=
  match m.body with
  | .bin q _ => (m.chip, q)
  | .notice o _ => (o.chip, o.quad)
  | _ => (m.chip, 1000)

/-- Messages of one unit to one engine are taken in order. -/
def msgTurn (s : State) (m : Msg) : Bool :=
  (s.net.find? (fun n => n.dst == m.dst && msgUnit n == msgUnit m)).map (·.id) == some m.id

/-- The grid of an origin on this chip. -/
def originGrid (s : State) (o : RecOrigin) : Nat := (s.team (coreOfQuad o.quad o.ciq) o.ts).grid

/-- A keyed record waits while notices of its grid's release are on their way, so that all records of the release are
applied in key order (R316). Log entry 69 (DEDUCED). -/
def keyWaits (s : State) (r : Staged) : Bool :=
  r.rcd.key.isSome && (if r.org.chip == s.chipid then s.net.any (fun m => match m.body with
      | .notice o _ => o.chip == s.chipid && originGrid s o == originGrid s r.org
      | _ => false)
    else s.rnotes.any (fun n => n.1.chip == r.org.chip))

/-- A released record that its frame can take; a page being moved takes them until it is read (R312). -/
def canApply (s : State) (r : Staged) : Bool :=
  r.released && !(keyWaits s r) && (match tget? s.stubs (recFrame r.rcd) with
    | some b => b.state = 1 && !b.moved && b.gpn == r.rcd.gpn
    | none => recSt s r.rcd == .serve)

/-- Records of an accepted bin that a stub of this chip forwards, page by page; each counts as one bin (R389).
Log entry 69 (DEDUCED). -/
def passRecs (s : State) (e chip quad : Nat) (recs : List BinRec) : State :=
  let page (r : BinRec) : Nat × Nat := (recFrame r, r.gpn)
  ((recs.map page).eraseDups).foldl (fun s p => match frameSt s (p.1 / 2 ^ 20) (p.1 % 2 ^ 20) p.2 with
    | .stub o => forwardBin (countFwd s p.1) e p.1 chip quad (recs.filter (fun r => page r == p)) o
    | _ => s) s

/-- BIN_ACCEPT (R297, R298): after the released records that the engine can apply. -/
def execBinAccept (id : Nat) (s : State) : Out :=
  match findMsg s id with
  | some m => (match m.body with
    | .bin q recs =>
      let g := s.engine m.dst
      if 192 ≤ m.dst || !(msgTurn s m) || g.frozen || Config.stagedRecords < g.staged.length + recs.length || g.staged.any (canApply s) ||
          (!m.pkt && m.chip == s.chipid && unitWaits s q id s.chipid recs) then .fault .notEnabled
      else
        let s := dropMsg s m
        let s := recs.foldl (fun s r =>
          let org := recOrg m.chip q r
          stageRec (if m.pkt then noteRcvd s org r.wt else s) m.dst org r) s
        .next (settleNotices (passRecs s m.dst m.chip q recs))
    | _ => .fault .notEnabled)
  | none => .fault .notEnabled

/-- RELEASE_NOTICE (R299). -/
def execReleaseNotice (id : Nat) (s : State) : Out :=
  match findMsg s id with
  | some m => (match m.body with
    | .notice org w =>
      if m.pkt then .next (settleNotices { dropMsg s m with rnotes := s.rnotes ++ [(org, w)] })
      else if msgTurn s m then .next (releaseOrigin (dropMsg s m) m.dst org) else .fault .notEnabled
    | .notices l => .next (settleNotices { dropMsg s m with rnotes := s.rnotes ++ l })
    | _ => .fault .notEnabled)
  | none => .fault .notEnabled

/-- A record that has come back goes out to the page's owner; where its release is past, a notice follows it at once.
Log entry 69 (DEDUCED). -/
def resendRec (s : State) (l : LostRec) (c m f : Nat) : State :=
  let q := l.org.quad
  let x := rehome l.rcd m f
  let past := l.rcd.gen < (s.team (coreOfQuad q l.org.ciq) l.org.ts).rels
  if c == s.chipid then
    let e := engineOf (8 * x.wi)
    let s := sendMsg s e s.chipid (.bin q [x])
    if past then sendMsg s e s.chipid (.notice l.org 0) else noteDest q e none s x
  else
    let s := sendBin s q c [x]
    if past then unitPacket s 0x09 2 q c 0 (.notice l.org x.wt) else noteDest q 0 (some c) s x

/-- The binning unit sends a record that has come back to the owner that the page's home has named, or asks the home (R297,
R390). Log entry 69 (DEDUCED). -/
def resendLost (s : State) : Option State :=
  match s.lost.find? (fun l => (ocFind s l.gpn).isSome) with
  | some l => (match ocFind s l.gpn with
    | some (.dram c m f) => some (resendRec { s with lost := s.lost.erase l } l c m f)
    | _ => none)
  | none => match s.lost.find? (fun l => !(s.queries.any (fun q => q.gpn == l.gpn && q.asker == s.chipid))) with
    | some l => some (newQuery s l.gpn).2
    | none => none

/-- Records come back from another chip. -/
def takeReturned (s : State) (id : Nat) : Option State :=
  match findMsg s id with
  | some m => (match m.body with
    | .back q recs => some (recs.foldl (fun s r => sendBack s 0 (recOrg s.chipid q r) r) (dropMsg s m))
    | _ => none)
  | none => none

/-! ### Applying (R300 to R302) -/

/-- The key of the order in which rows are taken: pseudo-channel, bank, row. -/
def rowOrder (r : BinRec) : Nat :=
  let l := dramLoc (8 * r.wi)
  (l.pc * 16 + l.bank) * 2 ^ 20 + l.row

/-- The next record an engine applies: the lowest row, in arrival order, and at one word the keyed records in key
order (R300, R316). -/
def nextApply (s : State) (e : Nat) : Option Staged :=
  let l := (s.engine e).staged.filter (canApply s)
  let first := l.foldl (fun (b : Option Staged) r => match b with
    | none => some r
    | some x => if rowOrder r.rcd < rowOrder x.rcd then some r else b) none
  first.map (fun x =>
    (l.filter (fun r => r.rcd.wi == x.rcd.wi)).foldl (fun x r => match x.rcd.key, r.rcd.key with
      | some a, some b => if keyLt b a then r else x
      | _, _ => x) x)

/-- Acknowledge weight to an origin's binning unit (R302). Log entry 69 (DEDUCED). -/
def sendAck (s : State) (e : Nat) (org : RecOrigin) (w : Nat) : State :=
  let b := Body.wack org.quad org.ciq org.ts w
  if org.chip == s.chipid then sendMsg s (2000 + org.quad) s.chipid b else unitPacket s 0x09 3 e org.chip 0 b

/-- Change a word in its granule in DRAM: the line leaves the memory-side cache first; poison stays, and what lies in a context
whose key has been destroyed is poisoned (R301). Log entries 57 (DEDUCED), 73 (DEDUCED). -/
def applyWord (s : State) (r : BinRec) (org : W32) : State :=
  let a := 8 * r.wi
  let g := a / 32
  let ctx := entCtx (frameEntry s (stackOf a) (frameOf a))
  let s := [0, 1, 2, 3].foldl (fun s i => evictSector s (a / 256 * 4 + i)) s
  if tget false s.poison g || s.keysGone.contains ctx then poisonEvent (s.setPoison g true) g org
  else
    let b := granRead s ctx g
    let (o, n) := mwBytes r.mw
    let p := a % 32 + o
    let v := recNew r.op n (leNat ((b.drop p).take n)) r.value.toNat
    granWrite s ctx g (b.take p ++ leBytes n v ++ b.drop (p + n))

/-- RECORD_APPLY. -/
def execRecordApply (e : Nat) (s : State) : Out :=
  if (s.engine e).frozen then .fault .notEnabled
  else match nextApply s e with
    | none => .fault .notEnabled
    | some r =>
      let a := 8 * r.rcd.wi
      let core := coreOfQuad r.org.quad r.org.ciq
      let s := trackAccess s (stackOf a) (frameOf a) (frameGpn s (stackOf a) (frameOf a)) r.org.chip (dieOfCore core != dieOfStack (stackOf a))
      let s := applyWord s r.rcd (originVal r.org.chip core true r.org.ts)
      .next (sendAck (s.modEngine e (fun g => { g with staged := g.staged.erase r })) e r.org r.rcd.wt)

/-- ACTIVATION_ALERT (R303). -/
def execActivationAlert (m pc : Nat) (s : State) : Out :=
  if m < Config.nStacks && pc < 384 then .next (s.post (dieOfStack m) { typ := 0x07, value := w32 (m * 384 + pc) })
  else .fault .notEnabled

end Sys2Proof.Machine
end

