-- ==== Sys2Proof/Machine/Order.lean ====
section
/-! DEFINITION. Machine/Order.lean: the atomic, fence and waiting words (R92, R219 to R228). Releases and
acquires that are not complete at once end with ORDERING_COMPLETE. -/

namespace Sys2Proof.Machine

/-! ## Operands (R219) -/

/-- A lane's address: the base and the offset of the extension. -/
def atomAddr (s : State) (x : Ctx) (w : Op) (narrow : Bool) (l : Nat) : Nat :=
  if narrow then wrapInt 32 ((rd s x 0 w.a l).toNat + kOff x w)
  else wrapInt 64 ((rd64 s x x.h.form false 0 w.a l).toNat + kOff x w)

/-- An operand of `n` bytes. Log entry 45 (DEDUCED). -/
def atomVal (s : State) (x : Ctx) (n : Nat) (o : Opd) (l : Nat) : BitVec 128 :=
  if n = 8 then (rd64 s x x.h.form true 0 o l).setWidth 128
  else BitVec.ofNat 128 (leNat ((rdRun s x o (n / 4) l).flatMap (fun v => leBytes 4 v.toNat)))

/-- The float type of a table 32 operator. -/
def opFloat (op : Nat) : Option Nat :=
  if 10 ≤ op && op ≤ 12 then some 0 else if op = 13 then some 20 else if op = 14 then some 21 else none

/-- Operand B of an RMW; a small immediate of a float operator is a number of its format (R29). -/
def rmwVal (s : State) (x : Ctx) (fn : RmwFn) (n : Nat) (o : Opd) (l : Nat) : BitVec 128 :=
  match fn with
  | .t32 op => match opFloat op with
    | some t => BitVec.ofNat 128 (rdF s x 0 t o l)
    | none => atomVal s x n o l
  | _ => atomVal s x n o l

/-- Where the addresses of an atomic word lie. -/
inductive Place
  | global
  | scratch
  | cluster
deriving DecidableEq, Repr

/-- Step 2 for an atomic word (R228). Log entry 65 (DEDUCED). -/
def checkAtom (s : State) (x : Ctx) (pl : Place) (n : Nat) (y : LaneAcc) : Step2 :=
  if y.addr % n != 0 then .bad y.lane y.addr
  else match pl with
    | .global => checkGlobal y
    | .scratch => checkScratch s x x.c (s.crew x.c x.k).ts y.addr y
    | .cluster => checkCluster s x y

/-! ## Read-modify-write words (R222, R223) -/

/-- What an atomic word does. `heat` says whether a heat forbids it (R217). -/
structure AtomWord where
  fn : RmwFn
  n : Nat
  place : Place
  ret : Bool
  heat : Bool
  redf : Bool := false

def AtomWord.pre (a : AtomWord) (w : Op) : Pre :=
  let r := a.n / 4
  { w, ra := if a.place = .global then 2 else 1, rb := r, rc := r, dst := if a.ret then vdst w.d r else [], late := true }

/-- The pattern of the word's requests. -/
def AtomWord.mem (a : AtomWord) (w : Op) (held : Bool) : MemWord :=
  { acc := if a.redf then .redf a.fn held else .rmw a.fn a.ret, width := a.n, atom := true
    long := a.ret, kind := if a.ret then .regs (a.n / 4) else .none, dst := w.d
    rel := bit (aSem w) 1, acq := bit (aSem w) 0, scope := aScope w, uni := isU w.d }

/-- An RMW word: cause 0x50 where a heat forbids it, then one RMW for each lane. -/
def atomWord (w : Op) (a : AtomWord) (s : State) : Out :=
  let p := a.pre w
  issue s p (fun x s =>
    let held := inHeat s (s.crew x.c x.k)
    if held && a.heat then faultLanes s x (raises x.on 0x50)
    else
      let l : List LaneAcc := (actLanes x w.d).map (fun l =>
        { lane := l, addr := atomAddr s x w (a.place != .global) l, n := a.n
          b := rmwVal s x a.fn a.n w.b l, c := atomVal s x a.n w.c l })
      startChecked s x p (a.mem w held) (l.map (checkAtom s x a.place a.n)))

/-- 4 bytes, or 8 where OP is 1. -/
def opBytes (w : Op) : Nat := if aOp w = 1 then 8 else 4

/-- The scratchpad, or with FL the cluster form. -/
def spPlace (w : Op) : Place := if aFl w then .cluster else .scratch

def execAtom (w : Op) (s : State) : Out := atomWord w { fn := .t32 (aOp w), n := 4, place := .global, ret := true, heat := true } s
def execAtoms (w : Op) (s : State) : Out := atomWord w { fn := .t32 (aOp w), n := 4, place := spPlace w, ret := true, heat := true } s
def execAtom64 (w : Op) (s : State) : Out := atomWord w { fn := .t64 (aOp w), n := 8, place := .global, ret := true, heat := true } s
def execCas (w : Op) (s : State) : Out := atomWord w { fn := .cas, n := opBytes w, place := .global, ret := true, heat := true } s
def execCass (w : Op) (s : State) : Out := atomWord w { fn := .cas, n := opBytes w, place := spPlace w, ret := true, heat := true } s
def execCas128 (w : Op) (s : State) : Out := atomWord w { fn := .cas, n := 16, place := .global, ret := true, heat := true } s
def execXchg (w : Op) (s : State) : Out :=
  atomWord w { fn := .xchg, n := opBytes w, place := if aFl w then .scratch else .global, ret := true, heat := true } s

def execRed (w : Op) (s : State) : Out :=
  atomWord w { fn := .t32 (aOp w), n := 4, place := .global, ret := false, heat := (opFloat (aOp w)).isSome } s
def execReds (w : Op) (s : State) : Out :=
  atomWord w { fn := .t32 (aOp w), n := 4, place := spPlace w, ret := false, heat := (opFloat (aOp w)).isSome } s
def execRedf (w : Op) (s : State) : Out :=
  atomWord w { fn := .t32 (redfOp (aOp w)), n := 4, place := .global, ret := false, heat := false, redf := true } s

/-! ## ARRV (R227) -/

/-- Lanes that name one address, in order of their lowest lane. -/
def byAddr (l : List (Nat × Nat)) : List (Nat × List Nat) :=
  (l.map (·.2)).eraseDups.map (fun a => (a, (l.filter (fun e => e.2 == a)).map (·.1)))

/-- The accesses of ARRV: the lowest lane of an address adds the sum, the others share it; each is checked as an access of
`n` bytes (R228). -/
def arrvAccs (n : Nat) (val : Nat → Nat) (g : List (Nat × List Nat)) : List LaneAcc :=
  g.flatMap (fun e => e.2.zipIdx.map (fun q =>
    { lane := q.1, addr := e.1, n, share := q.2 != 0
      b := if q.2 = 0 then BitVec.ofNat 128 ((e.2.map val).sum % 2 ^ (8 * n)) else 0 }))

/-- For each lane: the lane whose old value it starts from, and the sum of the lanes before it. -/
def arrvParts (val : Nat → Nat) (g : List (Nat × List Nat)) : List (Nat × Nat × Nat) :=
  g.flatMap (fun e => e.2.zipIdx.map (fun q => (q.1, e.2.headD 0, ((e.2.take q.2).map val).sum)))

def execArrv (w : Op) (s : State) : Out :=
  let n := if w.mb 2 then 8 else 4
  let sp := w.mb 1
  let ret := !(w.mb 5)
  let p : Pre := { w, ra := if sp then 1 else 2, rb := n / 4, dst := if ret then vdst w.d (n / 4) else [], late := true }
  issue s p (fun x s =>
    if ret && inHeat s (s.crew x.c x.k) then faultLanes s x (raises x.on 0x50)
    else
      let val (l : Nat) : Nat := (atomVal s x n w.b l).toNat % 2 ^ (8 * n)
      let g := byAddr ((actLanes x w.d).map (fun l => (l, atomAddr s x w sp l)))
      let check (y : LaneAcc) : Step2 := if y.addr % n != 0 then .bad y.lane y.addr else if sp then
        checkScratch s x x.c (s.crew x.c x.k).ts y.addr y else checkGlobal y
      startChecked s x p { acc := .rmw (if n = 8 then .t64 0 else .t32 0) ret, width := n, atom := true, long := ret
                           kind := if ret then .arrv (n == 8) (arrvParts val g) else .none, dst := w.d
                           rel := true, acq := bit (aSem w) 0, scope := aScope w, uni := isU w.d } ((arrvAccs n val g).map check))

/-! ## LDACQ and STREL (R224) -/

/-- Up to team scope LDACQ may read in the L1; a guest's team scope is the chip (R199). Log entry 60 (DEDUCED). -/
def execLdacq (w : Op) (s : State) : Out :=
  let n := opBytes w
  let p : Pre := { w, ra := if aFl w then 1 else 2, dst := vdst w.d (n / 4), late := true, comp := uniformProducing w }
  issue s p (fun x s =>
    let l : List LaneAcc := (actLanes x w.d).map (fun l => { lane := l, addr := atomAddr s x w (aFl w) l, n })
    let near := aScope w = 0 || (aScope w = 1 && (s.crew x.c x.k).guest.isNone)
    startChecked s x p { acc := if near then .load else .acq, width := n, atom := true, hostOk := true, long := true
                         kind := .regs (n / 4), dst := w.d, acq := true, scope := aScope w, uni := isU w.d }
      (l.map (checkAtom s x (if aFl w then .scratch else .global) n)))

def execStrel (w : Op) (s : State) : Out :=
  let n := opBytes w
  let p : Pre := { w, ra := if aFl w then 1 else 2, reads := vdst w.d (n / 4), late := true }
  issue s p (fun x s =>
    let l : List LaneAcc := (actLanes x w.d).map (fun l => { lane := l, addr := atomAddr s x w (aFl w) l, n, data := storeData s x w n l })
    startChecked s x p { acc := .rel, width := n, atom := true, hostOk := true, rel := true, scope := aScope w, uni := isU w.d }
      (l.map (checkAtom s x (if aFl w then .scratch else .global) n)))

/-! ## Fences (R225) -/

def execFence (w : Op) (s : State) : Out :=
  issue s {} (fun x s => if x.on == 0 then s
    else order s x (bit (aSem w) 1) (bit (aSem w) 0) (aScope w) x.on .fence)

/-- FENCEX waits for the engine kinds of OP first. -/
def execFencex (w : Op) (s : State) : Out :=
  issue s {} (fun x s => if x.on == 0 then s
    else order s x (bit (aSem w) 1) (bit (aSem w) 0) (aScope w) x.on .fence (BitVec.ofNat 4 (aOp w / 2)))

/-! ## WAITW and WAITV (R92, R226) -/

/-- Start a wait for lanes with their addresses; lanes that fail step 2 fault. Log entry 63 (DEDUCED). -/
def waitWord (s : State) (x : Ctx) (w : Wait) (l : List (Step2 × W64 × W64)) : State :=
  let s := faultLanes s x (l.filterMap (fun e => e.1.fault))
  let good := l.filterMap (fun e => (e.1.acc).map (fun a => (a, e.2)))
  startWait s x { w with
    lanes := maskOf (good.map (·.1.lane))
    addrs := good.foldl (fun t e => tset t e.1.lane (w64 e.1.addr)) []
    cmp := good.foldl (fun t e => tset t e.1.lane e.2.1) []
    mask := good.foldl (fun t e => tset t e.1.lane e.2.2) [] }

/-- A wait record without its lanes. -/
def waitRec (kind cond scope : Nat) (w64 sp : Bool) (dst : Opd) : Wait :=
  { id := 0, kind, lanes := 0, addrs := [], cmp := [], mask := [], cond, scope, w64, sp, dst, pc := {}, len := 0, res := 0 }

def execWaitw (w : Op) (s : State) : Out :=
  let sp := w.mb 0
  issue s { w, ra := if sp then 1 else 2 } (fun x s =>
    let one (l : Nat) : Step2 × W64 × W64 :=
      let a := atomAddr s x w sp l / 4 * 4
      (checkAtom s x (if sp then .scratch else .global) 4 { lane := l, addr := a, n := 4 }, (rd s x 0 w.b l).setWidth 64, BitVec.allOnes 64)
    waitWord s x (waitRec 0 (w.mf 1 3) (w.mf 4 3) false sp .no) ((lanesOf x.on).map one))

/-- WAITV; without C the mask is all ones. With a uniform D the lowest executing lane reads for all of them (R106, R220).
Log entry 63 (DEDUCED). -/
def execWaitv (w : Op) (s : State) : Out :=
  let sp := w.mb 2
  let n := if w.mb 3 then 8 else 4
  issue s { w, ra := if sp then 1 else 2, rb := n / 4, rc := n / 4, dst := vdst w.d (n / 4) } (fun x s =>
    let one (l : Nat) : Step2 × W64 × W64 :=
      (checkAtom s x (if sp then .scratch else .global) n { lane := l, addr := atomAddr s x w sp l, n }, (atomVal s x n w.b l).setWidth 64,
       if x.h.form.x then (atomVal s x n w.c l).setWidth 64 else BitVec.allOnes 64)
    waitWord s x { waitRec 1 (w.mf 4 2) (aScope w) (w.mb 3) sp w.d with also := if isU w.d then x.on &&& ~~~(laneBit x.low) else 0 }
      ((actLanes x w.d).map one))

end Sys2Proof.Machine
end

