-- ==== Sys2Proof/Machine/SysRegs.lean ====
section
/-! DEFINITION. Machine/SysRegs.lean: SREAD and SWRITE, the system registers (R233 to R236, R138, R175,
R176, R265, R395, R440), and the events by which a write reaches a register with a behaviour of its own. -/

namespace Sys2Proof.Machine

/-! ## Words that compute once per issue (R270) -/

/-- A word that acts once when any lane executes; a privileged one raises cause 0x11 in an unprivileged crew
(R231). -/
def sysWord (p : Pre) (priv : Bool) (s : State) (body : Ctx → State → State) : Out :=
  issue s p (fun x s =>
    if x.on == 0 then s
    else if priv && !(s.crew x.c x.k).priv then faultLanes s x (raises x.on 0x11)
    else body x s)

/-- A uniform operand. -/
def usrc (s : State) (x : Ctx) (o : Opd) : Nat := (rd s x 0 o x.low).toNat
def usrc64 (s : State) (x : Ctx) (o : Opd) : Nat := (rd64 s x x.h.form true 0 o x.low).toNat

/-- A long-latency status. -/
def giveLong (s : State) (x : Ctx) (d : Opd) (v : Nat) : State := longResult s x (wrOf x false d (fun _ => w32 v))

/-! ## Register values -/

/-- Bits that a base register keeps (R234). -/
def baseMask : Nat := 0xFFFFFFF000

/-- A crew's own grid on this chip. -/
def ownGrid (s : State) (w : Crew) (g : Nat) : Bool :=
  w.grid == g && (match w.guest with | none => true | some q => q.chip == s.chipid)

/-- GRIDSTAT (R236). -/
def gridstat (g : Grid) : Nat :=
  if g.state = 0 then 0
  else g.state * 2 ^ 29 + bf g.lr.flags 2 2 * 2 ^ 27 + b2n (bit g.lr.flags 0) * 2 ^ 26 + b2n (bit g.lr.flags 1) * 2 ^ 25 +
    b2n g.ended * 2 ^ 24 + g.teamsLeft % 2 ^ 24

/-- PORTSTAT (R440). -/
def portstat (p : Port) : Nat := b2n p.up * 2 ^ 31 + b2n p.frozen * 2 ^ 30 + p.trans.toNat * 2 ^ 12 + p.drop.toNat

/-- The value of a register that is not held per lane. -/
def sysVal (s : State) (priv : Bool) (w : Crew) (n i : Nat) : Nat :=
  let g := s.grid i
  let m := s.stack i
  let v : Win := tget {} s.wins i
  if 0x10 ≤ n && n ≤ 0x12 && !priv && !(ownGrid s w i) then 0
  else match n with
    | 0x10 => gridstat g
    | 0x11 => g.fcntctl.toNat
    | 0x12 => if priv then g.fcntstat.toNat else g.fcntstat.toNat / 64 * 64
    | 0x20 => s.cwtbase.toNat
    | 0x21 => s.savebase.toNat
    | 0x22 => s.savesize.toNat
    | 0x23 => s.holdbase.toNat
    | 0x24 => s.holdsize.toNat
    | 0x25 => s.groupbase.toNat
    | 0x30 => m.itbase.toNat
    | 0x31 => m.anchorbase.toNat
    | 0x40 => v.ctl.toNat
    | 0x41 => v.size.toNat
    | 0x42 => v.view.toNat
    | 0x50 => s.hdmctl.toNat
    | 0x60 => s.homebase.toNat
    | 0x61 => s.hometab.toNat
    | 0x62 => m.stubbase.toNat
    | 0x63 => m.migcore.toNat
    | 0x64 => s.stubcfg.toNat
    | 0x65 => s.trkcfg.toNat
    | 0x66 => m.pgpool.toNat
    | 0x70 => s.connbase.toNat
    | 0x71 => s.fabcfg.toNat
    | 0x72 => portstat (s.port i)
    | _ => 0

/-- A lane's TRAPINFO, TRAPPC or TRAPADDR. -/
def laneVal (w : Crew) (n l : Nat) : Nat :=
  if n = 1 then (tget 0 w.trapinfo l).toNat else if n = 2 then (tget 0 w.trappc l).toNat else (tget 0 w.trapaddr l).toNat

/-- SREAD (R273, R284). -/
def execSread (w : Op) (s : State) : Out :=
  let n := bf w.imm.toNat 0 16
  let i := bf w.imm.toNat 16 8
  let r := if w.mb 0 then 2 else 1
  issue s { w, dst := vdst w.d r } (fun x s =>
    if x.on == 0 then s
    else
      let k := s.crew x.c x.k
      if n ≤ 3 then fixedResult s x 4 (wrRun x false w.d r (fun l => leWords r (laneVal k n l)))
      else
        let wr := wrRun x false w.d r (fun _ => leWords r (sysVal s k.priv k n i))
        if n ≤ 0x12 then fixedResult s x 4 wr else longResult s x wr)

/-! ## Writes (R3, R4) -/

/-- A write on its way to its unit: until it is there the crew issues no memory or system word (R273). -/
def queueWr (s : State) (x : Ctx) (reg inst data : Nat) : State :=
  let (id, s) := s.fresh
  let k := s.crew x.c x.k
  let r : SysWr := { id, core := x.c, slot := x.k, reg, inst, data := w64 data, priv := k.priv, grid := k.grid }
  { s with sysWrs := s.sysWrs ++ [r] }.modCrew x.c x.k (fun k => { k with sysHold := k.sysHold + 1 })

/-- Take a write from those on their way. -/
def endWr (s : State) (r : SysWr) : State :=
  let s := { s with sysWrs := s.sysWrs.filter (fun q => !(q.id == r.id)) }
  s.modCrew r.core r.slot (fun k => { k with sysHold := k.sysHold - 1 })

/-- Change a window. -/
def State.modWin (s : State) (i : Nat) (f : Win → Win) : State := { s with wins := tset s.wins i (f (tget {} s.wins i)) }

/-- Replace bits of a 64-bit register. -/
def putBits (old : W64) (mask v : Nat) : W64 := (old &&& ~~~(w64 mask)) ||| (w64 v &&& w64 mask)

/-- FWCTL: ERR clears on 1; FMT and BASE are taken while the window is off; a change of EN goes to the unit
(R175, R176). -/
def writeFwctl (s : State) (x : Ctx) (priv : Bool) (i v : Nat) : State :=
  let on := (tget ({} : Win) s.wins i).en
  let s := if bit v 62 then s.modWin i (fun q => { q with ctl := putBits q.ctl (2 ^ 62) 0 }) else s
  if !priv then s
  else if on then (if bit v 63 then s else queueWr s x 0x40 i v)
  else
    let s := s.modWin i (fun q => { q with ctl := putBits q.ctl (7 * 2 ^ 59 + (2 ^ 34 - 1) * 64) v })
    if bit v 63 then queueWr s x 0x40 i v else s

/-- A write by a privileged crew to a register whose writes take effect at once. -/
def writePrw (s : State) (n i v : Nat) : State :=
  let base := w64 (v &&& baseMask)
  let on := (tget ({} : Win) s.wins i).en
  match n with
  | 0x11 => s.modGrid i (fun g => { g with fcntctl := w32 v })
  | 0x20 => { s with cwtbase := base }
  | 0x21 => { s with savebase := base }
  | 0x22 => { s with savesize := w32 v }
  | 0x23 => { s with holdbase := base }
  | 0x24 => { s with holdsize := w32 v }
  | 0x25 => { s with groupbase := base }
  | 0x30 => s.modStack i (fun m => { m with itbase := base })
  | 0x31 => s.modStack i (fun m => { m with anchorbase := base })
  | 0x41 => if on then s else s.modWin i (fun q => { q with size := w64 (v % 2 ^ 30) })
  | 0x42 => if on then s else s.modWin i (fun q => { q with view := w64 (bf v 16 24 * 65536) })
  | 0x60 => { s with homebase := base }
  | 0x61 => { s with hometab := base }
  | 0x62 => s.modStack i (fun m => { m with stubbase := base })
  | 0x63 => s.modStack i (fun m => { m with migcore := w32 (v % 2 ^ 16) })
  | 0x64 => { s with stubcfg := w32 (v % 2 ^ 16) }
  | 0x65 => { s with trkcfg := w32 (v &&& 0xC000FFFF) }
  | 0x66 => s.modStack i (fun m => { m with pgpool := w64 (v &&& 0x80000000000FFFFF) })
  | 0x70 => { s with connbase := base }
  | 0x71 => { s with fabcfg := w32 (v % 2 ^ 22) }
  | _ => s

/-- HDMCTL: while EN is 1 only a 0 in EN counts, and it goes to the unit (R265). -/
def writeHdm (s : State) (x : Ctx) (v : Nat) : State :=
  if bit s.hdmctl.toNat 63 then (if bit v 63 then s else queueWr s x 0x50 0 v)
  else { s with hdmctl := putBits 0 (2 ^ 63 + (2 ^ 50 - 1)) v }

/-- A code address as TRAPPC holds it: bit 1 is zero (R79, R233). -/
def codeBits (v : Nat) : W32 := w32 v &&& 0xFFFFFFFD

/-- One SWRITE. The data register is uniform (R270), so that TRAPPC is written in every executing lane. Log entry 139
(DESIGN CHOICE). -/
def writeReg (s : State) (x : Ctx) (n i v : Nat) : State :=
  let k := s.crew x.c x.k
  let mine := k.priv || ownGrid s k i
  match n with
  | 0x02 => s.modCrew x.c x.k (forLanes x.on (fun l k => { k with trappc := tset k.trappc l (codeBits v) }))
  | 0x10 => if k.priv && bf v 29 3 = 0 && (s.grid i).state = 4 then queueWr s x n i v else s
  | 0x12 => if mine && bit v 31 then queueWr s x n i v else s
  | 0x40 => writeFwctl s x k.priv i v
  | 0x50 => if k.priv then writeHdm s x v else s
  | 0x72 => if k.priv && bit v 29 then queueWr s x n i v else s
  | _ => if k.priv then writePrw s n i v else s

/-- SWRITE (R273). -/
def execSwrite (w : Op) (s : State) : Out :=
  sysWord { w } false s (fun x s =>
    writeReg s x (bf w.imm.toNat 0 16) (bf w.imm.toNat 16 8) (if w.mb 0 then usrc64 s x w.d else usrc s x w.d))

/-! ## Events -/

def findWr (s : State) (id reg : Nat) : Option SysWr := s.sysWrs.find? (fun r => r.id == id && r.reg == reg)

/-- Ranges [a, a + n) and [b, b + m) overlap. -/
def overlaps (a n b m : Nat) : Bool := a < b + m && b < a + n

/-- The conditions of R176 for window `i`. -/
def winOk (s : State) (i : Nat) : Bool :=
  let w : Win := tget {} s.wins i
  let m := i / 16
  let len := w.count * w.recSize
  let view := w.count * 33
  w.fmt ≤ 4 && w.count != 0 && w.count % 256 == 0 && w.count ≤ 2 ^ 29 &&
  m * 2 ^ 36 ≤ w.base && w.base + len ≤ (m + 1) * 2 ^ 36 &&
  viewSpace + m * 2 ^ 35 ≤ w.viewBase && w.viewBase + view ≤ viewSpace + (m + 1) * 2 ^ 35 &&
  (List.range 16).all (fun j =>
    let q : Win := tget {} s.wins (m * 16 + j)
    m * 16 + j == i || !q.en || (!(overlaps w.base len q.base (q.count * q.recSize)) && !(overlaps w.viewBase view q.viewBase (q.count * 33))))

/-- FWCTL_ENABLE: EN is set, or ERR where a check fails. -/
def execFwctlEnable (id : Nat) (s : State) : Out :=
  match findWr s id 0x40 with
  | none => .fault .notEnabled
  | some r =>
    if !(bit r.data.toNat 63) then .fault .notEnabled
    else
      let b := if winOk s r.inst then 63 else 62
      .next (endWr (s.modWin r.inst (fun q => { q with ctl := q.ctl ||| w64 (2 ^ b) })) r)

/-- FWCTL_DISABLE: the window begins to close. -/
def execFwctlDisable (id : Nat) (s : State) : Out :=
  match findWr s id 0x40 with
  | none => .fault .notEnabled
  | some r =>
    if bit r.data.toNat 63 then .fault .notEnabled
    else .next (endWr (s.modWin r.inst (fun q => { q with closing := true })) r)

/-- An access that has passed its checks is on its way to a window's view. -/
def winBusy (s : State) (w : Win) : Bool :=
  s.reqs.any (fun r => !r.stage.unchecked && r.stage != .respond && (match r.tr with
    | some t => t.fw && overlaps (t.gpn * 65536 + r.line % 65536) 256 w.viewBase (w.count * 33)
    | none => false))

/-- The memory-side lines that hold a window's records are written back and dropped (R176). -/
def dropView (s : State) (w : Win) : State :=
  (s.msc.filter (fun e => overlaps (64 * e.1) 64 w.base (w.count * w.recSize))).foldl (fun s e => evictSector s e.1) s

/-- FWCTL_DISABLE_DONE: the view's lines are written back and dropped, and EN reads 0. -/
def execFwctlDisableDone (i : Nat) (s : State) : Out :=
  let w : Win := tget {} s.wins i
  if w.closing && !(winBusy s w) then
    .next ((dropView s w).modWin i (fun q => { q with ctl := putBits q.ctl (2 ^ 63) 0, closing := false }))
  else .fault .notEnabled

/-- HDMCTL_CLOSE: host accesses that arrive from now on are outside the window (R265). -/
def execHdmctlClose (id : Nat) (s : State) : Out :=
  match findWr s id 0x50 with
  | some r => .next (endWr { s with hdmctl := putBits s.hdmctl (2 ^ 63) 0 } r)
  | none => .fault .notEnabled

/-- GRIDSTAT_FREE: the id of a done grid becomes free (R236). -/
def execGridstatFree (id : Nat) (s : State) : Out :=
  match findWr s id 0x10 with
  | some r => .next (endWr (if (s.grid r.inst).state = 4 then { s with grids := tdel s.grids r.inst } else s) r)
  | none => .fault .notEnabled

/-- FCNTSTAT_CLEAR: TRIP is cleared (R138). -/
def execFcntstatClear (id : Nat) (s : State) : Out :=
  match findWr s id 0x12 with
  | some r => .next (endWr (s.modGrid r.inst (fun g => { g with fcntstat := g.fcntstat &&& 0x7FFFFFFF })) r)
  | none => .fault .notEnabled

/-- PORTSTAT_CLEAR (R440). -/
def execPortstatClear (id : Nat) (s : State) : Out :=
  match findWr s id 0x72 with
  | some r => .next (endWr { s with ports := tset s.ports r.inst { s.port r.inst with trans := 0, drop := 0 } } r)
  | none => .fault .notEnabled

end Sys2Proof.Machine
end

