-- ==== Sys2Proof/Machine/Commit.lean ====
section
/-! DEFINITION. Machine/Commit.lean: commits (R305 to R310), and the deferred words (R319 to R325). -/

namespace Sys2Proof.Machine

/-! ## What a commit covers (R305) -/

/-- Teams in a cluster of a grid. -/
def clusterSize (g : Grid) : Nat := g.lr.ccols * g.lr.crows

/-- Team indices of a grid that a commit covers. -/
def coversTeam (s : State) (m : Commit) (g i : Nat) : Bool :=
  match m.scope with
  | 1 => m.grid == g && i == m.unit
  | 2 => m.grid == g && i / max 1 (clusterSize (s.grid g)) == m.unit
  | 3 => m.grid == g
  | _ => (s.grid g).state != 0 && (s.grid g).lr.group == m.unit

/-- A guest crew's commit covers its own team slot (R310): grid 256 + core, unit the slot. Log entry 68 (DEDUCED). -/
def guestCommit (m : Commit) : Bool := 256 ≤ m.grid && m.scope == 1

/-- Team slots whose accounts a commit covers: teams placed, and teams gone with weight outstanding. -/
def commitSlots (s : State) (m : Commit) : List (Nat × Nat) :=
  if guestCommit m then [(m.grid - 256, m.unit)]
  else s.cores.flatMap (fun c => (c.2.teams.filter (fun t => !t.2.guest && coversTeam s m t.2.grid t.2.index && !(slotFree s c.1 t.1))).map (fun t => (c.1, t.1)))

/-- Every crew of a team has arrived, has no lane here, or is gone. -/
def teamArrived (s : State) (m : Commit) (c t : Nat) : Bool :=
  (s.core c).slots.all (fun e => !(e.2.st == .resident && e.2.ts == t) || m.arrived.contains e.2.uid || e.2.mask == 0)

/-- Teams of a grid that are placed and not retired. -/
def placedTeams (s : State) (g : Nat) : List (Nat × Nat × Team) :=
  s.cores.flatMap (fun c => (c.2.teams.filter (fun t => t.2.live && !t.2.guest && t.2.grid == g)).map (fun t => (c.1, t.1, t.2)))

/-- Every team of a grid that a commit covers is placed or retired (R309), and has arrived. -/
def gridArrived (s : State) (m : Commit) (g : Nat) : Bool :=
  let d := s.grid g
  let live := (placedTeams s g).filter (fun t => coversTeam s m g t.2.2.index)
  let retired := (d.retired.filter (coversTeam s m g)).length
  let n := match m.scope with
    | 1 => 1
    | 2 => min (clusterSize d) (d.lr.teams - m.unit * clusterSize d)
    | _ => d.lr.teams
  live.length + retired == n && live.all (fun t => teamArrived s m t.1 t.2.1)

/-- Every crew of this chip that a commit covers has arrived. -/
def commitHere (s : State) (m : Commit) : Bool :=
  if guestCommit m then teamArrived s m (m.grid - 256) m.unit
  else if m.scope = 4 then s.grids.all (fun g => g.2.state == 0 || g.2.lr.group != m.unit || gridArrived s m g.1)
  else gridArrived s m m.grid

/-! ## Other chips: arrivals (R305, R306) and tokens (R308) -/

/-- Members of a commit group (R239). -/
def groupMembers (s : State) (g : Nat) : List Nat :=
  let e := sysPeek s (s.groupbase.toNat + 16 * g) 16
  (List.range (bf e 64 32)).map (fun i => sysPeek s (bf e 0 64 + 2 * i) 2)

def hasToken (s : State) (chip g n : Nat) : Bool := s.tokens.contains (chip, g, n)

/-- A chip's token for a commit. -/
def sendTokens (s : State) (g n : Nat) : State :=
  (groupMembers s g).foldl (fun s c =>
    if c == s.chipid then { s with tokens := s.tokens ++ [(c, g, n)] } else unitPacket s 0x09 2 0 c 0 (.token g n)) s

/-- This chip's crews have all arrived: the chips of the group hear of it. Log entry 68 (DEDUCED). -/
def sendArrivals (s : State) (g n : Nat) : State :=
  (groupMembers s g).foldl (fun s c =>
    if c == s.chipid then { s with arrivals := s.arrivals ++ [(c, g, n)] } else unitPacket s 0x09 2 0 c 0 (.arrived g n)) s

/-- Every crew that a commit covers has arrived, for .pod on every chip of the group (R305, R306).
Log entry 68 (DEDUCED). -/
def commitArrived (s : State) (m : Commit) : Bool :=
  commitHere s m && (m.scope != 4 || (m.told && (groupMembers s m.unit).all (fun c => s.arrivals.contains (c, m.unit, m.number))))

/-! ## The course of a commit (R306) -/

def modCommit (s : State) (id : Nat) (f : Commit → Commit) : State :=
  { s with commits := s.commits.map (fun m => if m.id == id then f m else m) }

def commitSnapsDone (s : State) (m : Commit) : Bool := m.released && m.snaps.all (snapDone s)

/-- All that a commit waits for has come about. -/
def commitDone (s : State) (m : Commit) : Bool :=
  commitSnapsDone s m && (m.scope != 4 || (m.tokenSent && (groupMembers s m.unit).all (fun c => hasToken s c m.unit m.number)))

/-- The release point: every team of the scope drains, ships and is snapshotted. -/
def releaseCommit (s : State) (m : Commit) : State :=
  let slots := commitSlots s m
  let s := slots.foldl (fun s t => releaseTeam s t.1 t.2) s
  let s := modCommit s m.id (fun m => { m with released := true, snaps := slots.map (fun t => snapOf s t.1 t.2) })
  if m.scope = 4 then { s with grids := s.grids.map (fun g => if g.2.state != 0 && g.2.lr.group == m.unit then (g.1, { g.2 with podNo := g.2.podNo + 1 }) else g) }
  else s

/-- Cores whose L1s a commit cleans of deferred lines (R305). -/
def commitCores (s : State) (m : Commit) : List Nat :=
  if guestCommit m then [m.grid - 256]
  else (s.cores.filter (fun c => c.2.teams.any (fun t => t.2.live && !t.2.guest && coversTeam s m t.2.grid t.2.index))).map (·.1)

/-- A crew's commit is complete: invalidation, acquire, and the lanes whose records it covered (R404). -/
def finishCommit (s : State) (c k : Nat) (m : Commit) (r : CommitRef) : State :=
  let s := (commitCores s m).foldl l1DropDeferred s
  let s := acquire s c k m.scope
  let s := if r.nw then s else fillResult s c k r.res []
  s.modCrew c k (fun w => { w with commit := none, lastScope := m.scope, uncovered := w.uncovered &&& ~~~w.armedAt, armedAt := 0 })

def findCommit (s : State) (id : Nat) : Option Commit := s.commits.find? (fun m => m.id == id)

/-- Crews that still hold on to a commit, saved ones among them. -/
def commitHeld (s : State) (id : Nat) : Bool :=
  let has (w : Crew) : Bool := match w.commit with | some r => r.id == id | none => false
  s.cores.any (fun c => c.2.slots.any (fun e => has e.2)) || s.saves.any (fun u => u.2.teams.any (fun t => t.crews.any (fun e => has e.2)))

/-- A complete commit is over: the tokens and arrivals of its number are used up (R308). Log entry 68 (DEDUCED). -/
def endCommit (s : State) (m : Commit) : State :=
  let s := { s with commits := s.commits.filter (fun n => !(n.id == m.id)) }
  if m.scope != 4 then s
  else (groupMembers s m.unit).foldl (fun s c => { s with
    tokens := s.tokens.erase (c, m.unit, m.number), arrivals := s.arrivals.erase (c, m.unit, m.number) }) s

/-- One commit goes as far as it can: its arrivals, its release point, its tokens, its waiting crews. -/
def settleCommit (s : State) (id : Nat) : State :=
  match findCommit s id with
  | none => s
  | some m =>
    let s := if m.scope = 4 && !m.told && !m.released && commitHere s m then modCommit (sendArrivals s m.unit m.number) id (fun m => { m with told := true }) else s
    let m := (findCommit s id).getD m
    let s := if !m.released && commitArrived s m then releaseCommit s m else s
    let m := (findCommit s id).getD m
    let s := if m.scope = 4 && !m.tokenSent && commitSnapsDone s m then modCommit (sendTokens s m.unit m.number) id (fun m => { m with tokenSent := true }) else s
    let m := (findCommit s id).getD m
    if !(commitDone s m) then s
    else
      let waiting := s.cores.flatMap (fun c => c.2.slots.filterMap (fun e => match e.2.commit with
        | some r => if r.id == id && !r.nw then some (c.1, e.1, r) else none
        | none => none))
      let s := waiting.foldl (fun s w => finishCommit s w.1 w.2.1 m w.2.2) s
      if commitHeld s id then s else endCommit s m

def settleCommits (s : State) : State := (s.commits.map (·.id)).foldl settleCommit s

/-- A crew's arrival at its commit, once an earlier COMMIT.nw of it is complete (R307); none while it is not.
Log entry 68 (DEDUCED). -/
def commitArrive (s : State) (c k : Nat) (nw : Bool) (scope res : Nat) : Option State :=
  let w := s.crew c k
  let prev : Option State := match w.commit with
    | none => some s
    | some r => match findCommit s r.id with
      | some m => if commitDone s m then some (finishCommit s c k m r) else none
      | none => some s
  prev.map (fun s =>
    let w := s.crew c k
    let g := s.grid w.grid
    let scope := if scope = 4 && (w.guest.isSome || g.lr.group = 0xFFFF) then 3 else scope
    let key : Nat × Nat := if w.guest.isSome then (256 + c, w.ts)
      else (w.grid, match scope with | 1 => w.team | 2 => w.cluster | 3 => 0 | _ => g.lr.group)
    let same (m : Commit) : Bool := m.scope == scope && m.unit == key.2 && (scope == 4 || m.grid == key.1) && !m.released && !(m.arrived.contains w.uid)
    let (id, s) := match s.commits.find? same with
      | some m => (m.id, modCommit s m.id (fun m => { m with arrived := m.arrived ++ [w.uid] }))
      | none =>
        let (id, s) := s.fresh
        let m : Commit := { id, scope, grid := key.1, unit := key.2, arrived := [w.uid], number := g.podNo }
        (id, { s with commits := s.commits ++ [m] })
    settleCommit (s.modCrew c k (fun w => { w with commit := some { id, nw, res }, armedAt := w.uncovered })) id)

/-- WEIGHT_ACK (R302, R304). -/
def execWeightAck (id : Nat) (s : State) : Out :=
  match findMsg s id with
  | some m => (match m.body with
    | .wack q ciq ts w => .next (settleCommits (creditTeam 8 (dropMsg s m) (coreOfQuad q ciq) ts w))
    | _ => .fault .notEnabled)
  | none => .fault .notEnabled

/-- COMMIT_TOKEN: a token of another chip has come (R308). -/
def execCommitToken (chip group n : Nat) (s : State) : Out :=
  match s.net.find? (fun m => m.chip == chip && m.body == .token group n) with
  | some m => .next (settleCommits { dropMsg s m with tokens := s.tokens ++ [(chip, group, n)] })
  | none => .fault .notEnabled

/-- The crews of another chip have arrived at a commit (R306). -/
def takeArrived (s : State) (id : Nat) : Option State :=
  match findMsg s id with
  | some m => (match m.body with
    | .arrived g n => some (settleCommits { dropMsg s m with arrivals := s.arrivals ++ [(m.chip, g, n)] })
    | _ => none)
  | none => none

/-! ## The words -/

/-- DST, DRED, DRED64: one append for each lane, whatever its data's kind. Log entry 71 (DEDUCED). -/
def deferWord (w : Op) (acc : Acc) (n : Nat) (s : State) : Out :=
  let p := memPre w 2 ((n + 3) / 4) true
  issue s p (fun x s =>
    let one (l : Nat) : Step2 :=
      let y : LaneAcc := { lane := l, addr := gaddr s x w l, n, data := storeData s x w n l, b := BitVec.ofNat 128 (leNat (storeData s x w n l)) }
      checkGlobal y
    startChecked s x p { acc, width := n } ((lanesOf x.on).map one))

def execDst (w : Op) (s : State) : Out := deferWord w .dst (tyBytes w.ty) s
def execDred (w : Op) (s : State) : Out := deferWord w (.dred (w.mf 0 6)) 4 s
def execDred64 (w : Op) (s : State) : Out := deferWord w (.dred (w.mf 0 6)) 8 s

/-- COMMIT and COMMIT.nw (R306, R307, R320). -/
def commitWord (w : Op) (nw : Bool) (s : State) : Out :=
  issue s { w, coll := true } (fun x s => if x.on == 0 then s else collective s x 32 (fun s =>
    let k := s.crew x.c x.k
    let scope := w.mf 0 3
    if k.guest.isSome && scope != 1 then faultLanes s x (raises x.on 0x03)
    else if inHeat s k then faultLanes s x (raises x.on 0x50)
    else
      let (res, s) := if nw then (0, s) else openResult s x [] []
      order s x true false (if k.guest.isSome then 3 else scope) x.on (.commit nw scope res)))

def execCommit (w : Op) (s : State) : Out := commitWord w false s
def execCommitNw (w : Op) (s : State) : Out := commitWord w true s

/-- CPOLL (R321). Log entry 68 (DEDUCED). -/
def execCpoll (w : Op) (s : State) : Out :=
  issue s { w, dst := vdst w.d 1 } (fun x s =>
    if x.on == 0 then s
    else
      let k := s.crew x.c x.k
      let arriving := k.ords.any (fun o => match o.after with | .commit _ _ _ => true | _ => false)
      let (v, s) : Nat × State :=
        if arriving then (0, s)
        else match k.commit with
          | some r => (match findCommit s r.id with
            | some m => if commitDone s m then (1, finishCommit s x.c x.k m r) else (0, s)
            | none => (1, s))
          | none => (1, acquire s x.c x.k k.lastScope)
      fixedResult s x 4 (wrOf x false w.d (fun _ => w32 v)))

/-- DFLUSH (R322). -/
def execDflush (s : State) : Out :=
  issue s {} (fun x s => if x.on == 0 then s
    else let t := (s.crew x.c x.k).ts; wakeLog (shipTeam (drainTeam s x.c t) x.c t) x.c)

/-- DCOUNT (R323). -/
def execDcount (w : Op) (s : State) : Out :=
  issue s { w, dst := vdst w.d 1, comp := true } (fun x s =>
    let m := s.team x.c (s.crew x.c x.k).ts
    let v := if w.mb 0 then (s.core x.c).logFree else min (m.appended - m.acked) 0xFFFFFFFF
    fixedResult s x 4 (wrOf x true w.d (fun _ => w32 v)))

/-- Write a team's DCFG; words of the same clock still read what it held (R326). -/
def setDcfg (clk : Nat) (v : W32) (m : Team) : Team :=
  { m with dcfg := v, dcfgWas := if m.dcfgAt == some clk then m.dcfgWas else m.dcfg, dcfgAt := some clk }

/-- DMODE writes bits [16:0] of the team's DCFG under a mask (R324); words issued from the next clock see it (R326). -/
def execDmode (w : Op) (s : State) : Out :=
  issue s { w } (fun x s =>
    if x.on == 0 then s
    else
      let a := rd s x w.imm w.a x.low
      let b := rd s x w.imm w.b x.low &&& 0x1FFFF
      s.modTeam x.c (s.crew x.c x.k).ts (fun m => setDcfg s.clk ((m.dcfg &&& ~~~b) ||| (a &&& b)) m))

def execDmodeGet (w : Op) (s : State) : Out :=
  issue s { w, dst := vdst w.d 1 } (fun x s =>
    let m := s.team x.c (s.crew x.c x.k).ts
    let v := if m.dcfgAt == some s.clk then m.dcfgWas else m.dcfg
    fixedResult s x 4 (wrOf x false w.d (fun _ => v)))

/-- Pin a remote bin of a quad (R325): the status, and the state. The pinned bin is then the one that holds the chip (R293).
Log entry 144 (DEDUCED). -/
def pinBin (s : State) (c t chip : Nat) : Nat × State :=
  let q := quadOfCore c
  let bins := (s.quad q).bins
  if !(namesChip chip) || chip == s.chipid then (2, s)
  else if bins.any (fun e => e.2.pin == some (c, t) && e.2.chip == some chip) then (0, s)
  else if 16 ≤ (bins.filter (fun e => e.2.pin.isSome)).length then (1, s)
  else
    let all := (List.range 64).map (fun i => (192 + i, s.bin q (192 + i)))
    let open_ := all.filter (fun e => e.2.pin.isNone)
    let best : Option (Nat × Bin) := match open_.find? (fun e => e.2.chip.isNone) with
      | some e => some e
      | none => open_.foldl (fun (b : Option (Nat × Bin)) e => match b with
        | none => some e
        | some f => if e.2.lastUse < f.2.lastUse then some e else b) none
    match best with
    | some e =>
      let s := (open_.filter (fun f => f.2.chip == some chip && f.1 != e.1)).foldl (fun s f => (shipBin s q f.1).modBin q f.1 (fun v => { v with chip := none })) s
      (0, (shipBin s q e.1).modBin q e.1 (fun v => { v with chip := some chip, pin := some (c, t), lastUse := s.clk }))
    | none => (1, s)

/-- Chip identities of DBIND are 15 bits wide. -/
def bindChip (s : State) (x : Ctx) (w : Op) : Nat := bf (rd s x w.imm w.b x.low).toNat 0 15

def execDbind (w : Op) (s : State) : Out :=
  issue s { w } (fun x s =>
    if x.on == 0 then s
    else let (v, s) := pinBin s x.c (s.crew x.c x.k).ts (bindChip s x w); giveLong s x w.d v)

def execDbindRel (w : Op) (s : State) : Out :=
  issue s { w } (fun x s =>
    if x.on == 0 then s
    else
      let chip := bindChip s x w
      let t := (s.crew x.c x.k).ts
      if !(namesChip chip) || chip == s.chipid then giveLong s x w.d 2
      else giveLong (s.modQuad (quadOfCore x.c) (fun q => { q with bins := q.bins.map (fun e =>
        if e.2.pin == some (x.c, t) && e.2.chip == some chip then (e.1, { e.2 with pin := none }) else e) })) x w.d 0)

end Sys2Proof.Machine
end

