-- ==== Sys2Proof/WellFormed.lean ====
section
/-! DEFINITION. WellFormed.lean: which words are instructions. A word is well formed when the decoder's
checks (R22 steps 3 to 5) pass for it; the checks themselves stand in Machine/Forms.lean. -/

namespace Sys2Proof
open Machine

/-- The opcode and operands of a word of the opcode map (R40); none for PAIR and for events. -/
def Instr.opcOp : Instr → Option (Nat × Op)
  | .nop => some (0x000, {})
  | .bra w => some (0x001, w)
  | .braFar w => some (0x001, w)
  | .brc w => some (0x002, w)
  | .bru w => some (0x003, w)
  | .brx w => some (0x004, w)
  | .call w => some (0x005, w)
  | .callFar w => some (0x005, w)
  | .ret w => some (0x006, w)
  | .exit => some (0x007, {})
  | .enrol w => some (0x008, w)
  | .rejoin w => some (0x009, w)
  | .leave w => some (0x00A, w)
  | .rollrd w => some (0x00B, w)
  | .bart w => some (0x00C, w)
  | .barc w => some (0x00D, w)
  | .bara w => some (0x00E, w)
  | .barw w => some (0x00F, w)
  | .clusterBarrierResume _ _ _ => none
  | .pause => some (0x010, {})
  | .yield w => some (0x011, w)
  | .yieldHoldEnd _ _ => none
  | .waitw w => some (0x012, w)
  | .waitwRecheck _ _ _ => none
  | .settile w => some (0x013, w)
  | .loopu w => some (0x014, w)
  | .trapc w => some (0x015, w)
  | .crewPromotion _ _ => none
  | .laneStarvationPath _ _ => none
  | .resultWriteback _ _ _ => none
  | .pair _ => none
  | .iadd w => some (0x040, w)
  | .isub w => some (0x041, w)
  | .imul w => some (0x042, w)
  | .imulh w => some (0x043, w)
  | .imad w => some (0x044, w)
  | .imin w => some (0x045, w)
  | .imax w => some (0x046, w)
  | .iabs w => some (0x047, w)
  | .ineg w => some (0x048, w)
  | .andW w => some (0x049, w)
  | .orW w => some (0x04A, w)
  | .xorW w => some (0x04B, w)
  | .notW w => some (0x04C, w)
  | .shl w => some (0x04D, w)
  | .shr w => some (0x04E, w)
  | .shra w => some (0x04F, w)
  | .rot w => some (0x050, w)
  | .popc w => some (0x051, w)
  | .clz w => some (0x052, w)
  | .brev w => some (0x053, w)
  | .bfx w => some (0x054, w)
  | .bfi w => some (0x055, w)
  | .prmb w => some (0x056, w)
  | .sel w => some (0x057, w)
  | .icmp w => some (0x058, w)
  | .iset w => some (0x059, w)
  | .lea w => some (0x05A, w)
  | .add64 w => some (0x05B, w)
  | .sub64 w => some (0x05C, w)
  | .mad64 w => some (0x05D, w)
  | .mov w => some (0x05E, w)
  | .movi w => some (0x05F, w)
  | .vbcast w => some (0x060, w)
  | .v2s w => some (0x061, w)
  | .pand w => some (0x062, w)
  | .por w => some (0x063, w)
  | .pxor w => some (0x064, w)
  | .pnot w => some (0x065, w)
  | .p2v w => some (0x066, w)
  | .v2p w => some (0x067, w)
  | .shfl w => some (0x068, w)
  | .vote w => some (0x069, w)
  | .redx w => some (0x06A, w)
  | .scanx w => some (0x06B, w)
  | .matchW w => some (0x06C, w)
  | .ffl w => some (0x06D, w)
  | .umov w => some (0x06E, w)
  | .uloop w => some (0x06F, w)
  | .ucmp w => some (0x070, w)
  | .uand w => some (0x071, w)
  | .fadd w => some (0x0C0, w)
  | .fsub w => some (0x0C1, w)
  | .fmul w => some (0x0C2, w)
  | .ffma w => some (0x0C3, w)
  | .fmin w => some (0x0C4, w)
  | .fmax w => some (0x0C5, w)
  | .fminm w => some (0x0C6, w)
  | .fmaxm w => some (0x0C7, w)
  | .fabs w => some (0x0C8, w)
  | .fneg w => some (0x0C9, w)
  | .fcpys w => some (0x0CA, w)
  | .fcmp w => some (0x0CB, w)
  | .fclass w => some (0x0CC, w)
  | .frnd w => some (0x0CD, w)
  | .fscale w => some (0x0CE, w)
  | .ffrx w => some (0x0CF, w)
  | .cvtf w => some (0x0D0, w)
  | .cvti w => some (0x0D1, w)
  | .cvtfi w => some (0x0D2, w)
  | .packb w => some (0x0D3, w)
  | .unpkb w => some (0x0D4, w)
  | .sclx w => some (0x0D5, w)
  | .exp2 w => some (0x0D6, w)
  | .log2 w => some (0x0D7, w)
  | .rcp w => some (0x0D8, w)
  | .rsq w => some (0x0D9, w)
  | .sqrt w => some (0x0DA, w)
  | .sin w => some (0x0DB, w)
  | .cos w => some (0x0DC, w)
  | .tanh w => some (0x0DD, w)
  | .sigm w => some (0x0DE, w)
  | .erf w => some (0x0DF, w)
  | .divf w => some (0x0E0, w)
  | .divi w => some (0x0E1, w)
  | .flrd w => some (0x0E2, w)
  | .flclr w => some (0x0E3, w)
  | .flset w => some (0x0E4, w)
  | .fcntrd w => some (0x0E5, w)
  | .fcntclr w => some (0x0E6, w)
  | .fmode w => some (0x0E7, w)
  | .fmodeGet w => some (0x0E7, w)
  | .fdot2 w => some (0x0E8, w)
  | .fdot4 w => some (0x0E9, w)
  | .fmad2 w => some (0x0EA, w)
  | .fsat w => some (0x0EB, w)
  | .fmed3 w => some (0x0EC, w)
  | .fset w => some (0x0ED, w)
  | .ld w => some (0x140, w)
  | .st w => some (0x141, w)
  | .lds w => some (0x142, w)
  | .sts w => some (0x143, w)
  | .ldb w => some (0x144, w)
  | .stb w => some (0x145, w)
  | .ldw w => some (0x146, w)
  | .stw w => some (0x147, w)
  | .ldnt w => some (0x148, w)
  | .stnt w => some (0x149, w)
  | .pref w => some (0x14A, w)
  | .cctlInv w => some (0x14B, w)
  | .cctlInvall => some (0x14B, {})
  | .cctlClean w => some (0x14B, w)
  | .cctlFlush w => some (0x14B, w)
  | .probe w => some (0x14C, w)
  | .ldq w => some (0x14D, w)
  | .stq w => some (0x14E, w)
  | .spill w => some (0x14F, w)
  | .fill w => some (0x150, w)
  | .addrx w => some (0x151, w)
  | .coalescerResume _ => none
  | .tableWalkDone _ => none
  | .memoryReadAtOwner _ => none
  | .memoryWriteAtOwner _ => none
  | .atomicAtOwner _ => none
  | .loadResponse _ => none
  | .atom w => some (0x180, w)
  | .atoms w => some (0x181, w)
  | .cas w => some (0x182, w)
  | .cass w => some (0x183, w)
  | .red w => some (0x184, w)
  | .reds w => some (0x185, w)
  | .ldacq w => some (0x186, w)
  | .strel w => some (0x187, w)
  | .fence w => some (0x188, w)
  | .fencex w => some (0x189, w)
  | .atom64 w => some (0x18A, w)
  | .cas128 w => some (0x18B, w)
  | .redf w => some (0x18C, w)
  | .waitv w => some (0x18D, w)
  | .arrv w => some (0x18E, w)
  | .xchg w => some (0x18F, w)
  | .orderingComplete _ _ => none
  | .redfAtSlice _ => none
  | .watermarkBroadcast _ => none
  | .launch w => some (0x1A0, w)
  | .launchw w => some (0x1A1, w)
  | .trap w => some (0x1A2, w)
  | .eret w => some (0x1A3, w)
  | .sread w => some (0x1A4, w)
  | .swrite w => some (0x1A5, w)
  | .fwctlEnable _ => none
  | .fwctlDisable _ => none
  | .fwctlDisableDone _ => none
  | .hdmctlClose _ => none
  | .gridstatFree _ => none
  | .fcntstatClear _ => none
  | .portstatClear _ => none
  | .ctxsave w => some (0x1A6, w)
  | .ctxload w => some (0x1A7, w)
  | .preempt w => some (0x1A8, w)
  | .preemptHalt _ _ => none
  | .freeze w => some (0x1A9, w)
  | .thawResume w => some (0x1AA, w)
  | .thawRetry w => some (0x1AA, w)
  | .thawTrap w => some (0x1AA, w)
  | .thawEnd w => some (0x1AA, w)
  | .keyset w => some (0x1AB, w)
  | .keydrop w => some (0x1AC, w)
  | .watch w => some (0x1AD, w)
  | .watchWait w => some (0x1AD, w)
  | .hostLineRecall _ => none
  | .hostCxlMemAccess _ => none
  | .heatend => some (0x1AE, {})
  | .heatEnd _ => none
  | .heatWatchdog _ => none
  | .monevWait w => some (0x1AF, w)
  | .monevPost w => some (0x1AF, w)
  | .monevIrq w => some (0x1AF, w)
  | .eventQueueRetry _ => none
  | .getid w => some (0x1B0, w)
  | .clkrd w => some (0x1B1, w)
  | .invtlb w => some (0x1B2, w)
  | .pgattr w => some (0x1B3, w)
  | .dependencePoll => none
  | .schedulerPlace => none
  | .gridComplete _ => none
  | .boardReset => none
  | .identityRecord _ => none
  | .monitorStart => none
  | .firmwareUpdate _ => none
  | .attestationReport => none
  | .powerEvaluation _ => none
  | .clockStepComplete => none
  | .thermalHold _ => none
  | .thermalHoldEnd _ => none
  | .thermalTrip _ => none
  | .patrolScrub _ _ => none
  | .linkCalibration _ _ _ => none
  | .laserWearLevelling _ _ => none
  | .telemetry => none
  | .dst w => some (0x1C0, w)
  | .logSpillDone _ => none
  | .dred w => some (0x1C1, w)
  | .dred64 w => some (0x1C2, w)
  | .commit w => some (0x1C3, w)
  | .commitNw w => some (0x1C3, w)
  | .cpoll w => some (0x1C4, w)
  | .dflush => some (0x1C5, {})
  | .dcount w => some (0x1C6, w)
  | .dmode w => some (0x1C7, w)
  | .dmodeGet w => some (0x1C7, w)
  | .dbind w => some (0x1C8, w)
  | .dbindRel w => some (0x1C8, w)
  | .binRecordAdd _ => none
  | .binAgeExpiry _ _ => none
  | .binAccept _ => none
  | .releaseNotice _ => none
  | .recordApply _ => none
  | .weightAck _ => none
  | .commitToken _ _ _ => none
  | .activationAlert _ _ => none
  | .cpy w => some (0x1D0, w)
  | .cpyg w => some (0x1D1, w)
  | .cpyx w => some (0x1D2, w)
  | .feed w => some (0x1D3, w)
  | .drain w => some (0x1D4, w)
  | .ovld w => some (0x1D5, w)
  | .winw w => some (0x1D6, w)
  | .cwait w => some (0x1D7, w)
  | .cfill w => some (0x1D8, w)
  | .cstat w => some (0x1D9, w)
  | .cqry w => some (0x1DA, w)
  | .copyOpStart _ => none
  | .copyLineWrite _ _ => none
  | .copyComplete _ _ => none
  | .mma w => some (0x1E0, w)
  | .mmaz w => some (0x1E1, w)
  | .macrd w => some (0x1E2, w)
  | .macz w => some (0x1E3, w)
  | .mres w => some (0x1E4, w)
  | .mrel w => some (0x1E5, w)
  | .selk w => some (0x1E6, w)
  | .selkx w => some (0x1E7, w)
  | .sample w => some (0x1E8, w)
  | .mstat w => some (0x1E9, w)
  | .matrixGrant _ => none
  | .matrixGroup _ => none
  | .matrixComplete _ => none
  | .selectStart _ => none
  | .selectComplete _ => none
  | .migr w => some (0x1EC, w)
  | .migra w => some (0x1ED, w)
  | .mret => some (0x1EE, {})
  | .pmove w => some (0x1EF, w)
  | .pqry w => some (0x1F0, w)
  | .owninv w => some (0x1F1, w)
  | .pstubRd w => some (0x1F2, w)
  | .pstubReclaim w => some (0x1F2, w)
  | .pstubKeep w => some (0x1F2, w)
  | .ownerQuery _ => none
  | .ownerAnswer _ => none
  | .negativeAck _ => none
  | .pmoveHomeUpdate _ => none
  | .pmoveCopyComplete _ => none
  | .stubForward _ => none
  | .redirect _ _ _ => none
  | .stubQuietExpiry _ => none
  | .stubReclaimRequest _ => none
  | .stubReclaimGrant _ => none
  | .trackerPeriodEnd _ => none
  | .migrationGrantRequest _ => none
  | .migrationGrantReply _ => none
  | .continuationArrival _ => none
  | .migrationAck _ => none
  | .guestIssueWindowEnd _ _ => none
  | .locationNotice _ => none
  | .exitNotice _ => none
  | .returnContinuation _ => none
  | .guestHalt _ => none
  | .guestResume _ => none
  | .guestRemove _ => none
  | .bput w => some (0x1F4, w)
  | .bget w => some (0x1F5, w)
  | .rst w => some (0x1F6, w)
  | .rld w => some (0x1F7, w)
  | .ratom w => some (0x1F8, w)
  | .fack => some (0x1F9, {})
  | .acnt w => some (0x1FA, w)
  | .acntRel w => some (0x1FA, w)
  | .await w => some (0x1FB, w)
  | .connRd w => some (0x1FB, w)
  | .connOpen w => some (0x1FB, w)
  | .connReset w => some (0x1FB, w)
  | .packetSend _ => none
  | .flitCrcError _ _ => none
  | .writePacket _ => none
  | .readRequestPacket _ => none
  | .readResponsePacket _ => none
  | .rmwRequestPacket _ => none
  | .rmwResponsePacket _ => none
  | .ackPacket _ => none
  | .refusalPacket _ => none
  | .mapWritePacket _ => none
  | .connectionResetPacket _ => none
  | .unknownPacket _ => none
  | .heldPacketPerform _ _ => none
  | .retransmitTimeout _ => none
  | .bkmode w => some (0x1FC, w)
  | .bkmodeOff w => some (0x1FC, w)
  | .bkbc w => some (0x1FC, w)
  | .bkmac w => some (0x1FC, w)
  | .bklutLd w => some (0x1FC, w)
  | .bklut w => some (0x1FC, w)
  | .bkrda w => some (0x1FD, w)
  | .bkadd w => some (0x1FD, w)
  | .bkz w => some (0x1FD, w)
  | .bksw _ _ => none
  | .bcst _ _ => none
  | .macb _ _ => none
  | .lutb _ _ => none
  | .lutl _ _ => none
  | .rdac _ _ => none
  | .addw _ _ => none
  | .zacc _ _ => none
  | .rowWaitRetry _ _ => none
  | .refusedPacketResend _ _ => none
  | .connResetTimeout _ => none
/-- The row of an opcode that these fields select (R42). -/
def rowOf (opc : Nat) (e : Enc) : Option Row := rows.find? (fun r => r.opc == opc && r.sel e)

/-- An operand stands where its position accepts it (R29, R32, R104). -/
def posOk (a : Kinds) (o : Opd) : Bool :=
  match o with
  | .no => a.none || a.opt
  | .ext => a.x
  | o => !a.none && !a.x && a.ok o

/-- High uniform registers need the extension (R34). -/
def highOk (h : Head) : Opd → Bool
  | .u n => n.toNat < 256 || h.form.x
  | _ => true

/-- LAST and HOLD (R27, R28): only on a vector register that the entry reads. -/
def lastOk (h : Head) (acc : Places) (w : Op) : Bool :=
  (!h.la || (isV w.a && !acc.a.raw)) && (!h.lb || (isV w.b && !acc.b.raw)) && (!h.lc || isV w.c) &&
  (h.hold == 0 || (isV w.a && !acc.a.raw && !h.la))

/-- The immediate fits the extension (R33). -/
def immOk (f : Form) (imm : W64) : Bool :=
  match f with
  | .w64 => imm == 0
  | .w96x => imm == 0
  | .w96i => imm.toNat < 2 ^ 32
  | .w128x => imm.toNat < 2 ^ 32
  | .w128i => true

/-- The guard q0 is not negated (R22 step 3). -/
def guardOk (h : Head) : Bool := !(h.gq == 0 && h.gn)

/-- Every check of R22 step 5 for the word of a row. -/
def rowOk (r : Row) (e : Enc) : Bool :=
  let a := r.acc e
  r.forms.contains e.h.form &&
  posOk a.d e.d && posOk a.a e.a && posOk a.b e.b && posOk a.c e.c && posOk a.d2 e.d2 &&
  (e.h.form.x || (e.c == .no && e.d2 == .no)) &&
  highOk e.h e.d && highOk e.h e.a && highOk e.h e.b && highOk e.h e.c && highOk e.h e.d2 &&
  lastOk e.h a e.toOp && immOk e.h.form e.imm && r.ext e

/-- A PAIR word has one form, and neither HOLD nor LAST bits of its own (R36). -/
def pairHead (h : Head) : Bool :=
  h.form == .w128i && h.hold == 0 && !h.la && !h.lb && !h.lc

/-- The word is one that the decoder accepts. -/
def Word.wf (w : Word) : Bool :=
  guardOk w.h &&
  match w.ins with
  | .pair p => pairHead w.h && pairOk p
  | i =>
    match i.opcOp with
    | none => false
    | some (o, op) =>
      let e : Enc := { op with h := w.h }
      match rowOf o e with
      | none => false
      | some r => rowOk r e && decide (r.make op = i)

end Sys2Proof
end

