-- ==== Sys2Proof/Decode.lean ====
section
/-! DEFINITION. Decode.lean: from bytes to a word, or to the cause that R22 names; and from a well-formed
word to its bytes. -/

namespace Sys2Proof
open Machine

/-! ## Layouts, as lists of field widths from bit 0 upward -/

/-- Fields of a number, given their widths. -/
def unpack : List Nat → Nat → List Nat
  | [], _ => []
  | w :: t, n => n % 2 ^ w :: unpack t (n / 2 ^ w)

/-- The number with these fields: width and value, from bit 0 upward. -/
def pack : List (Nat × Nat) → Nat
  | [] => 0
  | (w, v) :: t => v % 2 ^ w + 2 ^ w * pack t

/-- R23: LEN, SW, OPC, GQ, GN, D, A, B, HOLD, LASTA, LASTB, LASTC, MOD, X, KB, KA, KD. -/
def headW : List Nat := [2, 1, 9, 4, 1, 8, 8, 8, 2, 1, 1, 1, 11, 1, 2, 2, 2]
/-- R33, 96 bits, X = 1: C, D2, MOD2, KD2, KC, XT for D2, C, B, A, D. -/
def ext96W : List Nat := [8, 8, 7, 2, 2, 1, 1, 1, 1, 1]
/-- R33, 128 bits, X = 1: C, D2, XT for D2, C, B, A, D, KC, KD2, MOD2, IMM32. -/
def ext128W : List Nat := [8, 8, 1, 1, 1, 1, 1, 2, 2, 7, 32]
/-- R36: LEN, SW, OPC, GQ, GN, reserved, then OPC, D, A, B, C, LASTA, LASTB, LASTC, TYPE, M of X and of Y. -/
def pairW : List Nat :=
  [2, 1, 9, 4, 1, 5, 9, 8, 8, 8, 8, 1, 1, 1, 5, 4, 9, 8, 8, 8, 8, 1, 1, 1, 5, 4]

/-- The fields of the extension, whatever its layout. -/
structure Ext where
  c : Nat := 0
  d2 : Nat := 0
  kc : Nat := 0
  kd2 : Nat := 0
  md2 : Nat := 0
  xd : Nat := 0
  xa : Nat := 0
  xb : Nat := 0
  xc : Nat := 0
  xd2 : Nat := 0
  imm : Nat := 0
deriving DecidableEq, Repr

/-- The form of a length and variant (R20, R33); a 64-bit word has X = 0. -/
def formOf : Nat → Nat → Option Form
  | 0, 0 => some .w64
  | 1, 0 => some .w96i
  | 1, 1 => some .w96x
  | 2, 0 => some .w128i
  | 2, 1 => some .w128x
  | _, _ => none

/-- The extension of a form, from the bits above 63 (R33). -/
def extOf (f : Form) (n : Nat) : Ext :=
  match f with
  | .w64 => {}
  | .w96i => { imm := n % 2 ^ 32 }
  | .w128i => { imm := n % 2 ^ 64 }
  | .w96x =>
    match unpack ext96W n with
    | [c, d2, md2, kd2, kc, xd2, xc, xb, xa, xd] => { c, d2, md2, kd2, kc, xd2, xc, xb, xa, xd }
    | _ => {}
  | .w128x =>
    match unpack ext128W n with
    | [c, d2, xd2, xc, xb, xa, xd, kc, kd2, md2, imm] => { c, d2, md2, kd2, kc, xd2, xc, xb, xa, xd, imm }
    | _ => {}

/-- An operand field with its kind and extension bit (R29, R34). -/
def opdOf (k n x : Nat) : Option Opd :=
  if k = 1 then some (.u (BitVec.ofNat 9 (256 * x + n)))
  else if x = 0 then
    if k = 0 then some (.v (BitVec.ofNat 8 n))
    else if k = 2 then some (.sp (BitVec.ofNat 8 n)) else some (.im (BitVec.ofNat 8 n))
  else none

/-- A field as its position has it: an unused field is zero (R23). -/
def settle (a : Kinds) (o : Opd) : Opd :=
  if o = .v 0 then (if a.x then .ext else if a.none || a.opt then .no else o) else o

/-- What decoding gives: a word, or the cause that every lane of the path raises (R22). -/
inductive Decoded
  | word (w : Word)
  | bad (cause : Nat)
deriving DecidableEq, Repr

/-- A word of the opcode map from its fields (R22 steps 3 and 5). -/
def decodeRow (opc : Nat) (h : Head) (od oa ob oc od2 : Opd) (md md2 imm : Nat) : Decoded :=
  let raw : Enc := { d := od, a := oa, b := ob, c := oc, d2 := od2, md := BitVec.ofNat 11 md,
                     imm := BitVec.ofNat 64 imm, h := h }
  match rowOf opc raw with
  | none => .bad 0x01
  | some r =>
    let a := r.acc raw
    let op : Op := { d := settle a.d od, a := settle a.a oa, b := settle a.b ob, c := settle a.c oc,
                     d2 := settle a.d2 od2, md := BitVec.ofNat 11 md, imm := BitVec.ofNat 64 imm }
    if md2 = 0 && rowOk r { op with h := h } then .word { h, ins := r.make op } else .bad 0x01

/-- A word other than PAIR (R23, R33). -/
def decodeWord (n : Nat) : Decoded :=
  match unpack headW n with
  | [len, sw, opc, gq, gn, d, a, b, hold, la, lb, lc, md, x, kb, ka, kd] =>
    match formOf len x with
    | none => .bad 0x01
    | some f =>
      let h : Head := { form := f, gq := BitVec.ofNat 4 gq, gn := gn == 1, sw := sw == 1,
                        hold := BitVec.ofNat 2 hold, la := la == 1, lb := lb == 1, lc := lc == 1 }
      let e := extOf f (n / 2 ^ 64)
      match opdOf kd d e.xd, opdOf ka a e.xa, opdOf kb b e.xb, opdOf e.kc e.c e.xc, opdOf e.kd2 e.d2 e.xd2 with
      | some od, some oa, some ob, some oc, some od2 =>
        if guardOk h then decodeRow opc h od oa ob oc od2 md e.md2 e.imm else .bad 0x01
      | _, _, _, _, _ => .bad 0x01
  | _ => .bad 0x01

/-- A PAIR word (R22 step 4, R36, R37). -/
def decodePair (n : Nat) : Decoded :=
  match unpack pairW n with
  | [len, sw, _, gq, gn, res, xo, xd, xa, xb, xc, xla, xlb, xlc, xt, xm, yo, yd, ya, yb, yc, yla, ylb, ylc, yt, ym] =>
    let h : Head := { form := .w128i, gq := BitVec.ofNat 4 gq, gn := gn == 1, sw := sw == 1 }
    let p : PairOp :=
      { x := { opc := BitVec.ofNat 9 xo, d := BitVec.ofNat 8 xd, a := BitVec.ofNat 8 xa, b := BitVec.ofNat 8 xb,
               c := BitVec.ofNat 8 xc, la := xla == 1, lb := xlb == 1, lc := xlc == 1,
               ty := BitVec.ofNat 5 xt, m := BitVec.ofNat 4 xm }
        y := { opc := BitVec.ofNat 9 yo, d := BitVec.ofNat 8 yd, a := BitVec.ofNat 8 ya, b := BitVec.ofNat 8 yb,
               c := BitVec.ofNat 8 yc, la := yla == 1, lb := ylb == 1, lc := ylc == 1,
               ty := BitVec.ofNat 5 yt, m := BitVec.ofNat 4 ym } }
    if !guardOk h then .bad 0x01
    else if len = 2 && res = 0 && pairOk p then .word { h, ins := .pair p }
    else .bad 0x04
  | _ => .bad 0x04

/-- The opcode that R42 leaves out, and every unassigned one, have no row; PAIR is 0x1FE (R39). -/
def decodeNat (n : Nat) : Decoded := if bf n 3 9 = 0x1FE then decodePair n else decodeWord n

/-- Bytes of a word of this LEN (R20). -/
def lenBytes : Nat → Option Nat
  | 0 => some 8
  | 1 => some 12
  | 2 => some 16
  | _ => none

/-- Decode the bytes from a lane's PC to the end of its 32-byte block (R20 to R22). -/
def decodeBytes (bs : List Byte) : Decoded :=
  match lenBytes (leNat (bs.take 1) % 4) with
  | none => .bad 0x02
  | some k => if bs.length < k then .bad 0x02 else decodeNat (leNat (bs.take k))

/-! ## Encoding -/

/-- Kind, number and extension bit of an operand (R29, R34). -/
def encOpd : Opd → Nat × Nat × Nat
  | .no => (0, 0, 0)
  | .ext => (0, 0, 0)
  | .v n => (0, n.toNat, 0)
  | .u n => (1, n.toNat % 256, n.toNat / 256)
  | .sp n => (2, n.toNat, 0)
  | .im n => (3, n.toNat, 0)

/-- The bits above 63 (R33). -/
def encExt (f : Form) (w : Op) : Nat :=
  let (_, _, xd) := encOpd w.d
  let (_, _, xa) := encOpd w.a
  let (_, _, xb) := encOpd w.b
  let (kc, c, xc) := encOpd w.c
  let (kd2, d2, xd2) := encOpd w.d2
  match f with
  | .w64 => 0
  | .w96i => w.imm.toNat
  | .w128i => w.imm.toNat
  | .w96x => pack [(8, c), (8, d2), (7, 0), (2, kd2), (2, kc), (1, xd2), (1, xc), (1, xb), (1, xa), (1, xd)]
  | .w128x => pack [(8, c), (8, d2), (1, xd2), (1, xc), (1, xb), (1, xa), (1, xd), (2, kc), (2, kd2), (7, 0),
                    (32, w.imm.toNat)]

/-- A word other than PAIR as a number (R23). -/
def encodeOp (h : Head) (opc : Nat) (w : Op) : Nat :=
  let (kd, d, _) := encOpd w.d
  let (ka, a, _) := encOpd w.a
  let (kb, b, _) := encOpd w.b
  pack [(2, h.form.len), (1, b2n h.sw), (9, opc), (4, h.gq.toNat), (1, b2n h.gn), (8, d), (8, a), (8, b),
        (2, h.hold.toNat), (1, b2n h.la), (1, b2n h.lb), (1, b2n h.lc), (11, w.md.toNat), (1, b2n h.form.x),
        (2, kb), (2, ka), (2, kd)] + 2 ^ 64 * encExt h.form w

/-- The fields of a half (R36). -/
def encHalf (h : Half) : List (Nat × Nat) :=
  [(9, h.opc.toNat), (8, h.d.toNat), (8, h.a.toNat), (8, h.b.toNat), (8, h.c.toNat), (1, b2n h.la), (1, b2n h.lb),
   (1, b2n h.lc), (5, h.ty.toNat), (4, h.m.toNat)]

/-- A PAIR word as a number (R36). -/
def encodePair (h : Head) (p : PairOp) : Nat :=
  pack ([(2, 2), (1, b2n h.sw), (9, 0x1FE), (4, h.gq.toNat), (1, b2n h.gn), (5, 0)] ++ encHalf p.x ++ encHalf p.y)

/-- The number whose bits are a word's; an event has no encoding. -/
def encodeNat (w : Word) : Option Nat :=
  match w.ins with
  | .pair p => some (encodePair w.h p)
  | i => (i.opcOp).map fun (o, op) => encodeOp w.h o op

/-- The bytes of a word, lowest first (R20). -/
def encode (w : Word) : List Byte :=
  match encodeNat w with
  | some n => leBytes w.h.form.bytes n
  | none => []

/-- The instruction that the decoder reads from bits numbered as the opcode table numbers them; the
bits above `nbits` are zero. -/
def decodeTableWord (nbits w : Nat) : Option Instr :=
  match decodeBytes (leBytes 16 (w % 2 ^ nbits)) with
  | .word d => some d.ins
  | .bad _ => none

end Sys2Proof
end

