-- ==== Sys2Proof/Machine/Fetch.lean ====
section
/-! DEFINITION. Machine/Fetch.lean: fetching a word at a lane's PC (R21, R22, R52, R53). -/

namespace Sys2Proof.Machine

def Core.ov (o : Core) (slot : Nat) : Overlay := if slot = 0 then o.ov0 else o.ov1
def Core.setOv (o : Core) (slot : Nat) (v : Overlay) : Core := if slot = 0 then { o with ov0 := v } else { o with ov1 := v }

/-- What the fetch at a PC finds: a word, a lane that waits for its overlay, or a cause with the LEN
field read, if one was. -/
inductive Fetched
  | word (w : Word)
  | park
  | bad (cause : Nat) (len : Option Nat)
deriving DecidableEq, Repr

/-- Bytes from an offset to the end of its 32-byte block (R21). -/
def blockBytes (m : Memory) (off : Nat) : List Byte := m.read (32 - off % 32) off

/-- Fetch at a PC: the slot's overlay id first, then the word and its block, then the word's own checks
(R22, R53). -/
def fetch (o : Core) (p : Pc) : Fetched :=
  let v := o.ov p.slot
  match v.loading with
  | some id => if id == p.id then .park else .bad 0x05 none
  | none =>
    if v.id != p.id || p.id == 0xFFFF then .bad 0x05 none
    else if 65536 ≤ p.off then .bad 0x02 none
    else
      let bs := blockBytes v.mem p.off
      let len := leNat (bs.take 1) % 4
      match decodeBytes bs with
      | .word w => .word w
      | .bad c => .bad c (if len = 3 then none else some len)

/-- The SW bit and the opcode of the bytes at a PC, as far as the slot holds them. -/
def peek (o : Core) (p : Pc) : Nat := leNat ((o.ov p.slot).mem.read 4 p.off)

end Sys2Proof.Machine
end

