-- ==== Sys2Proof/Machine/Copy.lean ====
section
/-! DEFINITION. Machine/Copy.lean: the copy engines (R333 to R353). In spaces 1 and 2 an address is held as
core × 2^32 + byte of that core's scratchpad. -/

namespace Sys2Proof.Machine

/-! ## The units of an operation -/

/-- Up to 64 bytes that an operation reads and writes in one go (R345). -/
structure CUnit where
  src : Nat
  dst : Nat
  n : Nat
deriving DecidableEq, Repr

/-- A range cut at the 64-byte units of its destination. -/
def cutUnits : Nat → Nat → Nat → Nat → List CUnit
  | 0, _, _, _ => []
  | k + 1, src, dst, n =>
    if n = 0 then []
    else
      let m := min n (64 - dst % 64)
      { src := src % 2 ^ 64, dst := dst % 2 ^ 64, n := m } :: cutUnits k (src + m) (dst + m) (n - m)

def unitsOf (src dst n : Nat) : List CUnit := cutUnits (n / 64 + 2) src dst n

/-- The units of an operation, in the order in which it takes them; `lanes` holds the elements of CPYG and CPYX,
the runs of FEED and the rows of DRAIN. -/
def CopyOp.units (o : CopyOp) : List CUnit :=
  match o.kind with
  | .cpy | .cfill => unitsOf o.src.toNat o.dst.toNat o.n
  | .cpyg | .cpyx => o.lanes.flatMap (fun e => unitsOf e.1 e.2 o.elem)
  | .feed => o.lanes.flatMap (fun e => (List.range (o.n / 64)).map (fun i => { src := (e.1 + 64 * i) % 2 ^ 64, dst := 0, n := 64 }))
  | .drain => o.lanes.flatMap (fun e => unitsOf e.1 e.2 256)
  | .ovld => (List.range (o.n / 32)).map (fun i => { src := (o.src.toNat + 32 * i) % 2 ^ 64, dst := 32 * i, n := 32 })
  | .winw => [{ src := o.src.toNat, dst := o.dst.toNat, n := o.n }]
  | .bput | .bget => match o.bulk with
    | some b => (b.out ++ b.todo).map (fun p => { src := (o.src.toNat + p.off) % 2 ^ 64, dst := (o.dst.toNat + p.off) % 2 ^ 64, n := p.n })
    | none => []
  | .cont => o.lanes.map (fun e => { src := e.2, dst := e.1, n := 4 })

def CopyOp.left (o : CopyOp) : List CUnit := o.units.drop o.pos

/-- The 64-byte scratchpad lines of a range: core × 2^26 + line. -/
def rangeLines (a n : Nat) : List Nat := if n = 0 then [] else (List.range ((a + n - 1) / 64 - a / 64 + 1)).map (a / 64 + ·)

def lineCore (l : Nat) : Nat := l / 2 ^ 26
def lineNo (l : Nat) : Nat := l % 2 ^ 26

/-! ## Finding operations -/

def findOp (s : State) (c ticket : Nat) : Option CopyOp := (s.core c).copies.find? (fun o => o.ticket == ticket)
def setOp (s : State) (c : Nat) (o : CopyOp) : State :=
  s.modCore c (fun q => { q with copies := q.copies.map (fun p => if p.ticket == o.ticket then o else p) })
def allOps (s : State) : List CopyOp := s.cores.flatMap (fun c => c.2.copies)

/-! ## Presence (R338) -/

/-- Somebody still has to write a line that it has claimed. -/
def lineClaimed (s : State) (l : Nat) : Bool :=
  (allOps s).any (fun o => o.claims.contains l && !(o.done.contains l)) || s.quads.any (fun q => q.2.select.any (fun r => r.claims.contains l))

/-- A line is written by one of those that claimed it: its bit is set once all of them have. -/
def claimMet (s : State) (l : Nat) : State := if lineClaimed s l then s else setPresent s (lineCore l) (lineNo l) true

/-- A grid of this chip has been ended, or is no more. -/
def gridOver (s : State) (g : Nat) : Bool := let d := s.grid g; d.ended || d.state == 0 || d.state == 4

/-- An engine's read of a line waits: for an earlier operation's bytes, or for a bit that a map write cleared, unless its grid
has been ended. -/
def lineWaits (s : State) (g before l : Nat) : Bool :=
  (allOps s).any (fun o => o.before < before && o.claims.contains l && !(o.done.contains l)) ||
  s.quads.any (fun q => q.2.select.any (fun r => r.id < before && r.claims.contains l)) ||
  ((s.core (lineCore l)).mapClr.contains (lineNo l) && !(gridOver s g))

/-- Clear the presence bits of claimed lines (R338). -/
def claimLines (s : State) (l : List Nat) : State := l.foldl (fun s i => setPresent s (lineCore i) (lineNo i) false) s

/-- The lines whose last bytes an operation has just written. -/
def settleClaims (s : State) (c ticket : Nat) : State :=
  match findOp s c ticket with
  | none => s
  | some o =>
    let open_ := (o.left.flatMap (fun u => rangeLines u.dst u.n)).eraseDups
    let new := o.claims.filter (fun l => !(o.done.contains l) && !(open_.contains l))
    new.foldl claimMet (setOp s c { o with done := o.done ++ new })

/-! ## Faults (R341) -/

/-- COPY_ENGINE_FREEZE: the engine freezes with this operation as the violating one. Log entry 77 (DEDUCED). -/
def freezeCopy (s : State) (c : Nat) (o : CopyOp) (cause addr : Nat) : State :=
  let s := setOp s c { o with cause, addr := w64 addr }
  (s.modCore c (fun q => { q with copyFrozen := true })).post (dieOfCore c)
    { typ := 0x03, cause, grid := if (s.team c o.ts).guest then 0xFF else o.grid, value := w32 (2 ^ 30 + c * 2 ^ 22), addr := w64 addr, pc := o.pc }

/-! ## Reading and writing a unit -/

/-- Who asks for an operation's bytes. -/
def CopyOp.who (o : CopyOp) (c : Nat) : List Nat := [1, c, o.ticket, o.pos]

/-- A byte of the source that the operation has itself overwritten reads as before or after (R345).
Log entry 75 (DEDUCED). -/
def overlapByte (s : State) (o : CopyOp) (a : Nat) (b : Byte) : Byte :=
  match tget? o.old a with
  | some v => if Config.overlapRead s.free a then v else b
  | none => b

/-- The source bytes of a unit. -/
def readUnit (s : State) (c : Nat) (o : CopyOp) (u : CUnit) : State × Got :=
  let fix (b : List Byte) : List Byte := if o.kind == .cpy && o.ss == o.ds then b.zipIdx.map (fun e => overlapByte s o (u.src + e.2) e.1) else b
  match o.kind with
  | .cfill => (s, .ok ((List.range u.n).map (fun i => BitVec.ofNat 8 (o.aux / 2 ^ (8 * ((u.dst + i) % 4))))))
  | .drain => (s, .ok (((o.buf.getD []).drop u.src).take u.n))
  | _ =>
    if o.ss = 0 then
      match engRead s (o.who c) c o.ctx u.src u.n with
      | (s, .ok b) => (s, .ok (fix b))
      | r => r
    else if (rangeLines u.src u.n).any (lineWaits s o.grid o.before) then (s, .wait)
    else (s, .ok (fix ((s.core (u.src / 2 ^ 32)).scrRead (u.src % 2 ^ 32) u.n)))

/-- Where the bytes of a unit's destination lie: a place that they share with no other bytes, and an address in it. A global
address is that of its page, an address that translates to nothing has a place of its own. Log entry 77 (DEDUCED). -/
def dstAt (s : State) (o : CopyOp) (u : CUnit) : Nat × Nat :=
  if o.kind == .winw then
    (if o.aux == s.chipid && mapReg u.dst = 0 then (1, mapCore u.dst * 2 ^ 32 + mapOfs u.dst) else (4 + o.aux, u.dst))
  else if o.ds ≠ 0 then (1, u.dst)
  else match (walk s o.ctx u.dst).1 with
    | some (_, t) => (if t.fw then 2 else 0, t.gpn * 65536 + u.dst % 65536)
    | none => (3, o.ctx * 2 ^ 64 + u.dst)

/-- An earlier operation of the engine still has to write one of these bytes (R339). Log entry 77 (DEDUCED). -/
def unitHeld (s : State) (c : Nat) (o : CopyOp) (u : CUnit) : Bool :=
  let a := dstAt s o u
  let meets (p : CopyOp) (v : CUnit) : Bool := let b := dstAt s p v; a.1 == b.1 && overlaps a.2 u.n b.2 v.n
  (s.core c).copies.any (fun p => p.before < o.before && p.kind != .feed && p.kind != .ovld && p.kind != .cont && p.left.any (meets p))

/-- Engine records of a team (R337), keyed inside a heat. Log entry 70 (DEDUCED). -/
def appendTeam (s : State) (c ts : Nat) (recs : List LogRec) : Append :=
  let m := s.team c ts
  let g := s.grid m.grid
  let heat := !m.guest && g.heat < g.lr.heats
  let n := recs.length
  if (if heat then 2 * n else n) ≤ (s.core c).logFree then
    let k := Config.engineKey s.free
    let key (i : Nat) : Key := { heat := g.heat, team := m.index, lane := k.1 % 2048, seq := (k.2 + i) % 2 ^ 32 }
    let keyed : List LogRec := recs.zipIdx.map (fun e => if heat then { e.1 with key := some (key e.2) } else e.1)
    let ents : List LogEnt := keyed.map (fun r => { rcd := r, ts })
    let s := { s with free := s.free + 1 }.modCore c (fun o => { o with log := o.log ++ ents })
    .done (chargeTeam 8 s c ts n)
  else if (s.core c).spill.any (·.writing) then .full s
  else match logSpill s c with
    | some s => .full s
    | none => .noChunk

/-- Remember what the operation overwrites of its own source. -/
def saveOld (o : CopyOp) (u : CUnit) (old : List Byte) : CopyOp :=
  if o.kind == .cpy && o.ss == o.ds then
    { o with old := old.zipIdx.foldl (fun t e =>
        let a := u.dst + e.2
        if o.src.toNat ≤ a && a < o.src.toNat + o.n && (tget? t a).isNone then tset t a e.1 else t) o.old }
  else o

/-- Write a unit's bytes: what has come about, and the operation. Log entry 146 (DESIGN CHOICE). -/
def writeUnit (s : State) (c : Nat) (o : CopyOp) (u : CUnit) (b : List Byte) : State × Put × CopyOp :=
  let org := originVal s.chipid c true o.ts
  if o.ds = 0 then
    let old := match engLook s (dieOfCore c) o.ctx u.dst false with
      | (s, .here _ a _) => (devRead s o.ctx a u.n).2.1
      | _ => []
    match engWrite s c o.ctx u.dst b org with
    | (s, .deferred chip a g) => (match appendTeam s c o.ts (storeRecs chip g 64 a b) with
      | .done s => (s, .done, o)
      | .full s => (s, .wait, o)
      | .noChunk => (s, .bad 0x15, o))
    | (s, .sent chip q) => (s, .done, { o with seqs := o.seqs ++ [(chip, q, o.pos)] })
    | (s, p) => (s, p, saveOld o u old)
  else
    let q := u.dst / 2 ^ 32
    let a := u.dst % 2 ^ 32
    (s.modCore q (·.scrWrite (cellsAt a b)), .done, saveOld o u ((s.core q).scrRead a u.n))

/-! ## Steps of the kinds -/

/-- A step of an operation: nothing to do now, a new state, or a fault. -/
inductive CStep
  | none
  | go (s : State)
  | fault (s : State) (cause addr : Nat)

/-- The unit is done. -/
def nextUnit (s : State) (c : Nat) (o : CopyOp) : State := settleClaims (setOp s c { o with pos := o.pos + 1 }) c o.ticket

/-- CPY, CPYG, CPYX, CFILL and the rows of DRAIN: read, then write. A unit whose bytes have come but cannot be
written yet is kept. -/
def stepMove (s : State) (c : Nat) (o : CopyOp) (u : CUnit) : CStep :=
  let put (s : State) (o : CopyOp) (b : List Byte) (fresh : Bool) : CStep :=
    if unitHeld s c o u then (if fresh then .go (setOp s c { o with buf := some b }) else .none)
    else
      let n := s.nextId
      let spilling := (s.core c).spill.length
      match writeUnit s c o u b with
      | (s, .bad cause, _) => .fault s cause u.dst
      | (s, .done, o) => .go (nextUnit s c { o with buf := if o.kind == .drain then o.buf else none })
      | (s, _, _) => if fresh || s.nextId != n || (s.core c).spill.length != spilling then
          .go (setOp s c (if o.kind == .drain then o else { o with buf := some b })) else .none
  if o.kind == .drain then put s o (((o.buf.getD []).drop u.src).take u.n) false
  else match o.buf with
    | some b => put s o b false
    | none =>
      let n := s.nextId
      match readUnit s c o u with
      | (s, .bad cause a) => .fault s cause a
      | (s, .ok b) => put s o b true
      | (t, .wait) => if t.nextId != n then .go t else .none

/-- A FEED's bytes enter the FIFO in queue order while there is room (R347). -/
def stepFeed (s : State) (c : Nat) (o : CopyOp) (u : CUnit) : CStep :=
  let q := s.core c
  let fifo := if o.sel = 0 then q.fifoA else q.fifoB
  if q.fifoTeam != some o.ts then .fault s 0x11 0
  else if q.copies.any (fun p => p.kind == .feed && p.sel == o.sel && p.before < o.before) || Config.fifoBytes < fifo.length + 64 then .none
  else
    let n := s.nextId
    match readUnit s c o u with
    | (s, .bad cause a) => .fault s cause a
    | (s, .ok b) =>
      let s := s.modCore c (fun q => if o.sel = 0 then { q with fifoA := q.fifoA ++ b } else { q with fifoB := q.fifoB ++ b })
      .go (setOp s c { o with pos := o.pos + 1 })
    | (t, .wait) => if t.nextId != n then .go t else .none

/-- An overlay image is gathered behind every earlier OVLD of its slot (R349). -/
def stepOvld (s : State) (c : Nat) (o : CopyOp) (u : CUnit) : CStep :=
  if (s.core c).copies.any (fun p => p.kind == .ovld && p.sel == o.sel && p.before < o.before) then .none
  else
    let n := s.nextId
    match readUnit s c o u with
    | (s, .bad cause a) => .fault s cause a
    | (s, .ok b) => .go (setOp s c { o with pos := o.pos + 1, buf := some (o.buf.getD [] ++ b) })
    | (t, .wait) => if t.nextId != n then .go t else .none

/-- WINW: on this chip over the mesh, else one packet (R350). -/
def stepWinw (s : State) (c : Nat) (o : CopyOp) (u : CUnit) : CStep :=
  let n := s.nextId
  match readUnit s c o u with
  | (s, .bad cause a) => .fault s cause a
  | (t, .wait) => if t.nextId != n then .go t else .none
  | (s, .ok b) =>
    if o.aux = s.chipid then
      if !(mapOk s u.dst u.n) then .fault s 0x11 u.dst
      else if unitHeld s c o u then .none
      else if !(mapReady s s.nextId u.dst u.n true) then .none
      else .go (setOp (mapWrite s (cellsAt u.dst b)) c { o with pos := o.pos + 1 })
    else if !(reachable s o.aux) then .fault s 0x30 u.dst
    else if (s.conn o.aux).lost then .fault s 0x31 u.dst
    else if unitHeld s c o u then .none
    else
      let (q, s) := queuePkt s { typ := 0x0B, src := s.chipid, dst := o.aux, ctx := o.ctx, reqKind := 1, reqIdx := c, len := u.n, body := .mapWrite u.dst b }
      .go (setOp s c { o with pos := o.pos + 1, seqs := o.seqs ++ [(o.aux, q, o.pos)] })

/-- The values of a continuation's registers, one register at a time, go to the granted slot through the map, on
another chip with packets (R401). A slot that runs already takes them with the arrival message. -/
def stepCont (s : State) (c : Nat) (o : CopyOp) (u : CUnit) : CStep :=
  let row := o.left.takeWhile (fun v => v.dst / 128 == u.dst / 128)
  let cells := row.flatMap (fun v => cellsAt v.dst (leBytes 4 v.src))
  let next (s : State) (l : List (Nat × Nat × Nat)) : CStep := .go (setOp s c { o with pos := o.pos + row.length, seqs := o.seqs ++ l })
  if o.aux = s.chipid then
    if !(mapOk s u.dst 4) then next s []
    else if !(mapReady s s.nextId u.dst 4 true) then .none
    else next (mapWrite s cells) []
  else if (s.conn o.aux).lost then .none
  else
    let (s, l) := row.foldl (fun (acc : State × List (Nat × Nat × Nat)) v =>
      let (q, s) := queuePkt acc.1 { typ := 0x0B, src := s.chipid, dst := o.aux, ctx := o.ctx, reqKind := 4, reqIdx := c, len := 4, body := .mapWrite v.dst (leBytes 4 v.src) }
      (s, acc.2 ++ [(o.aux, q, o.pos)])) (s, [])
    next s l

/-- The registers are written: the arrival message leaves, on another chip as a packet (R401). -/
def sendArrival (s : State) (id : Nat) : State :=
  match s.lmoves.find? (fun m => m.id == id) with
  | none => s
  | some m =>
    let (q, s) := if m.chip == s.chipid then (0, s) else
      queuePkt s { typ := 0x0C, src := s.chipid, dst := m.chip, ctx := m.cont.ctx, reqKind := 4, reqIdx := m.core, tag := id % 2 ^ 21
                   len := 128 + m.cont.lanes.length * (8 + 4 * m.cont.vregs.length), body := .cont m.cont m.gcore m.gslot }
    { s with lmoves := s.lmoves.map (fun n => if n.id == id then { n with stage := 5, seq := q } else n) }

/-- DRAIN first reads its rows, once no earlier entry names the tile (R348, R364). Log entry 79 (DEDUCED). -/
def drainRead (s : State) (c : Nat) (o : CopyOp) : CStep :=
  let q := quadOfCore c
  match (s.team c o.ts).tiles[o.sel]? with
  | none => .fault s 0x11 0
  | some t =>
    let u := s.quad q
    let mine (r : TileRead) : Bool := r.core == c && r.ticket == some o.ticket
    let after := (u.reads.filter mine).flatMap (·.after)
    if u.table.any (fun e => after.contains e.id) then .none
    else
      let words := (List.range (64 * o.elem)).map (fun i => tget (0 : W32) u.acc (t * 4096 + o.aux * 64 + i))
      let s := s.modQuad q (fun u => { u with reads := u.reads.filter (fun r => !(mine r)) })
      .go (settleQuad (setOp s c { o with buf := some (words.flatMap (fun v => leBytes 4 v.toNat)) }) q)

/-! ## Arrival counters (R444) -/

/-- What an arrival counter can do now: the add, wait for its line, nothing since it is not bound, or since its team
is saved. -/
inductive ArrNow
  | done (s : State)
  | absent
  | unbound
  | away

/-- Bytes are added to a counter's word; the sum that first reaches the threshold arrives at its barrier. -/
def addArrival (s : State) (c n len : Nat) : ArrNow :=
  match tget? (s.core c).arrCtrs n with
  | none => if s.saves.any (fun u => u.2.teams.any (fun v => v.core == c && (tget? v.arrs n).isSome)) then .away else .unbound
  | some a =>
    let w := (s.team c a.ts).scrBase + a.off
    if !(absentLines (s.core c) w 4).isEmpty then .absent
    else
      let sum := a.sum + len
      let hit := a.armed && a.threshold.toNat ≤ sum
      let s := s.modCore c (fun q => { q.scrWrite (cellsAt w (leBytes 4 (leNat (q.scrRead w 4) + len))) with
        arrCtrs := tset q.arrCtrs n { a with sum, armed := a.armed && !hit } })
      .done (match a.bar with
        | some b => if hit then arriveEngine (joinBar s c a.ts b) c a.ts b else s
        | none => s)

/-! ## Bulk transfers (R446) -/

/-- The pieces of a bulk transfer: cut at multiples of `p` of the remote address and at pages. -/
def cutPieces (p remote near : Nat) (pages : Bool) : Nat → Nat → Nat → List BulkPc
  | 0, _, _ => []
  | k + 1, pos, n =>
    if n ≤ pos then []
    else
      let r := (remote + pos) % 2 ^ 64
      let l := (near + pos) % 2 ^ 64
      let m := min (min (n - pos) (p - r % p)) (min (65536 - r % 65536) (if pages then 65536 - l % 65536 else n))
      { off := pos, n := m } :: cutPieces p remote near pages k (pos + m) n

/-- Where a piece goes on the remote side, or a wait, or a cause. -/
inductive Far
  | to (chip frame : Nat) (t : Trans)
  | wait
  | bad (cause : Nat)

def farOf (s : State) (c ctx va : Nat) (write : Bool) : State × Far :=
  match engSeek s c ctx va write with
  | (s, .bad e) => (s, .bad e)
  | (s, .wait) => (s, .wait)
  | (s, .here m a t) => (s, .to s.chipid (if t.fw then viewMark else frameKey m (frameOf a)) t)
  | (s, .away h m f t) => (s, .to h (frameKey m f) t)

/-- The RC counter of a transfer to a peer (R443): nothing where none is named. Log entry 127 (DEDUCED). -/
def rcOf (s : State) (c ctx va peer : Nat) : State × (Option (Nat × Nat × Nat) ⊕ Option Nat) :=
  if va = 0 then (s, .inl none)
  else if va % 8 ≠ 0 then (s, .inr (some 0x11))
  else match farOf s c ctx va true with
    | (s, .bad e) => (s, .inr (some e))
    | (s, .wait) => (s, .inr none)
    | (s, .to h f t) =>
      if h ≠ peer || t.fw then (s, .inr (some 0x11)) else if t.dfr then (s, .inr (some 0x14))
      else (s, .inl (some (t.gpn, va % 65536, f)))

/-- The local page of a piece is this chip's (R446): its device address. -/
def nearOf (s : State) (c ctx va : Nat) (write : Bool) : State × (Nat × Trans ⊕ Option Nat) :=
  match engSeek s c ctx va write with
  | (s, .bad e) => (s, .inr (some e))
  | (s, .wait) => (s, .inr none)
  | (s, .here _ a t) => if write && t.dfr then (s, .inr (some 0x14)) else (s, .inl (a, t))
  | (s, .away _ _ _ _) => (s, .inr (some 0x11))

/-- A piece leaves: its packet takes the reserved SEQ, or a new one. -/
def sendPiece (s : State) (c : Nat) (o : CopyOp) (b : Bulk) (p : BulkPc) (k : Packet) : State :=
  let k := { k with path := b.pin.getD 0, pin := b.pin.isSome, ord := b.ord, reqKind := 1, reqIdx := c, ctx := o.ctx }
  let (at_, s) := match p.pkt with
    | some (chip, seq) => ((chip, seq), putReserved s chip seq k)
    | none => let (q, s) := queuePkt s k; ((k.dst, q), s)
  let s := if o.kind == .bget then { s with rdJobs := s.rdJobs ++ [{
      who := [3, c, o.ticket, p.off], addr := (o.src.toNat + p.off) % 2 ^ 64, n := p.n, chip := at_.1, seq := at_.2 }] } else s
  setOp s c { o with bulk := some { b with peer := some k.dst, todo := b.todo.drop 1, out := b.out ++ [{ p with pkt := some at_ }] } }

/-- The bytes of a BPUT's piece. -/
def pieceData (s : State) (c : Nat) (o : CopyOp) (p : BulkPc) : State × Got :=
  let a := (o.src.toNat + p.off) % 2 ^ 64
  if o.ss = 0 then
    match nearOf s c o.ctx a false with
    | (s, .inr (some e)) => (s, .bad e a)
    | (s, .inr none) => (s, .wait)
    | (s, .inl (dev, _)) =>
      let (s, d, bad) := devRead s o.ctx dev p.n
      (s, if bad.isEmpty then .ok d else .bad 0x13 a)
  else if (rangeLines a p.n).any (lineWaits s o.grid o.before) then (s, .wait)
  else (s, .ok ((s.core (a / 2 ^ 32)).scrRead (a % 2 ^ 32) p.n))

/-- The next piece of a bulk transfer is translated and sent. -/
def stepPiece (s : State) (c : Nat) (o : CopyOp) (b : Bulk) (p : BulkPc) : CStep :=
  let n := s.nextId
  let again (t : State) : CStep := if t.nextId != n then .go t else .none
  let get := o.kind == .bget
  let va := ((if get then o.src else o.dst).toNat + p.off) % 2 ^ 64
  match farOf s c o.ctx va (!get) with
  | (s, .bad e) => .fault s e va
  | (s, .wait) => again s
  | (s, .to chip frame t) =>
    if b.peer.any (· != chip) then .fault s 0x11 va
    else if !get && t.dfr then .fault s 0x14 va
    else if (s.conn chip).lost then .fault s 0x31 va
    else match rcOf s c o.ctx b.rc chip with
      | (s, .inr (some e)) => .fault s e b.rc
      | (s, .inr none) => again s
      | (s, .inl rc) =>
        let (tag, s) := s.fresh
        let k : Packet := { typ := 0x01, src := s.chipid, dst := chip, gpn := t.gpn, off := va % 65536, frame, tag := tag % 2 ^ 21, slot := o.ts }
        if get then
          let l := (o.dst.toNat + p.off) % 2 ^ 64
          match if o.ds = 0 then nearOf s c o.ctx l true else (s, .inl (0, t)) with
          | (s, .inr (some e)) => .fault s e l
          | (s, .inr none) => again s
          | (s, .inl _) => .go (sendPiece s c o b p { k with typ := 0x02, body := .ranges [(va % 65536, p.n)] })
        else match pieceData s c o p with
          | (s, .bad e a) => .fault s e a
          | (s, .wait) => if s.nextId != n + 1 then .go s else .none
          | (s, .ok d) => .go (sendPiece (engL1 s c t va d) c o b p { k with rc, act := b.act, len := p.n, body := .bytes (cellsAt (va % 65536) d) })

/-- The bytes that a BGET's piece has brought are written here; its presence bits follow, then the counter. -/
def landPiece (s : State) (c : Nat) (o : CopyOp) (b : Bulk) (p : BulkPc) (j : RdJob) : CStep :=
  let u : CUnit := { src := j.addr, dst := (o.dst.toNat + p.off) % 2 ^ 64, n := p.n }
  let out := b.out.filter (· != p)
  let done (s : State) : CStep :=
    let adds := if b.act.isSome then b.adds ++ [p.n] else b.adds
    .go (settleClaims (setOp (dropReads s j.who) c { o with bulk := some { b with out, adds } }) c o.ticket)
  let back (s : State) (e : Nat) (a : Nat) : CStep :=
    .fault (setOp (dropReads s j.who) c { o with bulk := some { b with out, todo := b.todo ++ [{ p with pkt := none }] } }) e a
  match j.ans with
  | none => .none
  | some (e, d, bad) =>
    if e ≠ 0 || bad then back s (if e = 0 then 0x13 else e) j.addr
    else if unitHeld s c o u then .none
    else if o.ds ≠ 0 then done (s.modCore (u.dst / 2 ^ 32) (·.scrWrite (cellsAt (u.dst % 2 ^ 32) d)))
    else match nearOf s c o.ctx u.dst true with
      | (s, .inr (some e)) => back s e u.dst
      | (_, .inr none) => .none
      | (s, .inl (dev, t)) =>
        let s := devWrite s o.ctx (cellsAt dev d) false (originVal s.chipid c true o.ts)
        done ((linePieces u.dst (u.n / 256 + 2) u.n).foldl (fun s q => engL1 s c t q.1 ((d.drop (q.1 - u.dst)).take q.2)) s)

/-- A bulk transfer goes on: an add that is due, a piece that has come back, or the next piece. -/
def stepBulk (s : State) (c : Nat) (o : CopyOp) (b : Bulk) : CStep :=
  let land : CStep := (b.out.findSome? (fun p => (s.rdJobs.find? (fun j => j.who == [3, c, o.ticket, p.off])).bind (fun j =>
    match landPiece s c o b p j with
    | .none => none
    | r => some r))).getD .none
  let send : CStep := match land with
    | .none => (match b.todo with
      | [] => .none
      | p :: _ => stepPiece s c o b p)
    | r => r
  match b.adds, b.act with
  | n :: t, some (_, ctr) => (match addArrival s c ctr n with
    | .done s => .go (setOp s c { o with bulk := some { b with adds := t } })
    | .unbound => .fault (setOp s c { o with bulk := some { b with adds := t } }) 0x11 0
    | _ => send)
  | _, _ => send

/-- The SEQs that a transfer has reserved and will not use. -/
def freeSeqs (s : State) (o : CopyOp) : State :=
  match o.bulk with
  | none => s
  | some b => b.todo.foldl (fun s p => match p.pkt with
    | some (chip, seq) => fillSeq s chip seq
    | none => s) s

/-- Operations that a frozen engine drops: they complete nothing. With the violating one gone, and no other, it runs again
(R276, R341). Log entry 97 (DEDUCED). -/
def discardWhere (gone : CopyOp → Bool) (s : State) (c : Nat) : State :=
  let l := (s.core c).copies.filter gone
  let violates := l.any (fun p => p.cause != 0)
  let s := l.foldl freeSeqs s
  let s := s.modQuad (quadOfCore c) (fun u => { u with reads := u.reads.filter (fun r => !(r.core == c && l.any (fun p => r.ticket == some p.ticket))) })
  let s := s.modCore c (fun o =>
    let rest := o.copies.filter (fun p => !(gone p))
    { o with copies := rest, copyFrozen := o.copyFrozen && (!violates || rest.any (fun p => p.cause != 0)) })
  settleQuad s (quadOfCore c)

/-! ## Events -/

/-- The crew's own earlier writes have been performed (R210, R211). -/
def forkReady (s : State) (c : Nat) (o : CopyOp) : Bool := !(s.reqs.any (Req.blocks c o.slot o.uid (BitVec.allOnes 32) o.before))

/-- COPY_OP_START: operations start in queue order, at most four at once (R333). -/
def execCopyOpStart (c : Nat) (s : State) : Out :=
  let q := s.core c
  if q.copyFrozen || Config.copyActive ≤ (q.copies.filter (·.active)).length then .fault .notEnabled
  else match q.copies.find? (fun o => !o.active) with
    | some o => if forkReady s c o then .next (settleClaims (setOp s c { o with active := true }) c o.ticket) else .fault .notEnabled
    | none => .fault .notEnabled

/-- An active operation takes its next unit. Log entry 77 (DEDUCED). -/
def copyStep (s : State) (c : Nat) (o : CopyOp) : CStep :=
  if !o.active || o.cause != 0 then .none
  else match o.left with
    | [] => (match o.bulk with
      | some b => stepBulk s c o b
      | none => .none)
    | u :: _ => match o.kind with
      | .feed => stepFeed s c o u
      | .ovld => stepOvld s c o u
      | .winw => stepWinw s c o u
      | .drain => if o.buf.isNone then drainRead s c o else stepMove s c o u
      | .bput | .bget => (match o.bulk with
        | some b => stepBulk s c o b
        | none => .none)
      | .cont => stepCont s c o u
      | _ => stepMove s c o u

/-- The active operations in the order in which they may take the next line: those behind the one that took the last come
first (R333). -/
def turnOrder (q : Core) : List CopyOp :=
  let l := q.copies.filter (·.active)
  match l.findIdx? (fun o => some o.ticket == q.copyTurn) with
  | some i => l.drop (i + 1) ++ l.take (i + 1)
  | none => l

def CStep.goes : CStep → Bool
  | .none => false
  | _ => true

/-- It is the operation's turn: none before it can take a line now (R333). -/
def hasTurn (s : State) (c ticket : Nat) : Bool :=
  ((turnOrder (s.core c)).find? (fun o => (copyStep s c o).goes)).any (fun o => o.ticket == ticket)

/-- COPY_LINE_WRITE (R333, R338 to R341). -/
def execCopyLineWrite (c ticket : Nat) (s : State) : Out :=
  match findOp s c ticket with
  | none => .fault .notEnabled
  | some o =>
    if !(hasTurn s c ticket) then .fault .notEnabled
    else match copyStep (s.modCore c (fun q => { q with copyTurn := some ticket })) c o with
      | .none => .fault .notEnabled
      | .go s => .next { s with free := s.free + 1 }
      | .fault s cause a => .next (freezeCopy (dropReads s (o.who c)) c ((findOp s c ticket).getD o) cause a)

/-- Placement's loads that have waited enter the queue, in order, as far as it has room (R349).
Log entry 76 (DESIGN CHOICE). -/
def admitLoads (s : State) (c : Nat) : State :=
  s.modCore c (fun q =>
    let l := q.copyWait.take (Config.copyQueue - q.copies.length)
    { q with copies := q.copies ++ l.zipIdx.map (fun e => { e.1 with ticket := (q.ticket + w32 e.2).toNat }), copyWait := q.copyWait.drop l.length
             ticket := q.ticket + w32 l.length })

/-- An image load that no lane has issued goes through the queue too, when it has room (R238, R334, R349, R399). -/
def queueLoad (s : State) (c : Nat) (o : CopyOp) : State :=
  admitLoads (s.modCore c (fun q => { q.setOv o.sel { q.ov o.sel with loading := some o.aux } with copyWait := q.copyWait ++ [o] })) c

/-- A lane's word issued the operation, and not placement or the move of a lane. -/
def CopyOp.ofWord (o : CopyOp) : Bool := o.slot < 64 && o.kind != .cont

/-- An overlay is complete: the slot holds it, and lanes parked on the load may fetch (R349). -/
def overlayLoaded (s : State) (c : Nat) (o : CopyOp) : State :=
  s.modCore c (fun q =>
    let later := (q.copies ++ q.copyWait).any (fun p => p.kind == .ovld && p.sel == o.sel)
    let v := q.ov o.sel
    let q := q.setOv o.sel { id := o.aux, loading := if later then v.loading else none, mem := Memory.write [] 0 (o.buf.getD []) }
    q.mapCrews (fun _ => true) (fun k => { k with park := k.park.map (fun e =>
      if e.2 == .overlay && (k.pcOf e.1).slot == o.sel then (e.1, .resume s.clk) else e) }))

/-- The completion word rises by 1 (R340). -/
def addCompletion (s : State) (c : Nat) (o : CopyOp) : State :=
  match o.cw with
  | some a => s.modCore c (fun q => q.scrWrite (cellsAt a (leBytes 4 (leNat (q.scrRead a 4) + 1))))
  | none => s

/-- COPY_COMPLETE: the completion word rises by 1 after every other write (R340). -/
def execCopyComplete (c ticket : Nat) (s : State) : Out :=
  match findOp s c ticket with
  | none => .fault .notEnabled
  | some o =>
    if !o.active || o.cause != 0 || !o.left.isEmpty || !(o.seqs.all (fun e => pktDone s (e.1, e.2.1))) || o.bulk.any (fun b => !b.adds.isEmpty) then .fault .notEnabled
    else
      let s := s.modCore c (fun q => { q with copies := q.copies.filter (fun p => !(p.ticket == ticket)) })
      let s := if o.kind == .ovld then overlayLoaded s c o else if o.kind == .cont then sendArrival s o.elem else s
      .next (addCompletion (admitLoads s c) c o)

/-! ## The words (R335, R343, R344) -/

/-- A range of a space as the engine holds it; none where R335 refuses it. -/
def resolve (s : State) (x : Ctx) (space a n : Nat) : Option Nat :=
  let at_ (c ts off : Nat) : Option Nat :=
    let t := s.team c ts
    if off + n ≤ t.scratch || n = 0 then some (c * 2 ^ 32 + t.scrBase + off) else none
  if space = 0 then some (a % 2 ^ 64)
  else if 2 ^ 32 ≤ a || (s.crew x.c x.k).guest.isSome then none
  else if space = 1 then at_ x.c (s.crew x.c x.k).ts a
  else match rankTeam s x.c x.k (a / 2 ^ 24) with
    | some (c, ts) => at_ c ts (a % 2 ^ 24)
    | none => none

/-- A copy word's operation before it is queued: what R335 lets through, with the lines it claims. -/
abbrev CopyMake := State → Ctx → Op → Nat → Option CopyOp

/-- An operation of a crew with nothing filled in. -/
def blankOp (s : State) (x : Ctx) (w : Op) (kind : CopyKind) : CopyOp :=
  let k := s.crew x.c x.k
  { ticket := (s.core x.c).ticket.toNat, kind, slot := x.k, ts := k.ts, grid := k.grid, ctx := k.ctx, priv := k.priv
    ss := w.mf 9 2, ds := w.mf 7 2, src := 0, dst := 0, n := 0, cw := none, pc := x.pc.addr, uid := k.uid, before := s.nextId }

/-- The completion word of IMM32: none where it lies outside the scratchpad. -/
def completion (s : State) (x : Ctx) (w : Op) : Option (Option Nat) :=
  if bit w.imm.toNat 31 then some none
  else (resolve s x 1 (bf w.imm.toNat 2 16 * 4) 4).map (fun a => some (a % 2 ^ 32))

/-- Queue an operation: it takes a ticket, and the lines it claims lose their presence bits. One of length 0 adds to its
completion word at once (R340). -/
def enqueue (s : State) (c : Nat) (o : CopyOp) : State :=
  let (_, s) := s.fresh
  if o.n = 0 && (o.kind == .cpy || o.kind == .cfill) then addCompletion (s.modCore c (fun q => { q with ticket := q.ticket + 1 })) c o else
  let s := s.modCore c (fun q => { q with copies := q.copies ++ [o], ticket := q.ticket + 1 })
  let s := claimLines s o.claims
  match o.kind with
  | .ovld => s.modCore c (fun q => q.setOv o.sel { q.ov o.sel with loading := some o.aux })
  | .drain =>
    (match (s.team c o.ts).tiles[o.sel]? with
     | some t =>
       let (id, s) := s.fresh
       s.modQuad (quadOfCore c) (fun u => { u with reads := u.reads ++ [{
         id, after := (u.table.filter (fun e => e.tile == t)).map (·.id), core := c, slot := o.slot, tile := t, row := 0, half := 0
         lanes := 0, res := 0, d := .no, ticket := some o.ticket }] })
     | none => s)
  | _ => s

/-- A copy word (R333 to R335): with a full queue it does not issue. Log entry 14 (DESIGN CHOICE). -/
def copyWord (w : Op) (reads : List Nat) (make : CopyMake) (s : State) : Out :=
  match s.cur with
  | none => .fault .noIssue
  | some i =>
    if wouldRun s (ctxOf s i) && Config.copyQueue ≤ (s.core i.core).copies.length then notNow s (ctxOf s i)
    else issue s { w, ra := 4, reads } (fun x s =>
      if x.on == 0 then s
      else
        let d := leNat ((rdRun s x w.a 4 x.low).flatMap (fun v => leBytes 4 v.toNat))
        match completion s x w, make s x w d with
        | some cw, some o => enqueue (fixedResult s x 4 (wrOf x false w.d (fun _ => w32 o.ticket))) x.c { o with cw }
        | _, _ => faultLanes s x (raises x.on 0x11))

/-- Lines of a scratchpad destination. Log entry 78 (DEDUCED). -/
def dstLines (ds a n : Nat) : List Nat := if ds = 0 then [] else rangeLines a n

def execCpy (w : Op) (s : State) : Out :=
  copyWord w [] (fun s x w d =>
    let n := usrc s x w.b
    let o := blankOp s x w .cpy
    match resolve s x o.ss (bf d 0 64) n, resolve s x o.ds (bf d 64 64) n with
    | some a, some b => if 2 ^ 24 < n then none else some { o with src := w64 a, dst := w64 b, n, claims := dstLines o.ds b n }
    | _, _ => none) s

def execCfill (w : Op) (s : State) : Out :=
  copyWord w [] (fun s x w d =>
    let n := usrc s x w.b
    let o := blankOp s x w .cfill
    match resolve s x o.ds (bf d 0 64) n with
    | some b => if 2 ^ 24 < n || bf d 96 32 != 0 then none else some { o with dst := w64 b, n, aux := bf d 64 32, claims := dstLines o.ds b n }
    | none => none) s

/-- All of a list, if each is there. -/
def allSome {α : Type} : List (Option α) → Option (List α)
  | [] => some []
  | none :: _ => none
  | some a :: t => (allSome t).map (a :: ·)

/-- An element's address in the indexed or the contiguous side. -/
def elemAt (s : State) (x : Ctx) (space base i e : Nat) : Option Nat :=
  resolve s x space ((base + i * e) % (if space = 0 then 2 ^ 64 else 2 ^ 32)) e

/-- CPYG and CPYX: the pairs of source and destination of the executing lanes, in lane order (R346).
Log entry 78 (DEDUCED). -/
def gatherWord (w : Op) (kind : CopyKind) (s : State) : Out :=
  copyWord w (vdst w.b 1) (fun s x w d =>
    let e := 2 ^ (w.mf 3 4)
    let o := blankOp s x w kind
    let src := bf d 0 64
    let dst := bf d 64 64
    let gather := kind == .cpyg
    let whole := if gather then resolve s x o.ds dst (32 * e) else resolve s x o.ss src (32 * e)
    let ok := (o.ss = 0 || src < 2 ^ 32) && (o.ds = 0 || dst < 2 ^ 32)
    let lanes := allSome ((lanesOf x.on).map (fun l =>
      let k := (rd s x 0 w.b l).toNat
      match elemAt s x o.ss src (if gather then k else l) e, elemAt s x o.ds dst (if gather then l else k) e with
      | some a, some b => some (a, b)
      | _, _ => none))
    match whole, lanes with
    | some a, some l => if !ok then none else some { o with
        src := w64 src, dst := w64 dst, n := e, elem := e, lanes := l
        claims := if o.ds = 0 then [] else if gather then rangeLines a (32 * e) else (l.flatMap (fun p => rangeLines p.2 e)).eraseDups }
    | _, _ => none) s

def execCpyg (w : Op) (s : State) : Out := gatherWord w .cpyg s
def execCpyx (w : Op) (s : State) : Out := gatherWord w .cpyx s

/-- FEED: the runs of the descriptor (R344, R347). -/
def execFeed (w : Op) (s : State) : Out :=
  copyWord w [] (fun s x w d =>
    let o := blankOp s x w .feed
    let count := bf d 80 16
    let run := bf d 64 16
    let stride := bf d 96 32
    let src := bf d 0 64
    let runs := allSome ((List.range count).map (fun j => resolve s x o.ss ((src + j * stride) % (if o.ss = 0 then 2 ^ 64 else 2 ^ 32)) run))
    if (o.ss ≠ 0 && 2 ^ 32 ≤ src) || count = 0 || 4096 < count || run = 0 || run % 64 != 0 || 4096 < run then none
    else match runs with
      | some (a :: t) => some { o with src := w64 a, n := run, elem := count, stride, lanes := (a :: t).map (fun p => (p, 0)), sel := w.mf 0 1 }
      | _ => none) s

/-- DRAIN: rows of a logical tile (R344, R348). -/
def execDrain (w : Op) (s : State) : Out :=
  copyWord w [] (fun s x w d =>
    let o := blankOp s x w .drain
    let row0 := bf d 96 8
    let count := bf d 104 8
    let stride := bf d 64 32
    let dst := bf d 0 64
    let rows := allSome ((List.range count).map (fun r => resolve s x o.ds ((dst + r * stride) % (if o.ds = 0 then 2 ^ 64 else 2 ^ 32)) 256))
    if (o.ds ≠ 0 && 2 ^ 32 ≤ dst) || bf d 112 16 != 0 || count = 0 || 64 < count || 63 < row0 || 64 < row0 + count || stride % 4 != 0 || stride < 256 then none
    else match rows with
      | some (a :: t) => some { o with dst := w64 a, n := 256, elem := count, stride, aux := row0, sel := w.mf 0 3
                                       lanes := (a :: t).zipIdx.map (fun p => (256 * p.2, p.1))
                                       claims := if o.ds = 0 then [] else ((a :: t).flatMap (fun p => rangeLines p 256)).eraseDups }
      | _ => none) s

/-- A team of another grid is resident on the core. -/
def otherGrid (s : State) (c g : Nat) : Bool := (s.core c).teams.any (fun t => t.2.live && (t.2.guest || t.2.grid != g))

/-- OVLD (R349). -/
def execOvld (w : Op) (s : State) : Out :=
  copyWord w [] (fun s x w d =>
    let o := blankOp s x w .ovld
    let size := bf d 80 16
    let id := bf d 64 16
    if bf d 96 32 != 0 || size = 0 || 2048 < size || id = 0xFFFF || (!o.priv && otherGrid s x.c o.grid) then none
    else some { o with src := w64 (bf d 0 64), n := 32 * size, sel := w.mf 0 1, aux := id }) s

/-- WINW (R350). -/
def execWinw (w : Op) (s : State) : Out :=
  copyWord w [] (fun s x w d =>
    let o := blankOp s x w .winw
    let n := usrc s x w.b
    match resolve s x o.ss (bf d 0 64) n with
    | some a => if !o.priv || n = 0 || 4096 < n || n % 4 != 0 || bf d 117 11 != 0 || bf d 64 38 % 4 != 0 then none
      else some { o with src := w64 a, dst := w64 (bf d 64 38), n, aux := bf d 102 15 }
    | none => none) s

/-- CWAIT: lanes wait until the completion word has reached B (R351). -/
def execCwait (w : Op) (s : State) : Out :=
  issue s { w } (fun x s =>
    let a := (rd s x w.imm w.a x.low).toNat
    let one (l : Nat) : Step2 × W64 × W64 :=
      let y : LaneAcc := { lane := l, addr := a, n := 4 }
      (if a % 4 != 0 then .bad l a else checkScratch s x x.c (s.crew x.c x.k).ts a y, (rd s x w.imm w.b l).setWidth 64, BitVec.allOnes 64)
    waitWord s x (waitRec 2 2 0 false true .no) ((lanesOf x.on).map one))

/-- CSTAT (R352). -/
def execCstat (w : Op) (s : State) : Out :=
  issue s { w, dst := vdst w.d 1, comp := true } (fun x s =>
    let q := s.core x.c
    let mine := (q.copies.filter (fun o => o.ts == (s.crew x.c x.k).ts && o.ofWord)).length
    let v := (Config.copyQueue - q.copies.length) * 2 ^ 26 + mine * 2 ^ 20 + b2n q.copyFrozen * 2 ^ 19
    fixedResult s x 4 (wrOf x true w.d (fun _ => w32 v)))

/-- CQRY (R352). -/
def execCqry (w : Op) (s : State) : Out :=
  issue s { w, dst := vdst w.d 1, comp := true } (fun x s =>
    let v := if (findOp s x.c (rd s x w.imm w.b x.low).toNat).isSome then 0 else 1
    fixedResult s x 4 (wrOf x true w.d (fun _ => w32 v)))

end Sys2Proof.Machine
end

