-- ==== Sys2Proof/Machine/CrossLane.lean ====
section
/-! DEFINITION. Machine/CrossLane.lean: the cross-lane words (R117 to R120). -/

namespace Sys2Proof.Machine

/-! ## SHFL (R118) -/

/-- The lane of the tile that SHFL reads: the place in the tile, and whether it lies inside. -/
def shflSrc (mode t i d : Nat) (wrap : Bool) : Nat × Bool :=
  let j : Int := if mode = 0 then (d % t : Nat) else if mode = 1 then (i : Int) - d
    else if mode = 2 then (i : Int) + d else (i ^^^ (d % t) : Nat)
  if 0 ≤ j && j < t then (j.toNat, true) else if wrap then ((j % t).toNat, true) else (i, false)

def execShfl (w : Op) (s : State) : Out :=
  let n := if w.w64 then 2 else 1
  let comp := uniformProducing w
  issue s { w, ra := n, dst := vdst w.d n, comp } (fun x s =>
    let t := x.tile
    let src (l : Nat) : Nat × Bool := shflSrc w.opt t (l % t) (rd s x w.imm w.b l).toNat (w.mb 0)
    let lane (l : Nat) : Nat := l / t * t + (src l).1
    fixedResult s x 6 (wrN x comp w.d n (fun l => rdN s x w n w.a (lane l)) ++
      wrOf x false w.d2 (fun l => if (src l).2 && x.on.getLsbD (lane l) then 1 else 0)))

/-! ## Collective words -/

/-- The lanes of a lane's tile that execute the word (R117). -/
def partsOf (x : Ctx) (t l : Nat) : List Nat :=
  (List.range t).filterMap (fun i => let j := l / t * t + i; if x.on.getLsbD j then some j else none)

/-- %tile as the path that issues sees it (R84). -/
def tileAt (s : State) : Nat := (s.cur.map (fun i => (i.pre.map (·.tile)).getD (s.crew i.core i.slot).tile)).getD 32

/-- A collective word over tiles: with a uniform D it needs the whole crew (R117), and its lanes must be
converged (R78). Of a uniform source over one tile every lane receives the same, and the word is uniform-producing (R100);
SCANX gives each lane another value. Log entries 19 (DEDUCED), 26 (DEDUCED). -/
def tileWord (w : Op) (na : Nat) (scan : Bool) (go : Ctx → Nat → Bool → State → State) (s : State) : Out :=
  let comp := !scan && uniformProducing w && tileAt s == 32
  issue s { w, ra := na, dst := vdst w.d 1, coll := true, comp } (fun x s =>
    if x.on == 0 then s
    else
      let t := x.tile
      if isU w.d && t != 32 then faultLanes s x (raises x.on 0x01)
      else collective s x t (go x t comp))

/-- VOTE (R119). -/
def execVote (w : Op) (s : State) : Out :=
  tileWord w 1 false (fun x t comp s =>
    fixedResult s x 4 (wrOf x comp w.d (fun l =>
      let p := partsOf x t l
      let yes := p.filter (fun j => rd s x 0 w.a j != 0)
      if w.opt = 3 then maskOf yes
      else if (if w.opt = 0 then !yes.isEmpty else if w.opt = 1 then yes.length == p.length
               else yes.isEmpty || yes.length == p.length) then 1 else 0))) s

/-- FFL (R119). -/
def execFfl (w : Op) (s : State) : Out :=
  tileWord w 1 false (fun x t comp s =>
    fixedResult s x 4 (wrOf x comp w.d (fun l =>
      let yes := (partsOf x t l).filter (fun j => rd s x 0 w.a j != 0)
      let yes := if w.mb 0 then yes.reverse else yes
      match yes with
      | [] => 0xFFFFFFFF
      | j :: _ => w32 j))) s

/-- MATCH (R119). -/
def execMatchW (w : Op) (s : State) : Out :=
  let n := if w.w64 then 2 else 1
  tileWord w n false (fun x t comp s =>
    let v (l : Nat) : Nat := rdN s x w n w.a l
    fixedResult s x 8 (wrOf x comp w.d (fun l => maskOf ((partsOf x t l).filter (fun j => v j == v l))))) s

/-! ## REDX and SCANX (R120) -/

/-- A partial result: an exact integer or an .f32 pattern, with the flags raised. -/
abbrev Part := Option (Int × Fl)

/-- Comb of R120. -/
def comb (f : Int → Int → Int × Fl) : Part → Part → Part
  | none, b => b
  | a, none => a
  | some (a, fa), some (b, fb) => let (r, fr) := f a b; some (r, fa ||| fb ||| fr)

/-- One operator of R120 on a type. -/
def redOp (op ty : Nat) (a b : Int) : Int × Fl :=
  if ty = 0 then
    let x := decodeF 0 false a.toNat
    let y := decodeF 0 false b.toNat
    if op = 0 then
      let (z, fz) := dotX [] [x, y] 1
      let (r, fr) := roundTo false z 0 1 false
      ((r : Int), fz ||| fr)
    else ((encodeF 0 (minNum (op == 2) x y) : Nat), 0)
  else if op = 0 then (a + b, 0) else if op = 1 then (min a b, 0) else if op = 2 then (max a b, 0)
  else if op = 3 then ((a.toNat &&& b.toNat : Nat), 0) else if op = 4 then ((a.toNat ||| b.toNat : Nat), 0)
  else ((a.toNat ^^^ b.toNat : Nat), 0)

/-- One level of REDX's tree: neighbours combine. -/
def redLevel (f : Int → Int → Int × Fl) : List Part → List Part
  | a :: b :: l => comb f a b :: redLevel f l
  | l => l

def redTree (f : Int → Int → Int × Fl) : Nat → List Part → List Part
  | 0, l => l
  | n + 1, l => if l.length ≤ 1 then l else redTree f n (redLevel f l)

/-- One step of SCANX. -/
def scanStep (f : Int → Int → Int × Fl) (d : Nat) (y : List Part) : List Part :=
  y.zipIdx.map (fun e => if d ≤ e.2 then comb f (y.getD (e.2 - d) none) e.1 else e.1)

/-- The identities of R120. -/
def redIdentity (op ty : Nat) : Int :=
  if op = 1 then (if ty = 0 then 0x7F800000 else if ty = 11 then 2 ^ 31 - 1 else 2 ^ 32 - 1)
  else if op = 2 then (if ty = 0 then 0xFF800000 else if ty = 11 then -2 ^ 31 else 0)
  else if op = 3 then 2 ^ 32 - 1 else 0

/-- What a lane receives: value and flags of the tile. The flags of every step go to every participant. -/
def redValue (scan excl : Bool) (op ty t i : Nat) (xs : List Part) : Int × Fl :=
  let f := redOp op ty
  let flags (l : List Part) : Fl := l.foldl (fun a p => a ||| (p.map (·.2)).getD 0) 0
  if scan then
    let y := [1, 2, 4, 8, 16].foldl (fun y d => if d < t then scanStep f d y else y) xs
    if excl then
      let before := (List.range i).filter (fun j => (xs.getD j none).isSome)
      match before.getLast? with
      | none => (redIdentity op ty, flags y)
      | some j => (((y.getD j none).map (·.1)).getD 0, flags y)
    else (((y.getD i none).map (·.1)).getD 0, flags y)
  else
    let r := (redTree f 5 xs).headD none
    ((r.map (·.1)).getD 0, flags [r])

/-- REDX and SCANX: integer sums are exact until the end, then saturate or wrap once. Log entry 33 (DEDUCED). -/
def reduceWord (scan : Bool) (w : Op) (s : State) : Out :=
  tileWord w 1 scan (fun x t comp s =>
    let k := s.crew x.c x.k
    let src (j : Nat) : Int := intOf (w.ty == 11) 32 (rd s x 0 w.a j).toNat
    let tile (l : Nat) : List Part :=
      (List.range t).map (fun i => let j := l / t * t + i; if x.on.getLsbD j then some (src j, 0) else none)
    let res : Tab (Int × Fl) := (lanesOf x.on).map (fun l => (l, redValue scan (scan && bit w.opt 1) w.m w.ty t (l % t) (tile l)))
    let val (l : Nat) : Nat :=
      let v := (tget (0, 0) res l).1
      wrapInt 32 (if bit w.opt 0 then clampTo (w.ty == 11) 32 v else v)
    let fls := if w.ty = 0 then flWr k.flOn (res.map (fun e => (e.1, e.2.2))) else []
    let one (e : Nat × Int × Fl) : List Nat :=
      let srcInf := (tile e.1).any (fun p => match p with | some (v, _) => (decodeF 0 false v.toNat).isInf | none => false)
      if w.m = 0 then countOf 0 (val e.1) e.2.2 srcInf else eventsOf 0 (decodeF 0 false (val e.1)).isNan false 0
    let counts := if w.ty = 0 && k.cntOn then ((if isU w.d then res.take 1 else res).flatMap one) else []
    fixedResult s x (if w.ty = 0 then 12 else 8) (wrOf x comp w.d (fun l => w32 (val l)) ++ fls) counts) s

def execRedx (w : Op) (s : State) : Out := reduceWord false w s
def execScanx (w : Op) (s : State) : Out := reduceWord true w s

end Sys2Proof.Machine
end

