-- ==== Sys2Proof/Machine/Matrix.lean ====
section
/-! DEFINITION. Machine/Matrix.lean: the matrix engines and the select units (R354 to R377). -/

namespace Sys2Proof.Machine

/-! ## Panels (R357, R359) -/

/-- Bytes of a dense record of a type. -/
def denseBytes (ty : Nat) : Nat :=
  if ty = 1 || ty = 2 then 64 else if ty = 3 || ty = 4 then 33 else if ty = 9 then 32
  else if ty = 5 || ty = 6 then 25 else if ty = 7 then 17 else 8

/-- Bytes of a sparse A record. -/
def sparseBytes (ty : Nat) : Nat :=
  if ty = 1 || ty = 2 then 36 else if ty = 3 || ty = 4 then 21 else if ty = 9 then 20
  else if ty = 5 || ty = 6 then 17 else 13

def MReq.aBytes (e : MReq) : Nat := if e.sp then sparseBytes e.aty else denseBytes e.aty
def MReq.bBytes (e : MReq) : Nat := denseBytes e.bty

/-- Element `i` of a record, and whether its pattern raises NV (R129, R360). -/
def elemOf (ty : Nat) (rec_ : List Byte) (i : Nat) : XR × Bool :=
  let n := leNat rec_
  if ty = 1 || ty = 2 then (decodeF ty false (bf n (16 * i) 16), false)
  else if ty = 9 then (ofInt (signedOf 8 (bf n (8 * i) 8)), false)
  else if ty = 19 then
    let p := bf n (2 * i) 2
    (ofInt (if p = 1 then 1 else if p = 3 then -1 else 0), p == 2)
  else
    let w := recBits ty
    let sc := bf n 0 8
    if sc = 255 then (.nan, false)
    else match decodeF ty false (bf n (8 + w * i) w) with
      | .fin g m d _ => (.fin g m (d + sc - 127) false, false)
      | v => (v, false)

/-- Is a K index of a group live (R359)? -/
def liveK (half k : Nat) : Bool := bit half (k / 16)

/-- The live elements of an A row record, by K index, and whether the row raises NV. `half` holds the group's
two bits of the bitmap. Log entry 82 (DEDUCED). -/
def rowElems (e : MReq) (half : Nat) (rec_ : List Byte) : List (Nat × XR) × Bool :=
  if e.sp then
    let idx := leNat (rec_.drop (e.aBytes - 4))
    let runs := (List.range 8).filter (fun j => liveK half (4 * j))
    let first (j : Nat) : Nat := bf idx (4 * j) 2
    let second (j : Nat) : Nat := bf idx (4 * j + 2) 2
    let good := runs.filter (fun j => first j < second j)
    (good.flatMap (fun j => [(4 * j + first j, (elemOf e.aty rec_ (2 * j)).1), (4 * j + second j, (elemOf e.aty rec_ (2 * j + 1)).1)]),
     good.length != runs.length)
  else
    let live := (List.range 32).filter (liveK half)
    (live.map (fun k => (k, (elemOf e.aty rec_ k).1)), live.any (fun k => (elemOf e.aty rec_ k).2))

/-- Record `i` of a panel. -/
def panelRec (panel : List Byte) (n i : Nat) : List Byte := (panel.drop (n * i)).take n

/-! ## Arithmetic (R360) -/

def MReq.intClass (e : MReq) : Bool := e.bty == 9

/-- One element after one group: its value, its flags, and whether an infinity took part. Log entry 82 (DEDUCED). -/
def mulStep (e : MReq) (acc : W32) (prods : List (XR × XR)) : W32 × Fl × Bool :=
  if e.intClass then (w32 (wrapInt 32 ((acc.toNat : Int) + (prods.map (fun p => (p.1.mul p.2).asInt 0)).sum)), 0, false)
  else if prods.isEmpty then (acc, 0, false)
  else
    let (p, f0) := dotX prods [] 1
    let (r, f1) := roundTo false p 0 1 false
    let (x, f2) := dotX [] [decodeF 0 false acc.toNat, decodeF 0 false r] 1
    let (v, f3) := roundTo false x 0 1 false
    (w32 v, f0 ||| f1 ||| f2 ||| f3, prods.any (fun p => p.1.isInf || p.2.isInf))

/-- One group of a request on its tile: the tile's words, with the flags and infinities gathered so far.
Log entry 82 (DEDUCED). -/
def groupStep (e : MReq) (half : Nat) (pa pb : List Byte) (acc : Tab W32) : Tab W32 × Tab Fl × List Nat :=
  let rows := (List.range e.m).map (fun r => (r, rowElems e half (panelRec pa e.aBytes r)))
  let cols := (List.range e.n).map (fun c =>
    let rec_ := panelRec pb e.bBytes c
    (c, (List.range 32).map (fun k => (elemOf e.bty rec_ k).1)))
  rows.foldl (fun z r =>
    cols.foldl (fun (z : Tab W32 × Tab Fl × List Nat) c =>
      let i := r.1 * 64 + c.1
      let at_ := e.tile * 4096 + i
      let (v, f, inf) := mulStep e (tget 0 z.1 at_) (r.2.1.map (fun p => (p.2, c.2.getD p.1 (.zero false))))
      let f := if r.2.2 then f ||| flNV else f
      (tput 0 z.1 at_ v, tset z.2.1 i (tget 0 z.2.1 i ||| f), if inf && !(z.2.2.contains i) then i :: z.2.2 else z.2.2)) z)
    (acc, e.flags, e.infs)

/-! ## The reservation table (R364) -/

/-- A region 3 access issued before an entry still waits for its tile. -/
def mapBefore (s : State) (q : Nat) (e : MReq) : Bool :=
  s.reqs.any (fun r => r.space == 2 && r.id < e.id && r.stage != .respond &&
    r.pieces.any (fun p => mapReg p.addr = 3 && quadOfCore (mapCore p.addr) == q && (mapTiles p.addr p.len).contains e.tile))

/-- The oldest entry of its core, with no earlier entry, read or map access of its tile outstanding. -/
def eligible (s : State) (q : Nat) (e : MReq) : Bool :=
  let u := s.quad q
  u.table.all (fun o => e.id ≤ o.id || (o.core != e.core && o.tile != e.tile)) &&
  !(u.reads.any (fun r => r.tile == e.tile && r.id < e.id)) && !(mapBefore s q e)

/-- Does an entry rank above another? -/
def ranksAbove (a b : MReq) : Bool :=
  let key (e : MReq) : Nat := (b2n (e.age == 255) * 4 + e.prio) * 256 + e.age
  key b < key a || (key a == key b && a.core < b.core)

/-- The entry that the arbiter grants. -/
def granted (s : State) (q : Nat) : Option MReq :=
  ((s.quad q).table.filter (eligible s q)).foldl (fun b e => match b with
    | none => some e
    | some b => if ranksAbove e b then some e else some b) none

/-- The elements of a request's part of its tile. -/
def MReq.elems (e : MReq) : List Nat := (List.range e.m).flatMap (fun r => (List.range e.n).map (fun c => r * 64 + c))

/-- MATRIX_GRANT: the engine is free; MMAZ and MACZ clear their elements, whose infinities start the judgement
of R361. -/
def execMatrixGrant (q : Nat) (s : State) : Out :=
  if (s.quad q).running.isSome then .fault .notEnabled
  else match granted s q with
    | none => .fault .notEnabled
    | some e =>
      let elig := (s.quad q).table.filter (eligible s q)
      .next (s.modQuad q (fun u =>
        let acc := if e.zero then e.elems.foldl (fun t i => tput 0 t (e.tile * 4096 + i) 0) u.acc else u.acc
        let infs := if e.mul && !e.intClass then e.elems.filter (fun i => (decodeF 0 false (tget 0 acc (e.tile * 4096 + i)).toNat).isInf) else []
        { u with acc, running := some e.id
                 table := u.table.map (fun o => if o.id == e.id then { o with infs }
                   else if elig.any (fun g => g.id == o.id) then { o with age := min 255 (o.age + 1) } else o) }))

def runningReq (s : State) (q : Nat) : Option MReq :=
  match (s.quad q).running with
  | some id => (s.quad q).table.find? (fun e => e.id == id)
  | none => none

/-- The next group of a request that has a live bit. -/
def MReq.nextGroup (e : MReq) : Option Nat :=
  if e.mul then (List.range e.groups).find? (fun g => e.next ≤ g && bf e.lv.toNat (2 * g) 2 != 0) else none

/-- MATRIX_GROUP: one group, once both of its panels stand in the FIFOs (R358, R360). -/
def execMatrixGroup (q : Nat) (s : State) : Out :=
  match runningReq s q with
  | none => .fault .notEnabled
  | some e => match e.nextGroup with
    | none => .fault .notEnabled
    | some g =>
      let c := s.core e.core
      let na := 64 * e.aBytes
      let nb := 64 * e.bBytes
      if c.fifoTeam != some e.ts || c.fifoA.length < e.readA + na || c.fifoB.length < e.readB + nb then .fault .notEnabled
      else
        let pa := (c.fifoA.drop e.readA).take na
        let pb := (c.fifoB.drop e.readB).take nb
        let (acc, flags, infs) := groupStep e (bf e.lv.toNat (2 * g) 2) pa pb (s.quad q).acc
        let s := s.modCore e.core (fun c => { c with
          fifoA := if e.ka then c.fifoA else c.fifoA.drop na
          fifoB := if e.kb then c.fifoB else c.fifoB.drop nb })
        let e' := { e with next := g + 1, flags, infs, readA := if e.ka then e.readA + na else 0, readB := if e.kb then e.readB + nb else 0 }
        .next (s.modQuad q (fun u => { u with acc, table := u.table.map (fun o => if o.id == e.id then e' else o) }))

/-- MATRIX_COMPLETE: the flags and counters of R361, the arrival of R363, and the reads that waited. -/
def execMatrixComplete (q : Nat) (s : State) : Out :=
  match runningReq s q with
  | none => .fault .notEnabled
  | some e =>
    if e.nextGroup.isSome then .fault .notEnabled
    else
      let acc := (s.quad q).acc
      let all : Fl := e.flags.foldl (fun f p => f ||| p.2) 0
      let s := if e.flOn && (s.crew e.core e.slot).uid == e.uid then s.modCrew e.core e.slot (fun k => { k with mfl := k.mfl ||| all }) else s
      let s := if e.cntOn && e.mul && !e.intClass then
          e.elems.foldl (fun s i =>
            ((countOf 0 (tget 0 acc (e.tile * 4096 + i)).toNat (tget 0 e.flags i) (e.infs.contains i)).filter (fun n => !(e.cleared.contains n))).foldl
              (addCounter e.core e.slot e.grid 1) s) s
        else s
      let s := s.modQuad q (fun u =>
        let u := if e.mul then u else zeroTile e.tile u
        { u with running := none, table := u.table.filter (fun o => !(o.id == e.id)) })
      let s := match e.bar with
        | some n => arriveEngine s e.core e.ts n
        | none => s
      .next (settleQuad s q)

/-! ## MMA, MMAZ, MACZ (R362, R370, R371) -/

/-- The barrier a word names. -/
def barName (w : Op) : Option Nat := if w.mb 4 then none else some (w.mf 0 4)

/-- A word that enters a queue: with the queue full it does not issue, once its checks have passed. -/
def queuedWord (p : Pre) (full : State → Nat → Bool) (check : State → Ctx → Option (List Raise)) (enter : Ctx → State → State) (s : State) : Out :=
  match s.cur with
  | none => .fault .noIssue
  | some i =>
    let x := ctxOf s i
    if wouldRun s x && check s x == none && full s x.c then notNow s x
    else issue s p (fun x s =>
      if x.on == 0 then s
      else match check s x with
        | some l => faultLanes s x l
        | none => enter x s)

/-- The checks of R362. Log entry 80 (DEDUCED). -/
def matCheck (w : Op) (tooLarge : State → Ctx → Bool) (s : State) (x : Ctx) : Option (List Raise) :=
  if tooLarge s x then some (raises x.on 0x01)
  else if x.mask != BitVec.allOnes 32 || x.on != BitVec.allOnes 32 then some (raises x.on 0x03)
  else if (s.team x.c (s.crew x.c x.k).ts).tiles.length ≤ w.mf 8 3 then some (raises x.on 0x11)
  else none

/-- A request with the fields that every entry records. Log entry 14 (DESIGN CHOICE). -/
def matEntry (s : State) (x : Ctx) (w : Op) (id : Nat) : MReq :=
  let k := s.crew x.c x.k
  let t := (s.team x.c k.ts).tiles.getD (w.mf 8 3) 0
  { id, core := x.c, slot := x.k, ts := k.ts, grid := k.grid, tile := t, zero := false, mul := false, lv := 0, aty := 0, bty := 0
    sp := false, ka := false, kb := false, groups := 0, m := 0, n := 0, bar := barName w, prio := bf (s.grid k.grid).lr.flags 2 2
    age := 0, flOn := k.flOn, cntOn := k.cntOn, uid := k.uid }

/-- Enter a request in the table; its barrier expects one more arrival (R74). -/
def enterMat (s : State) (x : Ctx) (e : MReq) : State :=
  let s := s.modQuad (quadOfCore x.c) (fun u => { u with table := u.table ++ [e] })
  match e.bar with
  | some n => expectEngine s x.c e.ts n
  | none => s

def tableFull (s : State) (c : Nat) : Bool := Config.matrixTable ≤ (s.quad (quadOfCore c)).table.length

/-- A multiplication's fields. -/
def mmaEntry (s : State) (x : Ctx) (w : Op) (zero : Bool) (id : Nat) : MReq :=
  let n := w.imm.toNat
  { matEntry s x w id with
    zero, mul := true, lv := w64 (usrc64 s x w.a), aty := bf n 27 5, bty := bf n 22 5, sp := w.mb 7, ka := w.mb 6, kb := w.mb 5
    groups := bf n 17 5 + 1, m := bf n 11 6 + 1, n := bf n 5 6 + 1 }

/-- An operand that .ka or .kb keeps and that is larger than the FIFO (R358). Log entry 80 (DEDUCED). -/
def keepTooLarge (w : Op) (s : State) (x : Ctx) : Bool :=
  let e := mmaEntry s x w false 0
  let live := ((List.range e.groups).filter (fun g => bf e.lv.toNat (2 * g) 2 != 0)).length
  (e.ka && Config.fifoBytes < 64 * e.aBytes * live) || (e.kb && Config.fifoBytes < 64 * e.bBytes * live)

def mmaWord (w : Op) (zero : Bool) (s : State) : Out :=
  queuedWord { w, ra := 2, coll := true } tableFull (matCheck w (keepTooLarge w)) (fun x s =>
    let (id, s) := s.fresh
    enterMat s x (mmaEntry s x w zero id)) s

def execMma (w : Op) (s : State) : Out := mmaWord w false s
def execMmaz (w : Op) (s : State) : Out := mmaWord w true s

def execMacz (w : Op) (s : State) : Out :=
  queuedWord { w, coll := true } tableFull (matCheck w (fun _ _ => false)) (fun x s =>
    let (id, s) := s.fresh
    enterMat s x (matEntry s x w id)) s

/-! ## MACRD, MRES, MREL, MSTAT (R372 to R374) -/

def execMacrd (w : Op) (s : State) : Out :=
  issue s { w, dst := vdst w.d 1 } (fun x s =>
    if x.on == 0 then s
    else match (s.team x.c (s.crew x.c x.k).ts).tiles[w.mf 8 3]? with
      | none => faultLanes s x (raises x.on 0x11)
      | some t =>
        let q := quadOfCore x.c
        let row := usrc s x w.b % 64
        let (res, s) := openResult s x (vdst w.d 1) []
        let (id, s) := s.fresh
        let r : TileRead := { id, after := ((s.quad q).table.filter (fun e => e.tile == t)).map (·.id), core := x.c, slot := x.k
                              tile := t, row, half := w.mf 0 1, lanes := x.on, res, d := w.d }
        settleReads (s.modQuad q (fun u => { u with reads := u.reads ++ [r] })) q)

/-- Grant a reservation. -/
def reserve (s : State) (c t n : Nat) : State :=
  let q := quadOfCore c
  let free := ((List.range 8).filter (fun i => (tget? (s.quad q).holders i).isNone)).take n
  let s := s.modQuad q (fun u => free.foldl (fun u i => zeroTile i { u with holders := tset u.holders i (c, t) }) u)
  let s := s.modTeam c t (fun m => { m with tiles := free })
  s.modCore c (fun o => { o with fifoA := [], fifoB := [], fifoTeam := some t })

/-- The status of MRES (R373); a guest is answered 3 (R403). Log entry 84 (DEDUCED). -/
def mresStatus (s : State) (c k n : Nat) : Nat :=
  let w := s.crew c k
  let free := ((List.range 8).filter (fun i => (tget? (s.quad (quadOfCore c)).holders i).isNone)).length
  if n = 0 || 8 < n then 4
  else if w.guest.isSome || !(s.team c w.ts).tiles.isEmpty then 3
  else if (s.core c).fifoTeam.isSome then 2
  else if free < n then 1 else 0

def execMres (w : Op) (s : State) : Out :=
  issue s { w } (fun x s =>
    if x.on == 0 then s
    else
      let n := usrc s x w.b
      let st := mresStatus s x.c x.k n
      let s := if st = 0 then reserve s x.c (s.crew x.c x.k).ts n else s
      giveLong s x w.d st)

def execMrel (w : Op) (s : State) : Out :=
  issue s { w } (fun x s =>
    if x.on == 0 then s
    else if (s.team x.c (s.crew x.c x.k).ts).tiles.isEmpty then giveLong s x w.d 1
    else settleFrees (startJob s x w.d 1 .mrel) (quadOfCore x.c))

def execMstat (w : Op) (s : State) : Out :=
  issue s { w, dst := vdst w.d 1, comp := true } (fun x s =>
    if x.on == 0 then s
    else
      let k := s.crew x.c x.k
      let q := s.quad (quadOfCore x.c)
      let v := (Config.matrixTable - q.table.length) * 2 ^ 27 + (q.table.filter (fun e => e.core == x.c && e.ts == k.ts)).length * 2 ^ 22 +
        (Config.selectQueue - q.select.length) * 2 ^ 18 + (s.team x.c k.ts).tiles.length * 2 ^ 14 +
        b2n ((s.core x.c).fifoTeam == some k.ts) * 2 ^ 13 + k.mfl.toNat
      let s := if w.mb 0 then s.modCrew x.c x.k (fun k => { k with mfl := 0 }) else s
      fixedResult s x 4 (wrOf x true w.d (fun _ => w32 v)))

/-! ## The select unit (R365 to R368) -/

/-- A 32-bit word of bytes read from offset 0. -/
def wordAt (b : List Byte) (i : Nat) : Nat := leNat ((b.drop i).take 4)

/-- A candidate of R366. -/
structure Cand where
  val : Nat
  idx : Nat
  row : Nat

/-- Key: every NaN lowest, both zeros equal, other values in numeric order (R366). -/
def selKey (v : Nat) : Int :=
  if (decodeF 0 false v).isNan then -(2 ^ 40)
  else if bit v 31 then -((v % 2 ^ 31 : Nat) : Int) else (v : Int)

def candAbove (a b : Cand) : Bool :=
  selKey b.val < selKey a.val ||
  (selKey a.val == selKey b.val && (a.idx < b.idx || (a.idx == b.idx && a.row < b.row)))

def insertCand (a : Cand) : List Cand → List Cand
  | [] => [a]
  | b :: l => if candAbove a b then a :: b :: l else b :: insertCand a l

/-- The fields of a SELK descriptor (R367); offsets count in the core's scratchpad. -/
structure SelDesc where
  src : Nat
  dst : Nat
  mask : Nat
  base : Nat
  cs : Nat
  rs : Nat
  l : Nat
  c : Nat
  k : Nat

def selDesc (a : List W32) : SelDesc :=
  let v (i : Nat) : Nat := (a.getD i 0).toNat
  { src := v 0, dst := v 1, mask := v 2, base := v 3, cs := bf (v 4) 16 16, rs := bf (v 4) 0 16
    l := bf (v 5) 16 12 + 1, c := bf (v 5) 0 8 + 1, k := bf (v 6) 0 6 + 1 }

/-- Bytes from SRC to the last element. -/
def SelDesc.srcLen (d : SelDesc) (pairs : Bool) : Nat := (d.l - 1) * d.rs + (d.c - 1) * d.cs + (if pairs then 8 else 4)
def SelDesc.dstLen (d : SelDesc) : Nat := d.c * d.k * 8
def SelDesc.maskLen (d : SelDesc) : Nat := (d.c * d.l + 7) / 8

/-- The limits of the descriptor's fields. -/
def selFields (a : List W32) (pairs : Bool) : Bool :=
  let v (i : Nat) : Nat := (a.getD i 0).toNat
  let d := selDesc a
  let n := if pairs then 8 else 4
  d.src % n == 0 && d.dst % 8 == 0 && d.cs % n == 0 && d.rs % n == 0 &&
  bf (v 5) 28 4 == 0 && bf (v 5) 8 8 == 0 && bf (v 6) 6 26 == 0 && v 7 == 0

/-- Is a bit of a bit array set? -/
def bitAt (o : Core) (a i : Nat) : Bool := (tget (0 : Byte) o.scratch (a + i / 8)).getLsbD (i % 8)

/-- The ranked pairs of a column: the best `k`. -/
def selColumn (o : Core) (x pairs : Bool) (d : SelDesc) (c : Nat) : List Cand :=
  (List.range d.l).foldl (fun best r =>
    if x && !(bitAt o d.mask (c * d.l + r)) then best
    else
      let b := o.scrRead (d.src + r * d.rs + c * d.cs) 8
      let a : Cand := if pairs then { idx := wordAt b 0, val := wordAt b 4, row := r }
        else { idx := (d.base + r) % 2 ^ 32, val := wordAt b 0, row := r }
      (insertCand a best).take d.k) []

/-- The bytes that SELK and SELKX write. -/
def selOutput (o : Core) (x pairs : Bool) (d : SelDesc) : List Byte :=
  (List.range d.c).flatMap (fun c =>
    let best := selColumn o x pairs d c
    (List.range d.k).flatMap (fun j => match best[j]? with
      | some a => leBytes 4 a.idx ++ leBytes 4 (if (decodeF 0 false a.val).isNan then 0x7FC00000 else a.val)
      | none => leBytes 4 0xFFFFFFFF ++ leBytes 4 0x7FC00000))

/-! ### SAMPLE -/

/-- R(·): round to .f32. -/
def rnd32 (x : XR) : XR := decodeF 0 false (roundTo false x 0 1 false).1
/-- The sum of two values, rounded. -/
def addR (a b : XR) : XR := rnd32 (dotX [] [a, b] 1).1
def mulR (a b : XR) : XR := rnd32 (dotX [(a, b)] [] 1).1

/-- R(log2(e) / T) of a positive finite T. -/
def log2eOver (t : XR) : XR :=
  match t with
  | .fin _ n e _ => rnd32 (enclose (fun p => 2 ^ (2 * p) / ln2Fx p / n) false (-e) precisions)
  | t => t

/-- SAMPLE's answer: an index, none, or no index that the spec states. -/
inductive Drawn
  | none
  | at_ (i : Nat)
  | open_

/-- The largest of some values. -/
def maxX (l : List XR) : XR := l.foldl (fun a b => if ltX false a b then b else a) (.inf true)

/-- R368, from the legal logits by index. Log entry 83 (DESIGN CHOICE). -/
def drawFrom (l : List (Nat × XR)) (n : Nat) (t : XR) (u : Nat) : Drawn :=
  let bad := t.isNan || t.isInf || t.isNeg || t.isZero || l.isEmpty
  let mx := maxX (l.map (·.2))
  if bad then .none
  else match l.find? (fun e => e.2 == .inf false) with
    | some e => .at_ e.1
    | Option.none =>
      if mx == .inf true then .none
      else
        let sc := log2eOver t
        let w : List (Nat × XR) := l.map (fun e => (e.1, rnd32 (sfuFn 0x0D6 (mulR' (dotX [] [e.2, mx.negate] 1).1 sc)).1))
        let parts : List Part := (List.range n).map (fun i => (w.find? (fun e => e.1 == i)).map (fun e => ((encodeF 0 e.2 : Nat), 0)))
        let total : XR := match (redTree (redOp 0 0) 16 parts).headD Option.none with
          | some p => decodeF 0 false p.1.toNat
          | Option.none => XR.zero false
        let target := mulR (.fin false u (-24) false) total
        let step (a : XR × Option Nat) (e : Nat × XR) : XR × Option Nat :=
          if a.2.isSome then a
          else
            let acc := addR a.1 e.2
            (acc, if !acc.isNan && !target.isNan && ltX false target acc then some e.1 else Option.none)
        match (w.foldl step (XR.zero false, Option.none)).2 with
        | some i => .at_ i
        | Option.none => match (w.filter (fun e => !e.2.isNan && ltX false (XR.zero false) e.2)).getLast? with
          | some e => .at_ e.1
          | Option.none => .open_
where
  /-- The exponent of a weight. -/
  mulR' (a b : XR) : XR := mulR a b

/-- The draw of an operation: descriptor LOG, LEG, N, T. -/
def sampleDraw (o : Core) (r : SReq) : Drawn :=
  let v (i : Nat) : Nat := (r.args.getD i 0).toNat
  let b := o.scrRead (v 0) (4 * v 2)
  let legal : List (Nat × XR) := (List.range (v 2)).filterMap (fun i =>
    let x := decodeF 0 false (wordAt b (4 * i))
    if bitAt o (v 1) i && !x.isNan then some (i, x) else none)
  drawFrom legal (v 2) (decodeF 0 false (v 3)) (r.draw.toNat % 2 ^ 24)

/-! ### Operations -/

/-- The scratchpad lines that an operation reads, as core × 2^26 + line. -/
def SReq.srcLines (r : SReq) : List Nat :=
  let at_ (a n : Nat) : List Nat := rangeLines (r.core * 2 ^ 32 + a) n
  let v (i : Nat) : Nat := (r.args.getD i 0).toNat
  if r.kind = 2 then at_ (v 0) (4 * v 2) ++ at_ (v 1) ((v 2 + 7) / 8)
  else
    let d := selDesc r.args
    at_ d.src (d.srcLen r.pairs) ++ (if r.kind = 1 then at_ d.mask d.maskLen else [])

/-- SELECT_START: the head of the queue begins once what its crew wrote before is performed (R211). -/
def execSelectStart (q : Nat) (s : State) : Out :=
  match (s.quad q).select with
  | r :: _ =>
    if r.running || s.reqs.any (Req.blocks r.core r.slot r.uid (BitVec.allOnes 32) r.id) then .fault .notEnabled
    else .next (s.modQuad q (fun u => { u with select := u.select.map (fun o => if o.id == r.id then { o with running := true } else o) }))
  | [] => .fault .notEnabled

/-- The writes of SAMPLE's answer. -/
def sampleWr (s : State) (r : SReq) (idx : W32) (ok : Bool) : State :=
  let n : Nat := match r.d with | .u n => n.toNat | _ => 0
  let q : Nat := match r.d2 with | .sp n => n.toNat - 0x80 | _ => 0
  fillResult s r.core r.slot r.res [.u n idx, .q q r.lanes (if ok then r.lanes else 0)]

/-- SELECT_COMPLETE: all sources are read, then the result is written, its lines are set, and the operation
arrives at its barrier (R365). -/
def execSelectComplete (q : Nat) (s : State) : Out :=
  match (s.quad q).select with
  | r :: rest =>
    if !r.running || r.srcLines.any (lineWaits s (s.team r.core r.ts).grid r.id) then .fault .notEnabled
    else
      let o := s.core r.core
      let s := s.modQuad q (fun u => { u with select := rest })
      if r.kind = 2 then
        match sampleDraw o r with
        | .at_ i => .next (sampleWr s r (w32 i) true)
        | .none => .next (sampleWr s r 0xFFFFFFFF false)
        | .open_ => (let f := Config.sampleOpen s.free; .next (sampleWr { s with free := s.free + 1 } r f.1 f.2))
      else
        let d := selDesc r.args
        let s := s.modCore r.core (fun c => c.scrWrite (cellsAt d.dst (selOutput o (r.kind == 1) r.pairs d)))
        let s := r.claims.foldl claimMet s
        .next (match r.bar with
          | some n => arriveEngine s r.core r.ts n
          | none => s)
  | [] => .fault .notEnabled

def selectFull (s : State) (c : Nat) : Bool := Config.selectQueue ≤ (s.quad (quadOfCore c)).select.length

/-- The uniform registers of a descriptor. -/
def descWords (s : State) (x : Ctx) (w : Op) (n : Nat) : List W32 := rdRun s x w.a n x.low

/-- A range of the team's scratchpad (R365). -/
def inScratch (s : State) (x : Ctx) (a n : Nat) : Bool :=
  let k := s.crew x.c x.k
  k.guest.isNone && a + n ≤ (s.team x.c k.ts).scratch

/-- The checks of SELK and SELKX. -/
def selkCheck (w : Op) (mask : Bool) (s : State) (x : Ctx) : Option (List Raise) :=
  let a := descWords s x w 8
  let d := selDesc a
  if selFields a (w.mb 5) && inScratch s x d.src (d.srcLen (w.mb 5)) && inScratch s x d.dst d.dstLen &&
    (!mask || inScratch s x d.mask d.maskLen) then none
  else some (raises x.on 0x11)

/-- Offsets of a descriptor become addresses of the core's scratchpad. -/
def rebase (base n : Nat) (a : List W32) : List W32 := a.zipIdx.map (fun e => if e.2 < n then w32 (e.1.toNat + base) else e.1)

def selectOp (s : State) (x : Ctx) (id kind : Nat) (args : List W32) : SReq :=
  let k := s.crew x.c x.k
  { id, core := x.c, slot := x.k, ts := k.ts, kind, args, pairs := false, draw := 0, bar := none, res := 0, d := .no, d2 := .no
    lanes := x.on, claims := [], running := false, uid := k.uid }

def selkWord (w : Op) (mask : Bool) (s : State) : Out :=
  queuedWord { w, ra := 8 } selectFull (selkCheck w mask) (fun x s =>
    let k := s.crew x.c x.k
    let a := rebase (s.team x.c k.ts).scrBase 3 (descWords s x w 8)
    let d := selDesc a
    let (id, s) := s.fresh
    let claims := rangeLines (x.c * 2 ^ 32 + d.dst) d.dstLen
    let r := { selectOp s x id (b2n mask) a with pairs := w.mb 5, bar := barName w, claims }
    let s := claimLines (s.modQuad (quadOfCore x.c) (fun u => { u with select := u.select ++ [r] })) claims
    match r.bar with
    | some n => expectEngine s x.c k.ts n
    | none => s) s

def execSelk (w : Op) (s : State) : Out := selkWord w false s
def execSelkx (w : Op) (s : State) : Out := selkWord w true s

/-- The checks of SAMPLE. -/
def sampleCheck (w : Op) (s : State) (x : Ctx) : Option (List Raise) :=
  let v (i : Nat) : Nat := ((descWords s x w 4).getD i 0).toNat
  if v 0 % 4 == 0 && 1 ≤ v 2 && v 2 ≤ 32768 && inScratch s x (v 0) (4 * v 2) && inScratch s x (v 1) ((v 2 + 7) / 8) then none
  else some (raises x.on 0x11)

def execSample (w : Op) (s : State) : Out :=
  queuedWord { w, ra := 4 } selectFull (sampleCheck w) (fun x s =>
    let k := s.crew x.c x.k
    let a := rebase (s.team x.c k.ts).scrBase 2 (descWords s x w 4)
    let draw := rd s x 0 w.b x.low
    let (res, s) := openResult s x [] (udst w.d 1)
    let (id, s) := s.fresh
    let r := { selectOp s x id 2 a with draw, res, d := w.d, d2 := w.d2 }
    s.modQuad (quadOfCore x.c) (fun u => { u with select := u.select ++ [r] })) s

/-! ## What holds a matrix or select word back (R64) -/

/-- A word whose checks pass and whose table or queue is full (R362, R365). -/
def matrixHolds (s : State) (x : Ctx) (i : Instr) : Bool :=
  let held (full : State → Nat → Bool) (check : Option (List Raise)) : Bool := full s x.c && check == none
  match i with
  | .mma w => held tableFull (matCheck w (keepTooLarge w) s x)
  | .mmaz w => held tableFull (matCheck w (keepTooLarge w) s x)
  | .macz w => held tableFull (matCheck w (fun _ _ => false) s x)
  | .selk w => held selectFull (selkCheck w false s x)
  | .selkx w => held selectFull (selkCheck w true s x)
  | .sample w => held selectFull (sampleCheck w s x)
  | _ => false

end Sys2Proof.Machine
end

