-- ==== Sys2Proof/Machine/Place.lean ====
section
/-! DEFINITION. Machine/Place.lean: launch records (R237, R240) and the placement of teams and clusters (R77,
R238, R242, R486). -/

namespace Sys2Proof.Machine

/-! ## Launch records -/

/-- A field of a record, read little-endian. -/
def recField (b : List Byte) (o n : Nat) : Nat := leNat ((b.drop o).take n)

/-- The fields of R237. -/
def parseRecord (b : List Byte) : LaunchRec :=
  let f := recField b
  let floor := f 0x28 2
  let dep (i : Nat) : Nat × Nat := (f (0x60 + 8 * i) 2, f (0x62 + 8 * i) 6)
  { entry := w32 (f 0 4), trapent := w32 (f 4 4), img0 := w64 (f 8 8), img1 := w64 (f 0x10 8), id0 := f 0x18 2, sz0 := f 0x1A 2
    id1 := f 0x1C 2, sz1 := f 0x1E 2, teams := f 0x20 4, crews := f 0x24 1, ccols := f 0x25 1, crows := f 0x26 1, flags := f 0x27 1
    floor := bf floor 0 9, pshift := bf floor 12 4, heats := f 0x2A 2, scratch := f 0x2C 4, privbase := w64 (f 0x30 8)
    spillbase := w64 (f 0x38 8), spillsz := f 0x40 2, ctx := f 0x42 2, group := f 0x44 2, done := f 0x46 2
    timetable := w64 (f 0x48 8), kdesc := w64 (f 0x50 8), args := w64 (f 0x58 8)
    deps := ((List.range 4).map dep).filter (fun d => d.1 != 0xFFFF) }

/-- A cluster's shape (R13): within 3 × 4 or 2 × 6, in either orientation. -/
def shapeOk (c r : Nat) : Bool :=
  1 ≤ c && 1 ≤ r && ((c ≤ 3 && r ≤ 4) || (c ≤ 4 && r ≤ 3) || (c ≤ 2 && r ≤ 6) || (c ≤ 6 && r ≤ 2))

/-- The limits of R237 and its reserved fields, bit 1 of a code address (R79) among them. Log entry 86 (DEDUCED). -/
def recordOk (b : List Byte) : Bool :=
  let r := parseRecord b
  let floor := recField b 0x28 2
  !(bit r.entry.toNat 1) && (r.trapent == 0xFFFFFFFF || !(bit r.trapent.toNat 1)) &&
  r.id0 != 0xFFFF && 1 ≤ r.sz0 && r.sz0 ≤ 2048 &&
  (if r.id1 = 0xFFFF then r.sz1 == 0 && r.img1 == 0 else 1 ≤ r.sz1 && r.sz1 ≤ 2048) &&
  1 ≤ r.teams && r.teams < 2 ^ 24 && 1 ≤ r.crews && r.crews ≤ 64 && shapeOk r.ccols r.crows && r.flags < 32 &&
  1 ≤ r.floor && r.floor ≤ 256 && bf floor 9 3 == 0 && r.heats ≤ 256 && r.scratch % 64 == 0 && r.scratch ≤ 262144 &&
  r.privbase.toNat % 128 == 0 && r.spillbase.toNat % 65536 == 0 && r.ctx ≤ 4095 && (r.group ≤ 4095 || r.group == 0xFFFF) &&
  (0 < r.heats || r.timetable == 0)

def LaunchRec.priv (r : LaunchRec) : Bool := bit r.flags 0
def LaunchRec.preemptible (r : LaunchRec) : Bool := bit r.flags 1
def LaunchRec.prio (r : LaunchRec) : Nat := bf r.flags 2 2
def LaunchRec.notify (r : LaunchRec) : Bool := bit r.flags 4

/-- The overlay that a record names for a slot: id, image, size in bytes. -/
def LaunchRec.overlay (r : LaunchRec) (i : Nat) : Option (Nat × W64 × Nat) :=
  if i = 0 then some (r.id0, r.img0, 32 * r.sz0) else if r.id1 = 0xFFFF then none else some (r.id1, r.img1, 32 * r.sz1)

/-! ## What is free on a core (R77, R242) -/

/-- A crew slot that no crew holds and no continuation has reserved. -/
def crewSlotFree (o : Core) (k : Nat) : Bool := (o.crew k).st == .free

/-- Resident crews of a seat. -/
def seatCount (o : Core) (seat : Nat) : Nat := ((List.range 16).filter (fun i => (o.crew (4 * i + seat)).st == .resident)).length

/-- The slot that the next crew takes: of the seats with a free slot, the one with the fewest resident crews, and its lowest
free slot (R77). -/
def nextCrewSlot (o : Core) : Option Nat :=
  let slots (seat : Nat) : List Nat := (List.range 16).map (fun i => 4 * i + seat)
  let seats := (List.range 4).filter (fun i => (slots i).any (crewSlotFree o))
  let seat := (seats.drop 1).foldl (fun b i => if seatCount o i < seatCount o b then i else b) (seats.headD 0)
  (slots seat).find? (crewSlotFree o)

/-- The lowest run of free bytes of a scratchpad. -/
def scratchRun (o : Core) (n : Nat) : Option Nat :=
  if n = 0 then some 0
  else
    let used := (o.teams.filter (fun t => t.2.live && t.2.scratch != 0)).map (fun t => (t.2.scrBase, t.2.scratch))
    let starts := 0 :: used.map (fun u => u.1 + u.2)
    let ok := starts.filter (fun a => a + n ≤ 262144 && used.all (fun u => !(overlaps a n u.1 u.2)))
    ok.foldl (fun b a => match b with | none => some a | some x => some (min x a)) none

/-- A resident team of the core uses an overlay slot: its launch record names an image for it, or a live lane of one
of its crews stands there. Log entry 90 (DEDUCED). -/
def slotUsed (s : State) (c i : Nat) : Bool :=
  let o := s.core c
  o.teams.any (fun t => t.2.live && !t.2.guest && ((s.grid t.2.grid).lr.overlay i).isSome) ||
  o.slots.any (fun k => k.2.st == .resident && (lanesOf k.2.live).any (fun l => (k.2.pcOf l).slot == i))

/-- A slot holds an id, or is loading it. Log entry 90 (DEDUCED). -/
def slotHas (o : Core) (i id : Nat) : Bool :=
  match (o.ov i).loading with
  | some l => l == id
  | none => (o.ov i).id == id

/-- Does a team of this record fit on a core, with these rows? -/
def coreFits (s : State) (c : Nat) (r : LaunchRec) (rows : Nat) : Bool :=
  let o := s.core c
  r.crews ≤ ((List.range 64).filter (crewSlotFree o)).length && rows ≤ o.loanFree && (scratchRun o r.scratch).isSome &&
  (freeTeamSlot s c).isSome &&
  [0, 1].all (fun i => match r.overlay i with
    | some (id, _, _) => slotHas o i id || !(slotUsed s c i)
    | none => true)

/-- The cores of a cluster's first `n` teams, from its origin in row-major order. -/
def clusterCores (r : LaunchRec) (origin n : Nat) : List Nat := (List.range n).map (fun i => origin + i / r.ccols * 16 + i % r.ccols)

/-- The cores that the next `n` teams of a unit take: the first core, or the first origin in raster order, at which
all fit (R242, R486). -/
def unitCores (r : LaunchRec) (n : Nat) (fits : Nat → Bool) : Option (List Nat) :=
  let inMesh (c : Nat) : Bool := colOfCore c + r.ccols ≤ 16 && rowOfCore c + r.crows ≤ 12
  (((List.range Config.nCores).filter inMesh).find? (fun c => (clusterCores r c n).all fits)).map (fun c => clusterCores r c n)

/-! ## Placing -/

/-- Placement has the copy engine load an image that a slot does not hold (R238, R349).
Log entry 76 (DESIGN CHOICE). -/
def placeOverlays (s : State) (c ts g : Nat) (r : LaunchRec) : State :=
  [0, 1].foldl (fun s i => match r.overlay i with
    | none => s
    | some (id, img, n) =>
      if slotHas (s.core c) i id then s
      else
        let (t, s) := s.fresh
        queueLoad s c { ticket := 0, kind := .ovld, slot := 64, ts, grid := g, ctx := r.ctx, priv := r.priv, ss := 0, ds := 0
                        src := img, dst := 0, n, sel := i, aux := id, cw := none, pc := 0, before := t }) s

/-- A resident crew joins its seat's active set if that has a free place (R77). -/
def hasActive (o : Core) (k : Nat) : Bool :=
  ((List.range 16).filter (fun i => let w := o.crew (4 * i + k % 4); w.st == .resident && w.active)).length < 8

/-- A resident crew may wait in its seat's pending set: at most 8 do (R62). -/
def hasPending (o : Core) (k : Nat) : Bool :=
  ((List.range 16).filter (fun i => let w := o.crew (4 * i + k % 4); w.st == .resident && !w.active)).length < 8

/-- A crew of a team at its start (R59, R238). Log entry 7 (DESIGN CHOICE). -/
def newCrew (s : State) (g : Nat) (r : LaunchRec) (team cluster ts j uid : Nat) (active : Bool) : Crew :=
  let pc := pcOfAddr r.entry
  { st := .resident, uid, grid := g, team, crewid := j, cluster, ts, ctx := r.ctx, priv := r.priv, group := r.group, live := BitVec.allOnes 32
    pc := (List.range 32).map (fun l => (l, pc)), since := s.clk, active
    u := [(0, r.args.setWidth 32), (1, (r.args >>> 32).setWidth 32)], floor := r.floor, trapent := r.trapent
    privBase := w64 (r.privbase.toNat + (team * r.crews + j) * (8192 * 2 ^ r.pshift)), pshift := r.pshift }

def placeCrew (g : Nat) (r : LaunchRec) (team cluster c ts : Nat) (s : State) (j : Nat) : State :=
  match nextCrewSlot (s.core c) with
  | none => s
  | some k =>
    let (uid, s) := s.fresh
    let w := newCrew s g r team cluster ts j uid (hasActive (s.core c) k)
    s.modCore c (fun o => o.setCrew k w)

/-- A team's 16 barriers expect all its lanes (R74). -/
def newBars (clk n lanes : Nat) : Tab Bar := (List.range n).map (fun i => (i, { since := clk, expected := lanes }))

/-- One team takes a core: its slot, scratchpad with every presence bit set (R166), barriers, overlays, crews,
and the acquire that its crews start with (R271). Log entry 9 (DESIGN CHOICE). -/
def placeTeam (s : State) (g team cluster c : Nat) : State :=
  let r := (s.grid g).lr
  match freeTeamSlot s c, scratchRun (s.core c) r.scratch with
  | some ts, some base =>
    let (uid, s) := s.fresh
    let m : Team := { uid, grid := g, index := team, cluster, crews := r.crews, scrBase := base, scratch := r.scratch, bars := newBars s.clk 16 (32 * r.crews) }
    let s := s.modCore c (fun o => { o with teams := tset o.teams ts m })
    let s := setPresentAll s c (linesOf base r.scratch) true
    let s := placeOverlays (invalL1 s c) c ts g r
    (List.range r.crews).foldl (placeCrew g r team cluster c ts) s
  | _, _ => s

/-- Teams of a placement unit: one team, or the teams of a cluster, the last of which may be partial. -/
def unitTeams (r : LaunchRec) (first : Nat) : Nat := min (r.ccols * r.crows) (r.teams - first)

/-- The next unplaced team or cluster of a grid is placed where it fits. -/
def placeUnit (s : State) (g : Nat) : Option State :=
  let d := s.grid g
  let r := d.lr
  let n := unitTeams r d.nextTeam
  if n = 0 then none
  else
    let cl := d.nextTeam / (r.ccols * r.crows)
    (unitCores r n (fun c => coreFits s c r (r.crews * r.floor))).map (fun cores =>
      let s := cores.zipIdx.foldl (fun s e => placeTeam s g (d.nextTeam + e.2) cl e.1) s
      let die := dieOfCore (cores.headD 0)
      let x : Cluster := { grid := g, index := cl, origin := cores.headD 0, bars := newBars s.clk 4 (32 * r.crews * n) }
      let s := { s with clusters := s.clusters ++ [x] }
      s.modGrid g (fun d => { d with state := 2, nextTeam := d.nextTeam + n
                                     die := if d.nextTeam = 0 then die else d.die
                                     heatStart := if d.nextTeam = 0 then s.podNs else d.heatStart }))

/-- Every unplaced unit of a grid is placed. -/
def placeWhole (g : Nat) : Nat → State → Option State
  | 0, s => if (s.grid g).lr.teams ≤ (s.grid g).nextTeam then some s else none
  | n + 1, s => if (s.grid g).lr.teams ≤ (s.grid g).nextTeam then some s else (placeUnit s g).bind (placeWhole g n)

/-- An empty mesh (R240): only the monitor teams are resident, with the rows that they reserve.
Log entry 87 (DEDUCED). -/
def emptyMesh (s : State) : State :=
  let mon (t : Team) : Bool := t.live && !t.guest && (s.grid t.grid).monitor
  let ovOf (r : LaunchRec) (i : Nat) : Overlay := { id := ((r.overlay i).map (·.1)).getD 0xFFFF }
  let keep (c : Nat) : Option (Nat × Core) :=
    let o := s.core c
    ((o.teams.filter (fun t => mon t.2)).head?).map (fun t =>
      let r := (s.grid t.2.grid).lr
      let slots := (o.slots.filter (fun k => k.2.st == .resident && k.2.ts == t.1)).map (fun k => (k.1, { k.2 with rows := 0 }))
      let q : Core := { slots, teams := [t], ov0 := ovOf r 0, ov1 := ovOf r 1 }
      (c, q))
  let cores : Tab Core := [0, 96].filterMap keep
  { s with cores, quads := [], clusters := [], reqs := [] }

/-- A grid that can never be placed (R240, status 4). Log entry 87 (DEDUCED). -/
def neverFits (s : State) (r : LaunchRec) : Bool :=
  let s := emptyMesh s
  let d : Grid := { lr := r }
  let s := { s with grids := tset s.grids 256 d }
  if r.heats = 0 then (placeUnit s 256).isNone else (placeWhole 256 12288 s).isNone

end Sys2Proof.Machine
end

