-- ==== Sys2Proof/Machine/Migrate.lean ====
section
/-! DEFINITION. Machine/Migrate.lean: moving lanes (R396 to R411, R413, R414), the words and events of continuations
and guest crews. -/

namespace Sys2Proof.Machine

/-! ## Control messages (R405, R410) -/

/-- A migration control packet (R433). -/
def ctlPacket (s : State) (dst tag : Nat) (b : Body) : State :=
  queueKept s { typ := 0x0C, src := s.chipid, dst, reqKind := 4, tag := tag % 2 ^ 21, body := b }

/-- Notes to other chips leave as packets. -/
def flushNotes (s : State) : State :=
  let out := s.notes.filter (fun m => m.dst != s.chipid)
  out.foldl (fun s m => ctlPacket s m.dst m.id m.body) { s with notes := s.notes.filter (fun m => m.dst == s.chipid) }

/-- What a note concerns: notes about one crew are taken in the order sent. -/
def noteKey (m : Msg) : List Nat :=
  match m.body with
  | .location g t j _ _ _ _ | .exitNote g t j _ _ | .halted g t j _ | .heatAt g t j _ _ => [0, g, t, j]
  | .halt h a b _ _ | .resume h a b _ _ _ _ | .remove h a b _ _ => [1, h, a, b]
  | .stop g _ _ | .heat g _ => [2, m.chip, g]
  | _ => [3, m.id]

/-- The note, if it is the next about its crew. Log entry 115 (DEDUCED). -/
def findNote (s : State) (id : Nat) : Option Msg :=
  match s.notes.find? (fun m => m.id == id && m.dst == s.chipid) with
  | some m => if (s.notes.find? (fun n => n.dst == s.chipid && noteKey n == noteKey m)).map (·.id) == some id then some m else none
  | none => none

def dropNote (s : State) (m : Msg) : State := { s with notes := s.notes.filter (fun n => !(n.id == m.id)) }

/-! ## The origin crew -/

/-- Where a crew of this chip's grids is resident. Log entry 113 (DEDUCED). -/
def findOrigin (s : State) (g t j : Nat) : Option (Nat × Nat) :=
  let is (w : Crew) : Bool := w.st == .resident && w.guest.isNone && w.grid == g && w.team == t && w.crewid == j
  s.cores.findSome? (fun c => (c.2.slots.find? (fun k => is k.2)).map (fun k => (c.1, k.1)))

/-- The crew is saved: what is addressed to it is held (R410). -/
def originSaved (s : State) (g t j : Nat) : Bool :=
  s.saves.any (fun u => u.2.grid == g && u.2.teams.any (fun m => m.team.index == t && m.crews.any (fun e => e.2.crewid == j)))

/-- A crew's origin: chip, core, crew slot. -/
def originOfCrew (s : State) (c k : Nat) : Nat × Nat × Nat :=
  match (s.crew c k).guest with
  | some g => (g.chip, g.core, g.slot)
  | none => (s.chipid, c, k)

/-! ## Continuations (R396, R397) -/

/-- The registers that migrate with a crew's grid. -/
def migRegs (s : State) (w : Crew) : List Nat × List Nat :=
  match w.guest with
  | some g => (g.cont.vregs, g.cont.uregs)
  | none => let d := s.grid w.grid; (d.vregs, d.uregs)

/-- The image that a continuation carries and its size: that of the PC's overlay, or what the guest crew's own
header has. -/
def contImage (s : State) (w : Crew) (p : Pc) : W64 × Nat :=
  match w.guest with
  | some g => (g.cont.img, g.cont.imgsz)
  | none =>
    let r := (s.grid w.grid).lr
    if p.id == r.id0 then (r.img0, r.sz0) else if p.id == r.id1 then (r.img1, r.sz1) else (0, 0)

/-- The record of a lane, with the predicate that the word writes. Log entry 113 (DEDUCED). -/
def laneRec (w : Crew) (vregs : List Nat) (q l : Nat) : LaneRec :=
  { lane := l
    preds := BitVec.ofNat 16 (((List.range 15).map (fun i => if (w.pred (i + 1)).getLsbD l || q == i + 1 then 2 ^ (i + 1) else 0)).sum)
    fl := tget 0 w.fl l, seq := tget 0 w.seq l, regs := vregs.map (fun n => (w.ent n).val l) }

/-- The continuation of a group of a crew's lanes. Log entry 113 (DEDUCED). -/
def contOf (s : State) (c k : Nat) (lanes : List Nat) (p : Pc) (ret : Bool) (q no count : Nat) : Cont :=
  let w := s.crew c k
  let (vregs, uregs) := migRegs s w
  let (img, imgsz) := contImage s w p
  let o := originOfCrew s c k
  let hops := match w.guest with | some g => g.cont.hops + 1 | none => 1
  let r := (s.grid w.grid).lr
  let of (f : Cont → Nat) (own : Nat) : Nat := match w.guest with | some g => f g.cont | none => own
  { originChip := o.1, originCore := o.2.1, originSlot := o.2.2, mask := maskOf lanes, pc := p.addr, trapent := w.trapent
    team := w.team, crewid := w.crewid, cluster := w.cluster, grid := w.grid, heat := w.heat, fpmode := w.fpmode, priv := w.priv
    ctx := w.ctx, group := w.group, floor := BitVec.ofNat 16 (w.floor + w.pshift * 4096), hops := if ret then 0 else hops, ret
    tileLog := Nat.log2 w.tile, groupNo := no, groupCount := count, imgsz, vregs, uregs, img, privBase := w.privBase
    uvals := uregs.map (fun n => tget 0 w.u n), lanes := lanes.map (laneRec w vregs q)
    teams := of (·.teams) r.teams, heats := of (·.heats) r.heats, prio := of (·.prio) r.prio
    seen := match w.guest with | some g => (g.seen ++ [s.chipid]).eraseDups | none => [] }

/-- Lanes cut into groups of at most `n`, from the lowest upward. -/
def cutGroups (n : Nat) : Nat → List Nat → List (List Nat)
  | 0, _ => []
  | k + 1, l => if l.isEmpty then [] else l.take n :: cutGroups n k (l.drop n)

/-- The lanes that one group holds (R397). -/
def groupSize (v : Nat) : Nat := min 32 (896 / (8 + 4 * v))

/-! ## At the sender (R413, R414) -/

def predNo : Opd → Nat
  | .sp n => n.toNat - 0x80
  | _ => 0

def dropMove (s : State) (id : Nat) : State := { s with lmoves := s.lmoves.filter (fun m => !(m.id == id)) }
def setMove (s : State) (m : LMove) : State := { s with lmoves := s.lmoves.map (fun n => if n.id == m.id then m else n) }
def findMove (s : State) (id : Nat) : Option LMove := s.lmoves.find? (fun m => m.id == id)

/-- A guest crew that has halted tells its origin which lanes it holds (R410). -/
def tellHalted (s : State) (c k : Nat) (lanes : Mask) : State :=
  let w := s.crew c k
  match w.guest with
  | some g => if w.halted && lanes != 0 then sendNote s g.chip (.halted g.cont.grid g.cont.team g.cont.crewid lanes) else s
  | none => s

/-- Lanes of a move that ends here go on, past the word. -/
def freeLanes (s : State) (m : LMove) (lanes : Mask) : State :=
  tellHalted (s.modCrew m.core m.slot (forLanes lanes (fun l k => k.setPark l (.resume s.clk)))) m.core m.slot lanes

/-- Lanes go on with D written. -/
def endLanes (s : State) (m : LMove) (lanes : Mask) (v : Bool) : State :=
  (freeLanes s m lanes).modCrew m.core m.slot (fun k => writePred k (predNo m.qd) lanes (if v then BitVec.allOnes 32 else 0))

/-- Lanes fault at the migrating word. -/
def faultMove (s : State) (m : LMove) (l : List Raise) : State :=
  takeFaults (freeLanes s m (maskOf (l.map (·.lane)))) m.core m.slot m.pc m.len l

/-- Refuse(lane, c) for the lanes given. Log entry 114 (DEDUCED). -/
def refuseLanes (s : State) (m : LMove) (l : List Raise) : State :=
  if m.fallback then endLanes s m (maskOf (l.map (·.lane))) false else faultMove s m l

/-- What the sender finds for a lane before it asks anyone: the lane stays, a cause, a refusal, or it goes. -/
inductive Fate
  | stay
  | fault (cause : Nat)
  | refuse (cause : Nat)
  | go (dest : Nat × Option Nat × Nat)
deriving DecidableEq, Repr

/-- The pod instance of a crew's lanes (R199). -/
def inPod (s : State) (w : Crew) (chip : Nat) : Bool :=
  chip == s.chipid || (w.group != 0xFFFF && (groupMembers s w.group).contains chip)

/-- The fate of a lane of MIGR or MIGRA (R398, R399, R404, R413). Log entry 58 (DEDUCED). -/
def fateOf (s : State) (m : LMove) (l : Nat) : Fate :=
  let w := s.crew m.core m.slot
  let dest := tget (s.chipid, none, 0) m.found l
  let hops := match w.guest with | some g => g.cont.hops | none => 0
  let core := dest.2.1.getD 0
  if !(namesChip dest.1) then .fault 0x30
  else if dest.2.1.isNone && dest.1 == s.chipid then .stay
  else if w.uncovered.getLsbD l then .refuse 0x21
  else if hops = 4 then .refuse 0x22
  else if 191 < core || (dest.1 == s.chipid && core == m.core) || !(inPod s w dest.1) then .refuse 0x20
  else if !(reachable s dest.1) then .fault 0x30
  else if (s.conn dest.1).lost then .fault 0x31
  else .go dest

/-- The fate of a lane of MRET. -/
def fateHome (s : State) (m : LMove) (l : Nat) : Fate :=
  match (s.crew m.core m.slot).guest with
  | none => .stay
  | some g =>
    if (s.crew m.core m.slot).uncovered.getLsbD l then .fault 0x21
    else if !(reachable s g.chip) then .fault 0x30
    else if (s.conn g.chip).lost then .fault 0x31
    else .go (g.chip, some g.core, g.slot)

/-- The copy engine takes the group's registers into its queue (R401); none while the queue is full. A return
carries them in its lane records alone (R407). Log entries 76 (DESIGN CHOICE), 113 (DEDUCED). -/
def startTransfer (s : State) (m : LMove) : Option State :=
  if Config.copyQueue ≤ (s.core m.core).copies.length then none
  else
    let w := s.crew m.core m.slot
    let p : Pc := { m.pc with off := pcOff m }
    let cont := contOf s m.core m.slot (lanesOf m.lanes) p m.cont.ret (predNo m.qd) m.cont.groupNo m.cont.groupCount
    let base := m.gcore * 2 ^ 30
    let vs : List (Nat × Nat) := cont.vregs.flatMap (fun n => (lanesOf m.lanes).map (fun l =>
      (base + 2 ^ 27 + m.gslot * 32768 + n * 128 + l * 4, ((w.ent n).val l).toNat)))
    let us : List (Nat × Nat) := cont.uregs.map (fun n => (base + 2 * 2 ^ 27 + m.gslot * 2048 + n * 4, (tget 0 w.u n).toNat))
    let (t, s) := s.fresh
    let o : CopyOp := { ticket := (s.core m.core).ticket.toNat, kind := .cont, slot := m.slot, ts := w.ts, grid := w.grid, ctx := w.ctx, priv := true, ss := 1, ds := 1
                        src := 0, dst := 0, n := 0, lanes := if cont.ret then [] else vs ++ us, elem := m.id, aux := m.chip, cw := none
                        pc := m.pc.addr, before := t }
    some (setMove (s.modCore m.core (fun q => { q with copies := q.copies ++ [o], ticket := q.ticket + 1 })) { m with stage := 4, cont })
where
  pcOff (m : LMove) : Nat := m.pc.off + (if m.len = 0 then 8 else if m.len = 1 then 12 else 16)

/-- A group of a word's lanes asks for a grant, or sets out for home. -/
def newGroup (s : State) (m : LMove) (lanes : List Nat) (dest : Nat × Option Nat × Nat) (no count : Nat) : State :=
  let (id, s) := s.fresh
  let p : Pc := { m.pc with off := startTransfer.pcOff m }
  let cont := contOf s m.core m.slot lanes p m.cont.ret (predNo m.qd) no count
  let g : LMove := { m with id, cont, lanes := maskOf lanes, chip := dest.1, dcore := dest.2.1, stack := dest.2.2, stage := if m.cont.ret then 3 else 2
                            gcore := dest.2.1.getD 0, gslot := if m.cont.ret then dest.2.2 else 0, found := [] }
  let s := s.modCrew m.core m.slot (forLanes g.lanes (fun l k => k.setPark l (.migration id)))
  let s := { s with lmoves := s.lmoves ++ [g] }
  if m.cont.ret then (startTransfer s g).getD s
  else if dest.1 == s.chipid then s
  else ctlPacket s dest.1 id (.grantReq cont dest.2.1 dest.2.2)

/-- The release of a word that migrates is complete: every lane stays, faults, is refused, or sets out in groups
(R397, R413, R414). -/
def beginMove (s : State) (id : Nat) : State :=
  match findMove s id with
  | none => s
  | some m =>
    let s := dropMove s id
    let lanes := (lanesOf m.lanes).filter (fun l => (s.crew m.core m.slot).parkOf l == .migration id)
    let fates := lanes.map (fun l => (l, if m.cont.ret then fateHome s m l else fateOf s m l))
    let stay := fates.filterMap (fun e => if e.2 == .stay then some e.1 else none)
    let faults : List Raise := fates.filterMap (fun e => match e.2 with
      | .fault c => some { lane := e.1, cause := c }
      | _ => none)
    let refused : List Raise := fates.filterMap (fun e => match e.2 with
      | .refuse c => some { lane := e.1, cause := c }
      | _ => none)
    let go := fates.filterMap (fun e => match e.2 with
      | .go dest => some (e.1, dest)
      | _ => none)
    let s := endLanes s m (maskOf stay) true
    let n := groupSize (migRegs s (s.crew m.core m.slot)).1.length
    let s := ((go.map (·.2)).eraseDups).foldl (fun s dest =>
      let groups := cutGroups n 32 ((go.filter (fun e => e.2 == dest)).map (·.1))
      groups.zipIdx.foldl (fun s g => newGroup s m g.1 dest g.2 groups.length) s) s
    faultMove (refuseLanes s m refused) m faults

/-- A word that moves lanes: they park, and are released at pod scope first (R408). -/
def startMove (s : State) (x : Ctx) (id : Nat) (ret fallback : Bool) (qd : Opd) (found : Tab (Nat × Option Nat × Nat)) : State :=
  let cont := contOf s x.c x.k [] x.pc ret 0 0 0
  let m : LMove := { id, cont, core := x.c, slot := x.k, lanes := x.on, chip := 0, dcore := none, stack := 0, stage := 1, gcore := 0, gslot := 0
                     cause := 0, fallback, qd, pc := x.pc, len := x.lenCode, found }
  let s := s.modCrew x.c x.k (forLanes x.on (fun l k => k.setPark l (.migration id)))
  order { s with lmoves := s.lmoves ++ [m] } x true false 4 x.on (.move [id])

/-- MIGR and MIGRA wait as a marker does (R70, R413). -/
def issueMarked (s : State) (p : Pre) (body : Ctx → State → State) : Out :=
  match s.cur with
  | none => .fault .noIssue
  | some i => if s.phase == .running && !i.second && !(s.crew i.core i.slot).results.isEmpty then .next s.done else issue s p body

/-- MIGR (R398). -/
def execMigr (w : Op) (s : State) : Out :=
  issueMarked s { w } (fun x s =>
    if x.on == 0 then s
    else
      let dest (l : Nat) : Nat × Option Nat × Nat :=
        let v := if x.h.form.imm32 then w.imm.toNat % 2 ^ 32 else (rd s x 0 w.a l).toNat
        (if bit v 31 then s.chipid else bf v 16 15, some (bf v 0 8), 0)
      let (id, s) := s.fresh
      startMove s x id false (w.mb 0) w.d ((lanesOf x.on).map (fun l => (l, dest l))))

/-- MIGRA: each lane's address is translated up to step 5 of R182. -/
def execMigra (w : Op) (s : State) : Out :=
  let p : Pre := { w, ra := 2, late := true }
  issueMarked s p (fun x s =>
    if x.on == 0 then s
    else
      let k := s.crew x.c x.k
      let l : List LaneAcc := (lanesOf x.on).map (fun l => { lane := l, addr := gaddr s x w l, n := 1 })
      let bad : List Raise := (l.filter (fun y => !(canonical y.addr 1))).map (fun y => { lane := y.lane, cause := 0x11, addr := w64 y.addr })
      let (id, s) := s.fresh
      let s := faultLanes (startMove s x id false (w.mb 0) w.d []) x bad
      let base : Req := { id := 0, word := id, uid := k.uid, core := x.c, slot := x.k, ts := k.ts, acc := .migra, ctx := k.ctx, width := 1
                          line := 0, pieces := [], pc := x.pc, len := x.lenCode }
      pump (addReqs (holdLast s x p id bad.isEmpty) base (lineGroups false (l.filter (fun y => canonical y.addr 1)))).2 x.c)

/-- MRET (R414): nothing at the origin. Log entry 116 (DEDUCED). -/
def execMret (s : State) : Out :=
  issue s {} (fun x s =>
    if x.on == 0 || (s.crew x.c x.k).guest.isNone then s
    else
      let (id, s) := s.fresh
      startMove s x id true false .no [])

/-! ## At the destination (R398 to R400) -/

def freeSlots (o : Core) : Nat := ((List.range 64).filter (crewSlotFree o)).length

/-- The core that a migration port takes for a stack (R398). -/
def portCore (s : State) (m : Nat) : Nat :=
  let r := (s.stack m).migcore.toNat
  let base := bf r 0 8 % 192
  let tries := (List.range (min 192 (max 1 (bf r 8 8)))).map (fun i => (base + i) % 192)
  tries.foldl (fun b c => if freeSlots (s.core b) < freeSlots (s.core c) then c else b) base

/-- The guest crew that a group joins: one of its ORIGIN and PC that still waits for groups (R400).
Log entry 112 (DEDUCED). -/
def joinSlot (s : State) (c : Nat) (h : Cont) : Option Nat :=
  let same (g : Guest) : Bool := g.chip == h.originChip && g.core == h.originCore && g.slot == h.originSlot && g.cont.pc == h.pc && !g.open_
  ((s.core c).slots.find? (fun e => match e.2.guest with
    | some g => same g && (e.2.st == .reserved || s.clk < g.formed + 64)
    | none => false)).map (·.1)

/-- A guest crew from a header, before any group of it has come (R402). -/
def newGuest (h : Cont) (uid ts : Nat) : Crew :=
  { st := .reserved, uid, grid := h.grid, team := h.team, crewid := h.crewid, cluster := h.cluster, ts, ctx := h.ctx, priv := h.priv
    group := h.group, heat := h.heat, tile := 2 ^ h.tileLog, fpmode := h.fpmode, floor := bf h.floor.toNat 0 9, trapent := h.trapent
    privBase := h.privBase, pshift := bf h.floor.toNat 12 4
    guest := some { chip := h.originChip, core := h.originCore, slot := h.originSlot, cont := h, formed := 0, open_ := false, incoming := 1, seen := h.seen } }

/-- One more group, or one less, is on its way to a guest crew. -/
def Crew.expect (d : Nat → Nat) (w : Crew) : Crew :=
  { w with guest := w.guest.map (fun g => { g with incoming := d g.incoming }) }

/-- Chips that lanes of a guest crew have been guests on. -/
def Crew.passed (l : List Nat) (w : Crew) : Crew :=
  { w with guest := w.guest.map (fun g => { g with seen := (g.seen ++ l).eraseDups }) }

/-- Reserve a slot, rows and a team slot for a continuation (R402). -/
def reserveGuest (s : State) (c k ts : Nat) (h : Cont) : State :=
  let (uid, s) := s.fresh
  let (tu, s) := s.fresh
  let m : Team := { uid := tu, grid := h.grid, index := h.team, cluster := h.cluster, guest := true, homeChip := h.originChip, crews := 1 }
  s.modCore c (fun o => { o.setCrew k (newGuest h uid ts) with teams := tset o.teams ts m })

/-- The core's copy engine loads the image that the header names (R399). -/
def loadGuest (s : State) (c ts : Nat) (h : Cont) (p : Pc) : State :=
  let (t, s) := s.fresh
  queueLoad s c { ticket := 0, kind := .ovld, slot := 64, ts, grid := h.grid, ctx := h.ctx, priv := h.priv, ss := 0, ds := 0
                  src := h.img, dst := 0, n := 32 * h.imgsz, sel := p.slot, aux := p.id, cw := none, pc := 0, before := t }

/-- A core grants a slot, or answers a cause (R399): the slot and the cause. -/
def grantOn (s : State) (c : Nat) (h : Cont) (join : Bool) : State × Nat × Nat :=
  let o := s.core c
  match if join then joinSlot s c h else none with
  | some k => (s.modCrew c k (Crew.expect (· + 1)), k, 0)
  | none =>
    match nextCrewSlot o, freeTeamSlot s c with
    | some k, some ts =>
      let p := pcOfAddr h.pc
      let runs := o.slots.any (fun e => e.2.st == .resident && (lanesOf e.2.live).any (fun l => (e.2.pcOf l).slot == p.slot))
      if o.loanFree < bf h.floor.toNat 0 9 then (s, 0, 0x20)
      else if slotHas o p.slot p.id then (reserveGuest s c k ts h, k, 0)
      else if h.imgsz = 0 || runs then (s, 0, 0x23)
      else (loadGuest (reserveGuest s c k ts h) c ts h p, k, 0)
    | _, _ => (s, 0, 0x20)

/-- The answer to a request: core, slot, cause. -/
def grantFor (s : State) (h : Cont) (core : Option Nat) (stack : Nat) : State × Nat × Nat × Nat :=
  let c := match core with | some c => c | none => portCore s stack
  let pod := h.originChip == s.chipid || (h.group != 0xFFFF && (groupMembers s h.group).contains s.chipid)
  if 191 < c || !pod then (s, 0, 0, 0x20)
  else let (s, k, e) := grantOn s c h true; (s, c, k, e)

/-- MIGRATION_GRANT_REQUEST: a request of this chip, or one that a packet brought. -/
def execMigrationGrantRequest (mv : Nat) (s : State) : Out :=
  match findMove s mv with
  | some m =>
    if m.stage = 2 && m.chip == s.chipid then
      let (s, c, k, e) := grantFor s m.cont m.dcore m.stack
      .next (setMove s (if e = 0 then { m with stage := 3, gcore := c, gslot := k } else { m with stage := 7, cause := e }))
    else .fault .notEnabled
  | none => match findMsg s mv with
    | some m => (match m.body with
      | .grantReq h core stack =>
        let (s, c, k, e) := grantFor (dropMsg s m) h core stack
        .next (ctlPacket s m.chip m.dst (.grantRep c k e))
      | _ => .fault .notEnabled)
    | none => .fault .notEnabled

/-- MIGRATION_GRANT_REPLY: the sender writes the registers and sends the group, or refuses its lanes. -/
def execMigrationGrantReply (mv : Nat) (s : State) : Out :=
  match findMove s mv with
  | some m =>
    if m.stage = 3 then
      (match startTransfer s m with
       | some s => .next s
       | none => .fault .notEnabled)
    else if m.stage = 7 then
      .next (refuseLanes (dropMove s mv) m ((lanesOf m.lanes).map (fun l => { lane := l, cause := m.cause })))
    else .fault .notEnabled
  | none => .fault .notEnabled

/-! ## Arrival (R400 to R402, R405, R407, R408) -/

/-- Write the lane records of a group into a crew. -/
def loadLanes (h : Cont) (w : Crew) : Crew :=
  let w := h.lanes.foldl (fun w r =>
    let q := (List.range 15).foldl (fun w i => writePred w (i + 1) (laneBit r.lane) (if r.preds.getLsbD (i + 1) then laneBit r.lane else 0)) w
    { q with fl := tset q.fl r.lane r.fl, seq := tset q.seq r.lane r.seq, latch := tdel q.latch r.lane, pc := tset q.pc r.lane (pcOfAddr h.pc)
             uncovered := q.uncovered &&& ~~~(laneBit r.lane) }) w
  (h.vregs.zipIdx).foldl (fun w n => writeLanes w n.1 (h.lanes.map (fun r => (r.lane, r.regs.getD n.2 0)))) w

/-- Rows for the migrated registers can be had. -/
def contRows (s : State) (c k : Nat) (h : Cont) : Bool := rowsFree (s.core c) (s.crew c k) (rowsNeeded (s.crew c k) h.vregs)

/-- Lanes of an origin are at a place again: what it said of their going on is over. -/
def forgetMoved (s : State) (h : Cont) (c k : Nat) : State :=
  { s with movedOn := (s.movedOn.map (fun e => if e.chip == h.originChip && e.core == h.originCore && e.slot == h.originSlot && e.fromCore == c && e.fromSlot == k
      then { e with lanes := e.lanes &&& ~~~h.mask } else e)).filter (fun e => e.lanes != 0) }

/-- The lanes of a group join the guest crew of a slot, which the first group forms. Log entry 112 (DEDUCED). -/
def joinGuest (s : State) (c k : Nat) (h : Cont) : State :=
  let w := s.crew c k
  let first := w.st == .reserved
  let p := pcOfAddr h.pc
  let park : Park := if ((s.core c).ov p.slot).loading == some p.id then .overlay else .no
  let active := hasActive (s.core c) k
  let s := s.modCrew c k (fun w =>
    let w := if first then { w with st := .resident, since := s.clk, active, guest := w.guest.map (fun g => { g with formed := s.clk, cont := h }) } else w
    let w := loadLanes h ((w.expect (· - 1)).passed h.seen)
    let w := { w with live := w.live ||| h.mask, u := (h.uregs.zipIdx).foldl (fun t e => tset t e.1 (h.uvals.getD e.2 0)) w.u }
    forLanes h.mask (fun l w => w.setPark l park) w)
  let s := acquire (forgetMoved s h c k) c k 4
  tellHalted (sendNote s h.originChip (.location h.grid h.team h.crewid h.mask s.chipid c k)) c k h.mask

/-- The guest crew is one of the group's origin crew. -/
def ofGroup (h : Cont) (g : Guest) : Bool :=
  g.chip == h.originChip && g.cont.grid == h.grid && g.cont.team == h.team && g.cont.crewid == h.crewid

/-- A group arrives at the slot that was granted; one whose guest crew has been removed meanwhile exits (R411). Later than its window it forms a crew of its own, if it can
(R400). None while rows are lacking. Log entry 112 (DEDUCED). -/
def contArrive (s : State) (h : Cont) (c k : Nat) : Option State :=
  let w := s.crew c k
  if !(w.guest.any (ofGroup h)) then some (sendNote s h.originChip (.exitNote h.grid h.team h.crewid h.mask (h.seen ++ [s.chipid]))) else
  let late := w.guest.any (fun g => g.open_)
  let (s, k) := if !late then (s, k) else
    match grantOn s c h false with
    | (t, k', 0) => (retireCrew ((t.modCrew c k (Crew.expect (· - 1))).modCrew c k' (fun v => { v with halted := w.halted })) c k, k')
    | _ => (s, k)
  if contRows s c k h then some (joinGuest s c k h) else none

/-! ### The lanes leave their sender (R401, R405) -/

/-- Chips that have had guest crews of a grid of this chip (R404, R409). -/
def addHosted (s : State) (g : Nat) (l : List Nat) : State :=
  if (s.grid g).state = 0 then s
  else s.modGrid g (fun d => { d with hosted := (d.hosted ++ l.filter (· != s.chipid)).eraseDups })

/-- Lanes of a grid that has been ended are no longer at a host (R411). -/
def lanesGone (s : State) (g t j : Nat) (mask : Mask) : State :=
  let cut (e : Nat × Nat × Mask) : Nat × Nat × Mask := if e.1 == t && e.2.1 == j then (e.1, e.2.1, e.2.2 &&& ~~~mask) else e
  if (s.grid g).removing.isEmpty then s
  else s.modGrid g (fun d => { d with removing := (d.removing.map cut).filter (fun e => e.2.2 != 0) })

/-- The lanes leave the crew that sent them: an origin marks them away, a guest crew removes them. -/
def leaveSender (s : State) (m : LMove) : State :=
  let w := s.crew m.core m.slot
  let o := originOfCrew s m.core m.slot
  let clear (w : Crew) : Crew := { w with park := w.park.filter (fun e => !(m.lanes.getLsbD e.1)) }
  let s := match w.guest with
    | none =>
      let rec_ : HostRec := { chip := m.chip, core := m.gcore, slot := m.gslot, moving := true }
      (addHosted s w.grid [m.chip]).modCrew m.core m.slot (fun w => { clear w with
        away := w.away ||| m.lanes
        hosts := (lanesOf m.lanes).foldl (fun t l => if (tget? t l).isSome then t else tset t l rec_) w.hosts })
    | some _ =>
      let e : MovedOn := { chip := o.1, core := o.2.1, slot := o.2.2, lanes := m.lanes, fromCore := m.core, fromSlot := m.slot
                           toChip := m.chip, toCore := m.gcore, toSlot := m.gslot }
      let s := if m.cont.ret then s else { s with movedOn := s.movedOn ++ [e] }
      s.modCrew m.core m.slot (fun w => { clear w with live := w.live &&& ~~~m.lanes })
  let s := if w.halted && !m.cont.ret then sendNote s m.chip (.halt o.1 o.2.1 o.2.2 m.gcore m.gslot) else s
  if w.guest.isSome then retireCrew s m.core m.slot else s

/-- Its continuation has gone out, or has arrived on this chip. -/
def LMove.sent (s : State) (m : LMove) : Bool := m.stage == 6 || (m.stage == 5 && m.chip != s.chipid)

/-- What comes from a host says that the lanes have arrived there, before any acknowledgement (R401, R406, R407).
Log entry 115 (DEDUCED). -/
def settleMoves (s : State) (c k : Nat) (mask : Mask) : State :=
  (s.lmoves.filter (fun m => m.core == c && m.slot == k && m.sent s && (m.lanes &&& mask) != 0)).foldl (fun s m => leaveSender (dropMove s m.id) m) s

/-- A return continuation arrives at its origin crew, or is held while that is saved (R407, R410).
Log entry 115 (DEDUCED). -/
def contReturn (s : State) (h : Cont) : Option State :=
  match findOrigin s h.grid h.team h.crewid with
  | none => if originSaved s h.grid h.team h.crewid then none else some (lanesGone (addHosted s h.grid h.seen) h.grid h.team h.crewid h.mask)
  | some (c, k) =>
    if !(contRows s c k h) then none
    else
      let s := settleMoves (addHosted s h.grid h.seen) c k h.mask
      let s := s.modCrew c k (fun w =>
        let w := loadLanes h w
        let w := { w with away := w.away &&& ~~~h.mask, hosts := w.hosts.filter (fun e => !(h.mask.getLsbD e.1))
                          haltedAway := w.haltedAway &&& ~~~h.mask, heatAway := w.heatAway &&& ~~~h.mask }
        forLanes h.mask (fun l w => w.setPark l (.resume s.clk)) w)
      some (acquire s c k 4)

/-- What a packet with a continuation does; none while it must be held. -/
def contPacket (s : State) (h : Cont) (core slot : Nat) : Option State :=
  if h.ret then contReturn s h else contArrive s h core slot

/-- CONTINUATION_ARRIVAL: a group sent within the chip. Log entry 112 (DEDUCED). -/
def execContinuationArrival (mv : Nat) (s : State) : Out :=
  match findMove s mv with
  | some m =>
    if m.stage = 5 && m.chip == s.chipid && !m.cont.ret then
      (match contArrive s m.cont m.gcore m.gslot with
       | some s => .next (setMove s { m with stage := 6 })
       | none => .fault .notEnabled)
    else .fault .notEnabled
  | none => .fault .notEnabled

/-- RETURN_CONTINUATION: a group sent home within the chip. -/
def execReturnContinuation (mv : Nat) (s : State) : Out :=
  match findMove s mv with
  | some m =>
    if m.stage = 5 && m.chip == s.chipid && m.cont.ret then
      (match contReturn s m.cont with
       | some s => .next (setMove s { m with stage := 6 })
       | none => .fault .notEnabled)
    else .fault .notEnabled
  | none => .fault .notEnabled

/-- GUEST_ISSUE_WINDOW_END (R400). -/
def execGuestIssueWindowEnd (c k : Nat) (s : State) : Out :=
  match (s.crew c k).guest with
  | some g =>
    if (s.crew c k).st == .resident && !g.open_ && g.formed + 64 ≤ s.clk then
      .next (s.modCrew c k (fun w => { w with guest := some { g with open_ := true } }))
    else .fault .notEnabled
  | none => .fault .notEnabled

/-! ## The end of a move (R401) -/

/-- MIGRATION_ACK: the destination has acknowledged the group. Log entry 114 (DEDUCED). -/
def execMigrationAck (mv : Nat) (s : State) : Out :=
  match findMove s mv with
  | some m =>
    if m.stage = 6 || (m.stage = 5 && m.chip != s.chipid && pktDone s (m.chip, m.seq)) then .next (leaveSender (dropMove s mv) m)
    else .fault .notEnabled
  | none => .fault .notEnabled

/-- The connection of a move is lost: its lanes raise cause 0x31 at the migrating word (R401). -/
def failMove (s : State) (m : LMove) : State :=
  if m.stage = 8 then dropMove s m.id else
  let s := { s with lmoves := s.lmoves.filter (fun n => !(n.id == m.id)) }
  let s := s.modCore m.core (fun q => { q with copies := q.copies.filter (fun o => !(o.kind == .cont && o.elem == m.id)) })
  let s := s.modConn m.chip (fun q => { q with kept := q.kept.filter (fun e => match e.pkt.body with
    | .grantReq _ _ _ | .cont _ _ _ => !(e.pkt.tag == m.id % 2 ^ 21)
    | _ => true) })
  faultMove s m ((lanesOf m.lanes).map (fun l => { lane := l, cause := 0x31 }))

/-! ## Notices (R405, R406) -/

/-- LOCATION_NOTICE. -/
def execLocationNotice (id : Nat) (s : State) : Out :=
  match findNote s id with
  | some m => (match m.body with
    | .location g t j mask chip core slot =>
      if originSaved s g t j then .fault .notEnabled
      else
        let s := dropNote s m
        .next (match findOrigin s g t j with
          | none => s
          | some (c, k) =>
            let rec_ : HostRec := { chip, core, slot, moving := false }
            s.modCrew c k (fun w => { w with hosts := (lanesOf (mask &&& w.live)).foldl (fun t l => tset t l rec_) w.hosts }))
    | _ => .fault .notEnabled)
  | none => .fault .notEnabled

/-- EXIT_NOTICE: the origin performs R87 for the lanes. Log entry 115 (DEDUCED). -/
def execExitNotice (id : Nat) (s : State) : Out :=
  match findNote s id with
  | some m => (match m.body with
    | .exitNote g t j mask seen =>
      if originSaved s g t j then .fault .notEnabled
      else
        let s := addHosted (dropNote s m) g seen
        .next (match findOrigin s g t j with
          | none => lanesGone s g t j mask
          | some (c, k) =>
            let s := settleMoves s c k mask
            let gone := (lanesOf mask).filter (fun l => (s.crew c k).away.getLsbD l)
            let s := s.modCrew c k (fun w => { w with hosts := w.hosts.filter (fun e => !(mask.getLsbD e.1)) })
            retireCrew (gone.foldl (exitLane c k) s) c k)
    | _ => .fault .notEnabled)
  | none => .fault .notEnabled

/-! ## Halting, resuming and removing guest crews (R410, R411) -/

/-- The guest crew of an origin at a place. -/
def isGuestOf (s : State) (chip oc ok c k : Nat) : Bool :=
  (s.crew c k).guest.any (fun g => g.chip == chip && g.core == oc && g.slot == ok)

/-- Where lanes of an origin went on to from a place. Log entry 115 (DEDUCED). -/
def movedFrom (s : State) (chip oc ok c k : Nat) : List MovedOn :=
  s.movedOn.filter (fun e => e.chip == chip && e.core == oc && e.slot == ok && e.fromCore == c && e.fromSlot == k)

/-- The lanes of a crew that are on their way elsewhere. -/
def movingLanes (s : State) (c k : Nat) : Mask := (s.lmoves.filter (fun m => m.core == c && m.slot == k)).foldl (fun a m => a ||| m.lanes) 0

/-- GUEST_HALT: a crew that has not formed yet halts as it forms; lanes that have gone on are followed (R410). -/
def execGuestHalt (id : Nat) (s : State) : Out :=
  match findNote s id with
  | some m => (match m.body with
    | .halt h oc ok c k =>
      let s := dropNote s m
      let on := movedFrom s h oc ok c k
      let s := if isGuestOf s h oc ok c k then
          tellHalted (s.modCrew c k (fun w => { w with halted := true })) c k ((s.crew c k).live &&& ~~~(movingLanes s c k)) else s
      .next (on.foldl (fun s e => sendNote s e.toChip (.halt h oc ok e.toCore e.toSlot)) s)
    | _ => .fault .notEnabled)
  | none => .fault .notEnabled

/-- GUEST_RESUME: the origin has a new core and slot. -/
def execGuestResume (id : Nat) (s : State) : Out :=
  match findNote s id with
  | some m => (match m.body with
    | .resume h oc ok nc nk c k =>
      let s := dropNote s m
      let on := movedFrom s h oc ok c k
      let s := if isGuestOf s h oc ok c k then s.modCrew c k (fun w => { w with
          halted := false, guest := w.guest.map (fun g => { g with core := nc, slot := nk }) }) else s
      let s := { s with movedOn := s.movedOn.map (fun e => if on.contains e then { e with core := nc, slot := nk } else e) }
      .next (on.foldl (fun s e => sendNote s e.toChip (.resume h oc ok nc nk e.toCore e.toSlot)) s)
    | _ => .fault .notEnabled)
  | none => .fault .notEnabled

/-- The moves of a crew that is removed end (R411): where a slot has been granted or a group has gone, the destination is told to
remove it; what has been asked for and not answered is given up when the answer comes. -/
def cutMoves (s : State) (c k : Nat) : State :=
  let o := originOfCrew s c k
  let mine (m : LMove) : Bool := m.core == c && m.slot == k
  let moves := s.lmoves.filter mine
  let tell := moves.filter (fun m => !m.cont.ret && 3 ≤ m.stage && m.stage ≤ 6)
  let s := tell.foldl (fun s m => sendNote s m.chip (.remove o.1 o.2.1 o.2.2 m.gcore m.gslot)) s
  let cut (m : LMove) : Option LMove :=
    if !(mine m) then some m else if m.stage = 2 && m.chip != s.chipid then some { m with core := Config.nCores, slot := 0, stage := 8 } else none
  let s := { s with lmoves := s.lmoves.filterMap cut }
  admitLoads (s.modCore c (fun q => { q with copies := q.copies.filter (fun p => !(p.kind == .cont && moves.any (fun m => m.id == p.elem))) })) c

/-- A guest crew is removed, and its origin told: its records reach their release point, its account stays until it is
acknowledged, what a frozen copy engine holds for it is dropped, and lanes that have set out are followed (R276, R404, R411). -/
def removeGuest (s : State) (c k : Nat) : State :=
  let w := s.crew c k
  let gone := w.live &&& ~~~((s.lmoves.filter (fun m => m.core == c && m.slot == k && m.sent s)).foldl (fun a m => a ||| m.lanes) (0 : Mask))
  let s := cutMoves (releaseTeam s c w.ts) c k
  let s := if (s.core c).copyFrozen then discardWhere (fun p => p.ts == w.ts && (!p.active || p.cause != 0)) s c else s
  let s := match w.guest with
    | some g => if gone != 0 then sendNote s g.chip (.exitNote g.cont.grid g.cont.team g.cont.crewid gone (g.seen ++ [s.chipid])) else s
    | none => s
  retireTeam (s.modCore c (fun o => { o with slots := tdel o.slots k })) c w.ts

/-- GUEST_REMOVE. -/
def execGuestRemove (id : Nat) (s : State) : Out :=
  match findNote s id with
  | some m => (match m.body with
    | .remove h oc ok c k =>
      let s := dropNote s m
      let on := movedFrom s h oc ok c k
      let s := if isGuestOf s h oc ok c k then removeGuest s c k else s
      .next (on.foldl (fun s e => sendNote s e.toChip (.remove h oc ok e.toCore e.toSlot)) s)
    | _ => .fault .notEnabled)
  | none => .fault .notEnabled

end Sys2Proof.Machine
end

