-- ==== Sys2Proof/Machine/Pages.lean ====
section
/-! DEFINITION. Machine/Pages.lean: the home's answers (R383, R384), negative acknowledgements, redirects, moving pages,
stubs and the hot-page tracker (R385 to R394), and the words PMOVE, PQRY, OWNINV and PSTUB (R415 to R418). -/

namespace Sys2Proof.Machine

/-! ## The home directory (R383, R387, R390) -/

/-- Change the home entry of a page. -/
def homeMod (s : State) (g : Nat) (f : Nat → Nat) : State :=
  match homeFind s g with
  | some i => homeWrite s i (f (homeRead s i))
  | none => s

/-- The step of the home at a move's start: the status, 0 where the entry was changed (R387 step 2). -/
def homeMove (s : State) (g : Nat) (new : Owner) : State × Nat :=
  match homeFind s g with
  | none => (s, 1)
  | some i =>
    let e := homeRead s i
    if homeFlight e then (s, 3)
    else if homeNstub e = 2 then (s, 2)
    else
      let e := setBf e (if homeNstub e = 0 then 109 else 71) 38 (bf e 147 38)
      let e := setBf e 147 38 (ownerBits new)
      let e := setBf (setBf e 32 32 (homeGen e + 1)) 0 2 (homeNstub e + 1)
      (homeWrite s i (setBf e 3 1 1), 0)

/-- A move is over: FLIGHT is 0. -/
def homeClose (s : State) (g : Nat) : State := homeMod s g (fun e => setBf e 3 1 0)

/-- A move is undone: the owner is the newest stub again. -/
def homeUndo (s : State) (g : Nat) : State :=
  homeMod s g (fun e =>
    let lo := if homeNstub e = 2 then 71 else 109
    let e := setBf (setBf e 147 38 (bf e lo 38)) lo 38 0
    setBf (setBf e 3 1 0) 0 2 (homeNstub e - 1))

/-- Only the oldest stub may be reclaimed. -/
def homeOldest (s : State) (g : Nat) (stub : Owner) : Bool :=
  match homeFind s g with
  | some i => let e := homeRead s i; homeNstub e != 0 && homeStubA e == ownerBits stub
  | none => false

/-- A stub is gone: STUBB moves to STUBA. Log entry 118 (DEDUCED). -/
def homeDrop (s : State) (g : Nat) (stub : Owner) : State :=
  if homeOldest s g stub then homeMod s g (fun e => setBf (setBf (setBf e 109 38 (homeStubB e)) 71 38 0) 0 2 (homeNstub e - 1)) else s

/-! ## Queries (R384) -/

/-- OWNER_QUERY: the home, this chip, answers a query; another chip gets a packet. -/
def execOwnerQuery (q : Nat) (s : State) : Out :=
  match s.queries.find? (fun e => e.id == q) with
  | some e =>
    if e.answered || !(e.asker != s.chipid || homeOf s e.gpn == s.chipid) then .fault .notEnabled
    else
      let ent := (homeFind s e.gpn).map (homeRead s)
      let owner := ent.map homeOwner
      let n := (ent.map homeNstub).getD 0
      if e.asker == s.chipid then
        .next { s with queries := s.queries.map (fun x => if x.id == q then { x with answered := true, owner, nstub := n } else x) }
      else
        let s := { s with queries := s.queries.filter (fun x => !(x.id == q)) }
        .next (emit s { typ := 0x0A, src := s.chipid, dst := e.asker, gpn := e.gpn, reqKind := 5, body := .answer e.gpn owner n })
  | none => .fault .notEnabled

/-- A request that is to be sent again stands among the unsent ones in the order issued. -/
def requeue (s : State) (r : Req) : State :=
  let rest := s.reqs.filter (fun q => !(q.id == r.id))
  let after (q : Req) : Bool := q.core == r.core && q.stage.unsent && r.id < q.id
  { s with reqs := rest.takeWhile (fun q => !(after q)) ++ [r] ++ rest.dropWhile (fun q => !(after q)) }

/-- NEGATIVE_ACK at the requester: it drops its entry, asks the home, and sends again (R385). -/
def nackReq (s : State) (r : Req) : State :=
  match r.tr with
  | none => s
  | some t =>
    let (q, s) := newQuery (ocDrop s t.gpn) t.gpn
    requeue s { r with owner := none, stage := .query q, data := [], poison := [], miss := 0 }

/-- NEGATIVE_ACK: a request stands at a frame of this chip that the page has left. -/
def execNegativeAck (id : Nat) (s : State) : Out :=
  match findReq s id with
  | some r => (match r.tr, r.owner with
    | some t, some (.dram _ m f) =>
      if r.stage == .atOwner && ownerTurn s r && !t.fw && frameSt s m f t.gpn == .gone then .next (nackReq s r) else .fault .notEnabled
    | _, _ => .fault .notEnabled)
  | none => .fault .notEnabled

/-! ## Forwarding (R388, R389) -/

/-- STUB_FORWARD: a live stub forwards a request of this chip; a redirect follows once the successor has it. -/
def execStubForward (id : Nat) (s : State) : Out :=
  match findReq s id with
  | some r => (match r.tr, r.owner with
    | some t, some (.dram c m f) =>
      if !(r.stage == .atOwner && ownerTurn s r && !t.fw) then .fault .notEnabled
      else (match frameSt s m f t.gpn with
        | .stub succ =>
          let s := countFwd s (frameKey m f)
          let n := match ownerChip succ with | some d => (s.conn d).next | none => 0
          let s := route s { r with owner := some succ } t
          let away := ownerChip succ != some s.chipid
          .next (sendMsg s (if away then n + 1 else 0) ((ownerChip succ).getD s.chipid) (.redirect t.gpn (.dram c m f) succ))
        | _ => .fault .notEnabled)
    | _, _ => .fault .notEnabled)
  | none => .fault .notEnabled

/-- REDIRECT: the requester takes the successor into its owner cache if that still holds the stub. -/
def execRedirect (gpn stub owner : Nat) (s : State) : Out :=
  let body : Body := .redirect gpn (ownerOfBits stub) (ownerOfBits owner)
  match s.net.find? (fun m => m.body == body && (m.dst = 0 || pktDone s (m.chip, m.dst - 1))) with
  | some m =>
    let s := dropMsg s m
    .next (if ocFind s gpn == some (ownerOfBits stub) then ocPut s gpn (ownerOfBits owner) else s)
  | none => .fault .notEnabled

/-! ## Moving a page (R387, R312) -/

/-- GPNs of the view frames (R163, R179). Log entry 119 (DEDUCED). -/
def viewPage (s : State) (g : Nat) : Bool :=
  viewSpace ≤ 65536 * g && 65536 * g < viewSpace + 8 * 2 ^ 35 &&
  (List.range 128).any (fun i => let w : Win := tget {} s.wins i
    w.en && overlaps (65536 * g) 65536 w.viewBase (33 * w.count))

def findPmove (s : State) (id : Nat) : Option PMove := s.pmoves.find? (fun m => m.id == id)
def setPmove (s : State) (m : PMove) : State := { s with pmoves := s.pmoves.map (fun n => if n.id == m.id then m else n) }
def PMove.key (m : PMove) : Nat := frameKey m.stack m.frame
def PMove.old (s : State) (m : PMove) : Owner := .dram s.chipid m.stack m.frame

/-- PMOVE writes its status; the tracker's moves have no word. -/
def endPmove (s : State) (m : PMove) (status : Nat) : State :=
  let s := { s with pmoves := s.pmoves.filter (fun n => !(n.id == m.id)) }
  if m.tracker then s else fillResult s m.core m.slot m.res (giveWords m.d [w32 status])

/-- The local checks, once the home has named the page's frame: the first that fails decides the status.
Log entry 117 (DEDUCED). -/
def checkPmove (s : State) (m : PMove) (owner : Option Owner) (junk : Bool) : State :=
  match owner with
  | some (.dram c k f) =>
    let m := { m with stack := k, frame := f }
    let held := c == s.chipid && (match frameSt s k f m.gpn with
      | .serve => true
      | .hold => (tget? s.stubs m.key).isNone
      | _ => false)
    let bad := match m.new with
      | .dram n st fr => junk || (n, st, fr) == (s.chipid, k, f) || stagingFrame fr
      | .host _ => true
    if !held then endPmove s m 1
    else if bad then endPmove s m 5
    else if !(ownerReachable s m.new) then endPmove s m 4
    else
      let s := setPmove s { m with stage := 1 }
      let h := homeOf s m.gpn
      if h == s.chipid then s
      else queueKept s { typ := 0x0A, src := s.chipid, dst := h, gpn := m.gpn, reqKind := 4, tag := m.id % 2 ^ 21, body := .homeUpdate m.gpn m.new false }
  | _ => endPmove s m 1

/-- Begin a page move. The bits of the new owner's pair that must be zero are marked by a host owner.
Log entry 117 (DEDUCED). -/
def startPmove (s : State) (m : PMove) : State :=
  let s := { s with pmoves := s.pmoves ++ [m] }
  let h := homeOf s m.gpn
  if viewPage s m.gpn || (tget? s.hostPages m.gpn).isSome then endPmove s m 6
  else if !(namesChip h) || 2 ^ 39 ≤ m.gpn then endPmove s m 1
  else if h == s.chipid then checkPmove s m ((homeFind s m.gpn).map (fun i => homeOwner (homeRead s i))) false
  else let (q, s) := newQuery s m.gpn; setPmove s { m with q }

/-- OWNER_ANSWER: the answer reaches those who asked (R181, R384, R416). -/
def execOwnerAnswer (q : Nat) (s : State) : Out :=
  match s.queries.find? (fun e => e.id == q && e.answered && e.asker == s.chipid) with
  | none => .fault .notEnabled
  | some e =>
    let reqs := s.reqs.filter (fun r => r.stage == .query q)
    let moves := s.pmoves.filter (fun m => m.stage = 0 && m.q == q)
    let keep := e.owner.isNone && reqs.isEmpty && moves.isEmpty
    let s := if keep then s else { s with queries := s.queries.filter (fun x => !(x.id == q)) }
    let s := match e.owner with
      | some o => ocPut s e.gpn o
      | none => s
    let s := reqs.foldl (fun s r => match findReq s r.id, r.tr, e.owner with
      | some r, some t, some o => checkOwner s (match r.acc with | .pqry true => { r with cp := e.nstub } | _ => r) t o
      | some r, _, _ => failReq (setReq s r) r 0x10
      | none, _, _ => s) s
    let s := moves.foldl (fun s m => checkPmove s m e.owner false) s
    .next (((reqs.map (·.core)).eraseDups).foldl pump s)

/-- The old frame becomes a copying stub, the new one is marked arriving, on another chip by a packet that carries no bytes
yet (R387 step 3). Log entry 117 (DEDUCED). -/
def holdPage (s : State) (m : PMove) : State :=
  let s := setPmove s { m with stage := 2 }
  let s := { s with stubs := tset s.stubs m.key { gpn := m.gpn, state := 1, succ := m.new } }
  match m.new with
  | .dram c k f =>
    let s := if m.tracker then s.modStack k (fun t => { t with pgpool := t.pgpool &&& w64 (2 ^ 63 - 1) }) else s
    if c == s.chipid then { s with arriving := tset s.arriving (frameKey k f) m.gpn }
    else queueKept s { typ := 0x01, src := s.chipid, dst := c, gpn := m.gpn, frame := frameKey k f, reqKind := 4, body := .page m.gpn k f [] [] }
  | .host _ => s

/-- PMOVE_HOME_UPDATE: the home's step, here or as its answer says. -/
def execPmoveHomeUpdate (mv : Nat) (s : State) : Out :=
  match findPmove s mv with
  | none => .fault .notEnabled
  | some m =>
    let go (s : State) (status : Nat) : Out := .next (if status = 0 then holdPage s m else endPmove s m status)
    if m.stage != 1 then .fault .notEnabled
    else if homeOf s m.gpn == s.chipid then (let (s, st) := homeMove s m.gpn m.new; go s st)
    else match s.net.find? (fun n => match n.body with | .homeReply g false _ => g == m.gpn | _ => false) with
      | some n => (match n.body with
        | .homeReply _ _ st => go (dropMsg s n) st
        | _ => .fault .notEnabled)
      | none => .fault .notEnabled

/-- Engines of a stack hold no released record of a frame (R387 step 4). -/
def frameDrained (s : State) (m k : Nat) : Bool :=
  (s.stack m).engines.all (fun e => e.2.staged.all (fun r => !(r.released && recFrame r.rcd == k)))

/-- The lines of a frame are written back and dropped. -/
def evictFrame (s : State) (a : Nat) : State := ((s.msc.filter (fun e => a ≤ 64 * e.1 && 64 * e.1 < a + 65536)).map (·.1)).foldl evictSector s

/-- Entries of a table at keys from `a` on, `n` of them, at keys from `b` on, in place of those there. -/
def shiftTab {α : Type} (t : Tab α) (a b n : Nat) : Tab α :=
  t.filter (fun e => e.1 < b) ++ (t.filter (fun e => a ≤ e.1 && e.1 < a + n)).map (fun e => (e.1 - a + b, e.2)) ++ t.filter (fun e => b + n ≤ e.1)

/-- Copy a frame over the mesh: bytes, the keys they are stored under, poison. -/
def copyFrame (s : State) (a b : Nat) : State :=
  let s := evictFrame (evictFrame s a) b
  { s with dram := shiftTab s.dram a b 65536, gkey := shiftTab s.gkey (a / 32) (b / 32) 2048, poison := shiftTab s.poison (a / 32) (b / 32) 2048 }

/-- A page is complete in its new frame, which serves it. -/
def arriveDone (s : State) (k g : Nat) : State :=
  let s := { s with arriving := tdel s.arriving k, arrSrc := tdel s.arrSrc k }
  s.modStack (k / 2 ^ 20) (fun m =>
    let f := k % 2 ^ 20
    { m with here := tset m.here f g, frames := tset m.frames f ((tget [] m.frames f).filter (· != g)) })

/-- A stub goes live: staged records move on, those released meanwhile first and their notices behind them
(R312, R389). -/
def passStaged (s : State) (k : Nat) (succ : Owner) : State :=
  let engines := (List.range 24).map (k / 2 ^ 20 * 24 + ·)
  let here (s : State) (e : Nat) : List Staged := (s.engine e).staged.filter (fun r => recFrame r.rcd == k)
  let s := if engines.any (fun e => !(here s e).isEmpty) then countFwd s k else s
  let pass (s : State) (e : Nat) (l : List Staged) : State :=
    ((l.map (fun r => (r.org.chip, r.org.quad))).eraseDups).foldl (fun s o =>
      forwardBin s e k o.1 o.2 ((l.filter (fun r => (r.org.chip, r.org.quad) == o)).map (·.rcd)) succ) s
  engines.foldl (fun s e =>
    let l := here s e
    let s := s.modEngine e (fun g => { g with staged := g.staged.filter (fun r => !(recFrame r.rcd == k)) })
    let (rel, rest) := l.partition (·.released)
    let s := pass s e rel
    let s := ((rel.map (·.org)).eraseDups).foldl (fun s o => passNotices s e o) s
    pass s e rest) s

/-- Completion and close (R387 steps 5 and 6); a stub that was kept meanwhile stays so (R390). Log entry 117 (DEDUCED). -/
def finishPmove (s : State) (m : PMove) : State :=
  let keep := ((tget? s.stubs m.key).map (·.keep)).getD false
  let s := { s with stubs := tset s.stubs m.key { gpn := m.gpn, state := 2, succ := m.new, quietFrom := s.ref, keep } }
  let s := s.modStack m.stack (fun t => { t with here := tdel t.here m.frame })
  let s := match m.new with
    | .dram c k f => if c == s.chipid then arriveDone s (frameKey k f) m.gpn else s
    | .host _ => s
  let s := passStaged s m.key m.new
  let h := homeOf s m.gpn
  let s := if h == s.chipid then homeClose s m.gpn
    else queueKept s { typ := 0x0A, src := s.chipid, dst := h, gpn := m.gpn, reqKind := 4, body := .homeClose m.gpn }
  let s := if !m.tracker then s else match m.new with
    | .dram _ k f => s.post (dieOfStack m.stack) { typ := 0x11, value := w32 (frameKey k f), addr := w64 m.gpn }
    | .host _ => s
  endPmove s m 0

/-- The page leaves for another chip in 16 packets (R387 step 4). Log entry 117 (DEDUCED). -/
def sendPage (s : State) (m : PMove) : State :=
  match m.new with
  | .host _ => s
  | .dram c k f =>
    let a := devAddr m.stack m.frame 0
    let s := evictFrame s a
    let ctx := entCtx (frameEntry s m.stack m.frame)
    let (s, l) := (List.range 16).foldl (fun (acc : State × List (Nat × Nat)) i =>
      let s := acc.1
      let g0 := a / 32 + 128 * i
      let bytes := (List.range 128).flatMap (fun j => granRead s ctx (g0 + j))
      let bad := ((List.range 128).filter (fun j => tget false s.poison (g0 + j))).map (128 * i + ·)
      let (q, s) := queuePkt s { typ := 0x01, src := s.chipid, dst := c, ctx, gpn := m.gpn, off := 4096 * i, frame := frameKey k f, reqKind := 4
                                 len := 4096, body := .page m.gpn k f (cellsAt (4096 * i) bytes) bad }
      (s, acc.2 ++ [(c, q)])) (s, [])
    let s := { s with stubs := s.stubs.map (fun e => if e.1 == m.key then (e.1, { e.2 with moved := true }) else e) }
    setPmove s { m with stage := 3, seqs := l }

/-- A bank command that reads a frame is queued (R464). -/
def bankReading (s : State) (m f : Nat) : Bool :=
  (s.stack m).bankQ.any (fun b => (b.code == 0xB2 || b.code == 0xB3) && (List.range 16).any (fun k => ((b.row * 16 + k) * 384 + b.pc) / 64 == f))

/-- A frame lies in a pseudo-channel that a team claims (R463). -/
def frameClaimed (s : State) (m f : Nat) : Bool :=
  (List.range 64).any (fun i => ((tget ({} : PcSt) (s.stack m).pcs ((f * 64 + i) % 384)).claim).isSome)

/-- A move whose connection is lost is undone (R387): PMOVE_UNDO. -/
def undoPmove (s : State) (m : PMove) : State :=
  let h := homeOf s m.gpn
  let s := if h == s.chipid then homeUndo s m.gpn
    else queueKept s { typ := 0x0A, src := s.chipid, dst := h, gpn := m.gpn, reqKind := 4, body := .homeUpdate m.gpn m.new true }
  let s := { s with stubs := tdel s.stubs m.key }
  let s := match m.new with
    | .dram c _ _ => s.modConn c (fun q => { q with kept := q.kept.filter (fun e => match e.pkt.body with | .page g _ _ _ _ => g != m.gpn | _ => true) })
    | .host _ => s
  (endPmove s m 7).post (dieOfStack m.stack) { typ := 0x13, value := 7, addr := w64 m.gpn }

/-- PMOVE_COPY_COMPLETE: within the chip the copy and its completion; to another chip first the packets, then, when
they are acknowledged, the completion. -/
def execPmoveCopyComplete (mv : Nat) (s : State) : Out :=
  match findPmove s mv with
  | none => .fault .notEnabled
  | some m =>
    if m.stage = 2 && frameDrained s m.stack m.key && !(bankReading s m.stack m.frame) then
      (match m.new with
       | .dram c k f => if c == s.chipid then .next (finishPmove (copyFrame s (devAddr m.stack m.frame 0) (devAddr k f 0)) m)
           else if (s.conn c).lost then .next (undoPmove s m) else .next (sendPage s m)
       | .host _ => .fault .notEnabled)
    else if m.stage = 3 && m.seqs.all (pktDone s) then .next (finishPmove s m)
    else .fault .notEnabled

/-- A part of a page comes from another chip: its frame is marked arriving, and complete with the last part.
Log entry 117 (DEDUCED). -/
def pageArrive (s : State) (src ctx g k f : Nat) (cells : List (Nat × Byte)) (bad : List Nat) : State :=
  let key := frameKey k f
  let a := devAddr k f 0
  let s := if (tget? s.arriving key).isSome then s else evictFrame s a
  let s := { s with arriving := tset s.arriving key g, arrSrc := tset s.arrSrc key src }
  let grans := (cells.map (fun c => c.1 / 32)).eraseDups
  let s := grans.foldl (fun s n =>
    let b := (cells.filter (fun c => c.1 / 32 == n)).map (·.2)
    (granWrite s ctx (a / 32 + n) b).setPoison (a / 32 + n) (bad.contains n)) s
  if cells.any (fun c => c.1 = 65535) then arriveDone s key g else s

/-! ## Stubs (R389, R390, R418) -/

def stubOwner (s : State) (k : Nat) : Owner := ownerOfBits (s.chipid * 2 ^ 23 + k)
def modStub (s : State) (k : Nat) (f : Stub → Stub) : State := { s with stubs := s.stubs.map (fun e => if e.1 == k then (k, f e.2) else e) }

/-- The stub asks its home to be reclaimed. -/
def askReclaim (s : State) (k : Nat) (b : Stub) : State :=
  let s := modStub s k (fun b => { b with state := 3, moved := false, granted := false })
  let h := homeOf s b.gpn
  if h == s.chipid then s
  else queueKept s { typ := 0x0A, src := s.chipid, dst := h, gpn := b.gpn, reqKind := 4, body := .reclaim b.gpn (stubOwner s k) false }

/-- The words that wait for a stub's reclaim get their status. -/
def answerStub (s : State) (k status : Nat) : State :=
  (s.jobs.filter (fun j => j.kind == .stub k)).foldl (fun s j => endJob s j [w32 status, 0]) s

/-- The stub stays live and begins another quiet interval. -/
def keepStub (s : State) (k status : Nat) : State :=
  answerStub (modStub s k (fun b => { b with state := 2, quietFrom := s.ref })) k status

/-- The quiet interval in periods of the reference clock (R395). -/
def quietTicks (s : State) : Nat := max 10 (bf s.stubcfg.toNat 0 16) * 1000

/-- STUB_QUIET_EXPIRY. -/
def execStubQuietExpiry (k : Nat) (s : State) : Out :=
  match tget? s.stubs k with
  | some b => if b.state = 2 && !b.keep && b.quietFrom + quietTicks s ≤ s.ref then .next (askReclaim s k b) else .fault .notEnabled
  | none => .fault .notEnabled

/-- STUB_RECLAIM_REQUEST: the home agrees only for the oldest stub. -/
def execStubReclaimRequest (k : Nat) (s : State) : Out :=
  match tget? s.stubs k with
  | some b =>
    let go (s : State) (ok : Bool) : Out := .next (if ok then modStub s k (fun b => { b with granted := true }) else keepStub s k 2)
    if b.state != 3 || b.granted then .fault .notEnabled
    else if homeOf s b.gpn == s.chipid then go s (homeOldest s b.gpn (stubOwner s k))
    else match s.net.find? (fun n => match n.body with | .homeReply g true _ => g == b.gpn | _ => false) with
      | some n => (match n.body with
        | .homeReply _ _ st => go (dropMsg s n) (st == 0)
        | _ => .fault .notEnabled)
      | none => .fault .notEnabled
  | none => .fault .notEnabled

/-- STUB_RECLAIM_GRANT: the stub goes, unless it has forwarded anything since it asked. -/
def execStubReclaimGrant (k : Nat) (s : State) : Out :=
  match tget? s.stubs k with
  | some b =>
    if b.state != 3 || !b.granted then .fault .notEnabled
    else if b.moved then .next (keepStub s k 3)
    else
      let s := { s with stubs := tdel s.stubs k }
      let h := homeOf s b.gpn
      let s := if h == s.chipid then homeDrop s b.gpn (stubOwner s k)
        else queueKept s { typ := 0x0A, src := s.chipid, dst := h, gpn := b.gpn, reqKind := 4, body := .reclaim b.gpn (stubOwner s k) true }
      let f := k % 2 ^ 20
      let s := s.modStack (k / 2 ^ 20) (fun m => { m with
        here := m.here.filter (fun e => !(e.1 == f && e.2 == b.gpn)), frames := tset m.frames f (b.gpn :: (tget [] m.frames f).filter (· != b.gpn)) })
      .next (answerStub (s.post (dieOfStack (k / 2 ^ 20)) { typ := 0x10, value := w32 k, addr := w64 b.gpn }) k 0)
  | none => .fault .notEnabled

/-! ## The hot-page tracker (R392) -/

/-- A tracking period in periods of the reference clock. -/
def trackTicks (s : State) : Nat := max 1 (bf s.trkcfg.toNat 8 8) * 100000

/-- The tracked page with the highest count, ties to the lower GPN. -/
def hottest (l : List TrkPage) : Option TrkPage :=
  l.foldl (fun b p => match b with
    | none => some p
    | some q => if q.total < p.total || (q.total == p.total && p.gpn < q.gpn) then some p else b) none

/-- What a period's end asks for: nothing, a hint that names a chip, or a move to a stack's free frame. -/
inductive Hot
  | nothing
  | hint (chip : Nat)
  | move (stack : Nat)
deriving DecidableEq, Repr

def hotAction (s : State) (m : Nat) (p : TrkPage) : Hot :=
  let cfg := s.trkcfg.toNat
  let most (n : Nat) : Bool := 3 * p.total ≤ 4 * n
  if p.total < bf cfg 0 8 * 256 || p.total = 0 then .nothing
  else match if bit cfg 30 then p.chips.find? (fun e => e.1 != s.chipid && most e.2) else none with
    | some e => .hint e.1
    | none =>
      let stks := (List.range 8).filter (fun k => dieOfStack k != dieOfStack m && bit (s.stack k).pgpool.toNat 63)
      match stks with
      | k :: _ => if bit cfg 31 && most p.otherDie then .move k else .nothing
      | [] => .nothing

/-- TRACKER_PERIOD_END. -/
def execTrackerPeriodEnd (m : Nat) (s : State) : Out :=
  let t := s.stack m
  if 8 ≤ m || s.ref < t.trackFrom + trackTicks s then .fault .notEnabled
  else
    let top := hottest (t.track.filter (fun p => !(frameClaimed s m p.frame)))
    let s := s.modStack m (fun t => { t with track := [], trackFrom := t.trackFrom + trackTicks s })
    .next (match top with
      | none => s
      | some p => match hotAction s m p with
        | .nothing => s
        | .hint c => s.post (dieOfStack m) { typ := 0x12, value := w32 c, addr := w64 p.gpn }
        | .move k =>
          let (id, s) := s.fresh
          let new := Owner.dram s.chipid k (bf (s.stack k).pgpool.toNat 0 20)
          startPmove s { id, gpn := p.gpn, stack := 0, frame := 0, new, core := 0, slot := 0, res := 0, stage := 0, tracker := true })

/-! ## The words -/

/-- PMOVE (R415): bits of the new-owner pair that must be zero give status 5 (R412). -/
def execPmove (w : Op) (s : State) : Out :=
  sysWord { w, ra := 2, rb := 2 } true s (fun x s =>
    let g := usrc64 s x w.a
    let n := usrc64 s x w.b
    let junk := bf n 23 9 != 0 || bf n 47 17 != 0
    let (res, s) := openResult s x [] (udst w.d 1)
    let (id, s) := s.fresh
    let new := if junk then Owner.host 0 else Owner.dram (bf n 32 15) (bf n 20 3) (bf n 0 20)
    startPmove s { id, gpn := g, stack := 0, frame := 0, new, core := x.c, slot := x.k, res, stage := 0, tracker := false, d := w.d })

/-- PQRY (R416). Log entry 119 (DEDUCED). -/
def execPqry (w : Op) (s : State) : Out :=
  let p := memPre w 2 2 false
  issue s p (fun x s =>
    let l : List LaneAcc := (actLanes x w.d).map (fun l => { lane := l, addr := gaddr s x w l, n := 1 })
    startChecked s x p { acc := .pqry (w.mb 0), width := 8, long := true, kind := .regs 2, dst := w.d, hostOk := true, uni := isU w.d } (l.map checkGlobal))

/-- OWNINV and OWNINV.all (R417). -/
def execOwninv (w : Op) (s : State) : Out :=
  if w.mb 0 then sysWord { w } true s (fun _ s => { s with ownerCache := [] })
  else
    let p := memPre w 2 0 true
    issue s p (fun x s =>
      let l : List LaneAcc := (lanesOf x.on).map (fun l => { lane := l, addr := gaddr s x w l, n := 1 })
      startChecked s x p { acc := .owninv, hostOk := true } (l.map checkGlobal))

/-- The stub that a frame of this chip is (R418). -/
def stubOf (s : State) (x : Ctx) (w : Op) : Nat × Option Stub := let k := usrc s x w.a % 2 ^ 23; (k, tget? s.stubs k)

/-- A pair for a uniform D. -/
def givePair (s : State) (x : Ctx) (d : Opd) (lo hi : Nat) : State := longResult s x (wr64 x false d (fun _ => w64 (hi * 2 ^ 32 + lo)))

def execPstubRd (w : Op) (s : State) : Out :=
  sysWord { w } true s (fun x s =>
    match (stubOf s x w).2 with
    | some b => givePair s x w.d b.count (b.state * 2 ^ 30 + b2n b.keep * 2 ^ 15 + (ownerChip b.succ).getD 0)
    | none => givePair s x w.d 0 0)

def execPstubKeep (w : Op) (s : State) : Out :=
  sysWord { w } true s (fun x s =>
    let (k, b) := stubOf s x w
    givePair (modStub s k (fun b => { b with keep := true })) x w.d (if b.isSome then 0 else 1) 0)

def execPstubReclaim (w : Op) (s : State) : Out :=
  sysWord { w } true s (fun x s =>
    let (k, b) := stubOf s x w
    match b with
    | none => givePair s x w.d 1 0
    | some b =>
      let s := modStub s k (fun b => { b with keep := false })
      if b.state = 1 then givePair s x w.d 2 0
      else startJob (if b.state = 2 then askReclaim s k b else s) x w.d 2 (.stub k))

end Sys2Proof.Machine
end

