-- ==== Sys2Proof/Machine/Launch.lean ====
section
/-! DEFINITION. Machine/Launch.lean: launching grids (R237 to R241, R271), heats (R216, R218, R250, R251, R279, R316),
and the completion of a grid (R244). -/

namespace Sys2Proof.Machine

/-! ## Completion words and dependences (R241) -/

def doneAddr (s : State) (i : Nat) : Nat := s.cwtbase.toNat + 8 * i

/-- Every used dependence's completion word has reached its value. -/
def depsMet (s : State) (r : LaunchRec) : Bool := r.deps.all (fun d => d.2 ≤ sysPeek s (doneAddr s d.1) 8)

/-- A queued grid whose dependences are met becomes ready. -/
def Grid.test (s : State) (d : Grid) : Grid := if d.state = 1 && !d.ready && depsMet s d.lr then { d with ready := true } else d

def testDeps (s : State) : State := { s with grids := s.grids.map (fun g => (g.1, g.2.test s)) }

/-- DEPENDENCE_POLL (R241): the scheduler finds a queued grid whose dependences another agent has met. -/
def execDependencePoll (s : State) : Out :=
  if s.phase != .running then .fault .dark
  else if s.grids.any (fun g => g.2.state == 1 && !g.2.ready && depsMet s g.2.lr) then .next (testDeps s) else .fault .notEnabled

/-! ## LAUNCH and LAUNCHW (R240, R271) -/

/-- What a launch is checked against: the launching crew's context, privilege, group and priority. -/
def launcherOf (s : State) (w : Crew) : Launcher :=
  { ctx := w.ctx, priv := w.priv, group := w.group, prio := match w.guest with
    | some g => g.cont.prio
    | none => (s.grid w.grid).lr.prio }

/-- The record is read once the release is complete. -/
def launchWord (w : Op) (wait : Bool) (s : State) : Out :=
  sysWord { w, ra := 2 } false s (fun x s =>
    let a := usrc64 s x w.a
    let (res, s) := openResult s x [] (udst w.d 1)
    order s x true false 3 x.on (.launch w.d (w64 a) wait res))

def execLaunch (w : Op) (s : State) : Out := launchWord w false s
def execLaunchw (w : Op) (s : State) : Out := launchWord w true s

/-- Status 3 (R240). -/
def launchDenied (who : Launcher) (r : LaunchRec) : Bool :=
  !who.priv && (r.priv || r.ctx != who.ctx || (r.group != who.group && r.group != 0xFFFF) || who.prio < r.prio)

/-- Grid ids that no grid has. -/
def freeIds (s : State) : List Nat := (List.range 256).filter (fun g => (s.grid g).state == 0)

/-- The status of a record that could be read, before its tables are (R240). Log entry 85 (DESIGN CHOICE). -/
def launchStatus (s : State) (who : Launcher) (b : List Byte) : Nat :=
  let r := parseRecord b
  if !(recordOk b) then 2
  else if launchDenied who r then 3
  else if neverFits s r then 4
  else if (freeIds s).isEmpty then 1
  else 0

/-- The migrated registers that a kernel table entry lists (R56). Log entry 86 (DEDUCED). -/
def kdescRegs (b : List Byte) : List Nat × List Nat :=
  ((List.range (min 16 (recField b 0x12 1))).map (fun i => recField b (0x18 + i) 1),
   (List.range (min 8 (recField b 0x13 1))).map (fun i => recField b (0x28 + 2 * i) 2))

/-- The words of a timetable. Log entry 86 (DEDUCED). -/
def tableWords (b : List Byte) (n : Nat) : List W32 := (List.range n).map (fun i => w32 (recField b (4 * i) 4))

/-- A grid is accepted: it takes a free id and enters its queue (R240, R241). Log entry 139 (DESIGN CHOICE). -/
def acceptGrid (s : State) (r : LaunchRec) (tt : List W32) (regs : List Nat × List Nat) : Nat × State :=
  let ids := freeIds s
  let g := ids.getD (Config.gridChoice s.free % ids.length) 0
  let (n, s) := { s with free := s.free + 1 }.fresh
  let d : Grid := { lr := r, state := 1, teamsLeft := r.teams, accepted := n, timetable := tt, vregs := regs.1, uregs := regs.2 }
  (g, { s with grids := tset s.grids g (d.test s) })

/-- The launch goes on: its record is read and checked, then its tables, and the grid is accepted or refused.
Log entry 85 (DESIGN CHOICE). -/
def launchStep (s : State) (j : Job) (b : List Byte) (addr : Nat) (wait : Bool) (who : Launcher) : State :=
  let ask (s : State) (i ctx va n : Nat) : State × Got := engRead s [2, j.id, i] j.core ctx va n
  if addr % 128 ≠ 0 then endJob s j [2]
  else if b.isEmpty then
    match ask s 0 who.ctx addr 128 with
    | (s, .wait) => s
    | (s, .bad _ _) => endJob s j [5]
    | (s, .ok b) =>
      let v := launchStatus s who b
      if v ≠ 0 then endJob s j [w32 v] else setJob s { j with kind := .launch b addr wait who }
  else
    let r := parseRecord b
    match if r.heats = 0 then (s, .ok []) else ask s 1 r.ctx r.timetable.toNat (4 * r.heats) with
    | (s, .wait) => s
    | (s, .bad _ _) => endJob s j [5]
    | (s, .ok tt) =>
      let words := tableWords tt r.heats
      if words.any (fun v => bf v.toNat 1 15 != 0) then endJob s j [2]
      else match ask s 2 r.ctx r.kdesc.toNat 64 with
        | (s, .wait) => s
        | (s, .bad _ _) => endJob s j [5]
        | (s, .ok k) =>
          let v := launchStatus s who b
          if v ≠ 0 then endJob s j [w32 v]
          else
            let (g, s) := acceptGrid s r words (kdescRegs k)
            if wait then setJob s { j with kind := .gridWait g } else endJob s j [w32 (g * 65536)]

/-! ## Teams of a grid -/

/-- Where a crew is resident, by its number. -/
def findCrew (s : State) (uid : Nat) : Option (Nat × Nat) :=
  s.cores.findSome? (fun c => (c.2.slots.find? (fun k => k.2.st == .resident && k.2.uid == uid)).map (fun k => (c.1, k.1)))

/-- A crew, at home or a guest here, of this chip's grid. -/
def crewOfGrid (s : State) (g : Nat) (w : Crew) : Bool := w.grid == g && !(foreign s w)

/-- Team slots whose accounts belong to a grid: its teams', and those of its guest crews here (R404). -/
def gridAccounts (s : State) (g : Nat) : List (Nat × Nat) :=
  s.cores.flatMap (fun c => (c.2.teams.filter (fun t => t.2.grid == g && (!t.2.guest || t.2.homeChip == s.chipid))).map (fun t => (c.1, t.1)))

/-- No weight of a grid is outstanding. -/
def accountsClear (s : State) (g : Nat) : Bool := (gridAccounts s g).all (fun t => let m := s.team t.1 t.2; m.appended == m.acked)

/-- Records of an account that have not been released. -/
def unreleased (s : State) (c t : Nat) : Bool :=
  let o := s.core c
  let m := s.team c t
  o.log.any (fun e => e.ts == t) || o.spill.any (fun e => e.ts == t) || !m.engines.isEmpty || !m.remotes.isEmpty ||
  (s.quad (quadOfCore c)).bins.any (fun b => b.2.recs.any (fun r => r.2.ts == t && r.2.ciq == ciqOfCore c))

/-- Every account of a grid reaches its release point. -/
def releaseGrid (s : State) (g : Nat) : State := releaseTeams s (gridAccounts s g)

/-! ## Heats -/

/-- HEATEND (R279): the crew's lanes park until the heat ends. Log entry 65 (DEDUCED). -/
def execHeatend (s : State) : Out :=
  issue s { coll := true } (fun x s => if x.on == 0 then s else collective s x 32 (fun s =>
    if !(inHeat s (s.crew x.c x.k)) then faultLanes s x (raises x.on 0x50)
    else order (s.modCrew x.c x.k (forLanes x.mask (fun l k => k.setPark l .heat))) x true false 3 x.on .heat))

/-- A crew of a grid's team that runs here, at home or as a guest. -/
def teamCrews (s : State) (g t : Nat) : List Crew :=
  s.cores.flatMap (fun c => (c.2.slots.filter (fun k => k.2.st == .resident && crewOfGrid s g k.2 && k.2.team == t)).map (·.2))

/-- A lane has executed HEATEND, and its crew's release is complete. -/
def Crew.atHeatEnd (w : Crew) (l : Nat) : Bool :=
  w.mask.getLsbD l && w.parkOf l == .heat && w.ords.all (fun o => !(o.after == .heat))

/-- A REDF or BKADD of this request will be held at its slice (R218, R470). -/
def Req.toHold (r : Req) : Bool := match r.acc with | .redf _ h => h | .bkadd _ h => h | _ => false

/-- A team completes the heat: every live lane of its crews, wherever it runs, has executed HEATEND, and every REDF has
reached its slice (R251, R409). A team that is saved, or has not been placed, has not. Log entry 64 (DEDUCED). -/
def teamDone (s : State) (g i : Nat) : Bool :=
  if (s.grid g).retired.contains i then true
  else
    let crews := teamCrews s g i
    let home := crews.filter (fun w => w.guest.isNone)
    let lane (j l : Nat) : Bool := crews.any (fun w => w.crewid == j && (w.atHeatEnd l || (w.guest.isNone && w.heatAway.getLsbD l)))
    let mine (r : Req) : Bool := let m := s.team r.core r.ts; m.grid == g && m.index == i && (!m.guest || m.homeChip == s.chipid)
    !home.isEmpty && home.all (fun w => (lanesOf w.live).all (lane w.crewid)) && !(s.reqs.any (fun r => r.toHold && mine r))

/-- The lowest team that has not completed the heat (R218). -/
def watermarkOf (s : State) (g : Nat) : Nat :=
  let n := (s.grid g).lr.teams
  ((List.range n).find? (fun i => !(teamDone s g i))).getD n

/-- HELD_REDF_APPLY: one held operation is applied; poison takes it without a change (R218). -/
def applyHeld (s : State) (h : HeldOp) : State :=
  let ctx := entCtx (frameEntry s (stackOf h.addr) (frameOf h.addr))
  let org := originVal s.chipid h.core false h.slot
  let (s, b, bad) := devRead s ctx h.addr 4
  if !bad.isEmpty then poisonEvent s (h.addr / 32) org
  else match rmwNew h.fn 4 (leNat b) h.value.toNat 0 with
    | some v => devWrite s ctx (cellsAt h.addr (leBytes 4 v)) false org
    | none => s

/-- Held operations in key order. Log entry 64 (DEDUCED). -/
def insertHeld (h : HeldOp) : List HeldOp → List HeldOp
  | [] => [h]
  | x :: t => if keyLt h.key x.key then h :: x :: t else x :: insertHeld h t

/-- The held operations of a grid of this chip whose team the watermark has passed. -/
def ripe (s : State) (g : Nat) (h : HeldOp) : Bool := h.grid == g && h.chip == s.chipid && h.key.team < (s.grid g).watermark

/-- A stack applies its held operations below the watermark, in key order. -/
def applyRipe (g : Nat) (s : State) (m : Nat) : State :=
  let ops := ((s.stack m).held.filter (ripe s g)).foldl (fun l h => insertHeld h l) []
  ops.foldl applyHeld (s.modStack m (fun k => { k with held := k.held.filter (fun h => !(ripe s g h)) }))

/-- A slice takes operations to hold; those beyond its entries stand in the hold region (R218). Log entry 64 (DEDUCED). -/
def holdOps (s : State) (m : Nat) (l : List HeldOp) : State :=
  s.modStack m (fun k => { k with held := l.foldl (fun t h =>
    t ++ [{ h with spilled := decide (Config.holdEntries ≤ (t.filter (fun q => !q.spilled)).length) }]) k.held })

/-- REDF_AT_SLICE: the slice holds the operations with their keys (R218). -/
def execRedfAtSlice (id : Nat) (s : State) : Out :=
  match findReq s id with
  | none => .fault .notEnabled
  | some r =>
    match r.acc, r.owner with
    | .redf fn true, some (.dram _ m _) =>
      if !(served s r) then .fault .notEnabled
      else
        let t := s.team r.core r.ts
        let op (p : Piece) : HeldOp := { key := p.key.getD { heat := 0, team := t.index, lane := p.lane, seq := 0 }, grid := t.grid, addr := devOf r p.addr
                                         fn, value := p.b.setWidth 32, chip := if t.guest then t.homeChip else s.chipid, core := r.core, slot := r.slot }
        .next (pump (dropReq (holdOps (track s r) m (r.pieces.map op)) r) r.core)
    | _, _ => .fault .notEnabled

/-- WATERMARK_BROADCAST: the watermark of a heat rises, and the slices apply what lies below it (R218). -/
def execWatermarkBroadcast (g : Nat) (s : State) : Out :=
  let d := s.grid g
  let w := watermarkOf s g
  if d.state = 2 && d.heat < d.lr.heats && d.watermark < w then
    .next ((List.range Config.nStacks).foldl (applyRipe g) (s.modGrid g (fun d => { d with watermark := w })))
  else .fault .notEnabled

/-- The timetable entry of the current heat. -/
def Grid.entryNow (d : Grid) : Nat := (d.timetable.getD d.heat 0).toNat

/-- The next heat begins for every crew of the grid in one step, with the matching acquire (R251, R279).
Log entry 65 (DEDUCED). -/
def nextHeat (s : State) (g : Nat) : State :=
  let h := (s.grid g).heat + 1
  let step (w : Crew) : Crew := { w.unpark (s.clk + 2) (· == .heat) with heat := h, seq := [], heatAway := 0 }
  let s := (s.grid g).hosted.foldl (fun s c => sendNote s c (.heat g h)) s
  let cores := (s.cores.filter (fun c => c.2.slots.any (fun k => k.2.st == .resident && crewOfGrid s g k.2))).map (·.1)
  let s := cores.foldl (fun s c => invalL1 (s.modCore c (fun o => o.mapCrews (crewOfGrid s g) step)) c) s
  s.modGrid g (fun d => { d with heat := h, heatStart := s.podNs, dogPosted := false, watermark := 0, asked := false, waitFor := [] })

/-- The chips that have had guest crews of a grid are asked to stop for the end of a heat or of the grid: 0 nothing is released,
1 every record is, 2 and they wait until they are applied (R316, R404, R411). Log entry 140 (DESIGN CHOICE).
Log entry 104 (DEDUCED). -/
def askHosts (s : State) (g rel : Nat) (close : Bool) : State :=
  let d := s.grid g
  (d.hosted.foldl (fun s c => sendNote s c (.stop g rel close)) s).modGrid g (fun d => { d with asked := true, waitFor := d.hosted })

/-- HEAT_END (R251, R316). A heat with COMMIT first releases its records and waits for them; the last heat releases
them as it ends. -/
def execHeatEnd (g : Nat) (s : State) : Out :=
  let d := s.grid g
  let ends := d.state == 2 && d.heat < d.lr.heats && d.saved.isEmpty && d.watermark == d.lr.teams && watermarkOf s g == d.lr.teams &&
    !(s.stks.any (fun m => m.2.held.any (fun h => h.grid == g && h.chip == s.chipid)))
  let last := d.heat + 1 = d.lr.heats
  if !ends then .fault .notEnabled
  else if !d.asked && !d.hosted.isEmpty then .next (askHosts s g (if bit d.entryNow 0 then 2 else b2n last) false)
  else if !d.waitFor.isEmpty then .fault .notEnabled
  else if bit d.entryNow 0 then
    if accountsClear s g then .next (nextHeat s g)
    else if (gridAccounts s g).any (fun t => unreleased s t.1 t.2) then .next (releaseGrid s g)
    else .fault .notEnabled
  else .next (nextHeat (if last then releaseGrid s g else s) g)

/-- HEAT_WATCHDOG (R250). -/
def execHeatWatchdog (g : Nat) (s : State) : Out :=
  let d := s.grid g
  let ms := bf d.entryNow 16 16
  if 2 ≤ d.state && d.state ≤ 3 && d.heat < d.lr.heats && ms != 0 && !d.dogPosted && d.heatStart + ms * 1000000 < s.podNs then
    .next ((s.modGrid g (fun d => { d with dogPosted := true })).post d.die { typ := 0x0B, grid := g, value := w32 d.heat })
  else .fault .notEnabled

/-! ## A grid completes (R244) -/

/-- Nothing of a grid is left here: no crew, saved unit or write, no held operation, no outstanding weight, and no lane that a
host still has to remove.
Log entry 104 (DEDUCED). -/
def gridQuiet (s : State) (g : Nat) : Bool :=
  !(s.cores.any (fun c => c.2.slots.any (fun k => k.2.st != .free && crewOfGrid s g k.2))) &&
  !(s.saves.any (fun u => u.2.grid == g)) &&
  !(s.reqs.any (fun r => r.acc.writes && (let m := s.team r.core r.ts; m.grid == g && (!m.guest || m.homeChip == s.chipid)))) &&
  !(s.stks.any (fun m => m.2.held.any (fun h => h.grid == g && h.chip == s.chipid))) && accountsClear s g && (s.grid g).removing.isEmpty

/-- Jobs that waited for a grid's end get their status; a LAUNCHW acquires at chip scope (R271, R275). -/
def endGridJobs (s : State) (g : Nat) : State :=
  s.jobs.foldl (fun s j => match j.kind with
    | .gridWait h => if h != g then s else
      let s := match findCrew s j.uid with
        | some (c, k) => acquire s c k 3
        | none => s
      endJob s j [w32 (g * 65536)]
    | .preempt h => if h == g then endJob s j [0] else s
    | _ => s) s

/-- GRID_COMPLETE: once every team has retired the grid's records are released, and when everything is done its
completion word rises by 1, with release at system scope. Log entry 104 (DEDUCED). -/
def execGridComplete (g : Nat) (s : State) : Out :=
  let d := s.grid g
  if !((d.state == 2 || d.state == 3) && d.teamsLeft == 0 && !d.monitor) then .fault .notEnabled
  else if !d.closing then .next (releaseGrid (s.modGrid g (fun d => { d with closing := true })) g)
  else if !(gridQuiet s g) then
    (if (gridAccounts s g).any (fun t => unreleased s t.1 t.2) then .next (releaseGrid s g) else .fault .notEnabled)
  else if !d.asked && !d.hosted.isEmpty then .next (askHosts s g 2 true)
  else if !d.waitFor.isEmpty then .fault .notEnabled
  else
    let s := cleanAll s (fun _ _ => true)
    let a := doneAddr s d.lr.done
    let (s, v) := sysRead s a 8
    let s := sysWrite s a 8 ((v + 1) % 2 ^ 64)
    let s := { s with clusters := s.clusters.filter (fun x => !(x.grid == g)), commits := s.commits.filter (fun m => m.scope == 4 || !(m.grid == g)) }
    let s := endGridJobs s g
    let s := if d.lr.notify then
        (s.modGrid g (fun d => { d with state := 4, teamsLeft := 0 })).post d.die { typ := 0x04, grid := g, value := w32 d.lr.done }
      else { s with grids := tdel s.grids g }
    .next (settleCommits (testDeps s))

end Sys2Proof.Machine
end

