-- ==== Sys2Proof/Machine/Context.lean ====
section
/-! DEFINITION. Machine/Context.lean: pre-emption and context images (R95, R102, R254 to R258, R274, R275, R317, R342, R377,
R410, R472). -/

namespace Sys2Proof.Machine

/-! ## Halting (R255, R410) -/

/-- A message to every host that holds lanes of an origin crew. Log entry 115 (DEDUCED). -/
def toHosts (s : State) (c k : Nat) (body : HostRec → Body) : State :=
  let hosts := ((s.crew c k).hosts.map (fun e => (e.2.chip, e.2.core, e.2.slot))).eraseDups
  hosts.foldl (fun s h => sendNote s h.1 (body { chip := h.1, core := h.2.1, slot := h.2.2, moving := false })) s

/-- A crew halts, with the guest crews that hold its lanes. -/
def haltCrew (c : Nat) (s : State) (k : Nat) : State :=
  if (s.crew c k).halted then s
  else
    let s := s.modCrew c k (fun w => { w with halted := true })
    if (s.crew c k).guest.isSome then s else toHosts s c k (fun h => .halt s.chipid c k h.core h.slot)

/-- Crew slots of a core that hold crews of a grid. -/
def slotsOfGrid (s : State) (g c : Nat) : List Nat :=
  ((s.core c).slots.filter (fun k => k.2.st == .resident && crewOfGrid s g k.2)).map (·.1)

/-- A halt is on its way to every core that holds crews of the grid; with none the grid is halted at once. -/
def haltGrid (s : State) (g : Nat) : State :=
  let cores := (s.cores.filter (fun c => !(slotsOfGrid s g c.1).isEmpty)).map (·.1)
  s.modGrid g (fun d => { d with halting := cores, state := if cores.isEmpty then 3 else d.state })

/-- PREEMPT_HALT: every crew of the grid on a core has halted; STATE is 3 once every core has (R255). -/
def execPreemptHalt (c g : Nat) (s : State) : Out :=
  if !((s.grid g).halting.contains c) then .fault .notEnabled
  else
    let s := (slotsOfGrid s g c).foldl (haltCrew c) s
    .next (s.modGrid g (fun d =>
      let left := d.halting.filter (· != c)
      { d with halting := left, state := if left.isEmpty && d.state == 2 then 3 else d.state }))

/-- Every lane of a crew that is away is in a guest crew that has halted (R410). Log entry 96 (DESIGN CHOICE). -/
def Crew.awayHalted (w : Crew) : Bool := w.live &&& w.away &&& ~~~w.haltedAway == 0

/-- Every crew of a grid has halted, moves and guest crews included (R255, R410). Log entry 96 (DESIGN CHOICE). -/
def gridHalted (s : State) (g : Nat) : Bool :=
  let d := s.grid g
  d.state != 2 && d.halting.isEmpty && !(s.lmoves.any (fun m => m.stage != 8 && crewOfGrid s g (s.crew m.core m.slot))) &&
  s.cores.all (fun c => c.2.slots.all (fun k => k.2.st != .resident || !(crewOfGrid s g k.2) || (k.2.halted && k.2.awayHalted)))

/-- PREEMPT (R275); the monitor teams are never pre-empted (R243). Log entry 96 (DESIGN CHOICE). -/
def execPreempt (w : Op) (s : State) : Out :=
  sysWord { w } true s (fun x s =>
    let g := usrc s x w.a % 256
    let d := s.grid g
    if d.state != 2 || d.monitor then giveLong s x w.d 1 else startJob (if d.halting.isEmpty then haltGrid s g else s) x w.d 1 (.preempt g))

/-! ## Placement units (R256) -/

/-- The resident teams of the unit that a team belongs to: core, team slot. -/
def unitOf (s : State) (g team : Nat) : List (Nat × Nat) :=
  let n := clusterSize (s.grid g)
  ((placedTeams s g).filter (fun t => t.2.2.index / max 1 n == team / max 1 n)).map (fun t => (t.1, t.2.1))

/-- The crew slots of a team. -/
def teamSlots (s : State) (c t : Nat) : List Nat := ((s.core c).slots.filter (fun k => k.2.st == .resident && k.2.ts == t)).map (·.1)

def unitHalted (s : State) (u : List (Nat × Nat)) : Bool := !u.isEmpty && u.all (fun t => (teamSlots s t.1 t.2).all (fun k => (s.crew t.1 k).halted))

/-- A map write of this range reaches the team of a slot of core `c`: its scratchpad or presence bits, or the registers of one
of its crews (R164, R256). -/
def mapReaches (s : State) (a n : Nat) (t : Nat × Nat) : Bool :=
  let m := s.team t.1 t.2
  let f := mapOfs a
  let crews (size : Nat) : Bool := (teamSlots s t.1 t.2).any (fun k => overlaps f n (k * size) size)
  mapCore a == t.1 && (match mapReg a with
    | 0 => overlaps f n m.scrBase m.scratch
    | 1 => crews 32768
    | 2 => crews 2048
    | 4 => overlaps (512 * f) (512 * n) m.scrBase m.scratch
    | _ => true)

/-- A copy operation of core `c` reaches the unit's team: a scratchpad destination or completion word, its FIFOs, its
registers, or an arrival counter bound to it (R256 step 3, R342). -/
def opReaches (s : State) (c : Nat) (o : CopyOp) (t : Nat × Nat) : Bool :=
  let m := s.team t.1 t.2
  let inRun (a n : Nat) : Bool := overlaps a n m.scrBase m.scratch
  (o.cw.any (fun a => c == t.1 && inRun a 4)) || (o.kind == .feed && c == t.1 && o.ts == t.2) || (o.kind == .winw && o.aux == s.chipid && mapReaches s o.dst.toNat o.n t) ||
  (o.kind == .bget && o.bulk.any (fun b => b.act.any (fun a => c == t.1 && (tget? (s.core c).arrCtrs a.2).any (fun q => q.ts == t.2)))) ||
  (o.ds != 0 && o.left.any (fun u => u.dst / 2 ^ 32 == t.1 && inRun (u.dst % 2 ^ 32) u.n))

/-- A request that the image holds, and that goes on waiting when it is restored (R95, R197): it waits for an absent line, for
miss-status entries, its own or those of a line before it, or for a row. Log entry 94 (DEDUCED). -/
def Req.parks (s : State) (r : Req) : Bool :=
  let behind := r.stage == .ready && !r.defers && s.reqs.any (fun q => q.core == r.core && q.stage == .stalled)
  let row := r.space == 2 && r.stage == .scratch && r.acc.writes && r.pieces.any (fun p => mapReg p.addr == 1 && !(mapReady s r.id p.addr p.len true))
  !r.absent.isEmpty || r.stage == .stalled || behind || row

/-- A request of a word that found the log full and is executed again (R95). -/
def Req.logs (s : State) (r : Req) : Bool := r.stage == .ready && r.defers && logHeld s r

/-- A wait's read, which is executed again (R95). -/
def Req.waits (r : Req) : Bool := match r.acc with | .wait _ => true | _ => false

/-- What an order may still have to do when its crew is saved: a fence, a commit, a FACK, which are executed again (R230), or
the acquire of a word whose image waits. -/
def ordSaved (s : State) (o : Ord) : Bool :=
  match o.after with
  | .fence => true
  | .commit _ _ _ => true
  | .fack => true
  | .reqs l => s.reqs.all (fun r => !(l.contains r.id) || r.parks s)
  | _ => false

/-- A crew has nothing under way that its image cannot hold (R197, R230, R410). -/
def crewQuiet (s : State) (c k : Nat) : Bool :=
  let w := s.crew c k
  s.reqs.all (fun r => r.uid != w.uid || r.parks s || r.waits || r.logs s) && w.results.all (fun r => !r.ready) && w.ords.all (ordSaved s) && w.sysHold == 0 &&
  !(s.lmoves.any (fun m => m.core == c && m.slot == k))

/-- Bank commands of a team that are not complete (R472). -/
def bankBusy (s : State) (c t : Nat) : Bool :=
  s.stks.any (fun m => m.2.bankQ.any (fun b => b.core == c && b.ts == t)) || s.reqs.any (fun r => r.core == c && r.ts == t && r.acc.bank)

/-- CTXSAVE may write the image (R256 step 3, R342). -/
def unitQuiet (s : State) (u : List (Nat × Nat)) : Bool :=
  u.all (fun t => !(s.core t.1).copyFrozen && !(quadBusy s t.1 t.2) && !(bankBusy s t.1 t.2) && (teamSlots s t.1 t.2).all (crewQuiet s t.1) &&
    s.cores.all (fun c => c.2.copies.all (fun o => !(opReaches s c.1 o t))))

/-! ## The image (R256) -/

/-- A wait's lanes execute its word again. Log entry 94 (DEDUCED). -/
def undoWait (w : Crew) (q : Wait) : Crew := forLanes (q.lanes ||| q.also) (fun l w => (w.setPark l .no).setPc l q.pc) w

/-- A crew as its image holds it (R95): the time-dependent parts are counts, and a release at system scope asks again.
Log entry 94 (DEDUCED). Log entry 95 (DEDUCED). -/
def suspend (clk : Nat) (w : Crew) : Crew :=
  let anew (o : Ord) : Ord := { o with asked := false, waitFor := [] }
  let w := { w.waits.foldl undoWait w with waits := [], ords := w.ords.map anew }
  let again : Park → Bool
    | .row | .log | .fault | .resume _ => true
    | _ => false
  { w with park := w.park.filter (fun e => !(again e.2)), active := false, promoted := none, yieldTo := w.yieldTo - clk, starved := none }

/-- The state of a team that its image holds, and its crews. Log entry 93 (DEDUCED). -/
def imageOf (s : State) (c t : Nat) : SavedTeam :=
  let o := s.core c
  let m := s.team c t
  let lines := linesOf m.scrBase m.scratch
  let rebase (l : List Nat) : List Nat := (l.filter lines.contains).map (· - m.scrBase / 64)
  let q := s.quad (quadOfCore c)
  let fifo := o.fifoTeam == some t
  let tiles : Tab W32 := m.tiles.zipIdx.flatMap (fun e => (q.acc.filter (fun a => a.1 / 4096 == e.1)).map (fun a => (e.2 * 4096 + a.1 % 4096, a.2)))
  let banks : Tab PcSt := s.stks.flatMap (fun k => (k.2.pcs.filter (fun p => p.2.claim == some (c, t))).map (fun p => (k.1 * 384 + p.1, p.2)))
  { team := m, ts := t, core := c
    crews := (teamSlots s c t).map (fun k => (k, suspend s.clk (s.crew c k)))
    scratch := (o.scratch.filter (fun e => m.scrBase ≤ e.1 && e.1 < m.scrBase + m.scratch)).map (fun e => (e.1 - m.scrBase, e.2))
    absent := rebase ((o.absent.filter (·.2)).map (·.1)), mapClr := rebase o.mapClr
    fifoA := if fifo then o.fifoA else [], fifoB := if fifo then o.fifoB else [], tiles, banks
    arrs := o.arrCtrs.filter (fun e => e.2.ts == t)
    reqs := s.reqs.filter (fun r => r.core == c && r.ts == t && r.parks s) }

/-- The lanes of a word that found the log full stand at the word again (R95). Log entry 94 (DEDUCED). -/
def undoLog (s : State) (c k : Nat) : State :=
  let w := s.crew c k
  let l := s.reqs.filter (fun r => r.uid == w.uid && r.logs s)
  let back (w : Crew) (r : Req) : Crew :=
    forLanes r.lanes (fun l w => w.setPc l r.pc) { w with lasts := w.lasts.filter (fun e => !(e.1 == r.word)) }
  { s with reqs := s.reqs.filter (fun r => !(l.contains r)) }.modCrew c k (fun w => l.foldl back w)

/-- The lanes that a wait's image drops leave the results of its words. -/
def dropWaits (s : State) (c k : Nat) : State :=
  let w := s.crew c k
  let cut (f : Fill) : Fill := match w.waits.find? (fun q => q.res == f.res) with
    | some q => { f with lanes := f.lanes &&& ~~~q.lanes }
    | none => f
  let s := { s with reqs := s.reqs.filter (fun r => !(r.uid == w.uid && r.waits)), fills := s.fills.map cut }
  let res := w.waits.map (·.res)
  res.foldl closeFill (s.modCrew c k (fun w => { w.waits.foldl undoWait w with waits := [] }))

/-- A saved team gives back its slots, rows, scratchpad, tiles, FIFOs and claims; its account stays (R256, R257). -/
def freeTeam (s : State) (c t : Nat) : State :=
  let s := s.modCore c (fun o => { o with slots := o.slots.filter (fun k => !(k.2.st == .resident && k.2.ts == t)) })
  let s := { s with reqs := s.reqs.filter (fun r => !(r.core == c && r.ts == t && r.parks s)) }
  let s := endClaims (endReservation (unbindAll (endPins s c t) c t) c t) c t
  s.modTeam c t (fun m => { m with live := false, crews := 0, scratch := 0, bars := [] })

/-- The unit leaves the mesh and is held as an image. -/
def takeUnit (s : State) (g key size : Nat) (pool : List Nat) (u : List (Nat × Nat)) : State :=
  let s := u.foldl (fun s t => (teamSlots s t.1 t.2).foldl (fun s k => dropWaits (undoLog s t.1 k) t.1 k) s) s
  let teams := u.map (fun t => imageOf s t.1 t.2)
  let cl := match u with
    | t :: _ => (s.team t.1 t.2).cluster
    | [] => 0
  let x := s.clusters.find? (fun x => x.grid == g && x.index == cl)
  let v : SavedUnit := { grid := g, teams, cluster := x, size, pool }
  let s := u.foldl (fun s t => freeTeam s t.1 t.2) s
  let s := { s with saves := tset s.saves key v, clusters := s.clusters.filter (fun x => !(x.grid == g && x.index == cl)) }
  s.modGrid g (fun d => { d with saved := d.saved ++ [key] })

/-- The size of an image of `n` teams: at most 1 MiB for each. -/
def imageLen (key n : Nat) : Nat := 16 + Config.imageSize key % (n * 2 ^ 20 - 15)

/-- Its bytes: the size, the chip's own check, and what the layout leaves to the chip. Log entry 93 (DEDUCED). -/
def imageBytes (key len : Nat) : List Byte :=
  leBytes 8 len ++ leBytes 8 (Config.imageMark key).toNat ++ (List.range (len - 16)).map (Config.imageByte key)

/-! ## CTXSAVE (R256, R274) -/

/-- Everything in a core's log reaches the bins. Log entry 94 (DEDUCED). -/
def drainCore (s : State) (c : Nat) : State := ((s.core c).teams.map (·.1)).foldl (fun s t => drainTeam s c t) s

/-- The context of the crew that a system word belongs to. -/
def jobCtx (s : State) (j : Job) : Nat := match findCrew s j.uid with | some (c, k) => (s.crew c k).ctx | none => 0

/-- The writes of an image to virtual memory: what has been sent, or a cause; none while a page cannot be reached.
Log entries 94 (DEDUCED), 146 (DESIGN CHOICE). -/
def writeImage (s : State) (j : Job) (ctx addr : Nat) (b : List Byte) : State × Option (List (Nat × Nat) ⊕ Nat) :=
  let ps := linePieces addr (b.length / 256 + 2) b.length
  let look := ps.foldl (fun (acc : State × Option (Option Nat)) p =>
    match acc.2 with
    | some none => (match engLook acc.1 (dieOfCore j.core) ctx p.1 true with
      | (s, .wait) => (s, none)
      | (s, .bad c) => (s, some (some c))
      | (s, _) => (s, some none))
    | _ => acc) (s, some none)
  match look with
  | (s, none) => (s, none)
  | (s, some (some c)) => (s, some (.inr c))
  | (s, some none) =>
    let ts := (s.crew j.core j.slot).ts
    let r := ps.foldl (fun (acc : State × (List (Nat × Nat) ⊕ Nat)) p =>
      let part := (b.drop ((p.1 + 2 ^ 64 - addr) % 2 ^ 64)).take p.2
      match acc.2 with
      | .inr _ => acc
      | .inl l => (match engWrite acc.1 j.core ctx p.1 part (originVal s.chipid j.core true ts) with
        | (s, .done) => (s, .inl l)
        | (s, .sent c q) => (s, .inl (l ++ [(c, q)]))
        | (s, .deferred c dev g) => (match appendTeam (drainCore s j.core) j.core ts (storeRecs c g 256 dev part) with
          | .done s => (s, .inl l)
          | .full s => (s, .inr 0x15)
          | .noChunk => (s, .inr 0x15))
        | (s, .wait) => (s, .inl l)
        | (s, .bad c) => (s, .inr c))) (s, .inl [])
    (r.1, some r.2)

/-- An image memory fault. -/
def imageFault (c : Nat) : W32 := w32 (0x80000000 + c * 256)

/-- A save goes on: it waits for the unit, writes the image, waits for its writes, and frees the unit.
Log entry 146 (DESIGN CHOICE). -/
def saveStep (s : State) (j : Job) (g team addr : Nat) (pool : List Nat) (key : Nat) (seqs : List (Nat × Nat)) : State :=
  let d := s.grid g
  let u := unitOf s g team
  if !(d.state == 2 || d.state == 3) then (if pool.isEmpty then endJob s j [0x80000002] else dropJob s j)
  else if !(unitHalted s u) then (if pool.isEmpty then endJob s j [0x80000001] else if u.isEmpty then dropJob s j else s)
  else if key = 0 then
    if !(unitQuiet s u) then s
    else
      let (id, s) := s.fresh
      let key := id + 1
      let len := imageLen key u.length
      if pool.isEmpty then
        (match writeImage s j (jobCtx s j) addr (imageBytes key len) with
         | (s, none) => s
         | (s, some (.inr c)) => endJob s j [imageFault c]
         | (s, some (.inl l)) => setJob s { j with kind := .save g team addr pool key l })
      else
        let s := u.foldl (fun s t => wakeLog (shipTeam (drainTeam s t.1 t.2) t.1 t.2) t.1) s
        let s := pool.foldl (fun s i => memStore s 0 (cellsAt (s.savebase.toNat + i * 2 ^ 20) (imageBytes key (imageLen key 1))) false 0) s
        dropJob (takeUnit s g key len pool u) j
  else if !(unitQuiet s u) || !(seqs.all (pktDone s)) then s
  else
    let len := imageLen key u.length
    endJob (takeUnit s g key len pool u) j [w32 len]

/-- CTXSAVE: refused unless the unit is halted; its partial bins are flushed (R256 steps 1 and 2). -/
def execCtxsave (w : Op) (s : State) : Out :=
  sysWord { w, ra := 2 } true s (fun x s =>
    let unit := usrc s x w.b
    let g := unit / 2 ^ 24 % 256
    let team := unit % 2 ^ 24
    let d := s.grid g
    let u := unitOf s g team
    if !(d.state == 2 || d.state == 3) then giveLong s x w.d 0x80000002
    else if !(unitHalted s u) then giveLong s x w.d 0x80000001
    else
      let a := usrc64 s x w.a
      let s := u.foldl (fun s t => wakeLog (shipTeam (drainTeam s t.1 t.2) t.1 t.2) t.1) s
      startJob s x w.d 1 (.save g team a [] 0 []))

/-! ## CTXLOAD (R258, R274, R377, R472) -/

/-- Rows that a saved crew takes: its reservation and its loans (R102). -/
def savedRows (v : SavedTeam) : Nat := (v.crews.map (fun e => max e.2.floor e.2.rows)).sum

/-- The team slot for a restored team: its own if its account is still there, else a free one. -/
def restoreSlot (s : State) (v : SavedTeam) (c : Nat) : Option Nat :=
  match tget? (s.core c).teams v.ts with
  | some m => if c == v.core && m.uid == v.team.uid then some v.ts else freeTeamSlot s c
  | none => freeTeamSlot s c

/-- Every pseudo-channel that the unit's teams had claimed is free (R472). -/
def banksFree (s : State) (u : SavedUnit) : Bool :=
  u.teams.all (fun v => v.banks.all (fun e => ((tget ({} : PcSt) (s.stack (e.1 / 384)).pcs (e.1 % 384)).claim).isNone))

/-- Tiles of a restored team, in ascending order, with their contents. -/
def restoreTiles (s : State) (v : SavedTeam) (c t : Nat) : State :=
  if v.team.tiles.isEmpty then s
  else
    let s := reserve s c t v.team.tiles.length
    let phys := (s.team c t).tiles
    let acc : Tab W32 := v.tiles.map (fun e => ((phys.getD (e.1 / 4096) 0) * 4096 + e.1 % 4096, e.2))
    let s := s.modQuad (quadOfCore c) (fun q => { q with acc := acc.foldl (fun a e => tset a e.1 e.2) q.acc })
    s.modCore c (fun o => { o with fifoA := v.fifoA, fifoB := v.fifoB })

/-- A lane that waits for an overlay goes on waiting while its slot is being loaded (R95). Log entry 95 (DEDUCED). -/
def restorePark (o : Core) (clk : Nat) (w : Crew) (e : Nat × Park) : Nat × Park :=
  if e.2 == .overlay && (o.ov (w.pcOf e.1).slot).loading.isNone then (e.1, .resume clk) else e

/-- A restored crew takes a slot, pending where its seat's pending set has a place, with age 0 (R62, R95).
Log entry 95 (DEDUCED). -/
def restoreCrew (c t : Nat) (v : SavedTeam) (s : State) (e : Nat × Crew) : State :=
  match nextCrewSlot (s.core c) with
  | none => s
  | some k =>
    let w := { e.2 with
      active := !(hasPending (s.core c) k), park := e.2.park.map (restorePark (s.core c) s.clk e.2), ts := t, since := s.clk, halted := false, haltedAway := 0, yieldTo := if e.2.yieldTo = 0 then 0 else s.clk + e.2.yieldTo }
    toHosts (s.modCore c (fun o => o.setCrew k w)) c k (fun h => .resume s.chipid v.core e.1 c k h.core h.slot)

/-- A saved team takes a core, if it fits there (R77, R102, R242, R377). Log entry 94 (DEDUCED). -/
def restoreTeam (s : State) (g : Nat) (v : SavedTeam) (c : Nat) : Option State :=
  let o := s.core c
  let r := (s.grid g).lr
  let free := ((List.range 8).filter (fun i => (tget? (s.quad (quadOfCore c)).holders i).isNone)).length
  let ovOk := [0, 1].all (fun i => match r.overlay i with
    | some (id, _, _) => slotHas o i id || !(slotUsed s c i)
    | none => true)
  let tilesOk := v.team.tiles.isEmpty || (o.fifoTeam.isNone && v.team.tiles.length ≤ free)
  if !(v.crews.length ≤ freeSlots o && savedRows v ≤ o.loanFree && ovOk && tilesOk && v.arrs.all (fun a => (tget? o.arrCtrs a.1).isNone)) then none
  else match restoreSlot s v c, scratchRun o v.team.scratch with
    | some t, some base =>
      let old := s.team v.core v.ts
      let kept := old.uid == v.team.uid
      let m := { v.team with scrBase := base, appended := if kept then old.appended else v.team.appended
                             acked := if kept then old.acked else v.team.appended, engines := if kept && c == v.core && t == v.ts then old.engines else []
                             remotes := if kept && c == v.core && t == v.ts then old.remotes else [], tiles := [], fwd := none }
      let s := if kept && !(c == v.core && t == v.ts) then s.modTeam v.core v.ts (fun q => { q with fwd := some (c, t) }) else s
      let s := s.modCore c (fun o => { o with
        teams := tset o.teams t m
        scratch := v.scratch.foldl (fun a e => tset a (base + e.1) e.2) (o.scratch.filter (fun e => !(base ≤ e.1 && e.1 < base + v.team.scratch)))
        arrCtrs := v.arrs.foldl (fun a e => tset a e.1 { e.2 with ts := t }) o.arrCtrs })
      let s := setPresentAll s c (linesOf base v.team.scratch) true
      let s := setPresentAll s c (v.absent.map (· + base / 64)) false
      let s := s.modCore c (fun o => { o with mapClr := o.mapClr ++ v.mapClr.map (· + base / 64) })
      let s := placeOverlays (invalL1 (restoreTiles s v c t) c) c t g r
      let s := { s with stks := v.banks.foldl (fun l e => tset l (e.1 / 384)
        (let q : Stack := tget {} l (e.1 / 384); { q with pcs := tset q.pcs (e.1 % 384) { e.2 with claim := some (c, t) } })) s.stks }
      some (v.crews.foldl (restoreCrew c t v) s)
    | _, _ => none

/-- Requests of an image go on waiting, those for an absent line in the scratchpad's new place; a line in memory is translated
anew (R95, R197). Log entry 94 (DEDUCED). -/
def restoreReq (s : State) (map : List (SavedTeam × Nat)) (r : Req) : Req :=
  let (c, k) := (findCrew s r.uid).getD (r.core, r.slot)
  let r := { r with core := c, slot := k, ts := (s.crew c k).ts }
  if r.space = 0 then { r with stage := .look, tr := none, owner := none, fresh := false, miss := 0 }
  else if r.space = 2 then r
  else match map.find? (fun e => e.1.core == r.tgt) with
  | none => r
  | some (v, c') =>
    let base := ((s.core c').teams.find? (fun t => t.2.live && t.2.uid == v.team.uid)).map (·.2.scrBase) |>.getD 0
    let at_ (a : Nat) : Nat := a - v.team.scrBase + base
    let pieces := r.pieces.map (fun p => { p with addr := at_ p.addr, base := at_ p.base })
    { r with tgt := c', pieces, line := at_ (r.pieces.head?.map (·.addr) |>.getD 0) / 256 * 256
             absent := pieces.flatMap (fun p => absentLines (s.core c') p.addr p.len) }

/-- A saved unit is placed with its first team's core at an origin, and its grid runs again (R258). -/
def restoreUnit (s : State) (key origin : Nat) : Option State :=
  match tget? s.saves key with
  | none => none
  | some u =>
    let r := (s.grid u.grid).lr
    let first := (u.teams.headD { team := {}, ts := 0, core := 0, crews := [], scratch := [], absent := [], mapClr := [], fifoA := [], fifoB := [], tiles := [], banks := [], arrs := [] }).team.index
    let cores := u.teams.map (fun v =>
      let i := v.team.index - first / max 1 (r.ccols * r.crows) * max 1 (r.ccols * r.crows)
      origin + i / max 1 r.ccols * 16 + i % max 1 r.ccols)
    let map := u.teams.zip cores
    if !(colOfCore origin + r.ccols ≤ 16 && rowOfCore origin + r.crows ≤ 12) then none
    else (map.foldl (fun (acc : Option State) e => acc.bind (fun s => restoreTeam s u.grid e.1 e.2)) (some s)).map (fun s =>
      let parked : List Req := u.teams.flatMap (fun (v : SavedTeam) => v.reqs)
      let clusters := s.clusters ++ (u.cluster.map (fun x => { x with origin })).toList
      let s := { s with saves := tdel s.saves key, clusters, reqs := s.reqs ++ parked.map (restoreReq s map) }
      settleCommits (cores.foldl pump (s.modGrid u.grid (fun d => { d with state := 2, saved := d.saved.filter (· != key) }))))

/-- The first origin at which a saved unit fits. -/
def restoreAnywhere (s : State) (key : Nat) : Option State := (List.range Config.nCores).findSome? (restoreUnit s key)

/-- A checked image's unit is placed. -/
def placeUnitSaved (s : State) (j : Job) (key : Nat) (u : SavedUnit) (core : Option Nat) : State :=
  if !(banksFree s u) then s
  else match core with
    | some c => (match if c < Config.nCores then restoreUnit s key c else none with
      | some s => endJob s j [0]
      | none => endJob s j [0x80000004])
    | none => (match restoreAnywhere s key with
      | some s => endJob s j [0]
      | none => s)

/-- A load goes on: the whole image is read and checked, and the unit placed (R256, R258, R274).
Log entry 93 (DEDUCED). -/
def loadStep (s : State) (j : Job) (addr : Nat) (core : Option Nat) : State :=
  let bytes (e : Nat × SavedUnit) : List Byte := imageBytes e.1 e.2.size
  match engRead s [2, j.id, 0] j.core (jobCtx s j) addr 16 with
  | (s, .wait) => s
  | (s, .bad c _) => endJob s j [imageFault c]
  | (s, .ok b) =>
    match s.saves.find? (fun e => e.2.pool.isEmpty && (bytes e).take 16 == b) with
    | none => endJob s j [0x80000003]
    | some (key, u) =>
      match engRead s [2, j.id, 1] j.core (jobCtx s j) (addr + 16) (u.size - 16) with
      | (s, .wait) => s
      | (s, .bad c _) => endJob s j [imageFault c]
      | (s, .ok r) => if b ++ r == bytes (key, u) then placeUnitSaved s j key u core else endJob s j [0x80000003]

/-- CTXLOAD; B = −1 names no core. -/
def execCtxload (w : Op) (s : State) : Out :=
  sysWord { w, ra := 2 } true s (fun x s =>
    let b := usrc s x w.b
    startJob s x w.d 1 (.load (usrc64 s x w.a) (if b = 0xFFFFFFFF then none else some b)))

end Sys2Proof.Machine
end

