-- ==== Sys2Proof/Machine/System.lean ====
section
/-! DEFINITION. Machine/System.lean: traps, identity and clocks, keys, watches and events, freezing and thawing, TLB and
page attributes (R248, R259 to R261, R272 to R284), and the system words that are under way. -/

namespace Sys2Proof.Machine

/-! ## TRAP, ERET (R272) -/

def execTrap (w : Op) (s : State) : Out := issue s { w } (fun x s => faultLanes s x (raises x.on 0x60 (w.mf 3 8)))

/-- ERET: a lane that is not in its handler traps with cause 0x01. -/
def execEret (w : Op) (s : State) : Out :=
  issue s { w } (fun x s =>
    let k := s.crew x.c x.k
    let ok (l : Nat) : Bool := inTrap (tget 0 k.trapinfo l)
    let s' := s.modCrew x.c x.k (forLanes (maskOf ((lanesOf x.on).filter ok)) (trapReturn (w.mb 0)))
    faultLanes s' x (raises (maskOf ((lanesOf x.on).filter (fun l => !(ok l)))) 0x01))

/-! ## GETID, CLKRD (R281) -/

/-- TEAMS of a crew's grid. Log entry 72 (DESIGN CHOICE). -/
def teamsOf (s : State) (w : Crew) : Nat :=
  match w.guest with
  | some g => g.cont.teams
  | none => (s.grid w.grid).lr.teams

def idValue (s : State) (x : Ctx) (n : Nat) : Nat :=
  let k := s.crew x.c x.k
  match n with
  | 0 => x.c
  | 1 => quadOfCore x.c
  | 2 => ciqOfCore x.c
  | 3 => x.k
  | 4 => x.k % 4
  | 5 => dieOfCore x.c
  | 6 => b2n k.priv
  | 7 => k.ctx
  | 8 => k.group
  | 9 => teamsOf s k
  | _ => 0x0001

def execGetid (w : Op) (s : State) : Out :=
  issue s { w, dst := vdst w.d 1, comp := true } (fun x s =>
    let v := idValue s x (w.mf 0 4)
    fixedResult s x 2 (wrOf x true w.d (fun _ => w32 v)))

def execClkrd (w : Op) (s : State) : Out :=
  let form := w.mf 0 2
  let r := if form < 2 then 2 else 1
  issue s { w, dst := vdst w.d r, comp := true } (fun x s =>
    let v := if form = 0 then s.ref else if form = 1 then s.podNs else s.mhz
    fixedResult s x 4 (wrRun x true w.d r (fun _ => leWords r v)))

/-! ## INVTLB, PGATTR (R282, R283) -/

/-- A long-latency result that carries no value. -/
def emptyResult (s : State) (x : Ctx) : State :=
  let (id, s) := openResult s x [] []
  fillResult s x.c x.k id []

/-- The entries of every TLB that a test keeps. Walks under way for the others complete with the old entry (R282). -/
def keepTlb (s : State) (small big : TlbEnt → Bool) : State :=
  let gone (r : Req) : Bool := r.stage == .walk &&
    !(small { ctx := r.ctx, vpn := r.line / 2 ^ 16, tr := noTrans } && big { ctx := r.ctx, vpn := r.line / 2 ^ 21, tr := noTrans })
  { s with cores := s.cores.map (fun c => (c.1, { c.2 with tlb := c.2.tlb.filter small, tlbBig := c.2.tlbBig.filter big }))
           reqs := s.reqs.map (fun r => if gone r then { r with keepOld := true } else r) }
where
  noTrans : Trans := { gpn := 0, fw := false, nc := false, dfr := false, w := false, rd := false, big := false }

/-- INVTLB.page. -/
def dropPage (s : State) (ctx va : Nat) : State :=
  keepTlb s (fun e => !(e.ctx == ctx && e.vpn == va / 2 ^ 16)) (fun e => !(e.ctx == ctx && e.vpn == va / 2 ^ 21))

def execInvtlb (w : Op) (s : State) : Out :=
  sysWord { w, rb := 2 } true s (fun x s =>
    let ctx := usrc s x w.a
    let va := usrc64 s x w.b
    let t := if w.mn = 0 then keepTlb s (fun _ => false) (fun _ => false)
      else if w.mn = 1 then keepTlb s (fun e => e.ctx != ctx) (fun e => e.ctx != ctx)
      else dropPage s ctx va
    emptyResult t x)

/-- Every log is drained and every bin shipped. -/
def flushChip (s : State) : State :=
  let s := (s.cores.map (·.1)).foldl (fun s c => wakeLog (drainCore s c) c) s
  s.quads.foldl (fun s q => ((s.quad q.1).bins.map (·.1)).foldl (fun s b => shipBin s q.1 b) s) s

/-- A record of this chip lies in one of these frames. -/
def inFrames (s : State) (frames : List Nat) (chip wi : Nat) : Bool :=
  chip == s.chipid && frames.contains (frameKey (stackOf (8 * wi)) (frameOf (8 * wi)))

/-- A record of the frames is not applied yet. -/
def recordsIn (s : State) (frames : List Nat) : Bool :=
  let bin (r : BinRec) : Bool := inFrames s frames s.chipid r.wi
  s.cores.any (fun c => (c.2.log ++ c.2.spill.flatMap (·.recs)).any (fun e => inFrames s frames e.rcd.chip e.rcd.wi)) ||
  s.quads.any (fun q => q.2.bins.any (fun b => b.2.chip.isNone && b.2.recs.any (fun r => bin r.2))) ||
  s.net.any (fun m => match m.body with | .bin _ l => m.dst < 192 && l.any bin | _ => false) ||
  s.stks.any (fun m => m.2.engines.any (fun e => e.2.staged.any (fun r => bin r.rcd)))

/-- The staged records of the frames are released (R313). -/
def releaseFrames (s : State) (frames : List Nat) : State :=
  let go (r : Staged) : Staged := if inFrames s frames s.chipid r.rcd.wi then { r with released := true } else r
  { s with stks := s.stks.map (fun m => (m.1, { m.2 with engines := m.2.engines.map (fun e => (e.1, { e.2 with staged := e.2.staged.map go })) })) }

/-- The owners of pages, as far as they are known; the home is asked for the others. -/
def ownersOf (s : State) (pages : List Nat) : State × List (Option Owner) :=
  pages.foldl (fun (acc : State × List (Option Owner)) g => match ownerNow acc.1 g with
    | .known o => (acc.1, acc.2 ++ [some o])
    | .ask => ((newQuery acc.1 g).2, acc.2)
    | .bad _ => (acc.1, acc.2 ++ [none])) (s, [])

/-- PGATTR waits for the records of its pages: those of frames here are released and applied; for pages of another chip
the weight appended until then is waited for. Log entry 102 (DEDUCED). -/
def pgattrStep (s : State) (j : Job) (pages : List Nat) (snaps : Option (List Snap)) : State :=
  match ownersOf s pages with
  | (s, owners) =>
    if owners.length < pages.length then s
    else
      let frames := owners.filterMap (fun o => match o with
        | some (.dram c m f) => if c == s.chipid then some (frameKey m f) else none
        | _ => none)
      let away := owners.any (fun o => match o with
        | some (.dram c _ _) => c != s.chipid
        | _ => false)
      let s := releaseFrames (flushChip s) frames
      let wait := match snaps with
        | some l => l
        | none => if away then s.cores.flatMap (fun c => c.2.teams.map (fun t => snapOf s c.1 t.1)) else []
      if recordsIn s frames || !(wait.all (snapDone s)) then setJob s { j with kind := .pgattr pages (some wait) } else endJob s j [0]

def execPgattr (w : Op) (s : State) : Out :=
  sysWord { w, rb := 2 } true s (fun x s =>
    let ctx := usrc s x w.a
    let va := usrc64 s x w.b
    let set := bf w.imm.toNat 0 8
    let clr := bf w.imm.toNat 8 8
    let (s, _) := walkReport s (dieOfCore x.c) ctx va
    match if 2 ^ 57 ≤ va then none else (walk s ctx va).1 with
    | none => giveLong s x w.d 1
    | some (link, t) =>
      if t.fw || (bit set 4 && (tget? s.hostPages t.gpn).isSome) then giveLong s x w.d 2
      else
        let a := entryAddr s link
        let old := sysPeek s a 1
        let new := (old &&& (255 - clr)) ||| set
        let s := sysWrite s a 1 new
        let less := (bit old 2 && !(bit new 2)) || (bit old 3 && !(bit new 3)) || bit old 4 != bit new 4 || bit old 5 != bit new 5
        let s := if less then dropPage s ctx va else s
        if bit old 4 && !(bit new 4) then
          let g := t.gpn - (if t.big then bf va 16 5 else 0)
          startJob s x w.d 1 (.pgattr (if t.big then (List.range 32).map (g + ·) else [g]) none)
        else giveLong s x w.d 0)

/-! ## KEYSET, KEYDROP (R260, R261, R277). Log entry 101 (DEDUCED). -/

def execKeyset (w : Op) (s : State) : Out :=
  sysWord { w, rb := 16 } true s (fun x s =>
    let ctx := usrc s x w.a
    let words := rdRun s x w.b 16 x.low
    let st := if 4095 < ctx then 3 else if ctx = 0 then 1 else if (tget? s.keys ctx).isSome then 2 else 0
    let key := BitVec.ofNat 512 (leNat (words.flatMap (fun v => leBytes 4 v.toNat)))
    let s := if st = 0 then { s with keys := tset s.keys ctx key, keysGone := s.keysGone.filter (· != ctx) } else s
    let zero := match w.b with
      | .u n => (List.range 16).map (fun i => Wr.u (n.toNat + i) 0)
      | _ => []
    longResult s x (zero ++ wrOf x false w.d (fun _ => w32 st)))

def execKeydrop (w : Op) (s : State) : Out :=
  sysWord { w } true s (fun x s =>
    let ctx := usrc s x w.a
    if 4095 < ctx then giveLong s x w.d 3
    else if (keyOf s ctx).isNone then giveLong s x w.d 1
    else
      let s := dropContext s ctx
      giveLong { s with keys := tdel s.keys ctx, keysGone := ctx :: s.keysGone.filter (· != ctx) } x w.d 0)

/-! ## WATCH (R278) -/

/-- Arming a slot: the line's address is translated as a load's is. Log entry 103 (DEDUCED). -/
def execWatch (w : Op) (s : State) : Out :=
  let p : Pre := { w, ra := 2 }
  sysWord p true s (fun x s =>
    let slot := usrc s x w.b
    if 15 < slot then faultLanes s x (raises x.on 0x01)
    else
      let y : LaneAcc := { lane := x.low, addr := usrc64 s x w.a, n := 1, b := BitVec.ofNat 128 slot }
      startChecked s { x with on := laneBit x.low } p { acc := .watch, width := 1, hostOk := true, uni := true } [checkGlobal y])

def execWatchWait (w : Op) (s : State) : Out := sysWord { w } true s (fun x s => startJob s x w.d 1 .watchWait)

/-- The fired slots of a crew. -/
def firedMask (w : Crew) : Nat := ((w.watches.filter (fun e => e.2.fired)).map (fun e => 2 ^ (e.1 % 16))).sum

/-- WATCH.wait answers once a slot has fired, and disarms the fired slots. -/
def watchStep (s : State) (j : Job) : State :=
  match findCrew s j.uid with
  | none => s
  | some (c, k) =>
    let m := firedMask (s.crew c k)
    if m = 0 then s
    else endJob (s.modCrew c k (fun w => { w with watches := w.watches.map (fun e => if e.2.fired then (e.1, { e.2 with armed := false, fired := false }) else e) })) j [w32 m]

/-- HOST_LINE_RECALL: the host takes a watched line back. -/
def execHostLineRecall (line : Nat) (s : State) : Out :=
  let hit (e : Watch) : Bool := e.armed && e.line == line
  if s.phase != .running then .fault .dark
  else if s.cores.any (fun c => c.2.slots.any (fun k => k.2.watches.any (fun e => hit e.2))) then
    let fire (w : Crew) : Crew := { w with watches := w.watches.map (fun e => if hit e.2 then (e.1, { e.2 with armed := false, fired := true }) else e) }
    .next { s with cores := s.cores.map (fun c => (c.1, { c.2 with slots := c.2.slots.map (fun k => (k.1, fire k.2)) })) }
  else .fault .notEnabled

/-! ## MONEV (R248, R280) -/

/-- The 32 bytes of an event. -/
def eventBytes (e : Event) : List Byte :=
  leBytes 1 e.typ ++ leBytes 1 e.cause ++ leBytes 1 e.core ++ leBytes 1 e.slot ++ leBytes 1 e.grid ++ leBytes 3 e.team ++ leBytes 4 e.lanes.toNat ++
  leBytes 4 e.value.toNat ++ leBytes 8 e.addr.toNat ++ leBytes 4 e.pc.toNat ++ leBytes 4 0

def execMonevWait (w : Op) (s : State) : Out := sysWord { w } true s (fun x s => startJob s x w.d 8 .evWait)

/-- MONEV.wait answers with the oldest event of its die's queue. -/
def evStep (s : State) (j : Job) : State :=
  let die := dieOfCore j.core
  match if die = 0 then s.evq0 else s.evq1 with
  | [] => s
  | e :: t => endJob (if die = 0 then { s with evq0 := t } else { s with evq1 := t }) j (leWords 8 (leNat (eventBytes e)))

/-- MONEV.post: with a full queue the crew's later memory and system words wait until the event is queued.
Log entries 99 (DEDUCED), 100 (DEDUCED). -/
def execMonevPost (w : Op) (s : State) : Out :=
  sysWord { w } false s (fun x s =>
    let e := { s.crewEvent x.c x.k 0x0A (usrc s x w.b % 256) 0 0 0 with value := w32 (usrc s x w.a) }
    let n := s.evWait.length
    let s := s.post (dieOfCore x.c) e
    if n < s.evWait.length then s.modCrew x.c x.k (fun k => { k with sysHold := k.sysHold + 1 }) else s)

def execMonevIrq (w : Op) (s : State) : Out :=
  sysWord { w } true s (fun x s =>
    let v := usrc s x w.a
    if v = 0 || 63 < v then faultLanes s x (raises x.on 0x01) else order s x true false 5 x.on (.irq v))

/-- EVENT_QUEUE_RETRY: a die's oldest waiting event enters its queue, which has room again. Log entry 99 (DEDUCED). -/
def execEventQueueRetry (die : Nat) (s : State) : Out :=
  let q := if die = 0 then s.evq0 else s.evq1
  match s.evWait.find? (fun e => e.1 == die) with
  | some (d, e) =>
    if Config.eventQueue ≤ q.length then .fault .notEnabled
    else
      let s := { s with evWait := s.evWait.erase (d, e) }.post die e
      .next (if e.typ = 0x0A then s.modCrew e.core e.slot (fun k => { k with sysHold := k.sysHold - 1 }) else s)
  | none => .fault .notEnabled

/-! ## FREEZE and THAW (R259, R275, R276) -/

/-- A target descriptor. -/
structure Target where
  kind : Nat
  core : Nat
  slot : Nat
  unit : Nat
  bad : Bool

def targetOf (d : Nat) (grid : Bool) : Target :=
  let t : Target := { kind := bf d 30 2, core := bf d 22 8, slot := bf d 16 6, unit := bf d 0 8, bad := false }
  let range := if grid then false else if t.kind ≤ 1 then 191 < t.core else if t.kind = 2 then 46 < t.unit else 191 < t.unit
  { t with bad := bf d 8 8 != 0 || range }

/-- Crew slots of the target: one crew, or every crew of a grid here. -/
def targetCrews (s : State) (t : Target) (grid : Bool) : List (Nat × Nat) :=
  if grid then s.cores.flatMap (fun c => (slotsOfGrid s t.unit c.1).map (fun k => (c.1, k)))
  else if t.kind = 0 && (s.crew t.core t.slot).st == .resident then [(t.core, t.slot)] else []

/-- The ports of the fabric take their numbers from R440. -/
def State.modPort (s : State) (p : Nat) (f : Port → Port) : State := { s with ports := tset s.ports p (f (s.port p)) }

def execFreeze (w : Op) (s : State) : Out :=
  sysWord { w } true s (fun x s =>
    let t := targetOf (usrc s x w.a) (w.mb 0)
    if t.bad then s
    else if w.mb 0 || t.kind = 0 then
      (targetCrews s t (w.mb 0)).foldl (fun s e => monitorDown (s.modCrew e.1 e.2 (fun k => { k with frozen := true })) e.1 e.2) s
    else if t.kind = 1 then s.modCore t.core (fun o => { o with copyFrozen := true })
    else if t.kind = 2 then s.modPort t.unit (fun p => { p with frozen := true })
    else s.modEngine t.unit (fun e => { e with frozen := true }))

/-- Halted or frozen, so that THAW.resume makes it run again. -/
def Crew.stopped (w : Crew) : Bool := w.halted || w.frozen

/-- A crew runs again, and the guest crews that hold its lanes. -/
def resumeCrew (s : State) (c k : Nat) : State :=
  let w := s.crew c k
  let s := if w.halted && w.guest.isNone then toHosts s c k (fun h => .resume s.chipid c k c k h.core h.slot) else s
  let s := wakeLog (s.modCrew c k (fun w => { w with halted := false, frozen := false, haltedAway := 0 })) c
  if w.halted && !(foreign s w) then s.modGrid w.grid (fun d => { d with state := if d.state = 3 then 2 else d.state }) else s

/-- The engine master of a target is frozen. -/
def engineFrozen (s : State) (t : Target) : Bool :=
  if t.kind = 1 then (s.core t.core).copyFrozen else if t.kind = 2 then (s.port t.unit).frozen else (s.engine t.unit).frozen

/-- A frozen engine runs again; a copy engine's violating operation starts again from the line that failed (R341). -/
def thawEngine (s : State) (t : Target) : State :=
  if t.kind = 1 then s.modCore t.core (fun o => { o with copyFrozen := false, copies := o.copies.map (fun p => { p with cause := 0, addr := 0 }) })
  else if t.kind = 2 then s.modPort t.unit (fun p => { p with frozen := false })
  else s.modEngine t.unit (fun e => { e with frozen := false })

/-- The lanes of B that are parked on a fault. -/
def faultLanesOf (w : Crew) (b : Mask) : List Nat := (lanesOf b).filter (fun l => w.parkOf l == .fault && w.mask.getLsbD l)

/-- THAW.trap for a crew's lanes (R253). Log entry 97 (DEDUCED). -/
def thawTraps (s : State) (c k : Nat) (lanes : List Nat) : State :=
  lanes.foldl (fun s l =>
    let w := s.crew c k
    let f : FaultRec := tget { cause := 0 } w.faults l
    trapLane (s.modCrew c k (fun w => w.setPark l .no)) c k (w.pcOf l) f.len { lane := l, cause := f.cause, code := f.code, addr := f.addr, word := f.word }) s

/-- A copy operation belongs to a grid of this chip. -/
def opOfGrid (s : State) (g c : Nat) (o : CopyOp) : Bool := let m := s.team c o.ts; o.grid == g && (!m.guest || m.homeChip == s.chipid)

/-- A frozen copy engine drops a grid's operations (R276, R341). -/
def discardOps (g : Nat) (s : State) (c : Nat) : State :=
  if (s.core c).copyFrozen then discardWhere (fun p => opOfGrid s g c p && (!p.active || p.cause != 0)) s c else s

/-- The matrix requests and select operations of a crew leave their quad: a starved one holds the engine no longer (R358). -/
def dropQuadWork (s : State) (c uid : Nat) : State :=
  let q := quadOfCore c
  settleQuad (s.modQuad q (fun u =>
    let table := u.table.filter (fun e => e.uid != uid)
    { u with table, running := u.running.filter (fun i => table.any (fun e => e.id == i)), select := u.select.filter (fun e => e.uid != uid) })) q

/-- A crew of an ended grid is removed with what its words have not begun; its team ends with its last crew.
Log entry 135 (DEDUCED). -/
def removeCrew (s : State) (c k : Nat) : State :=
  let s := s.modCrew c k (fun w => { w with live := 0, away := 0, guest := w.guest.map (fun g => { g with incoming := 0 }) })
  let uid := (s.crew c k).uid
  let gone (r : Req) : Bool := r.uid == uid && (r.stage.unsent || r.parks s || r.waits)
  retireCrew (dropQuadWork { s with reqs := s.reqs.filter (fun r => !(gone r)), fills := s.fills.filter (fun f => f.uid != uid) } c uid) c k

/-- Every host of a crew's lanes is told to remove them (R411). -/
def removeAway (s : State) (w : Crew) (core slot : Nat) : State :=
  ((w.hosts.map (fun e => (e.2.chip, e.2.core, e.2.slot))).eraseDups).foldl (fun s h => sendNote s h.1 (.remove s.chipid core slot h.2.1 h.2.2)) s

/-- The lanes of a home crew that other cores and chips hold: away, or sent (R405, R411). -/
def heldAway (s : State) (c k : Nat) : Nat × Nat × Mask :=
  let w := s.crew c k
  let sent := (s.lmoves.filter (fun m => m.core == c && m.slot == k && m.sent s)).foldl (fun a m => a ||| m.lanes) (0 : Mask)
  (w.team, w.crewid, (w.away ||| sent) &&& w.live)

/-- THAW.end (R276, R411). -/
def endGrid (s : State) (g : Nat) : State :=
  let crews := s.cores.flatMap (fun c => (c.2.slots.filter (fun k => k.2.st != .free && crewOfGrid s g k.2)).map (fun k => (c.1, k.1, k.2)))
  let home := crews.filter (fun e => e.2.2.guest.isNone)
  let saved := (s.saves.filter (fun u => u.2.grid == g)).flatMap (fun u => u.2.teams.flatMap (fun v => v.crews.map (fun e => (v.core, e))))
  let left := home.map (fun e => heldAway s e.1 e.2.1) ++ saved.map (fun e => (e.2.2.team, e.2.2.crewid, e.2.2.away))
  let s := home.foldl (fun s e => cutMoves (removeAway s e.2.2 e.1 e.2.1) e.1 e.2.1) s
  let s := saved.foldl (fun s e => removeAway s e.2.2 e.1 e.2.1) s
  let s := { s with saves := s.saves.filter (fun u => !(u.2.grid == g)), jobs := s.jobs.filter (fun j => match j.kind with
    | .save h _ _ pool _ _ => !(h == g && !pool.isEmpty)
    | _ => true) }
  let s := (s.cores.map (·.1)).foldl (discardOps g) s
  let s := home.foldl (fun s e => removeCrew s e.1 e.2.1) s
  let s := { s with commits := s.commits.filter (fun m => m.scope == 4 || !(m.grid == g)) }
  s.modGrid g (fun d => { d with
    ended := true, teamsLeft := 0, saved := [], halting := [], state := if d.state = 1 then 2 else d.state
    removing := left.filter (fun e => e.2.2 != 0), asked := false, waitFor := [] })

/-- The grid that THAW.end ends: the one named, or the crew's own. Log entry 97 (DEDUCED). -/
def endTarget (s : State) (t : Target) (grid : Bool) : Option Nat :=
  let g := if grid then some t.unit else match targetCrews s t false with
    | e :: _ => let w := s.crew e.1 e.2; if foreign s w then none else some w.grid
    | [] => none
  g.bind (fun g => let d := s.grid g; if d.state = 0 || d.state = 4 || d.monitor || d.ended then none else some g)

/-- THAW (R276). Actions: 0 .resume, 1 .retry, 2 .trap, 3 .end. Log entry 97 (DEDUCED). -/
def thawWord (w : Op) (action : Nat) (s : State) : Out :=
  sysWord { w } true s (fun x s =>
    let grid := w.mb 2
    let t := targetOf (usrc s x w.a) grid
    let b := BitVec.ofNat 32 (usrc s x w.b)
    let crews := targetCrews s t grid
    let engine := !grid && t.kind != 0
    if t.bad || (engine && action = 3) then giveLong s x w.d 3
    else if action = 3 then
      (match endTarget s t grid with
       | some g => startJob (endGrid s g) x w.d 1 (.thawEnd g)
       | none => giveLong s x w.d 1)
    else if engine then
      (if action < 2 && engineFrozen s t then giveLong (thawEngine s t) x w.d 0 else giveLong s x w.d 1)
    else if action < 2 then
      let lanes (s : State) (e : Nat × Nat) : List Nat := if action = 1 then faultLanesOf (s.crew e.1 e.2) b else []
      let hit := crews.filter (fun e => (s.crew e.1 e.2).stopped || !(lanes s e).isEmpty)
      let go (s : State) (e : Nat × Nat) : State := (resumeCrew s e.1 e.2).modCrew e.1 e.2 (forLanes (maskOf (lanes s e)) (fun l k => k.setPark l .no))
      giveLong (hit.foldl go s) x w.d (b2n hit.isEmpty)
    else
      let hit := crews.filter (fun e => !(faultLanesOf (s.crew e.1 e.2) b).isEmpty)
      let no := hit.filter (fun e => (s.crew e.1 e.2).trapent == 0xFFFFFFFF)
      let yes := hit.filter (fun e => (s.crew e.1 e.2).trapent != 0xFFFFFFFF)
      let s := yes.foldl (fun s e => thawTraps s e.1 e.2 (faultLanesOf (s.crew e.1 e.2) b)) s
      giveLong s x w.d (if hit.isEmpty then 1 else if no.isEmpty then 0 else 2))

def execThawResume (w : Op) (s : State) : Out := thawWord w 0 s
def execThawRetry (w : Op) (s : State) : Out := thawWord w 1 s
def execThawTrap (w : Op) (s : State) : Out := thawWord w 2 s
def execThawEnd (w : Op) (s : State) : Out := thawWord w 3 s

/-! ## System words under way -/

/-- A system word that is not complete goes on as far as it can. -/
def jobStep (s : State) (j : Job) : State :=
  match j.kind with
  | .launch b a wait who => launchStep s j b a wait who
  | .gridWait _ => s
  | .preempt g => if gridHalted s g then endJob s j [0] else s
  | .thawEnd g => if (s.grid g).removing.isEmpty then endJob s j [0] else s
  | .pgattr pages snaps => pgattrStep s j pages snaps
  | .save g team a pool key seqs => saveStep s j g team a pool key seqs
  | .load a core => loadStep s j a core
  | .watchWait => watchStep s j
  | .evWait => evStep s j
  | .stub _ => s
  | .mrel => s
  | .connReset _ _ => s

end Sys2Proof.Machine
end

