-- ==== Sys2Proof/Machine/Ordering.lean ====
section
/-! DEFINITION. Machine/Ordering.lean: the end of releases, acquires and fences that are not complete at once (R209, R211,
R225, R448), and what each of them lets follow. -/

namespace Sys2Proof.Machine

/-! ## Engine operations of a crew (R225, R448) -/

def CopyOp.isBulk (o : CopyOp) : Bool := o.kind == .bput || o.kind == .bget

/-- Copy operations, or bulk transfers, that a crew issued before a bound. -/
def opsOpen (s : State) (uid before : Nat) (bulk : Bool) : Bool :=
  s.cores.any (fun c => c.2.copies.any (fun o => o.uid == uid && o.before < before && o.isBulk == bulk && o.kind != .cont))

/-- Matrix requests and select operations. -/
def matrixOpen (s : State) (uid before : Nat) : Bool :=
  s.quads.any (fun q => q.2.table.any (fun e => e.uid == uid && e.id < before) || q.2.select.any (fun e => e.uid == uid && e.id < before))

/-- Bank commands, BKADD among them. -/
def bankOpen (s : State) (uid before : Nat) : Bool :=
  s.stks.any (fun m => m.2.bankQ.any (fun b => b.uid == uid && b.id < before)) ||
  s.reqs.any (fun r => r.uid == uid && r.id < before && r.acc.bank)

/-- Packets of a crew's words that are not acknowledged or answered, or have not left (R448): FACK does not complete before the
flag of R459 is acknowledged. -/
def fabricOpen (s : State) (uid before : Nat) : Bool :=
  s.reqs.any (fun r => r.uid == uid && r.id < before && r.space == 0 && (r.acc.writes || r.fab) && r.stage != .respond && r.stage != .atOwner) ||
  opsOpen s uid before true

/-- A bulk transfer of a crew's earlier words has lost a packet (R438, R448). -/
def bulkLost (s : State) (uid before : Nat) : Bool :=
  s.cores.any (fun c => c.2.copies.any (fun o => o.uid == uid && o.before < before && o.isBulk && o.cause == 0x31))

/-- Some operation of the kinds that a FENCEX names is not complete. Log entry 145 (DESIGN CHOICE). -/
def enginesOpen (s : State) (c k : Nat) (o : Ord) : Bool :=
  let uid := (s.crew c k).uid
  (o.engines.getLsbD 0 && fabricOpen s uid o.before) || (o.engines.getLsbD 1 && bankOpen s uid o.before) ||
  (o.engines.getLsbD 2 && matrixOpen s uid o.before) || (o.engines.getLsbD 3 && opsOpen s uid o.before false)

/-! ## Lost writes (R438) -/

/-- The lanes of an order raise cause 0x31: nothing follows it. Log entry 62 (DEDUCED). -/
def failOrd (s : State) (c k : Nat) (o : Ord) : State :=
  let s := s.modCrew c k (fun w => { w with ords := w.ords.erase o, lostWrite := false })
  match o.after with
  | .reqs l => l.foldl (fun s id => match findReq s id with
    | some r => failReq s r 0x31
    | none => s) s
  | a =>
    let s := match a with
      | .commit _ _ res => fillResult s c k res []
      | .launch _ _ _ res => fillResult s c k res []
      | .move ids => { s with lmoves := s.lmoves.filter (fun m => !(ids.contains m.id)), reqs := s.reqs.filter (fun r => !(ids.contains r.word)) }
      | _ => s
    let lanes := (lanesOf o.lanes).filter (fun l => (s.crew c k).mask.getLsbD l)
    takeFaults (s.modCrew c k (forLanes (maskOf lanes) (fun l w => w.setPark l .no))) c k o.pc o.len (lanes.map (fun l => { lane := l, cause := 0x31 }))

/-! ## Completion -/

/-- An order of a crew is over. -/
def dropOrd (s : State) (c k : Nat) (o : Ord) : State := s.modCrew c k (fun w => { w with ords := w.ords.erase o })

/-- The other chips of a crew's pod instance that can be asked: the members of its commit group (R199, R239).
Log entry 61 (DEDUCED). -/
def podChips (s : State) (w : Crew) : List Nat :=
  if w.group = 0xFFFF then [] else (groupMembers s w.group).eraseDups.filter (fun c => c != s.chipid && reachable s c && !(s.conn c).lost)

/-- A release at system scope asks for the memory-side caches of every chip of the pod instance to be cleaned; this chip's are
cleaned at once (R209). Log entry 61 (DEDUCED). -/
def askClean (s : State) (c k : Nat) (o : Ord) : State :=
  let w := s.crew c k
  let l := podChips s w
  let s := l.foldl (fun s chip => sendNote s chip (.cleanAsk c k w.uid)) (cleanAll s (fun _ _ => true))
  s.modCrew c k (fun w => { w with ords := w.ords.map (fun p => if p == o then { o with asked := true, waitFor := l } else p) })

/-- Chips that have not answered a clean request; one whose connection is lost is not waited for.
Log entry 61 (DEDUCED). -/
def cleaning (s : State) (o : Ord) : Bool := o.waitFor.any (fun c => !(s.conn c).lost)

/-- The threads that a FENCEX or FACK has waited for are joined: every kind but copy leaves no L1 copy (R212). -/
def joinEngines (s : State) (c : Nat) (o : Ord) : State :=
  if o.engines &&& 7 != 0 || o.after == .fack then invalL1 s c else s

/-- The requests of an order that are still there. -/
def reqsLeft (s : State) (l : List Nat) : Bool := s.reqs.any (fun r => l.contains r.id)

/-- An order goes on: its release completes, then what waited for it, then its acquire; none while something is open.
Log entry 59 (DEDUCED). -/
def settleOrd (s : State) (c k : Nat) (o : Ord) : Option State :=
  let w := s.crew c k
  let release := o.rel && writesOpen s c k o.lanes o.before
  if (o.after == .fack || o.engines.getLsbD 0) && bulkLost s w.uid o.before then some (failOrd s c k o)
  else if enginesOpen s c k o || release || (o.after == .fack && fabricOpen s w.uid o.before) then none
  else if w.lostWrite && (o.rel || o.after == .fack || o.engines.getLsbD 0) then some (failOrd s c k o)
  else if o.rel && o.scope == 5 && !o.asked then some (askClean s c k o)
  else if cleaning s o then none
  else
    let s := joinEngines s c o
    match o.after with
    | .fence =>
      if o.acq && readsOpen s c k o.lanes o.before then none
      else some (if o.acq then acquire (dropOrd s c k o) c k o.scope else dropOrd s c k o)
    | .reqs l =>
      if o.rel then
        let s := afterRelease s c k o.after
        some (if o.acq then s.modCrew c k (fun w => { w with ords := w.ords.map (fun p => if p == o then { o with rel := false } else p) }) else dropOrd s c k o)
      else if reqsLeft s l then none
      else some (acquire (dropOrd s c k o) c k o.scope)
    | .arrive _ _ _ => some (afterRelease (dropOrd s c k o) c k o.after)
    | .commit nw scope res => (commitArrive s c k nw scope res).map (fun s => dropOrd s c k o)
    | .heat => some (dropOrd s c k o)
    | .launch d addr wait res =>
      let (id, s) := s.fresh
      let j : Job := { id, core := c, slot := k, uid := w.uid, res, d, kind := .launch [] addr.toNat wait (launcherOf s w) }
      some (dropOrd { s with jobs := s.jobs ++ [j] } c k o)
    | .irq v => some (dropOrd { s with msix := s.msix ++ [v] } c k o)
    | .move ids => if s.reqs.any (fun r => ids.contains r.word) then none else some (ids.foldl beginMove (dropOrd s c k o))
    | .fack => some (dropOrd s c k o)

/-- ORDERING_COMPLETE: the first order of a crew that can go on does. -/
def execOrderingComplete (c k : Nat) (s : State) : Out :=
  if (s.crew c k).st != .resident then .fault .notEnabled
  else match (s.crew c k).ords.findSome? (settleOrd s c k) with
    | some s => .next (pump s c)
    | none => .fault .notEnabled

end Sys2Proof.Machine
end

