-- ==== Sys2Proof/Machine/Bank.lean ====
section
/-! DEFINITION. Machine/Bank.lean: the bank words (R461 to R481) and the commands of the base dies. -/

namespace Sys2Proof.Machine

/-! ## Where a bank word acts (R464, R465) -/

/-- A pseudo-channel and a row of it, as a word's address names them. -/
structure BankSite where
  stack : Nat
  pc : Nat
  row : Nat
deriving DecidableEq, Repr

/-- A site, a wait for the page's owner, or a cause. -/
inductive SiteNow
  | at_ (b : BankSite)
  | wait
  | bad (cause : Nat)
deriving DecidableEq, Repr

/-- The virtual stage for a uniform address: the core's TLB, then the walker. Log entry 134 (DEDUCED). -/
def uniTrans (s : State) (c ctx va : Nat) : State × Option Trans :=
  match tlbLookup (s.core c) ctx va with
  | some t => if t.fw then walkReport s (dieOfCore c) ctx va else (s, some t)
  | none => match walkReport s (dieOfCore c) ctx va with
    | (s, some t) => ({ s.modCore c (fun o => tlbFill o s.free ctx va t) with free := s.free + 1 }, some t)
    | (s, none) => (s, none)

/-- Steps 2 to 4 of R465. Log entry 131 (DEDUCED). -/
def bankSite (s : State) (x : Ctx) (va : Nat) : State × SiteNow :=
  let w := s.crew x.c x.k
  if w.guest.isSome || 2 ^ 57 ≤ va then (s, .bad 0x11)
  else match uniTrans s x.c w.ctx va with
    | (s, none) => (s, .bad 0x10)
    | (s, some t) =>
      if t.fw then (s, .bad 0x11)
      else match askedOwner s t va with
        | (s, .here m dev _) => let l := dramLoc dev; (s, .at_ { stack := m, pc := l.pc, row := l.row })
        | (s, .away _ _ _ _) => (s, .bad 0x11)
        | (s, .wait) => (s, .wait)
        | (s, .bad c) => (s, .bad c)

/-- The state of a pseudo-channel. -/
def State.pcSt (s : State) (b : BankSite) : PcSt := tget {} (s.stack b.stack).pcs b.pc

/-- The crew's team claims the pseudo-channel. -/
def claimedBy (s : State) (x : Ctx) (b : BankSite) : Bool := (s.pcSt b).claim == some (x.c, (s.crew x.c x.k).ts)

/-- Step 5: the claim (R462). -/
def needClaim (s : State) (x : Ctx) (b : BankSite) : Option Nat := if claimedBy s x b then none else some 0x41

/-- Step 6: the 16 frames of a row, each check over all of them (R464). Log entry 131 (DEDUCED). -/
def frameCause (s : State) (x : Ctx) (b : BankSite) : Option Nat :=
  let ctx := (s.crew x.c x.k).ctx
  let frame (i : Nat) : Nat := ((b.row * 16 + i) * 384 + b.pc) / 64
  let ent (i : Nat) : Nat := frameEntry s b.stack (frame i)
  let banks := List.range 16
  let mapped (i : Nat) : Bool := frame i < 2 ^ 20 && bit (ent i) 0 && entCtx (ent i) == ctx && bit (ent i) 2 && !(bit (ent i) 6)
  let here (i : Nat) : Bool :=
    let k := frameKey b.stack (frame i)
    !(stagingFrame (frame i)) && (tget? s.stubs k).isNone && (tget? s.arriving k).isNone
  if !(banks.all (fun i => mapped i && here i)) then some 0x11
  else if banks.any (fun i => bit (ent i) 4) then some 0x14
  else if (keyOf s ctx).isSome then some 0x40
  else none

/-- Steps 5 and 6 for the words that read rows. -/
def needRows (s : State) (x : Ctx) (b : BankSite) : Option Nat := (needClaim s x b).or (frameCause s x b)

/-- The adds of BKADD words that stand at a controller. Log entry 132 (DEDUCED). -/
def addsAt (s : State) (m : Nat) : Nat :=
  let mine (r : Req) : Bool := r.stage == .atOwner && (match r.acc, r.owner with
    | .bkadd _ _, some (.dram _ n _) => n == m
    | _, _ => false)
  ((s.reqs.filter mine).map (·.pieces.length)).sum

/-- A controller's queue of 64 commands is full, the adds that stand at it counted (R467, R479). -/
def bankFull (s : State) (m : Nat) : Bool := decide (Config.bankQueue ≤ (s.stack m).bankQ.length + addsAt s m)

/-- A bank word computes once, from its lowest executing lane. Its fault is raised in every executing lane; with the
owner still unknown, or the controller's queue full, it does not issue and its crew leaves for the pending set (R467).
Log entry 131 (DEDUCED). Log entry 14 (DESIGN CHOICE). -/
def bankWord (p : Pre) (check : State → Ctx → BankSite → Option Nat) (act : Ctx → BankSite → State → State) (s : State) : Out :=
  match s.cur with
  | none => .fault .noIssue
  | some i =>
    let x := ctxOf s i
    let go (s : State) : Out := issue s p (fun x s =>
      if x.on == 0 then s
      else
        let va := usrc64 s x p.w.a
        let fail (c : Nat) : State := faultLanes s x ((lanesOf x.on).map (fun l => { lane := l, cause := c, addr := w64 va }))
        if p.coll && (x.mask != BitVec.allOnes 32 || x.on != BitVec.allOnes 32) then faultLanes s x (raises x.on 0x03)
        else match bankSite s x va with
          | (_, .bad c) => fail c
          | (_, .wait) => s
          | (s', .at_ b) => match check s' x b with
            | some c => fail c
            | none => act x b s')
    if wouldRun s x then
      match bankSite s x (usrc64 s x p.w.a) with
      | (s', .wait) => notNow s' x
      | (_, .at_ b) => if (check s x b).isNone && bankFull s b.stack then notNow s x else go s
      | (_, .bad _) => go s
    else go s

/-- A command enters its controller's queue. -/
def pushBank (s : State) (x : Ctx) (b : BankSite) (f : BankCmd → BankCmd) : State :=
  let w := s.crew x.c x.k
  let (id, s) := s.fresh
  let q : BankCmd := f { id, code := 0, pc := b.pc, row := b.row, core := x.c, slot := x.k, uid := w.uid, ts := w.ts, lanes := x.on }
  s.modStack b.stack (fun m => { m with bankQ := m.bankQ ++ [q] })

/-! ## The words (R474 to R480) -/

/-- The pseudo-channels that a team claims. -/
def claimCount (s : State) (c t : Nat) : Nat := (s.stks.map (fun m => (m.2.pcs.filter (fun p => p.2.claim == some (c, t))).length)).sum

def State.setPc (s : State) (m p : Nat) (v : PcSt) : State := s.modStack m (fun k => { k with pcs := tset k.pcs p v })

/-- BKMODE: the claim and zeroed state; the status is written when the switch completes. -/
def execBkmode (w : Op) (s : State) : Out :=
  bankWord { w, ra := 2 } (fun _ _ _ => none) (fun x b s =>
    let ts := (s.crew x.c x.k).ts
    let no (v : Nat) : State := giveLong s x w.d v
    if claimedBy s x b then no 2
    else if (s.pcSt b).claim.isSome then no 1
    else if 16 ≤ claimCount s x.c ts then no 3
    else
      let (res, s) := openResult s x [] (udst w.d 1)
      let v : PcSt := { claim := some (x.c, ts) }
      pushBank (s.setPc b.stack b.pc v) x b (fun q => { q with code := 0xB0, on := true, res, d := w.d })) s

/-- BKMODE.off: after the team's commands to the pseudo-channel. -/
def execBkmodeOff (w : Op) (s : State) : Out :=
  bankWord { w, ra := 2 } (fun _ _ _ => none) (fun x b s =>
    if !(claimedBy s x b) then giveLong s x w.d 1
    else
      let (res, s) := openResult s x [] (udst w.d 1)
      pushBank s x b (fun q => { q with code := 0xB0, on := false, res, d := w.d })) s

/-- BKBC: 16 bytes of each of the first N lanes. -/
def execBkbc (w : Op) (s : State) : Out :=
  bankWord { w, ra := 2, rb := 4, coll := true } needClaim (fun x b s =>
    let bytes := (List.range (w.mf 3 5 + 1)).flatMap (fun l => (rdRun s x w.b 4 l).flatMap (fun v => leBytes 4 v.toNat))
    pushBank s x b (fun q => { q with code := 0xB1, bytes })) s

/-- BKMAC: B names the accumulator and the half. -/
def execBkmac (w : Op) (s : State) : Out :=
  bankWord { w, ra := 2 } needRows (fun x b s =>
    let v := usrc s x w.b
    pushBank s x b (fun q => { q with code := 0xB2, acc := bf v 0 3, sel := bf v 3 1 })) s

/-- BKLUT.ld: eight uniform registers hold the table. -/
def execBklutLd (w : Op) (s : State) : Out :=
  bankWord { w, ra := 2, rb := 8 } needClaim (fun x b s =>
    let bytes := (rdRun s x w.b 8 x.low).flatMap (fun v => leBytes 4 v.toNat)
    pushBank s x b (fun q => { q with code := 0xB4, bytes })) s

/-- BKLUT: B names the accumulator and the part. -/
def execBklut (w : Op) (s : State) : Out :=
  bankWord { w, ra := 2 } needRows (fun x b s =>
    let v := usrc s x w.b
    pushBank s x b (fun q => { q with code := 0xB3, acc := bf v 0 3, sel := bf v 3 3 })) s

/-- BKRDA: four words of the 128 accumulators for each executing lane. -/
def execBkrda (w : Op) (s : State) : Out :=
  bankWord { w, ra := 2, dst := vdst w.d 4 } needClaim (fun x b s =>
    let (res, s) := openResult s x (vdst w.d 4) []
    pushBank s x b (fun q => { q with code := 0xB5, res, d := w.d })) s

/-- BKZ: B is the mask of accumulators. -/
def execBkz (w : Op) (s : State) : Out :=
  bankWord { w, ra := 2 } needClaim (fun x b s =>
    let v := usrc s x w.b
    pushBank s x b (fun q => { q with code := 0xB7, sel := bf v 0 8 })) s

/-- The controller of an address of this chip's memory, where its page and its owner are known now. -/
def stackNow (s : State) (c ctx va : Nat) : Option Nat :=
  match uniTrans s c ctx va with
  | (s, some t) => (match ownerNow s t.gpn with
    | .known (.dram h m _) => if h == s.chipid && !t.fw then some m else none
    | _ => none)
  | (_, none) => none

/-- A lane of a BKADD names a controller whose queue is full (R467). Log entry 132 (DEDUCED). -/
def addsHeld (s : State) (x : Ctx) (w : Op) : Bool :=
  let k := s.crew x.c x.k
  k.guest.isNone && (lanesOf x.on).any (fun l => (stackNow s x.c k.ctx (gaddr s x w l)).any (bankFull s))

/-- BKADD: one add for each executing lane; inside a heat with its key (R470, R479); with a full queue the word does not
issue (R467). Log entry 132 (DEDUCED). -/
def execBkadd (w : Op) (s : State) : Out :=
  let p := memPre w 2 1 true
  let go : Out := issue s p (fun x s =>
    let k := s.crew x.c x.k
    if k.guest.isSome then faultLanes s x (raises x.on 0x11)
    else
      let l : List LaneAcc := (lanesOf x.on).map (fun l => { lane := l, addr := gaddr s x w l, n := 4, b := (rd s x 0 w.d l).setWidth 128 })
      startChecked s x p { acc := .bkadd (w.mb 3) (inHeat s k), width := 4 } (l.map checkGlobal))
  match s.cur with
  | none => .fault .noIssue
  | some i => if wouldRun s (ctxOf s i) && addsHeld s (ctxOf s i) w then notNow s (ctxOf s i) else go

/-- The checks of a bank word that enters a queue. -/
def bankCheckOf : Instr → Option (Op × (State → Ctx → BankSite → Option Nat))
  | .bkmode w => some (w, fun _ _ _ => none)
  | .bkmodeOff w => some (w, fun _ _ _ => none)
  | .bkbc w => some (w, needClaim)
  | .bklutLd w => some (w, needClaim)
  | .bkrda w => some (w, needClaim)
  | .bkz w => some (w, needClaim)
  | .bkmac w => some (w, needRows)
  | .bklut w => some (w, needRows)
  | _ => none

/-- A bank word that cannot issue now (R64): its controller's queue is full, or the owner of its page has been asked for and
has not answered. -/
def bankHolds (s : State) (x : Ctx) (i : Instr) : Bool :=
  match bankCheckOf i with
  | none => (match i with
    | .bkadd w => addsHeld s x w
    | _ => false)
  | some (w, check) => match bankSite s x (usrc64 s x w.a) with
    | (t, .wait) => t.nextId == s.nextId
    | (_, .at_ b) => (check s x b).isNone && bankFull s b.stack
    | (_, .bad _) => false

/-! ## Bank units (R461, R468) -/

def BankUnit.bcOf (u : BankUnit) : List Byte := if u.bc.isEmpty then List.replicate 512 0 else u.bc

/-- Sixteen-bit elements of a list of bytes. -/
def halves : List Byte → List Nat
  | a :: b :: t => (a.toNat + 256 * b.toNat) :: halves t
  | _ => []

/-- BankDot: the exact sum of products rounded once, then added to the accumulator with one rounding. -/
def bankDot (acc : W32) (w bc : List Nat) : W32 :=
  let p := dotX ((w.map (decodeF 1 false)).zip (bc.map (decodeF 1 false))) [] 1
  let v := (roundTo false p.1 0 1 false).1
  w32 (addF 0 acc.toNat v)

/-- Nibbles of a list of bytes, the lower one first. -/
def nibbles (l : List Byte) : List Nat := l.flatMap (fun b => [b.toNat % 16, b.toNat / 16])

/-! ## The commands (R466) -/

/-- The commands of one team to one pseudo-channel execute in the order in which they issued. -/
def bankTurn (s : State) (m : Nat) (b : BankCmd) : Bool :=
  ((s.stack m).bankQ.find? (fun q => q.pc == b.pc && q.core == b.core && q.ts == b.ts)).map (·.id) == some b.id

/-- Execute a command: it acts if its team still claims the pseudo-channel. A team that has retired ends its claims
with its last command (R462). Log entry 133 (DEDUCED). -/
def bankCommand (code m id : Nat) (f : BankCmd → PcSt → State → State) (s : State) : Out :=
  match (s.stack m).bankQ.find? (fun b => b.id == id) with
  | none => .fault .notEnabled
  | some b =>
    if b.code != code || !(bankTurn s m b) then .fault .notEnabled
    else
      let v : PcSt := tget {} (s.stack m).pcs b.pc
      let v := if v.claim == some (b.core, b.ts) then v else {}
      let s := s.modStack m (fun k => { k with bankQ := k.bankQ.filter (fun q => !(q.id == id)) })
      let s := f b v s
      .next (if (s.team b.core b.ts).live then s else endClaims s b.core b.ts)

/-- Change the units of a claimed pseudo-channel. Log entry 57 (DEDUCED). -/
def modUnits (s : State) (m : Nat) (b : BankCmd) (v : PcSt) (f : Nat → BankUnit → BankUnit) : State :=
  if v.claim.isNone then s
  else s.setPc m b.pc { v with units := (List.range 16).map (fun i => (i, f i (tget {} v.units i))) }

/-- BKSW: the switch completes; switched out, the state is zero and the claim ends. Log entry 133 (DEDUCED). -/
def execBksw (m id : Nat) (s : State) : Out :=
  bankCommand 0xB0 m id (fun b v s =>
    let s := if v.claim.isNone then s
      else if b.on then s.setPc m b.pc { v with on := true }
      else s.modStack m (fun k => { k with pcs := tdel k.pcs b.pc })
    fillResult s b.core b.slot b.res (giveWords b.d [0])) s

/-- BCST: the bytes reach all 16 banks. -/
def execBcst (m id : Nat) (s : State) : Out :=
  bankCommand 0xB1 m id (fun b v s => modUnits s m b v (fun _ u => { u with bc := b.bytes ++ u.bcOf.drop b.bytes.length })) s

/-- Bytes of a bank's row below the memory-side cache, and the first poisoned granule among them. -/
def rowRead (s : State) (ctx a n : Nat) : List Byte × Option Nat :=
  let gs := (List.range (n / 32)).map (a / 32 + ·)
  (gs.flatMap (granRead s ctx), gs.find? (fun g => tget false s.poison g))

/-- A command that reads a row of each bank: BankDot with the terms that the row gives; a poisoned granule makes the
bank's accumulator the canonical NaN (R471). -/
def rowCommand (m n : Nat) (terms : BankUnit → List Byte → List Nat) (b : BankCmd) (v : PcSt) (s : State) : State :=
  if v.claim.isNone then s
  else
    let org := originVal s.chipid b.core true b.ts
    let ctx := (s.grid (s.team b.core b.ts).grid).lr.ctx
    let read (i : Nat) : List Byte × Option Nat := rowRead s ctx (rowAddr m b.pc i b.row + n * b.sel) n
    let put (i : Nat) (u : BankUnit) : BankUnit :=
      let (d, bad) := read i
      let x := if bad.isSome then 0x7FC00000 else bankDot (tget 0 u.acc b.acc) (terms u d) (halves u.bcOf)
      { u with acc := tset u.acc b.acc x }
    let t := modUnits s m b v put
    (List.range 16).foldl (fun t i => match (read i).2 with
      | some g => poisonEvent t g org
      | none => t) t

/-- MACB (R476). -/
def execMacb (m id : Nat) (s : State) : Out := bankCommand 0xB2 m id (rowCommand m 512 (fun _ d => halves d)) s

/-- LUTB (R477): the row's nibbles name table entries. -/
def execLutb (m id : Nat) (s : State) : Out :=
  bankCommand 0xB3 m id (rowCommand m 128 (fun u d => (nibbles d).map (fun k => (tget 0 u.lut k).toNat))) s

/-- LUTL: the table of all 16 banks. -/
def execLutl (m id : Nat) (s : State) : Out :=
  bankCommand 0xB4 m id (fun b v s => modUnits s m b v (fun _ u =>
    { u with lut := (halves b.bytes).zipIdx.map (fun e => (e.2, BitVec.ofNat 16 e.1)) })) s

/-- RDAC (R478): lane L receives words 4L to 4L + 3; word 8b + a is acc[a] of bank b. -/
def execRdac (m id : Nat) (s : State) : Out :=
  bankCommand 0xB5 m id (fun b v s =>
    let word (n : Nat) : W32 := let u : BankUnit := tget {} v.units (n / 8); tget 0 u.acc (n % 8)
    let wr := match b.d with
      | .v n => (List.range 4).map (fun k => Wr.v (n.toNat + k) ((lanesOf b.lanes).map (fun l => (l, word (4 * l + k)))))
      | _ => []
    fillResult s b.core b.slot b.res wr) s

/-- ZACC (R480). -/
def execZacc (m id : Nat) (s : State) : Out :=
  bankCommand 0xB7 m id (fun b v s => modUnits s m b v (fun _ u =>
    { u with acc := u.acc.filter (fun e => !(bit b.sel e.1)) })) s

/-! ## BKADD at the controller (R470) -/

/-- The operator that a held add is applied with. -/
def bkaddFn (float : Bool) : RmwFn := .t32 (if float then 10 else 0)

/-- A lane's add may be performed: adds of a core pass each other, but not its other requests to the page (R386).
Log entry 132 (DEDUCED). -/
def addTurn (s : State) (r : Req) : Bool :=
  r.stage == .atOwner && (s.reqs.takeWhile (fun q => q.id != r.id)).all (fun q =>
    q.acc.bank || !(q.core == r.core && q.stage == .atOwner && q.tr.map (·.gpn) == r.tr.map (·.gpn))) &&
  (match r.tr, r.owner with
   | some t, some (.dram _ m f) => frameSt s m f t.gpn == .serve
   | _, _ => false)

/-- Add to a word of a row: the memory-side line goes first; with poison nothing is added (R470, R471).
Log entry 132 (DEDUCED). -/
def addWord (s : State) (ctx a : Nat) (float : Bool) (v : Nat) (org : W32) : State :=
  let s := [0, 1, 2, 3].foldl (fun s i => evictSector s (a / 256 * 4 + i)) s
  let g := a / 32
  if tget false s.poison g then poisonEvent s g org
  else
    let b := granRead s ctx g
    let old := leNat ((b.drop (a % 32)).take 4)
    match rmwNew (bkaddFn float) 4 old v 0 with
    | some x => granWrite s ctx g (b.take (a % 32) ++ leBytes 4 x ++ b.drop (a % 32 + 4))
    | none => s

/-- ADDW: the add of one lane, at the stack named; `cmd` is 32 × its request + lane. Inside a heat it is held with its
key until the heat applies it. Log entry 132 (DEDUCED). -/
def execAddw (m cmd : Nat) (s : State) : Out :=
  match findReq s (cmd / 32) with
  | none => .fault .notEnabled
  | some r =>
    match r.acc, r.owner, r.pieces.find? (fun p => p.lane == cmd % 32) with
    | .bkadd float held, some (.dram _ n _), some p =>
      if n != m || !(addTurn s r) then .fault .notEnabled
      else
        let t := s.team r.core r.ts
        let a := devOf r p.addr
        let s := track s { r with pieces := [p] }
        let s := if held then
            let h : HeldOp := { key := p.key.getD { heat := 0, team := t.index, lane := p.lane, seq := 0 }, grid := t.grid, addr := a
                                fn := bkaddFn float, value := p.b.setWidth 32, chip := s.chipid, core := r.core, slot := r.slot }
            holdOps s m [h]
          else addWord s r.ctx a float p.b.toNat (originVal s.chipid r.core false r.slot)
        let r' := { r with pieces := r.pieces.filter (fun q => q.lane != p.lane) }
        .next (pump (if r'.pieces.isEmpty then dropReq s r else setReq s r') r.core)
    | _, _, _ => .fault .notEnabled

end Sys2Proof.Machine
end

