-- ==== Sys2Proof/Machine/Board.lean ====
section
/-! DEFINITION. Machine/Board.lean: what the board, the Gremen controller and the host do to the chip: reset and
identity (R262, R269), the monitors (R247), firmware and attestation (R268), power and heat (R16 to R18), background
work and errors (R263, R264, R430, R431), and the host's CXL.mem accesses (R265). -/

namespace Sys2Proof.Machine

/-! ## Reset, identity, monitors -/

/-- BOARD_RESET (R262): everything takes its reset value. What is not the chip's stays: the host's memory and what has
left the chip; so does what the Gremen controller keeps without power (R17, R268). Log entry 11 (DESIGN CHOICE). -/
def execBoardReset (s : State) : Out :=
  let g := s.gremen
  .next { State.reset with
    free := s.free, nextId := s.nextId, env := s.env, wire := s.wire, msix := s.msix, hostReads := s.hostReads, reports := s.reports
    hostMem := s.hostMem, hostPages := s.hostPages
    gremen := { limit := g.limit, tripLog := g.tripLog, firmware := g.firmware, monitor := g.monitor, leaf := g.leaf } }

/-- IDENTITY_RECORD (R269): a record without the valid bit, or of no chip, leaves the dies in reset.
Log entry 4 (DEDUCED). -/
def execIdentityRecord (r : W16) (s : State) : Out :=
  let id := bf r.toNat 0 15
  if s.phase != .waitIdentity then .fault .notEnabled
  else if bit r.toNat 15 && namesChip id then .next { s with phase := .started, chipid := id, gremen := { s.gremen with identity := some id } }
  else .next s

/-- The bytes that an image's signature covers. -/
def firmwareBytes (f : Firmware) : List Byte := f.record ++ f.image0 ++ f.image1

/-- A public key of 56 bytes whose hash is the boot ROM's, and a signature of 1,772 bytes that verifies under it (R268).
Log entry 92 (PRESUMED). -/
def firmwareValid (f : Firmware) : Bool :=
  f.key.length == 56 && Config.sha256 f.key == Config.rootHash && f.signature.length == 1772 &&
    Config.lmsValid f.key (firmwareBytes f) f.signature

/-- The monitors' launch record: the image's own, as one privileged team of one crew on each die, with priority 3, not
pre-emptible, in context 0 and without heats (R247). Log entry 91 (DEDUCED). -/
def monitorRecord (f : Firmware) : LaunchRec :=
  { parseRecord f.record with teams := 2, crews := 1, ccols := 1, crows := 1, flags := 13, ctx := 0, heats := 0, deps := [] }

/-- The image stands in the overlay slots of a monitor's core. Log entry 91 (DEDUCED). -/
def monitorOverlays (f : Firmware) (r : LaunchRec) (o : Core) : Core :=
  let o := { o with ov0 := { id := r.id0, mem := Memory.write [] 0 (f.image0.take (32 * r.sz0)) } }
  if r.id1 = 0xFFFF then o else { o with ov1 := { id := r.id1, mem := Memory.write [] 0 (f.image1.take (32 * r.sz1)) } }

/-- MONITOR_START (R247, R262): a verified image is placed on cores 0 and 96.
Log entries 4 (DEDUCED), 91 (DEDUCED). -/
def execMonitorStart (s : State) : Out :=
  match s.gremen.monitor with
  | none => .fault .notEnabled
  | some f =>
    if s.phase != .started || !(firmwareValid f) || !(recordOk f.record) then .fault .notEnabled
    else
      let r := monitorRecord f
      let (n, s) := s.fresh
      let d : Grid := { lr := r, state := 2, teamsLeft := 2, nextTeam := 2, accepted := n, ready := true, monitor := true }
      let s := { s with phase := .running, grids := tset s.grids 0 d }
      let one (s : State) (i c : Nat) : State :=
        let s := placeTeam (s.modCore c (monitorOverlays f r)) 0 i i c
        let x : Cluster := { grid := 0, index := i, origin := c, bars := newBars s.clk 4 32 }
        { s with clusters := s.clusters ++ [x] }
      .next (one (one s 0 0) 1 96)

/-- FIRMWARE_UPDATE (R268): accepted only with a valid signature; a new monitor image is placed at the next start. -/
def execFirmwareUpdate (f : Firmware) (s : State) : Out :=
  if !(firmwareValid f) then .next s
  else if f.monitor then .next { s with gremen := { s.gremen with monitor := some f } }
  else .next { s with gremen := { s.gremen with firmware := (firmwareBytes f) } }

/-- A report with its signature: the message is the 2-byte identity record. Log entry 107 (DESIGN CHOICE). -/
def signedReport (leaf id : Nat) : Report :=
  { leaf, identity := id, key := (List.range 56).map Config.identityByte
    signature := (List.range 1772).map (Config.signByte leaf (leBytes 2 (2 ^ 15 + id))) }

/-- ATTESTATION_REPORT (R268, R269): signed by the identity key with the next leaf, which is never used again; after 2^20
signatures none is given. Log entry 107 (DESIGN CHOICE). -/
def execAttestationReport (s : State) : Out :=
  match s.gremen.identity with
  | none => .fault .notEnabled
  | some id =>
    let n := s.gremen.leaf
    if 2 ^ 20 ≤ n then .next s
    else .next { s with gremen := { s.gremen with leaf := n + 1 }, reports := s.reports ++ [signedReport n id] }

/-! ## Power and heat (R16 to R18) -/

/-- The Gremen controller posts a power or thermal event. Log entry 106 (DESIGN CHOICE). -/
def powerEvent (s : State) : State :=
  { s with free := s.free + 1 }.post 0 { typ := 0x0E, value := Config.telemetryCode s.free }

/-- The dies have power and an identity. Log entry 110 (DESIGN CHOICE). -/
def Phase.lit (p : Phase) : Bool := p == .started || p == .running

/-- POWER_EVALUATION (R16, R18): each 10 µs, under the limit that the board has set, at most 2,400 W. Above the limit the clock falls by a step, and at 1.2 GHz first matrix
passes, then bank commands are throttled; at or below it they are released, and the clock rises unless a hold is in
force. Log entry 105 (DESIGN CHOICE). -/
def execPowerEvaluation (p : PowerReading) (s : State) : Out :=
  let g := s.gremen
  if !s.phase.lit then .fault .dark
  else if s.ref < 1000 * g.evals || 2400000 < p.limit then .fault .notEnabled
  else
    let g := { g with evals := s.ref / 1000 + 1, limit := p.limit }
    let keep (g : Gremen) : State := { s with gremen := g }
    if g.step.isSome then .next (keep g)
    else if g.limit < p.milliwatts then
      if 1200 < s.mhz then .next (keep { g with step := some (max 1200 (s.mhz - 25)) })
      else if !g.throttleMatrix then .next (powerEvent (keep { g with throttleMatrix := true }))
      else if !g.throttleBank then .next (powerEvent (keep { g with throttleBank := true }))
      else .next (keep g)
    else if g.throttleBank then .next (keep { g with throttleBank := false })
    else if g.throttleMatrix then .next (keep { g with throttleMatrix := false })
    else if !g.hold && s.mhz < 3000 then .next (keep { g with step := some (min 3000 (s.mhz + 25)) })
    else .next (keep g)

/-- CLOCK_STEP_COMPLETE (R16): no word is under way between two steps of the model. Log entry 105 (DESIGN CHOICE). -/
def execClockStepComplete (s : State) : Out :=
  match s.gremen.step with
  | none => .fault .notEnabled
  | some m => .next { s with mhz := m, gremen := { s.gremen with step := none } }

/-- THERMAL_HOLD (R17). Log entry 106 (DESIGN CHOICE). -/
def execThermalHold (celsius : Nat) (s : State) : Out :=
  if !s.phase.lit then .fault .dark
  else if celsius < 100 || s.gremen.hold then .fault .notEnabled
  else .next (powerEvent { s with gremen := { s.gremen with hold := true, holdFrom := s.ref, step := if s.mhz = 1200 then none else some 1200 } })

/-- THERMAL_HOLD_END (R17): the temperature has stood at 95 °C or below for so many periods of the reference clock, which
began after the hold: 10 ms are 1,000,000. Log entry 106 (DESIGN CHOICE). -/
def execThermalHoldEnd (r : ThermalReading) (s : State) : Out :=
  if !s.phase.lit then .fault .dark
  else if 95 < r.celsius || !s.gremen.hold || r.ticks < 1000000 || s.ref < s.gremen.holdFrom + r.ticks then .fault .notEnabled
  else .next (powerEvent { s with gremen := { s.gremen with hold := false } })

/-- THERMAL_TRIP (R17, R267): 110 °C or above for 1 ms, 100,000 periods of the reference clock, which lie within the hold
where the dies run. A record in the controller's log, vector 0, and the dies lose their power.
Log entry 106 (DESIGN CHOICE). -/
def execThermalTrip (r : ThermalReading) (s : State) : Out :=
  if r.celsius < 110 || s.phase == .off || r.ticks < 100000 || (s.phase.lit && (!s.gremen.hold || s.ref < s.gremen.holdFrom + r.ticks)) then
    .fault .notEnabled
  else .next { s with phase := .off, msix := s.msix ++ [0], gremen := { s.gremen with tripLog := s.gremen.tripLog ++ [r.celsius] } }

/-! ## Background work and errors (R263, R264) -/

/-- PATROL_SCRUB: a granule is read and corrected (R264). Log entry 56 (DESIGN CHOICE). -/
def execPatrolScrub (g : Nat) (found : EccFinding) (s : State) : Out :=
  let e (t : Nat) : State := s.post (dieOfStack (stackOf (32 * g))) { typ := t, addr := w64 (32 * g) }
  if !s.phase.lit then .fault .dark
  else if 2 ^ 34 ≤ g then .fault .notEnabled
  else match found with
    | .clean => .next s
    | .correctable recurs => .next (e (if recurs then 0x09 else 0x08))
    | .uncorrectable => .next (s.setPoison g true)


/-- The die that a port leaves from (R11). -/
def dieOfPort (p : Nat) : Nat := if p < 16 || (31 ≤ p && p < 39) then 0 else 1

/-- A fabric link error (R431); in R458 value 0x0000_000F, port 15. -/
def linkEvent (s : State) (die value : Nat) : State := s.post die { typ := 0x0D, value := w32 value }

/-- LINK_CALIBRATION (R263, R430): the link is trained anew; a wrong far end keeps it down, and so does a lasting
error until a board reset (R431). Log entry 108 (DESIGN CHOICE). -/
def execLinkCalibration (p farChip farPort : Nat) (s : State) : Out :=
  if !s.phase.lit then .fault .dark
  else if Config.nPorts ≤ p then .fault .notEnabled
  else match farEnd s p with
    | none => .next (s.modPort p (fun q => { q with up := false }))
    | some e =>
      if e == (farChip, farPort) then .next (s.modPort p (fun q => { q with up := !q.down }))
      else .next (linkEvent (s.modPort p (fun q => { q with up := false })) (dieOfPort p) (2 ^ 31 + p))

/-- LASER_WEAR_LEVELLING (R263). Log entry 108 (DESIGN CHOICE). -/
def execLaserWearLevelling (e bias : Nat) (s : State) : Out :=
  if !s.phase.lit then .fault .dark
  else if 4 ≤ e then .fault .notEnabled
  else .next { s with gremen := { s.gremen with bias := tset s.gremen.bias e bias } }

/-- TELEMETRY (R263). -/
def execTelemetry (s : State) : Out :=
  if !s.phase.lit then .fault .dark
  else .next { s with free := s.free + 1, gremen := { s.gremen with telemetry := s.gremen.telemetry ++ [Config.telemetryCode s.free] } }

/-- FLIT_CRC_ERROR (R431): the replay succeeds, or the link is down until a board reset. -/
def execFlitCrcError (p : Nat) (lasting : Bool) (s : State) : Out :=
  if !s.phase.lit then .fault .dark
  else if Config.nPorts ≤ p || !(s.port p).up then .fault .notEnabled
  else if lasting then .next (linkEvent (s.modPort p (fun q => { q with up := false, down := true })) (dieOfPort p) (2 ^ 31 + p))
  else .next (linkEvent (s.modPort p (fun q => { q with trans := q.trans + 1 })) (dieOfPort p) p)

/-! ## The host's accesses (R265) -/

/-- The device-physical address and the context of a host access within the open window.
Log entry 109 (DESIGN CHOICE). -/
def hdmPlace (s : State) (addr n : Nat) : Option (Nat × Nat) :=
  let h := s.hdmctl.toNat
  let unit := 2 ^ 21
  let a := bf h 19 19 * unit + addr
  let held : Bool := a + n ≤ 8 * 2 ^ 36 || (viewSpace ≤ a && (List.range n).all (fun i => (windowOf s (a + i)).isSome))
  if bit h 63 && addr + n ≤ bf h 0 19 * unit && held then some (a, bf h 38 12) else none

/-- HOST_CXL_MEM_ACCESS: an access outside it, or of poisoned data, completes with the
poison indication. Log entry 109 (DESIGN CHOICE). -/
def execHostCxlMemAccess (r : HostAccess) (s : State) : Out :=
  let n := match r.write with
    | some b => b.length
    | none => r.len
  let done (s : State) (b : Option (List Byte)) : Out := .next { s with hostReads := s.hostReads ++ [(r.tag, b)] }
  if s.phase == .off then .fault .dark
  else if n = 0 || 64 < r.addr % 64 + n then .fault .notEnabled
  else match hdmPlace s r.addr n, r.write with
    | none, _ => done s none
    | some (a, ctx), some b =>
      done (devWrite { s with free := s.free + 1 } ctx (b.zipIdx.map (fun e => (a + e.2, e.1))) false (Config.hostOrigin s.free)) (some [])
    | some (a, ctx), none =>
      let (s, b, bad) := devRead s ctx a n
      done s (if bad.isEmpty then some b else none)

end Sys2Proof.Machine
end

