-- ==== Sys2Proof/Machine/Pair.lean ====
section
/-! DEFINITION. Machine/Pair.lean: the PAIR word (R36 to R38): two halves that issue together. -/

namespace Sys2Proof.Machine

/-- The integer opcodes of a half: the value from TYPE, M, the predicate M names, A, B and C. -/
def intHalf (o : Nat) : Option (Nat × LaneFn) :=
  if o = 0x040 then some (4, fIadd) else if o = 0x041 then some (4, fIsub) else if o = 0x042 then some (6, fImul)
  else if o = 0x044 then some (6, fImad) else if o = 0x045 then some (4, fImin) else if o = 0x046 then some (4, fImax)
  else if o = 0x047 then some (4, fIabs) else if o = 0x048 then some (4, fIneg) else if o = 0x049 then some (4, fAnd)
  else if o = 0x04A then some (4, fOr) else if o = 0x04B then some (4, fXor) else if o = 0x04C then some (4, fNot)
  else if o = 0x04D then some (4, fShl) else if o = 0x04E then some (4, fShr) else if o = 0x04F then some (4, fShra)
  else if o = 0x050 then some (4, fRot) else if o = 0x051 then some (4, fPopc) else if o = 0x052 then some (4, fClz)
  else if o = 0x053 then some (4, fBrev) else if o = 0x054 then some (4, fBfx) else if o = 0x055 then some (4, fBfi)
  else if o = 0x056 then some (4, fPrmb) else if o = 0x057 then some (4, fSel) else if o = 0x05A then some (4, fLea)
  else if o = 0x05E then some (2, fMov) else none

/-- The float and SFU opcodes of a half: latency, SQRT's bounds, and the function. -/
def floatHalf (o : Nat) : FLat × FLane :=
  if o = 0x0C0 then (.fixed 6, fFadd) else if o = 0x0C1 then (.fixed 6, fFsub) else if o = 0x0C2 then (.fixed 6, fFmul)
  else if o = 0x0C3 then (.fixed 6, fFfma) else if o = 0x0C4 then (.fixed 4, fFmin) else if o = 0x0C5 then (.fixed 4, fFmax)
  else if o = 0x0C6 then (.fixed 4, fFminm) else if o = 0x0C7 then (.fixed 4, fFmaxm) else if o = 0x0C8 then (.fixed 4, fFabs)
  else if o = 0x0C9 then (.fixed 4, fFneg) else if o = 0x0CA then (.fixed 4, fFcpys) else if o = 0x0CD then (.fixed 6, fFrnd)
  else if o = 0x0CE then (.fixed 6, fFscale) else if o = 0x0EB then (.fixed 4, fFsat) else if o = 0x0E8 then (.fixed 6, fFdot2)
  else if o = 0x0EA then (.fixed 6, fFmad2) else if o = 0x0EC then (.fixed 4, fFmed3)
  else if o = 0x0DA then (.long 20 48, fSfu o) else (.fixed 12, fSfu o)

/-- What a half leaves: latency, writes, counts. -/
def halfResult (h : Half) (x : Ctx) (s : State) : FLat × List Wr × List Nat :=
  let w := halfOp h
  let k := s.crew x.c x.k
  let t := h.ty.toNat
  let m := h.m.toNat
  let src (o : Opd) (l : Nat) : Nat := (rd s x 0 o l).toNat
  match intHalf h.opc.toNat with
  | some (n, f) =>
    (.fixed n, wrOf x false w.d (fun l =>
      w32 (f t m (h.opc == 0x057 && readQ s x m l) (src w.a l) (src w.b l) (src w.c l))), [])
  | none =>
    let (lat, f) := floatHalf h.opc.toNat
    let res : Tab FRes := (lanesOf x.on).map (fun l => (l, f k.env t m 0 (src w.a l) (src w.b l) (src w.c l)))
    (lat, wrOf x false w.d (fun l => w32 (tget { val := 0 } res l).val) ++ flWr k.flOn (res.map (fun e => (e.1, e.2.fl))),
      if k.cntOn then res.flatMap (fun e => e.2.counts) else [])

/-- Leave a half's result, as its own instruction would. -/
def leaveHalf (x : Ctx) (s : State) (r : FLat × List Wr × List Nat) : State :=
  match r.1 with
  | .fixed n => fixedResult s x n r.2.1 r.2.2
  | .long lo hi => boundedResult s x lo hi r.2.1 r.2.2

/-- The registers whose last read a half is. -/
def halfLast (h : Half) : List Nat :=
  (if h.la then [h.a.toNat] else []) ++ (if h.lb then [h.b.toNat] else []) ++ (if h.lc then [h.c.toNat] else [])

/-- PAIR: both halves read before either writes (R38). -/
def execPair (w : PairOp) (s : State) : Out :=
  let sfu := pairClass w.y.opc.toNat == some 2
  issue s { dst := [w.x.d.toNat, w.y.d.toNat], reads := halfSrcs w.x ++ halfSrcs w.y, last := halfLast w.x ++ halfLast w.y
            base := if sfu then sfuBase w.y.ty.toNat else 1 } (fun x s =>
    let r := halfResult w.x x s
    let q := halfResult w.y x s
    leaveHalf x (leaveHalf x s r) q)

end Sys2Proof.Machine
end

