-- ==== Sys2Proof/Machine/Remote.lean ====
section
/-! DEFINITION. Machine/Remote.lean: the fabric words (R446 to R452). -/

namespace Sys2Proof.Machine

/-! ## RST, RLD, RATOM (R447) -/

/-- The RC counter of an RST, translated once (R443): its chip, page, offset and frame, a wait, or a cause. -/
def rstCounter (s : State) (x : Ctx) (va : Nat) : State × (Nat × Nat × Nat × Nat ⊕ Option Nat) :=
  if va % 8 ≠ 0 then (s, .inr (some 0x11))
  else match farOf s x.c (s.crew x.c x.k).ctx va true with
    | (s, .bad e) => (s, .inr (some e))
    | (s, .wait) => (s, .inr none)
    | (s, .to h f t) => if t.fw then (s, .inr (some 0x11)) else if t.dfr then (s, .inr (some 0x14)) else (s, .inl (h, t.gpn, va % 65536, f))

def execRst (w : Op) (s : State) : Out :=
  let n := tyBytes w.ty
  let named := w.mb 9
  let p := { memPre w 2 ((n + 3) / 4) true with rc := 2 }
  let m : MemWord := { acc := .rst, width := n, fab := true, ord := w.mb 10, uni := isU w.d }
  let run (rc : Option (Nat × Nat × Nat × Nat)) (s : State) : Out := issue s p (fun x s =>
    let l : List LaneAcc := (actLanes x w.d).map (fun l => { lane := l, addr := gaddr s x w l, n, data := storeData s x w n l })
    startChecked s x p { m with rc } (l.map checkGlobal))
  match s.cur with
  | none => .fault .noIssue
  | some i =>
    let x := ctxOf s i
    if !named || !(wouldRun s x) then run none s
    else
      let va := usrc64 s x w.c
      match rstCounter s x va with
      | (s, .inr none) => notNow s x
      | (_, .inr (some e)) => issue s p (fun x s => faultLanes s x ((actLanes x w.d).map (fun l => { lane := l, cause := e, addr := w64 va })))
      | (s, .inl rc) => run (some rc) s

def execRld (w : Op) (s : State) : Out :=
  let n := tyBytes w.ty
  let p := memPre w 2 ((n + 3) / 4) false
  issue s p (fun x s =>
    let l : List LaneAcc := (actLanes x w.d).map (fun l => { lane := l, addr := gaddr s x w l, n })
    let m : MemWord := { acc := .rld, width := n, fab := true, ord := w.mb 10, long := true, kind := tyKind w.ty, dst := w.d, uni := isU w.d }
    startChecked s x p m (l.map (fun y => if y.addr % n != 0 then .bad y.lane y.addr else checkGlobal y)))

def execRatom (w : Op) (s : State) : Out :=
  let n := if w.mb 9 then 8 else 4
  let fn : RmwFn := if w.ty = 15 then .cas else if n = 8 then .t64 w.ty else .t32 w.ty
  let p : Pre := { w, ra := 2, rb := n / 4, rc := n / 4, dst := vdst w.d (n / 4), late := true }
  issue s p (fun x s =>
    if inHeat s (s.crew x.c x.k) then faultLanes s x (raises x.on 0x50)
    else
      let l : List LaneAcc := (actLanes x w.d).map (fun l =>
        { lane := l, addr := atomAddr s x w false l, n, b := rmwVal s x fn n w.b l, c := atomVal s x n w.c l })
      let m : MemWord := { acc := .ratom fn, width := n, atom := true, fab := true, ord := w.mb 10, each := true, long := true, kind := .regs (n / 4), dst := w.d, uni := isU w.d }
      startChecked s x p m (l.map (checkAtom s x .global n)))

/-- FACK (R448). -/
def execFack (s : State) : Out :=
  issue s {} (fun x s => if x.on == 0 then s else order s x false false 0 x.on .fack)

/-! ## Bulk transfers (R446) -/

/-- A bulk transfer before it is queued, without its SEQs: none where R335 refuses it. -/
def bulkOp (s : State) (x : Ctx) (w : Op) (get : Bool) : Option CopyOp :=
  let d := leNat ((rdRun s x w.a 8 x.low).flatMap (fun v => leBytes 4 v.toNat))
  let sp := w.mf 8 2
  let n := bf d 128 32
  let ctl := bf d 160 32
  let rc := bf d 192 64
  let remote := bf d (if get then 0 else 64) 64
  let o := { blankOp s x w (if get then .bget else .bput) with ss := if get then 0 else sp, ds := if get then sp else 0 }
  match resolve s x sp (bf d (if get then 64 else 0) 64) n with
  | none => none
  | some near =>
    if 2 ^ 24 < n || 4 < bf ctl 0 3 || bf ctl 3 10 != 0 || bf ctl 16 3 != 0 || (get && rc != 0) then none
    else
      let b : Bulk := { peer := none, ord := w.mb 10, act := if bit ctl 31 then some (bf ctl 23 8, bf ctl 19 4) else none
                        pin := if bit ctl 15 then some (bf ctl 13 2) else none, rc
                        todo := cutPieces (2 ^ (bf ctl 0 3 + 8)) remote near (sp == 0) (n + 1) 0 n }
      some { o with src := w64 (if get then remote else near), dst := w64 (if get then near else remote), n, bulk := some b
                    claims := if get && sp != 0 then rangeLines near n else [] }

/-- The peer of a transfer, as far as it can be told at issue. Log entry 127 (DEDUCED). -/
def bulkPeer (s : State) (x : Ctx) (o : CopyOp) : State × Far :=
  if o.n = 0 then (s, .bad 0)
  else if o.kind == .bget then farOf s x.c o.ctx o.src.toNat false else farOf s x.c o.ctx o.dst.toNat true

/-- Every piece reserves a SEQ on the peer's connection (R436), so that the four pieces of R458 have SEQs 0 to 3 and the flag
that follows them SEQ 4. -/
def reserveSeqs (s : State) (c : Nat) (o : CopyOp) (b : Bulk) (chip : Nat) : State × CopyOp :=
  let (s, l) := b.todo.foldl (fun (acc : State × List BulkPc) p =>
    let (q, s) := queuePkt acc.1 { typ := 0x01, src := acc.1.chipid, dst := chip, ctx := o.ctx, reqKind := 1, reqIdx := c } true
    (s, acc.2 ++ [{ p with pkt := some (chip, q) }])) (s, [])
  (s, { o with bulk := some { b with peer := some chip, todo := l } })

/-- An earlier word of the crew has packets that have no SEQ yet (R436). -/
def seqsOwed (s : State) (uid : Nat) : Bool := s.reqs.any (fun r => r.uid == uid && r.space == 0 && r.stage.unsent)

/-- A transfer enters the queue with its SEQs. Log entry 127 (DEDUCED). -/
def startBulk (s : State) (x : Ctx) (w : Op) (o : CopyOp) (cw : Option Nat) : State :=
  let (s, far) := bulkPeer s x o
  let (s, o) := match far, o.bulk with
    | .to chip _ _, some b => if (s.conn chip).lost then (s, o) else reserveSeqs s x.c o b chip
    | _, _ => (s, o)
  enqueue (fixedResult s x 4 (wrOf x false w.d (fun _ => w32 o.ticket))) x.c { o with cw }

/-- BPUT and BGET: with a full queue, earlier packets without SEQs, or a remote page whose owner is not known yet,
the word does not issue. -/
def bulkWord (w : Op) (get : Bool) (s : State) : Out :=
  match s.cur with
  | none => .fault .noIssue
  | some i =>
    let x := ctxOf s i
    let run (s : State) : Out := issue s { w, ra := 8 } (fun x s =>
      if x.on == 0 then s
      else match completion s x w, bulkOp s x w get with
        | some cw, some o => startBulk s x w o cw
        | _, _ => faultLanes s x (raises x.on 0x11))
    if !(wouldRun s x) then run s
    else if Config.copyQueue ≤ (s.core x.c).copies.length then notNow s x
    else if seqsOwed s (s.crew x.c x.k).uid then notNow s x
    else match bulkOp s x w get with
      | none => run s
      | some o => match bulkPeer s x o with
        | (s, .wait) => notNow s x
        | _ => run s

/-- A fabric word that cannot issue now (R64): earlier packets of its crew have no SEQ yet, or the owner of its page has been
asked for and has not answered. -/
def fabricHolds (s : State) (x : Ctx) (i : Instr) : Bool :=
  let bulk (w : Op) (get : Bool) : Bool :=
    seqsOwed s (s.crew x.c x.k).uid || (match bulkOp s x w get with
      | none => false
      | some o => match bulkPeer s x o with
        | (t, .wait) => t.nextId == s.nextId
        | _ => false)
  match i with
  | .bput w => bulk w false
  | .bget w => bulk w true
  | .rst w => w.mb 9 && (match rstCounter s x (usrc64 s x w.c) with
    | (t, .inr none) => t.nextId == s.nextId
    | _ => false)
  | _ => false

def execBput (w : Op) (s : State) : Out := bulkWord w false s
def execBget (w : Op) (s : State) : Out := bulkWord w true s

/-! ## Arrival counters (R449, R450) -/

/-- The counter of the issuing core is bound to the crew's team. -/
def boundTo (s : State) (x : Ctx) (n : Nat) : Option ArrCtr :=
  let k := s.crew x.c x.k
  (tget? (s.core x.c).arrCtrs n).filter (fun a => a.ts == k.ts && k.guest.isNone)

def execAcnt (w : Op) (s : State) : Out :=
  sysWord { w } false s (fun x s =>
    let n := w.mf 6 4
    let k := s.crew x.c x.k
    let a := usrc s x w.a
    let bar := if w.mb 5 then some (w.mf 1 4) else none
    if k.guest.isSome || a % 4 != 0 || (s.team x.c k.ts).scratch < a + 4 then faultLanes s x (raises x.on 0x11)
    else if (tget? (s.core x.c).arrCtrs n).any (fun q => q.ts != k.ts) then giveLong s x w.d 1
    else
      let q : ArrCtr := { ts := k.ts, off := a, threshold := w32 (usrc s x w.b), bar, armed := bar.isSome, sum := 0 }
      let s := s.modCore x.c (fun o => { o with arrCtrs := tset o.arrCtrs n q })
      giveLong (match bar with
        | some b => expectEngine s x.c k.ts b
        | none => s) x w.d 0)

def execAcntRel (w : Op) (s : State) : Out :=
  sysWord { w } false s (fun x s =>
    let n := w.mf 6 4
    match boundTo s x n with
    | none => giveLong s x w.d 2
    | some a =>
      let s := s.modCore x.c (fun o => { o with arrCtrs := tdel o.arrCtrs n })
      let s := match a.bar with
        | some b => if a.armed then checkTeamBar (s.modTeam x.c a.ts (fun m =>
            let q := tget {} m.bars b
            { m with bars := tset m.bars b { q with expected := q.expected - 1 } })) x.c a.ts b else s
        | none => s
      giveLong s x w.d 0)

/-- AWAIT: lanes wait until the counter's word has reached B; a satisfied one joins what it has read (R212, R444).
Log entry 128 (DEDUCED). -/
def execAwait (w : Op) (s : State) : Out :=
  issue s { w } (fun x s =>
    if x.on == 0 then s
    else match boundTo s x (w.mf 3 4) with
      | none => faultLanes s x (raises x.on 0x11)
      | some a =>
        let one (l : Nat) : Step2 × W64 × W64 :=
          (checkScratch s x x.c a.ts a.off { lane := l, addr := a.off, n := 4 }, (rd s x w.imm w.b l).setWidth 64, BitVec.allOnes 64)
        waitWord s x (waitRec 3 2 4 false true .no) ((lanesOf x.on).map one))

/-! ## CONN (R451, R452) -/

def connWord (w : Op) (priv : Bool) (s : State) (body : Ctx → State → Nat → State) : Out :=
  sysWord { w } priv s (fun x s =>
    let chip := usrc s x w.a
    if namesChip chip then body x s chip else faultLanes s x (raises x.on 0x30))

/-- CONN.rd (R451): state and live paths, next and oldest SEQ, resends, bytes by path, the eight words of R460. -/
def execConnRd (w : Op) (s : State) : Out :=
  connWord w false s (fun x s chip =>
    let q := s.conn chip
    let live := ((livePaths s chip).map (2 ^ ·)).sum
    let words : List W32 := [w32 ((if q.lost then 2 else b2n (inSram s chip)) + 16 * live), w32 q.next, w32 q.oldest, q.resends] ++
      (List.range 4).map (fun i => tget 0 q.bytes i)
    longResult s x (giveWords w.d words))

def execConnOpen (w : Op) (s : State) : Out := connWord w false s (fun x s chip => giveLong (useConn s chip) x w.d 0)

/-- CONN.reset: the copies are discarded and the peer is told; the status comes with its answer.
Log entry 126 (DEDUCED). -/
def execConnReset (w : Op) (s : State) : Out :=
  connWord w true s (fun x s chip =>
    if !(s.conn chip).lost then giveLong s x w.d 1
    else
      let s := s.modConn chip (fun q => { q with kept := [] })
      startJob (emit s { typ := 0x0D, src := s.chipid, dst := chip, reqKind := 5 }) x w.d 1 (.connReset chip s.ref))

end Sys2Proof.Machine
end

