-- ==== Sys2Proof/Machine/Receive.lean ====
section
/-! DEFINITION. Machine/Receive.lean: the receive half of a connection (R434, R437): where packets come in, their order,
what each type does at its owner (R385 to R388, R443, R444), and the answers to it. -/

namespace Sys2Proof.Machine

/-! ## Coming in -/

/-- The port at which a packet of a peer comes in: the last link of its path, chosen as at the sender (R434).
Log entry 120 (DEDUCED). -/
def arrivalPort (s : State) (p : Packet) : Option Nat :=
  let a := memberOf s.chipid
  let b := memberOf p.src
  let n := s.nGroups
  let live (p : Option Nat) : Option Nat := p.filter s.portLive
  if groupOf p.src == groupOf s.chipid then
    if p.path = 0 then live (some (localPort a b))
    else firstLive s (fun x => let x := x % 32; if x == a || x == b then none else some (localPort a x)) 32 (a + 8 * p.path)
  else if p.path = 0 then live (portToGroup s (groupOf p.src))
  else firstLive s (fun x =>
    if x % n == groupOf s.chipid then portToGroup s (groupOf p.src)
    else if x % n == groupOf p.src then none else portToGroup s (x % n)) 32 (groupOf s.chipid + 171 * p.path)

/-- A packet for another chip is forwarded in the ports; where its link is down it is lost, and comes again by R438.
Log entry 120 (DEDUCED). -/
def transit (s : State) (p : Packet) : State :=
  let n := s.nGroups
  let live (p : Option Nat) : Option Nat := p.filter s.portLive
  let port := if groupOf p.dst == groupOf s.chipid then live (some (localPort (memberOf s.chipid) (memberOf p.dst)))
    else if groupOf p.src == groupOf s.chipid && p.path != 0 then
      firstLive s (fun x => if x % n == groupOf s.chipid then none else portToGroup s (x % n)) 32 (groupOf p.dst + 171 * p.path)
    else live (portToGroup s (groupOf p.dst))
  match port with
  | some i => { s with wire := s.wire ++ [(i, p)] }
  | none => s

/-- The fields of a packet that fits its layout (R432). Log entry 121 (DESIGN CHOICE). -/
def packetFits (s : State) (p : Packet) : Bool :=
  p.seq < 2 ^ 24 && p.path < 4 && p.len ≤ 4096 && p.ctx < 4096 && p.gpn < 2 ^ 39 && p.off < 65536 && p.tag < 2 ^ 21 && p.slot < 64 &&
  (p.src == s.chipid || p.frame < 2 ^ 23)

/-- A packet comes in. One for another chip goes on; one for this chip does what its type says. -/
def receive (p : Packet) (ok : Bool) (s : State) (body : State → Option State) : Out :=
  let run (s : State) : Out := match body s with
    | some t => .next t
    | none => .fault .notEnabled
  if !s.phase.lit then .fault .dark
  else if !ok || !(packetFits s p) then .fault .notEnabled
  else if p.src == s.chipid then
    if s.loop.contains p then run { s with loop := s.loop.erase p } else .fault .notEnabled
  else if !(namesChip p.src) then .fault .notEnabled
  else if p.dst != s.chipid then .next (transit s p)
  else if (arrivalPort s p).isNone then .fault .notEnabled
  else run s

/-! ## The order of packets (R437) -/

/-- The chip and the SEQ under which the requester knows a packet (R388). -/
def origOf (p : Packet) : Nat × Nat := p.orig.getD (p.src, p.seq)

/-- The requester of a packet: chip, kind, index. -/
def requester (p : Packet) : Nat × Nat × Nat := ((origOf p).1, p.reqKind, p.reqIdx)

/-- A SEQ whose packet is performed. -/
def Conn.performed (q : Conn) (n : Nat) : Bool := (0 < seqDist q.recvAll n && seqDist q.recvAll n ≤ 2 ^ 23) || q.recvSet.contains n

/-- The lowest SEQ that is not performed rises over those that are. -/
def riseAll : Nat → Conn → Conn
  | 0, q => q
  | k + 1, q => if q.recvSet.contains q.recvAll then
      riseAll k { q with recvSet := q.recvSet.filter (· != q.recvAll), recvAll := (q.recvAll + 1) % 2 ^ 24 } else q

/-- A SEQ is performed. What is remembered of packets long past goes. -/
def Conn.perform (q : Conn) (n : Nat) : Conn :=
  let set := if q.performed n then q.recvSet else q.recvSet ++ [n]
  let q := riseAll (set.length + 1) { q with recvSet := set }
  let near (m : Nat) : Bool := 2 ^ 24 ≤ m || q.recvAll == m || 2 ^ 23 < seqDist q.recvAll m || seqDist q.recvAll m ≤ 512
  { q with known := q.known.filter (fun e => !(q.performed e.1) || q.recvSet.contains e.1), saved := (q.saved.filter (fun e => near e.1)).take 2048 }

/-- SEQs below a packet's that are not performed. Log entry 121 (DESIGN CHOICE). -/
def gapBelow (q : Conn) (n : Nat) : List Nat :=
  ((List.range (seqDist n q.recvAll)).map (fun i => (q.recvAll + i) % 2 ^ 24)).filter (fun m => !(q.recvSet.contains m))

/-- The requester of a packet that is not performed. -/
def requesterAt (src : Nat) (q : Conn) (m : Nat) : Nat × Nat × Nat :=
  match q.held.find? (fun p => p.seq == m) with
  | some p => requester p
  | none => match q.known.find? (fun e => e.1 == m) with
    | some e => e.2
    | none => Config.gapRequester src m

/-- A packet's turn has come: with ORD behind every lower SEQ, else behind those of its requester (R437): the held
piece and the held flag of R458 and R459. -/
def inTurn (s : State) (p : Packet) : Bool :=
  let q := s.conn p.src
  let low := gapBelow q p.seq
  if p.ord then low.isEmpty else low.all (fun m => requesterAt p.src q m != requester p)

/-- A packet comes that others of its requester have passed: the gap was not what Config says it is. -/
def passedBy (s : State) (p : Packet) : Bool :=
  let q := s.conn p.src
  q.recvSet.any (fun m => seqDist m p.seq < 2 ^ 23 && q.known.any (fun e => e.1 == m && e.2 == requester p))

/-! ## Answers -/

/-- A cumulative acknowledgement with its bitmap (R433). -/
def ackTo (s : State) (chip : Nat) : State :=
  let q := s.conn chip
  emit s { typ := 0x06, src := s.chipid, dst := chip, seq := q.recvAll, reqKind := 5, len := 32, body := .bitmap (q.recvSet.filter (fun n => seqDist n q.recvAll ≤ 256)) }

/-- A refusal (R439). Log entry 124 (DEDUCED). -/
def refuseTo (s : State) (chip seq reason : Nat) : State :=
  emit s { typ := 0x07, src := s.chipid, dst := chip, seq, frame := reason, reqKind := 5 }

/-- A response goes to the requester itself. -/
def respond (s : State) (p : Packet) (typ len : Nat) (b : Body) : State :=
  let o := origOf p
  emit s { typ, src := s.chipid, dst := o.1, seq := o.2, ctx := p.ctx, gpn := p.gpn, off := p.off, reqKind := p.reqKind, reqIdx := p.reqIdx, tag := p.tag, len, body := b }

/-- Where a packet's answer is saved: connection and key. What a stub has passed on is known by the stub's chip too. -/
def savedAt (p : Packet) : Nat × Nat :=
  match p.orig with
  | none => (p.src, p.seq)
  | some (c, n) => (c, n + 2 ^ 24 * (1 + p.src))

def saveAnswer (s : State) (at_ : Nat × Nat) (b : Body) : State :=
  s.modConn at_.1 (fun q => { q with saved := (at_.2, b) :: q.saved.filter (fun e => !(e.1 == at_.2)) })

def savedAnswer (s : State) (at_ : Nat × Nat) : Option Body := ((s.conn at_.1).saved.find? (fun e => e.1 == at_.2)).map (·.2)

/-- A redirect to the requester (R388). -/
def redirectTo (s : State) (chip gpn : Nat) (stub succ : Owner) : State :=
  emit s { typ := 0x0A, src := s.chipid, dst := chip, gpn, reqKind := 5, body := .redirect gpn stub succ }

/-! ## The frame that a request names (R385, R388) -/

/-- What the frame does with a request: perform it at a frame (the stubs of this chip passed on the way), hold it,
refuse it, or forward it to another chip. -/
inductive Fit
  | go (key : Nat) (via : List (Nat × Owner))
  | hold
  | refuse
  | forward (key : Nat) (succ : Owner) (via : List (Nat × Owner))
deriving DecidableEq, Repr

def fitFrom (s : State) (g : Nat) : Nat → Nat → List (Nat × Owner) → Fit
  | 0, _, _ => .hold
  | n + 1, k, via =>
    if stagingFrame (k % 2 ^ 20) then .refuse
    else match frameSt s (k / 2 ^ 20) (k % 2 ^ 20) g with
      | .serve => .go k via
      | .hold => .hold
      | .gone => .refuse
      | .stub (.dram c m f) => if c == s.chipid then fitFrom s g n (frameKey m f) (via ++ [(k, .dram c m f)]) else .forward k (.dram c m f) via
      | .stub (.host _) => .refuse

/-- The fit of a packet's page; a format window's view always serves. -/
def fitOf (s : State) (p : Packet) : Fit := if p.frame = viewMark then .go viewMark [] else fitFrom s p.gpn 4 p.frame []

/-- The stubs of this chip that a request passed count it, and the requester hears of their successors.
Log entry 123 (DEDUCED). -/
def passStubs (s : State) (p : Packet) (via : List (Nat × Owner)) : State :=
  via.foldl (fun s v => redirectTo (countFwd s v.1) (origOf p).1 p.gpn (ownerAt s v.1) v.2) s

/-- The device address of an offset in the page that a packet reaches. -/
def packetDev (p : Packet) (k off : Nat) : Nat := if k = viewMark then p.gpn * 65536 + off else devAddr (k / 2 ^ 20) (k % 2 ^ 20) off

/-- A packet's access is counted (R392). -/
def trackPacket (s : State) (p : Packet) (k : Nat) : State :=
  if k = viewMark then s else trackAccess s (k / 2 ^ 20) (k % 2 ^ 20) p.gpn (origOf p).1 (dieOfCore p.reqIdx != dieOfStack (k / 2 ^ 20))

/-- The origin of a packet's write (R487): the crew slot of a lane's, the team slot of an engine's. Log entry 130
(DEDUCED). -/
def packetOrigin (p : Packet) : W32 := originVal (origOf p).1 p.reqIdx (p.reqKind != 0) p.slot

/-! ## What each type does -/

/-- What becomes of a packet whose turn has come: it waits, is refused, is done but for a part that waits, is done, or
has gone on to the page's new owner. -/
inductive Taken
  | hold
  | refuse (reason : Nat)
  | part (s : State) (rest : Packet)
  | done (s : State)
  | onward (s : State)

/-- Forward a request to a stub's successor on another chip. Log entry 123 (DEDUCED). -/
def passOn (s : State) (p : Packet) (k : Nat) (succ : Owner) (behalf : Bool) : State :=
  match succ with
  | .dram c m f =>
    let x : Packet := { p with src := s.chipid, dst := c, frame := frameKey m f, orig := some (origOf p), path := 0 }
    keepCopy (countFwd s k) { pkt := x, behalf := if behalf then some (p.src, p.seq, k) else none }
  | .host _ => s

/-- A request to a page: at its frame, or on its way. -/
def atFrame (s : State) (p : Packet) (go : State → Nat → Taken) : Taken :=
  match fitOf s p with
  | .hold => .hold
  | .refuse => .refuse 1
  | .forward k succ via => .onward (passOn (passStubs s p via) p k succ true)
  | .go k via => go (passStubs s p via) k

/-- The RC counter's frame (R443): it can be added to, must be waited for, or is not there.
Log entry 124 (DEDUCED). -/
def rcFit (s : State) (p : Packet) : Fit :=
  match p.rc with
  | none => .go 0 []
  | some (g, _, k) => match fitFrom s g 4 k [] with
    | .forward _ _ _ => .refuse
    | f => f

/-- LEN is added to the RC counter (R443), before the packet is performed: whoever passes a flag behind it sees the sum (R459). -/
def addRc (s : State) (p : Packet) : State :=
  match p.rc, rcFit s p with
  | some (_, off, _), .go k _ =>
    let a := devAddr (k / 2 ^ 20) (k % 2 ^ 20) off
    let (s, b, _) := devRead s p.ctx a 8
    devWrite s p.ctx (cellsAt a (leBytes 8 (leNat b + p.len))) false (packetOrigin p)
  | _, _ => s

/-- After the writes and the RC add, the arrival counter (R444); what waits for its line has no writes left. -/
def finishWrite (s : State) (p : Packet) : Taken :=
  let s := addRc s p
  match p.act with
  | none => .done s
  | some (c, n) => match addArrival s c n p.len with
    | .done s => .done s
    | _ => .part s { p with rc := none, body := .empty }

/-- The bytes of a page that comes from another chip (R387). -/
def takePage (s : State) (p : Packet) : Taken :=
  match p.body with
  | .page g k f cells bad => .done (pageArrive s p.src p.ctx g k f cells bad)
  | _ => .hold

/-- A write (R437): a counter that cannot take the packet refuses it before it writes anything. The part that is left
of a packet whose bytes are written waits for its team (R257). Log entry 124 (DEDUCED). Log entry 52 (DEDUCED). -/
def takeWrite (s : State) (p : Packet) : Taken :=
  let unbound : Option Nat := match p.act with
    | none => none
    | some (c, n) => match addArrival s c n 0 with
      | .unbound => some 3
      | .away => some 2
      | _ => none
  match unbound, rcFit s p with
  | some 2, _ => if p.body == .empty then .hold else .refuse 2
  | some e, _ => .refuse e
  | none, .hold => .hold
  | none, .refuse => .refuse 1
  | none, _ => match p.body with
    | .bytes cells => atFrame s p (fun s k =>
        finishWrite (devWrite (trackPacket s p k) p.ctx (cells.map (fun e => (packetDev p k e.1, e.2))) false (packetOrigin p)) p)
    | .clean flush => atFrame s p (fun s k =>
        if writesTo s.reqs (packetDev p k (p.off / 256 * 256)) then .hold else finishWrite (cleanLine s (packetDev p k p.off) flush) p)
    | .page _ _ _ _ _ => takePage s p
    | _ => finishWrite s p

/-- The bytes of a read and the poisoned granules among them, by place in the page. -/
def readRanges (s : State) (p : Packet) (k : Nat) (l : List (Nat × Nat)) : State × List (Nat × Byte) × List Nat :=
  l.foldl (fun (acc : State × List (Nat × Byte) × List Nat) r =>
    let a := packetDev p k r.1
    let (s, b, bad) := devRead acc.1 p.ctx a r.2
    (s, acc.2.1 ++ cellsAt r.1 b, acc.2.2 ++ bad.map (fun g => g - (a - r.1) / 32))) (s, [], [])

/-- A read is answered with what its owner holds now. -/
def answerRead (s : State) (p : Packet) (k : Nat) : State :=
  match p.body with
  | .ranges l =>
    let (s, cells, bad) := readRanges (trackPacket s p k) p k l
    respond s p 0x03 cells.length (.data cells bad)
  | _ => s

def takeRead (s : State) (p : Packet) : Taken := atFrame s p (fun s k => .done (answerRead s p k))

/-- The lanes of an RMW in order, each one indivisible; a lane that meets poison writes nothing and has no old value
(R222, R228, R447). -/
def rmwPacket (s : State) (p : Packet) (k : Nat) (l : List RmwLane) : State × List (Nat × BitVec 128) :=
  l.foldl (fun (acc : State × List (Nat × BitVec 128)) x =>
    let a := packetDev p k x.off
    let (s, b, bad) := devRead acc.1 p.ctx a x.width
    if !bad.isEmpty then (s, acc.2)
    else
      let s := match rmwNew x.fn x.width (leNat b) x.b.toNat x.c.toNat with
        | some v => devWrite s p.ctx (cellsAt a (leBytes x.width v)) false (packetOrigin p)
        | none => s
      (s, acc.2 ++ [(x.lane, BitVec.ofNat 128 (leNat b))])) (s, [])

/-- An RMW that a stub passed on twice is performed once. -/
def takeRmw (s : State) (p : Packet) : Taken :=
  match savedAnswer s (savedAt p), p.body with
  | some (.olds l c), _ => .done (respond s p 0x05 p.len (.olds l c))
  | _, .rmw l => atFrame s p (fun s k =>
      let (s, olds) := rmwPacket (trackPacket s p k) p k l
      .done (respond (saveAnswer s (savedAt p) (.olds olds 0)) p 0x05 p.len (.olds olds 0)))
  | _, _ => .hold

/-- A bin: the records of each apply engine (R297, R299). -/
def takeBin (s : State) (p : Packet) : Taken :=
  match p.body with
  | .bin q recs =>
    let engines := (recs.map (fun r => engineOf (8 * r.wi))).eraseDups
    .done (engines.foldl (fun s e => sendMsg s e (origOf p).1 (.bin q (recs.filter (fun r => engineOf (8 * r.wi) == e))) true) s)
  | _ => .hold

/-- What the home does for another chip (R384, R387, R390). Log entry 125 (DEDUCED). -/
def takeHome (s : State) (p : Packet) : Taken :=
  let reply (s : State) (g : Nat) (stub : Bool) (st : Nat) : Taken :=
    let b := Body.homeReply g stub st
    .done (emit (saveAnswer s (savedAt p) b) { typ := 0x0A, src := s.chipid, dst := p.src, seq := p.seq, gpn := g, reqKind := 5, body := b })
  match p.body with
  | .query g =>
    if s.queries.any (fun q => q.gpn == g && q.asker == p.src) then .done s
    else
      let (id, s) := s.fresh
      .done { s with queries := s.queries ++ [{ id, gpn := g, asker := p.src, answered := false, owner := none }] }
  | .homeUpdate g _ true => .done (homeUndo s g)
  | .homeUpdate g new false => let (s, st) := homeMove s g new; reply s g false st
  | .homeClose g => .done (homeClose s g)
  | .reclaim g stub true => .done (homeDrop s g stub)
  | .reclaim g stub false => reply s g true (if homeOldest s g stub then 0 else 2)
  | _ => .hold

/-- A write of the on-chip map (R165, R350). A continuation's registers whose slot runs already come with its arrival. -/
def takeMap (s : State) (p : Packet) : Taken :=
  match p.body with
  | .mapWrite o b =>
    if !(mapOk s o b.length) then (if p.reqKind = 4 then .done s else .refuse 3)
    else if mapReg o = 0 && s.saves.any (fun u => u.2.teams.any (fun v => v.core == mapCore o && v.team.scrBase < mapOfs o + b.length && mapOfs o < v.team.scrBase + v.team.scratch)) &&
        !((s.core (mapCore o)).teams.any (fun t => t.2.live && t.2.scrBase < mapOfs o + b.length && mapOfs o < t.2.scrBase + t.2.scratch)) then .refuse 2
    else if !(mapReady s s.nextId o b.length true) then .hold
    else .done (mapWrite s (cellsAt o b))
  | _ => .hold

/-- A grant for a move of this chip; one that has been given up gives its slot back (R411). -/
def takeGrant (s : State) (p : Packet) (core slot cause : Nat) : State :=
  let gone := s.lmoves.filter (fun m => m.id % 2 ^ 21 == p.tag && m.chip == p.src && m.stage == 8)
  let s := gone.foldl (fun s m =>
    let s := dropMove s m.id
    if cause = 0 then sendNote s p.src (.remove m.cont.originChip m.cont.originCore m.cont.originSlot core slot) else s) s
  { s with lmoves := s.lmoves.map (fun m =>
      if m.id % 2 ^ 21 == p.tag && m.chip == p.src && m.stage == 2 then
        (if cause = 0 then { m with stage := 3, gcore := core, gslot := slot } else { m with stage := 7, cause }) else m) }

/-- Migration control (R397 to R411). Log entry 125 (DEDUCED). -/
def takeControl (s : State) (p : Packet) : Taken :=
  match p.body with
  | .cont c core slot => (match contPacket s c core slot with
    | some s => .done s
    | none => .hold)
  | .grantReq _ _ _ => .done (sendMsg s p.tag p.src p.body true)
  | .grantRep core slot cause => .done (takeGrant s p core slot cause)
  | b =>
    let (id, s) := s.fresh
    .done { s with notes := s.notes ++ [{ id, dst := s.chipid, chip := p.src, body := b, pkt := true }] }

/-- What a packet that takes a SEQ does. -/
def takePacket (s : State) (p : Packet) : Taken :=
  match p.typ with
  | 0x01 => takeWrite s p
  | 0x02 => takeRead s p
  | 0x04 => takeRmw s p
  | 0x08 => takeBin s p
  | 0x09 => .done (sendMsg s 0 p.src p.body true)
  | 0x0A => takeHome s p
  | 0x0B => takeMap s p
  | _ => takeControl s p

/-! ## Performing -/

/-- Answered and not acknowledged: a response or an answer tells the requester itself. -/
def isAnswered (p : Packet) : Bool :=
  p.orig.isNone && (match p.typ, p.body with
    | 0x02, _ | 0x04, _ => true
    | 0x0A, .query _ | 0x0A, .homeUpdate _ _ false | 0x0A, .reclaim _ _ false => true
    | _, _ => false)

/-- A packet's requester is remembered while lower SEQs are open. -/
def noteKnown (s : State) (p : Packet) : State :=
  s.modConn p.src (fun q => { q with known := (p.seq, requester p) :: q.known.filter (fun e => !(e.1 == p.seq)) })

/-- A packet is performed: its SEQ counts, and it is acknowledged unless it has been answered. -/
def seqDone (s : State) (p : Packet) : State :=
  let s := if (gapBelow (s.conn p.src) p.seq).isEmpty then s else noteKnown s p
  let s := s.modConn p.src (fun q => q.perform p.seq)
  if isAnswered p then s else ackTo s p.src

def dropHeld (s : State) (p : Packet) : State :=
  s.modConn p.src (fun q => { q with held := q.held.filter (fun h => !(h.seq == p.seq)) })
def keepHeld (s : State) (p : Packet) : State := s.modConn p.src (fun q => { q with held := q.held ++ [p] })

/-- A packet whose turn has come is taken; none where it must go on waiting. -/
def settlePacket (s : State) (p : Packet) : Option State :=
  match takePacket s p with
  | .hold => none
  | .refuse e => some (refuseTo (noteKnown s p) p.src p.seq e)
  | .part s rest => some (keepHeld s rest)
  | .done s => some (seqDone s p)
  | .onward s => some (noteKnown s p)

/-- A packet is discarded, and counted at the port where it came in (R433, R437). -/
def discard (s : State) (p : Packet) : State :=
  match (if p.src == s.chipid then none else arrivalPort s p) with
  | some i => s.modPort i (fun q => { q with drop := q.drop + 1 })
  | none => s

/-- A packet waits in the port's hold buffers, or is discarded where they are full. -/
def holdPacket (s : State) (p : Packet) : State :=
  if p.src != s.chipid && Config.holdFull s.free then discard { s with free := s.free + 1 } p
  else keepHeld { s with free := s.free + 1 } p

/-- A packet that was performed comes again: a write is acknowledged again, a read is read again, an RMW has its saved
result (R437). Log entry 122 (DEDUCED). -/
def repeatPacket (s : State) (p : Packet) : State :=
  let saved := savedAnswer s (savedAt p)
  match p.typ, p.body with
  | 0x02, _ => (match saved, fitOf s p with
    | some (.redirect _ (.dram _ m f) succ), _ => passOn s p (frameKey m f) succ false
    | _, .go k _ => answerRead s p k
    | _, .forward k succ _ => passOn s p k succ false
    | _, .refuse => refuseTo s p.src p.seq 1
    | _, .hold => s)
  | 0x04, _ => (match saved with
    | some (.olds l c) => respond s p 0x05 p.len (.olds l c)
    | some (.redirect _ (.dram _ m f) succ) => passOn s p (frameKey m f) succ false
    | _ => s)
  | 0x0A, .query _ => (match takeHome s p with
    | .done s => s
    | _ => s)
  | _, _ => match saved with
    | some (.homeReply g stub st) => emit s { typ := 0x0A, src := s.chipid, dst := p.src, seq := p.seq, gpn := g, reqKind := 5, body := .homeReply g stub st }
    | _ => ackTo s p.src

/-- A stub of this chip has passed the packet on and waits for its acknowledgement. -/
def passedOn (s : State) (p : Packet) : Bool :=
  s.conns.any (fun q => (q.2.kept ++ q.2.waiting).any (fun e => match e.behalf with
    | some (c, n, _) => c == p.src && n == p.seq
    | none => false))

/-- A packet that takes a SEQ comes in. Its sender keeps within 256 of the oldest SEQ that is not acknowledged (R436); one that
is performed already is not performed again (R437, R459). -/
def receiveSeq (s : State) (p : Packet) : Option State :=
  let s := useConn s p.src
  let q := s.conn p.src
  if q.performed p.seq then some (repeatPacket s p)
  else if q.held.any (fun h => h.seq == p.seq) || passedOn s p then some (if isAnswered p then s else ackTo s p.src)
  else if 512 ≤ seqDist p.seq q.recvAll || passedBy s p then none
  else if inTurn s p then
    match settlePacket s p with
    | some s => some s
    | none => some (holdPacket s p)
  else some (holdPacket s p)

/-! ## The events -/

/-- Bytes and offsets lie in the page. -/
def inPage (l : List (Nat × Nat)) : Bool := l.all (fun e => e.1 + e.2 ≤ 65536)

/-- WRITE_PACKET: every type that writes, or tells something, and takes a SEQ. -/
def writeOk (p : Packet) : Bool :=
  match p.typ, p.body with
  | 0x01, .bytes cells => cells.length == p.len && inPage (cells.map (fun e => (e.1, 1)))
  | 0x01, .clean _ => true
  | 0x01, .empty => true
  | 0x01, .page g k f cells _ => k < 8 && f < Config.firstStagingFrame && g == p.gpn && (cells.isEmpty || cells.length == 4096) && inPage (cells.map (fun e => (e.1, 1)))
  | 0x08, .bin q recs => q < Config.nQuads && recs.all (fun r => r.ciq < 4 && r.ts < 64 && 8 * r.wi < 8 * 2 ^ 36)
  | 0x09, .notice _ _ | 0x09, .notices _ | 0x09, .token _ _ | 0x09, .arrived _ _ | 0x09, .wack _ _ _ _ => true
  | 0x09, .back q recs => q < Config.nQuads && recs.all (fun r => r.ciq < 4 && r.ts < 64)
  | 0x0A, .homeUpdate _ _ _ | 0x0A, .homeClose _ | 0x0A, .reclaim _ _ _ => true
  | 0x0C, .cont c core slot => core < Config.nCores && slot < 64 && (c.mask != 0)
  | 0x0C, .grantReq _ _ _ | 0x0C, .grantRep _ _ _ => true
  | 0x0C, .location _ _ _ _ _ _ _ | 0x0C, .exitNote _ _ _ _ _ | 0x0C, .halt _ _ _ _ _ | 0x0C, .resume _ _ _ _ _ _ _ | 0x0C, .remove _ _ _ _ _ => true
  | 0x0C, .halted _ _ _ _ | 0x0C, .heatAt _ _ _ _ _ | 0x0C, .stop _ _ _ | 0x0C, .stopped _ _ _ | 0x0C, .heat _ _ | 0x0C, .clrCnt _ _ _ => true
  | 0x0C, .cleanAsk _ _ _ | 0x0C, .cleaned _ _ _ => true
  | _, _ => false

def execWritePacket (p : Packet) (s : State) : Out := receive p (writeOk p) s (fun s => receiveSeq s p)

/-- READ_REQUEST_PACKET: a read, or a query to the home. -/
def readOk (p : Packet) : Bool :=
  match p.typ, p.body with
  | 0x02, .ranges l => inPage l && (l.map (·.2)).sum ≤ 4096
  | 0x0A, .query g => g < 2 ^ 39
  | _, _ => false

def execReadRequestPacket (p : Packet) (s : State) : Out := receive p (readOk p) s (fun s => receiveSeq s p)

def rmwOk (p : Packet) : Bool :=
  match p.typ, p.body with
  | 0x04, .rmw l => l.all (fun x => x.lane < 32 && x.off + x.width ≤ 65536 && [1, 2, 4, 8, 16].contains x.width)
  | _, _ => false

def execRmwRequestPacket (p : Packet) (s : State) : Out := receive p (rmwOk p) s (fun s => receiveSeq s p)

def mapPacketOk (p : Packet) : Bool :=
  match p.typ, p.body with
  | 0x0B, .mapWrite o b => o < 2 ^ 38 && b.length == p.len && b.length % 4 == 0 && o % 4 == 0
  | _, _ => false

def execMapWritePacket (p : Packet) (s : State) : Out := receive p (mapPacketOk p) s (fun s => receiveSeq s p)

/-- UNKNOWN_PACKET (R433). -/
def execUnknownPacket (p : Packet) (s : State) : Out :=
  receive p (p.typ = 0 || 0x0E ≤ p.typ) s (fun s => some (discard s p))

/-- HELD_PACKET_PERFORM: a packet that was held is taken now that it may be. -/
def execHeldPacketPerform (chip seq : Nat) (s : State) : Out :=
  match (s.conn chip).held.find? (fun p => p.seq == seq) with
  | none => .fault .notEnabled
  | some p =>
    let s := dropHeld s p
    if !(inTurn s p) then .fault .notEnabled
    else match takePacket s p with
      | .hold => .fault .notEnabled
      | .part t rest => if rest == p then .fault .notEnabled else .next (keepHeld t rest)
      | _ => match settlePacket s p with
        | some s => .next s
        | none => .fault .notEnabled

end Sys2Proof.Machine
end

