-- ==== Sys2Proof/Machine/Resend.lean ====
section
/-! DEFINITION. Machine/Resend.lean: the send half of a connection once a packet has left: acknowledgements and responses,
refusals (R439), resends and loss (R438), and resets (R452). -/

namespace Sys2Proof.Machine

/-! ## Who has sent a packet -/

def mapOps (s : State) (f : CopyOp → CopyOp) : State :=
  { s with cores := s.cores.map (fun c => (c.1, { c.2 with copies := c.2.copies.map f })) }

def usesPkt (chip seq : Nat) (o : CopyOp) : Bool :=
  o.seqs.any (fun e => e.1 == chip && e.2.1 == seq) || o.bulk.any (fun b => (b.out ++ b.todo).any (fun p => p.pkt == some (chip, seq)))

/-- The copy operation that a packet belongs to. -/
def opUser (s : State) (chip seq : Nat) : Option (Nat × CopyOp) :=
  s.cores.findSome? (fun c => (c.2.copies.find? (usesPkt chip seq)).map (fun o => (c.1, o)))

def reqUser (s : State) (chip seq : Nat) : Option Req := s.reqs.find? (fun r => r.stage == .remote chip seq)
def rdUser (chip seq : Nat) (j : RdJob) : Bool := j.chip == chip && j.seq == seq && j.ans.isNone
def jobUser (chip seq : Nat) (j : Job) : Bool := match j.kind with | .save _ _ _ _ _ l => l.contains (chip, seq) | _ => false

/-- Somebody waits for the packet. -/
def hasUser (s : State) (chip seq : Nat) : Bool :=
  (reqUser s chip seq).isSome || s.rdJobs.any (rdUser chip seq) || (opUser s chip seq).isSome || s.jobs.any (jobUser chip seq)

/-! ## Acknowledgements (R437, R438) -/

/-- An acknowledgement covers a copy that does not wait for an answer. -/
def ackCovers (cum : Nat) (set : List Nat) (e : Kept) : Bool :=
  e.sent && !(isAnswered e.pkt) && ((0 < seqDist cum e.pkt.seq && seqDist cum e.pkt.seq ≤ 2 ^ 23) || set.contains e.pkt.seq)

/-- What a stub has passed on is accepted: the packet that came is performed, and the requester hears of the successor
(R388). Log entry 123 (DEDUCED). -/
def behalfDone (s : State) (e : Kept) (c n k : Nat) : State :=
  let o := origOf e.pkt
  let prev : Packet := { e.pkt with src := c, seq := n, orig := if o == (c, n) then none else some o }
  let succ := Owner.dram e.pkt.dst (e.pkt.frame / 2 ^ 20) (e.pkt.frame % 2 ^ 20)
  let s := if e.pkt.typ = 0x02 || e.pkt.typ = 0x04 then saveAnswer s (savedAt prev) (.redirect e.pkt.gpn (ownerAt s k) succ) else s
  redirectTo (seqDone s prev) o.1 e.pkt.gpn (ownerAt s k) succ

/-- Loads that read a line while a write of the core was under way to it do not fill it any more (R212).
Log entry 60 (DEDUCED). -/
def passFills (s : State) (p : Packet) (r : Option Req) : State :=
  { s with reqs := s.reqs.map (fun q => match q.key with
    | some k => if packetCovers p q.core k || r.any (fun r => r.fab && r.core == q.core && r.key == some k) then { q with noFill := 0xF } else q
    | none => q) }

/-- A copy is no longer needed: its bytes count, and its sender goes on. -/
def clearKept (s : State) (chip : Nat) (e : Kept) : State :=
  let s := (dropKept s chip e.pkt.seq).modConn chip (fun q => { q with bytes := tset q.bytes e.pkt.path (tget 0 q.bytes e.pkt.path + w32 e.pkt.len) })
  let s := match e.redir with
    | some k => tellOrigin s (origOf e.pkt).1 e.pkt.gpn k (.dram e.pkt.dst (e.pkt.frame / 2 ^ 20) (e.pkt.frame % 2 ^ 20))
    | none => s
  match e.behalf with
  | some (c, n, k) => behalfDone s e c n k
  | none =>
    let s := passFills s e.pkt (reqUser s chip e.pkt.seq)
    let here (p : BulkPc) : Bool := p.pkt == some (chip, e.pkt.seq)
    let s := mapOps s (fun o => if o.kind == .bput then { o with bulk := o.bulk.map (fun b => { b with out := b.out.filter (fun p => !(here p)) }) } else o)
    match reqUser s chip e.pkt.seq with
    | some r => if isAnswered e.pkt then s else pump (dropReq (flushL1 s r) r) r.core
    | none => s

/-- ACK_PACKET. -/
def execAckPacket (p : Packet) (s : State) : Out :=
  match p.body with
  | .bitmap set => receive p (p.typ = 0x06) s (fun s =>
      some (((s.conn p.src).kept.filter (ackCovers p.seq set)).foldl (fun s e => clearKept s p.src e) s))
  | _ => .fault .notEnabled

/-! ## Responses -/

/-- The request that a response answers: the stub's connection may have carried it. -/
def answerTo (s : State) (p : Packet) : Option (Nat × Kept) :=
  let is (e : Kept) : Bool := e.sent && isAnswered e.pkt && e.pkt.typ + 1 == p.typ && e.pkt.seq == p.seq && e.pkt.tag == p.tag
  s.conns.findSome? (fun q => (q.2.kept.find? is).map (fun e => (q.1, e)))

/-- The bytes of a response are those that were asked for. -/
def dataFits (b : Body) (cells : List (Nat × Byte)) : Bool :=
  match b with
  | .ranges l => cells.map (·.1) == l.flatMap (fun r => (List.range r.2).map (r.1 + ·))
  | _ => false

/-- Data reaches a line request. -/
def fillReq (s : State) (r : Req) (cells : List (Nat × Byte)) (bad : List Nat) : State :=
  let data := cells.foldl (fun (d : Tab Byte) (e : Nat × Byte) => tset d (e.1 % 256) e.2) r.data
  let r := { r with stage := .respond, data, poison := r.poison ++ bad.map (· % 8) }
  pump (match r.acc with
    | .pref true => dropReq s r
    | _ => moveEnd s r) r.core

/-- The answer to a read of an engine. -/
def ansRead (s : State) (chip seq : Nat) (a : Nat × List Byte × Bool) : State :=
  { s with rdJobs := s.rdJobs.map (fun j => if rdUser chip seq j then { j with ans := some a } else j) }

/-- Read data comes back; an answer to a packet that is gone is dropped. -/
def readAnswer (s : State) (p : Packet) (cells : List (Nat × Byte)) (bad : List Nat) : Option State :=
  match answerTo s p with
  | none => some s
  | some (chip, e) =>
    if !(dataFits e.pkt.body cells) then none
    else
      let s := clearKept s chip e
      match reqUser s chip e.pkt.seq with
      | some r => some (fillReq s r cells bad)
      | none => some (ansRead s chip e.pkt.seq (0, cells.map (·.2), !bad.isEmpty))

/-- The home has answered a query (R384). -/
def queryAnswer (s : State) (p : Packet) (g : Nat) (owner : Option Owner) (nstub : Nat) : State :=
  let s := s.modConn p.src (fun q => { q with kept := q.kept.filter (fun e => !(e.pkt.body == .query g)) })
  { s with queries := s.queries.map (fun q => if q.gpn == g && q.asker == s.chipid && !q.answered then { q with answered := true, owner, nstub } else q) }

/-- A question to the home that a reply answers. -/
def asksHome (g : Nat) (stub : Bool) (b : Body) : Bool :=
  match b with
  | .homeUpdate h _ false => !stub && h == g
  | .reclaim h _ false => stub && h == g
  | _ => false

/-- The home's reply to a move or a reclaim. -/
def homeReplied (s : State) (p : Packet) (g : Nat) (stub : Bool) : State :=
  if (s.conn p.src).kept.any (fun e => asksHome g stub e.pkt.body) then
    sendMsg (s.modConn p.src (fun q => { q with kept := q.kept.filter (fun e => !(asksHome g stub e.pkt.body)) })) 0 p.src p.body true
  else s

def ownerOk : Owner → Bool
  | .dram c m f => namesChip c && m < 8 && f < 2 ^ 20
  | .host _ => false

/-- READ_RESPONSE_PACKET: read data, and what a home or a stub answers (R384, R388). -/
def execReadResponsePacket (p : Packet) (s : State) : Out :=
  match p.body with
  | .data cells bad => receive p (p.typ = 0x03) s (fun s => readAnswer s p cells bad)
  | .answer g o n => receive p (p.typ = 0x0A && o.all ownerOk) s (fun s => some (queryAnswer s p g o n))
  | .redirect _ stub succ => receive p (p.typ = 0x0A && ownerOk stub && ownerOk succ) s (fun s => some (sendMsg s 0 p.src p.body true))
  | .homeReply g stub _ => receive p (p.typ = 0x0A) s (fun s => some (homeReplied s p g stub))
  | _ => .fault .notEnabled

/-- Does an RMW give its lanes their old values? -/
def Acc.returns : Acc → Bool
  | .rmw _ ret => ret
  | .ratom _ => true
  | _ => false

/-- The lanes of an RMW that wrote nothing, because they met poison (R228), and those that share a word with them. -/
def badLanes (r : Req) (olds : List (Nat × BitVec 128)) : List Nat :=
  let miss (p : Piece) : Bool := p.len != 0 && !(olds.any (fun e => e.1 == p.lane))
  (r.pieces.filter (fun p => miss p || (p.len == 0 && r.pieces.any (fun q => q.addr == p.addr && miss q)))).map (·.lane)

/-- RMW_RESPONSE_PACKET. -/
def execRmwResponsePacket (p : Packet) (s : State) : Out :=
  match p.body with
  | .olds l _ => receive p (p.typ = 0x05) s (fun s => match answerTo s p with
      | none => some s
      | some (chip, e) =>
        let s := clearKept s chip e
        match reqUser s chip e.pkt.seq with
        | some r => some (pump (rmwFinish s r r.acc.returns l (badLanes r l)) r.core)
        | none => some s)
  | _ => .fault .notEnabled

/-! ## A packet fails -/

/-- A copy operation takes back what a packet carried: its unit or piece is still to be done. -/
def takeBack (chip seq : Nat) (o : CopyOp) : CopyOp :=
  let pos := (o.seqs.filter (fun e => e.1 == chip && e.2.1 == seq)).foldl (fun n e => min n e.2.2) o.pos
  let mine (p : BulkPc) : Bool := p.pkt == some (chip, seq)
  { o with
    pos, seqs := o.seqs.filter (fun e => e.2.2 < pos)
    bulk := o.bulk.map (fun b => { b with
      out := b.out.filter (fun p => !(mine p))
      todo := (b.out.filter mine).map (fun p => { p with pkt := none }) ++ b.todo.map (fun p => if mine p then { p with pkt := none } else p) }) }

/-- An operation's packet has failed: it freezes its engine; an operation that has met a fault already says no more. -/
def failOp (s : State) (c : Nat) (o : CopyOp) (cause addr : Nat) : State :=
  if o.cause ≠ 0 then setOp s c o else freezeCopy s c o cause addr

/-- Whoever sent a packet learns that it has failed. A bulk piece that has not left only loses its SEQ. -/
def failUser (s : State) (chip seq cause : Nat) : State :=
  let s := match reqUser s chip seq with
    | some r => pump (loseReq s r cause) r.core
    | none => s
  let s := match opUser s chip seq with
    | none => s
    | some (c, o) =>
      let todo := o.bulk.any (fun b => b.todo.any (fun p => p.pkt == some (chip, seq)))
      let sent := o.kind != .bget && !todo
      let x := if o.kind == .bget && !todo then o else takeBack chip seq o
      let addr := ((x.left.head?).map (·.dst)).getD 0
      if sent then failOp s c x cause addr else setOp s c x
  let s := ansRead s chip seq (cause, [], false)
  (s.jobs.filter (jobUser chip seq)).foldl (fun s j => endJob s j [imageFault cause]) s

/-! ## Refusals (R439) -/

def modKept (s : State) (chip seq : Nat) (f : Kept → Kept) : State :=
  s.modConn chip (fun q => { q with kept := q.kept.map (fun e => if e.pkt.seq == seq then f e else e) })

/-- The owner of a page is asked for anew. -/
def askAnew (s : State) (g : Nat) : State := (newQuery (ocDrop s g) g).2

/-- REFUSAL_PACKET: what was passed on for another is refused to it in turn. -/
def takeRefusal (s : State) (p : Packet) : State :=
  match findKept s p.src p.seq with
  | none => s
  | some e =>
    if !e.sent || e.refused != 0 then s
    else match e.behalf with
      | some (c, n, _) => refuseTo (fillSeq s p.src p.seq) c n p.frame
      | none =>
        let mark := modKept s p.src p.seq (fun e => { e with refused := p.frame, at_ := s.ref })
        if e.pkt.orig.isSome then fillSeq s p.src p.seq
        else if p.frame = 1 then
          (match e.pkt.rc with
           | some (g, _, _) => askAnew (askAnew mark e.pkt.gpn) g
           | none => askAnew mark e.pkt.gpn)
        else if p.frame = 2 then mark
        else fillSeq (failUser s p.src p.seq 0x11) p.src p.seq

def execRefusalPacket (p : Packet) (s : State) : Out :=
  receive p (p.typ = 0x07 && [1, 2, 3].contains p.frame && p.body == .empty) s (fun s => some (takeRefusal s p))

/-- Where a page is now, for a packet that is sent again: its owner, a cause, or a question to the home. -/
inductive Found
  | at_ (chip key : Nat)
  | bad (cause : Nat)
  | ask (s : Option State)

def findPage (s : State) (g : Nat) : Found :=
  match ownerNow s g with
  | .known (.dram c m f) => if reachable s c then .at_ c (frameKey m f) else .bad 0x30
  | .known (.host _) => .bad 0x11
  | .bad c => .bad c
  | .ask =>
    let mine := s.queries.filter (fun q => q.gpn == g && q.asker == s.chipid)
    if mine.any (fun q => q.answered && q.owner.isNone) then .bad 0x10
    else if mine.isEmpty then .ask (some (newQuery s g).2) else .ask none

/-- The RC counter must have the packet's owner (R446). -/
def findRc (s : State) (e : Kept) (chip : Nat) : Found :=
  match e.pkt.rc with
  | none => .at_ chip 0
  | some (g, _, _) => match findPage s g with
    | .at_ c k => if c == chip then .at_ c k else .bad 0x11
    | f => f

/-- A packet that had the SEQ `old` on a connection has another now; its users follow it. -/
def moveUser (s : State) (chip old dest new : Nat) (owner : Owner) : State :=
  let at_ (p : Nat × Nat) : Nat × Nat := if p == (chip, old) then (dest, new) else p
  let kind (k : JobKind) : JobKind := match k with
    | .save g t a pool key l => .save g t a pool key (l.map at_)
    | k => k
  let pc (p : BulkPc) : BulkPc := { p with pkt := p.pkt.map at_ }
  let s := mapOps s (fun o => { o with
    seqs := o.seqs.map (fun e => ((at_ (e.1, e.2.1)).1, (at_ (e.1, e.2.1)).2, e.2.2))
    bulk := o.bulk.map (fun b => { b with out := b.out.map pc, todo := b.todo.map pc }) })
  { s with
    reqs := s.reqs.map (fun r => if r.stage == .remote chip old then { r with stage := .remote dest new, owner := some owner } else r)
    rdJobs := s.rdJobs.map (fun j => if rdUser chip old j then { j with chip := dest, seq := new } else j)
    jobs := s.jobs.map (fun j => { j with kind := kind j.kind }) }

/-- A packet refused with reason 1 goes to the page's owner: with its SEQ while the receiving chip is the same, else on
the new connection, and its SEQ here passes with a write of no bytes. Those to one page keep their order.
Log entry 124 (DEDUCED). -/
def resendFound (s : State) (chip : Nat) (e : Kept) : Option State :=
  let fail (c : Nat) : Option State := some (fillSeq (failUser s chip e.pkt.seq c) chip e.pkt.seq)
  let first := ((s.conn chip).kept.find? (fun x => x.refused = 1 && x.pkt.gpn == e.pkt.gpn)).map (·.pkt.seq)
  if !(hasUser s chip e.pkt.seq) then some (fillSeq s chip e.pkt.seq)
  else if first != some e.pkt.seq then none
  else match findPage s e.pkt.gpn with
    | .bad c => fail c
    | .ask t => t
    | .at_ c key => match findRc s e c with
      | .bad x => fail x
      | .ask t => t
      | .at_ _ rk =>
        let owner := Owner.dram c (key / 2 ^ 20) (key % 2 ^ 20)
        let pkt := { e.pkt with dst := c, frame := key, rc := e.pkt.rc.map (fun r => (r.1, r.2.1, rk)) }
        if c == chip then
          some (moveUser (modKept s chip e.pkt.seq (fun e => { e with pkt, refused := 0, sent := false })) chip e.pkt.seq chip e.pkt.seq owner)
        else if (s.conn c).lost then fail 0x31
        else
          let (n, s) := queueCopy s { pkt }
          some (moveUser (fillSeq s chip e.pkt.seq) chip e.pkt.seq c n owner)

/-- REFUSED_PACKET_RESEND. -/
def execRefusedPacketResend (chip seq : Nat) (s : State) : Out :=
  match findKept s chip seq with
  | none => .fault .notEnabled
  | some e =>
    if e.refused = 1 then
      (match resendFound s chip e with
       | some s => .next s
       | none => .fault .notEnabled)
    else if e.refused = 2 && e.at_ + 100 * s.rto ≤ s.ref then
      .next (if hasUser s chip seq then modKept s chip seq (fun e => { e with refused := 0, sent := false }) else fillSeq s chip seq)
    else .fault .notEnabled

/-! ## Resends and loss (R438) -/

/-- Traffic that no word sends is kept through a loss. -/
def keptThrough (e : Kept) : Bool :=
  e.behalf.isSome || e.pkt.orig.isSome || (match e.pkt.typ, e.pkt.body with
    | 0x08, _ | 0x09, _ | 0x0A, _ => true
    | 0x0C, .cont _ _ _ | 0x0C, .grantReq _ _ _ => false
    | 0x0C, _ => true
    | _, _ => false)

/-- The send half to a chip is gone: what words and engines had on it fails, the rest waits for a reset.
Log entries 118 (DEDUCED), 126 (DEDUCED). -/
def dropHalf (s : State) (chip : Nat) : State :=
  let l := (s.conn chip).kept
  let s := s.modConn chip (fun q => { q with lost := true, kept := [], waiting := q.waiting ++ l.filter keptThrough })
  let s := (l.filter (fun e => !(keptThrough e))).foldl (fun s e => failUser s chip e.pkt.seq 0x31) s
  let asks (r : Req) : Bool := match r.stage with
    | .query q => s.queries.any (fun e => e.id == q && !e.answered && e.asker == s.chipid && homeOf s e.gpn == chip)
    | _ => false
  let s := (s.reqs.filter asks).foldl (fun s r => match findReq s r.id with
    | some r => pump (failReq s r 0x31) r.core
    | none => s) s
  let s := (s.lmoves.filter (fun m => m.chip == chip && 2 ≤ m.stage && m.stage ≤ 5)).foldl failMove s
  (s.pmoves.filter (fun m => 2 ≤ m.stage && ownerChip m.new == some chip)).foldl undoPmove s

/-- The packet that would leave next belongs to a word and finds all four paths dead: the word raises cause 0x30 (R434), and
its SEQ passes with a write of no bytes. Log entry 126 (DEDUCED). -/
def failUnreachable (s : State) (chip : Nat) : Option State :=
  match (s.conn chip).kept.find? (fun e => !e.sent) with
  | none => none
  | some e =>
    if e.reserved || (s.conn chip).lost || keptThrough e || !(hasUser s chip e.pkt.seq) || (choosePath s chip).isSome then none
    else some (fillSeq (failUser s chip e.pkt.seq 0x30) chip e.pkt.seq)

/-- PACKET_SEND. -/
def execPacketSend (chip : Nat) (s : State) : Out :=
  match sendNext s chip with
  | some t => .next t
  | none => match failUnreachable s chip with
    | some t => .next t
    | none => .fault .notEnabled

/-- The oldest packet whose acknowledgement is overdue. -/
def overdue (s : State) (chip : Nat) : Option Kept :=
  (s.conn chip).kept.find? (fun e => e.sent && e.refused = 0 && e.at_ + 100 * s.rto ≤ s.ref)

/-- RETRANSMIT_TIMEOUT: the packet leaves again on the next live path, or the send half is lost, also where no path was live all
the while (R228).
Log entry 126 (DEDUCED). -/
def execRetransmitTimeout (chip : Nat) (s : State) : Out :=
  if chip == s.chipid || !s.phase.lit then .fault .notEnabled
  else match overdue s chip with
    | none => .fault .notEnabled
    | some e =>
      if s.retry ≤ e.tries then .next (dropHalf (linkEvent s 0 (2 ^ 30 + chip)) chip)
      else match nextPath s chip e.pkt.path with
        | none => .next (modKept s chip e.pkt.seq (fun e => { e with tries := e.tries + 1, at_ := s.ref }))
        | some i =>
          let s := modKept s chip e.pkt.seq (fun e => { e with pkt := { e.pkt with path := i }, tries := e.tries + 1, at_ := s.ref })
          .next (putOut (s.modConn chip (fun q => { q with resends := q.resends + 1 })) { e.pkt with path := i })

/-! ## Resets (R452) -/

/-- The staged records of a page that does not come go back to their binning units (R385, R387). -/
def backStaged (s : State) (k g : Nat) : State :=
  let mine (r : Staged) : Bool := recFrame r.rcd == k && r.rcd.gpn == g
  ((List.range 24).map (k / 2 ^ 20 * 24 + ·)).foldl (fun s e =>
    let l := (s.engine e).staged.filter mine
    l.foldl (fun s r => sendBack s e r.org r.rcd) (s.modEngine e (fun g => { g with staged := g.staged.filter (fun r => !(mine r)) }))) s

/-- A page whose copy was coming from a chip comes no more: its frame refuses it (R387). -/
def dropArrival (s : State) (k : Nat) : State :=
  match tget? s.arriving k with
  | none => s
  | some g =>
    let s := { s with arriving := tdel s.arriving k, arrSrc := tdel s.arrSrc k }
    let s := backStaged s k g
    s.modStack (k / 2 ^ 20) (fun m => { m with frames := tset m.frames (k % 2 ^ 20) (g :: (tget [] m.frames (k % 2 ^ 20)).filter (· != g)) })

/-- Both halves start again at SEQ 0, and what was kept is sent again in its order. Log entry 126 (DEDUCED). -/
def resetConn (s : State) (chip : Nat) : State :=
  let s := dropHalf s chip
  let q := s.conn chip
  let free (e : Kept) : Kept := { e with behalf := e.behalf.filter (fun b => b.1 != chip) }
  let one (c : Nat × Conn) : Nat × Conn := (c.1, { c.2 with kept := c.2.kept.map free, waiting := c.2.waiting.map free })
  let conns : Tab Conn := tset s.conns chip { lastUse := q.lastUse }
  let s := { s with conns := conns.map one }
  let s := ((s.arrSrc.filter (fun e => e.2 == chip)).map (·.1)).foldl dropArrival s
  (q.waiting.map free).foldl (fun s e => (queueCopy s { e with refused := 0 }).2) s

def resetJob (s : State) (chip : Nat) : Option Job := s.jobs.find? (fun j => match j.kind with | .connReset c _ => c == chip | _ => false)

/-- CONNECTION_RESET_PACKET: tag 0 asks for a reset, tag 1 answers. -/
def execConnectionResetPacket (p : Packet) (s : State) : Out :=
  receive p (p.typ = 0x0D && p.tag < 2 && p.body == .empty) s (fun s =>
    if p.tag = 0 then some (emit (resetConn s p.src) { typ := 0x0D, src := s.chipid, dst := p.src, reqKind := 5, tag := 1 })
    else match resetJob s p.src with
      | some j => some (endJob (resetConn s p.src) j [0])
      | none => some s)

/-- CONN_RESET_TIMEOUT: the peer has not answered within RTO × RETRY. -/
def execConnResetTimeout (chip : Nat) (s : State) : Out :=
  match resetJob s chip with
  | some j => (match j.kind with
    | .connReset _ since => if since + 100 * s.rto * s.retry ≤ s.ref then .next (endJob s j [2]) else .fault .notEnabled
    | _ => .fault .notEnabled)
  | none => .fault .notEnabled

end Sys2Proof.Machine
end

