-- ==== Sys2Proof/Machine/Sched.lean ====
section
/-! DEFINITION. Machine/Sched.lean: the choice of a crew and of its paths (R62 to R71), promotion and demotion (R65), and
the placement and pre-emption of grids (R242, R243). -/

namespace Sys2Proof.Machine

/-! ## Paths (R67, R68) -/

/-- Lanes grouped by PC; the groups stand in the order of their lowest lanes. -/
def groupsOf (w : Crew) (m : Mask) : List (Pc × Mask) :=
  (lanesOf m).foldl (fun gs l =>
    if gs.any (fun g => g.1 == w.pcOf l) then gs.map (fun g => if g.1 == w.pcOf l then (g.1, g.2 ||| laneBit l) else g)
    else gs ++ [(w.pcOf l, laneBit l)]) []

/-- The group with the most lanes, the earliest of equals. -/
def largest (gs : List (Pc × Mask)) : Option (Pc × Mask) :=
  gs.foldl (fun b g => match b with
    | none => some g
    | some x => if (lanesOf x.2).length < (lanesOf g.2).length then some g else b) none

/-- Path 1 and path 2 by rank; a starved lane that path 1 does not hold decides path 2 (R67).
Log entry 12 (DEDUCED). -/
def ranked (w : Crew) (gs : List (Pc × Mask)) : List (Pc × Mask) :=
  match largest gs with
  | none => []
  | some p =>
    let rest := gs.filter (· != p)
    let late := w.starved.bind (fun l => rest.find? (fun g => g.2.getLsbD l))
    p :: (late.or (largest rest)).toList

/-- The class of a word for R68: 0 PAIR, 1 control, integer or floating point, 2 any other. -/
def classOf : Fetched → Nat
  | .word w => match w.ins with
    | .pair _ => 0
    | i => match i.opcOp with
      | some (o, _) => if o < 0x140 then 1 else 2
      | none => 1
  | _ => 1

/-- The queue or table that a word would enter is full (R333, R362, R365, R467), or it waits for the owner of a page.
Log entry 14 (DESIGN CHOICE). -/
def queueFull (s : State) (x : Ctx) (i : Instr) (o : Nat) : Bool :=
  let copy := (0x1D0 ≤ o && o ≤ 0x1D6) || o == 0x1D8 || o == 0x1F4 || o == 0x1F5
  x.on != 0 && ((copy && decide (Config.copyQueue ≤ (s.core x.c).copies.length)) || matrixHolds s x i || bankHolds s x i || fabricHolds s x i)

/-- A COMMIT other than COMMIT.nw is not complete: the crew waits in the pending set (R306, R326).
Log entry 13 (DEDUCED). -/
def Crew.committing (w : Crew) : Bool :=
  w.commit.any (fun m => !m.nw) || w.ords.any (fun o => match o.after with
    | .commit nw _ _ => !nw
    | _ => false)

/-- What is fetched cannot issue now (R64, R209): a memory, atomic, deferred, copy, matrix, select, migration, fabric or
bank word while a release, acquire or fence of its crew is incomplete, a memory or system word while a system word's
effect is on its way, a word that would enter a full queue. Log entries 12 (DEDUCED), 14 (DESIGN CHOICE), 59 (DEDUCED). -/
def heldBack (s : State) (c k : Nat) (lanes : Mask) (f : Fetched) : Bool :=
  let w := s.crew c k
  match f with
  | .word x => (match x.ins.opcOp with
    | some (o, _) =>
      (!w.ords.isEmpty && ((0x140 ≤ o && o ≤ 0x19F) || (0x1C0 ≤ o && o ≤ 0x1FD))) || (w.sysHold != 0 && 0x140 ≤ o && o ≤ 0x1FD) ||
      queueFull s (ctxOf s { core := c, slot := k, lanes, h := x.h }) x.ins o
    | none => false)
  | _ => false

/-- The paths that issue now, with what each fetched: the two ranked first, as far as R68 lets them and their words can
issue; if none of them can, the first in rank of the groups whose words can. Log entry 12 (DEDUCED). -/
def planOf (s : State) (c k : Nat) : List (Pc × Mask × Fetched) :=
  let w := s.crew c k
  let get (g : Pc × Mask) : Pc × Mask × Fetched := (g.1, g.2, fetch (s.core c) g.1)
  let gs := groupsOf w (w.ready s.clk)
  let top := (ranked w gs).map get
  let two := match top with
    | [a, b] => if classOf a.2.2 == 0 || classOf b.2.2 == 0 || (classOf a.2.2 == 2 && classOf b.2.2 == 2) then [a] else top
    | l => l
  let free := two.filter (fun g => !(heldBack s c k g.2.1 g.2.2))
  if !free.isEmpty then free
  else ((ranked w (gs.filter (fun g => !(heldBack s c k g.2 (fetch (s.core c) g.1))))).take 1).map get

/-- A word that waits as a marker does whatever its SW bit (R413). -/
def marks : Instr → Bool
  | .migr _ => true
  | .migra _ => true
  | _ => false

/-- The crew is parked at a marker: a ready lane stands at a word with SW = 1 and a result is outstanding (R70). -/
def parkedAtMarker (s : State) (c k : Nat) : Bool :=
  let w := s.crew c k
  !w.results.isEmpty && (groupsOf w (w.ready s.clk)).any (fun g => match fetch (s.core c) g.1 with
    | .word x => x.h.sw || marks x.ins
    | .bad _ (some _) => bit (peek (s.core c) g.1) 2
    | _ => false)

/-- The three conditions of R64; a crew whose commit is incomplete issues nothing. Log entry 13 (DEDUCED). -/
def canIssue (s : State) (c k : Nat) : Bool :=
  let w := s.crew c k
  w.st == .resident && !w.committing && w.yieldTo < s.clk && !(planOf s c k).isEmpty && !(parkedAtMarker s c k)

/-! ## Active and pending sets (R62 to R66) -/

/-- The crew slots of a seat. -/
def seatSlots (seat : Nat) : List Nat := (List.range 16).map (fun i => 4 * i + seat)

/-- A result whose latency is not fixed is outstanding (R71). -/
def Crew.longOut (w : Crew) : Bool := w.results.any (fun r => r.hi != some r.lo)

/-- Reasons for an active crew to leave for the pending set (R65, R209): a marker with a long-latency result; no ready
lane and a parked one; a word of its own that sends it there; nothing but words held back by an order or a full queue (R333,
R362, R365, R467). Log entries 13 (DEDUCED), 15 (DESIGN CHOICE). Log entry 14 (DESIGN CHOICE). -/
def leaves (s : State) (c k : Nat) : Bool :=
  let w := s.crew c k
  let stuck (l : Nat) : Bool := match w.parkOf l with
    | .no => false
    | .resume _ => false
    | _ => true
  let lanes := lanesOf w.mask
  w.st == .resident && w.active &&
  (w.leaving || w.committing || (parkedAtMarker s c k && w.longOut) || (lanes.any stuck && (lanes.all stuck || w.frozen || w.halted || w.forming)) ||
   (w.sysHold == 0 && w.ready s.clk != 0 && (planOf s c k).isEmpty))

/-- A crew leaves the active set. -/
def demote (s : State) (c k : Nat) : State :=
  s.modCore c (fun o => { o.modCrew k (fun w => { w with active := false, leaving := false, promoted := none }) with left := tset o.left (k % 4) (s.clk + 1) })

/-- The crew that a seat sends out in this clock: one whose own word sends it, else the lowest slot of those that have to
leave (R65). Log entry 138 (DESIGN CHOICE). -/
def demotion (s : State) (c seat : Nat) : Option Nat :=
  if tget 0 (s.core c).left seat = s.clk + 1 then none
  else
    let out := (seatSlots seat).filter (leaves s c)
    (out.find? (fun k => (s.crew c k).leaving)).or out.head?

/-- The crew with the highest age, the lower slot of equals. -/
def oldest (s : State) (c : Nat) (l : List Nat) : Option Nat :=
  l.foldl (fun b k => match b with
    | none => some k
    | some x => if (s.crew c x).age s.clk < (s.crew c k).age s.clk then some k else b) none

/-- The crew with the lowest age, the higher slot of equals. -/
def youngest (s : State) (c : Nat) (l : List Nat) : Option Nat :=
  l.foldl (fun b k => match b with
    | none => some k
    | some x => if (s.crew c k).age s.clk ≤ (s.crew c x).age s.clk then some k else b) none

/-- The resident crews of a seat. -/
def seatCrews (o : Core) (seat : Nat) : List Nat := (seatSlots seat).filter (fun k => (o.crew k).st == .resident)

/-- The pending crew that takes a free place of the active set (R65), unless the seat has promoted one in this clock. -/
def promotable (s : State) (c seat : Nat) : Option Nat :=
  let o := s.core c
  let here := seatCrews o seat
  if here.any (fun k => (o.crew k).promoted == some s.clk) then none
  else
    let fit := here.filter (fun k => !(o.crew k).active && canIssue s c k)
    let plain := fit.filter (fun k => !(o.crew k).paused || 448 ≤ (o.crew k).age s.clk)
    oldest s c (if plain.isEmpty then fit else plain)

/-- A crew enters the active set; it can be chosen from the second clock, and its paused flag clears (R65, R90). -/
def promote (s : State) (c k : Nat) : State :=
  s.modCrew c k (fun w => { w with active := true, leaving := false, paused := false, promoted := some s.clk })

/-- A crew leaves the active set. With eight crews pending already one of them takes its place in the same clock; where none
of them can issue the crew stays, as one that is promoted again at once (R62, R65). Log entry 138 (DESIGN CHOICE). -/
def sendOut (s : State) (c seat k : Nat) : Option State :=
  let o := s.core c
  if ((seatCrews o seat).filter (fun k => !(o.crew k).active)).length < 8 then some (demote s c k)
  else match promotable s c seat with
    | some j => some (promote (demote s c k) c j)
    | none => if (o.crew k).leaving then some (s.modCrew c k (fun w => { w with leaving := false, paused := false })) else none

/-- The promotion that a seat makes in this clock: the crew, and one that makes room for it. -/
def promotion (s : State) (c seat : Nat) : Option (Nat × Option Nat) :=
  let o := s.core c
  let here := seatCrews o seat
  let act := here.filter (fun k => (o.crew k).active)
  if here.any (fun k => (o.crew k).promoted == some s.clk) then none
  else
    let fit := here.filter (fun k => !(o.crew k).active && canIssue s c k)
    let old := fit.filter (fun k => 448 ≤ (o.crew k).age s.clk)
    if act.length < 8 then (promotable s c seat).map (fun k => (k, none))
    else if tget 0 o.left seat = s.clk + 1 then none
    else (oldest s c old).map (fun k => (k, youngest s c act))

/-- CREW_PROMOTION (R65): the promoted crew can be chosen from the second clock; its paused flag clears (R90). -/
def execCrewPromotion (c seat : Nat) (s : State) : Out :=
  match if seat < 4 then promotion s c seat else none with
  | none => .fault .notEnabled
  | some (k, out) =>
    let s := match out with
      | some y => demote s c y
      | none => s
    .next (promote s c k)

/-- The crew that a seat chooses in this clock (R64). Log entry 12 (DEDUCED). -/
def choice (s : State) (c seat : Nat) : Option Nat :=
  if s.clk < tget 0 (s.core c).busy seat then none
  else oldest s c ((seatSlots seat).filter (fun k => let w := s.crew c k
    w.active && !w.leaving && w.promoted.all (fun t => t + 2 ≤ s.clk) && canIssue s c k))

/-! ## Placement (R242, R243) -/

/-- Ready grids of a priority that have unplaced teams, in the order of their turns (R242).
Log entry 88 (DESIGN CHOICE). -/
def waitingGrids (s : State) (p : Nat) : List Nat :=
  let ok (d : Grid) : Bool := d.ready && (d.state == 1 || d.state == 2) && d.halting.isEmpty && d.nextTeam < d.lr.teams && d.lr.prio == p && !d.ended
  let l := (s.grids.filter (fun g => ok g.2)).map (·.1)
  let put (t : List Nat) (g : Nat) : List Nat :=
    let a := (s.grid g).accepted
    t.filter (fun h => (s.grid h).accepted < a) ++ [g] ++ t.filter (fun h => a < (s.grid h).accepted)
  let l := l.foldl put []
  let last := tget 0 s.rotor p
  l.filter (fun g => last < (s.grid g).accepted) ++ l.filter (fun g => (s.grid g).accepted ≤ last)

/-- A grid's turn: its next team or cluster, or all of it when it has heats. -/
def placeTurn (s : State) (p g : Nat) : Option State :=
  let d := s.grid g
  (if d.lr.heats = 0 then placeUnit s g else placeWhole g (d.lr.teams + 1) s).map (fun s => { s with rotor := tset s.rotor p d.accepted })

/-- Saves by the scheduler that are not finished. -/
def poolJobs (s : State) : List (Nat × List Nat) :=
  s.jobs.filterMap (fun j => match j.kind with
    | .save g _ _ pool _ _ => if pool.isEmpty then none else some (g, pool)
    | _ => none)

/-- Units that the scheduler saved are placed ahead of unplaced teams (R243). -/
def savedTurn (s : State) (p : Nat) : Option State :=
  let busy (g : Nat) : Bool := (poolJobs s).any (fun j => j.1 == g)
  (s.saves.filter (fun u => !u.2.pool.isEmpty && (s.grid u.2.grid).lr.prio == p && !(busy u.2.grid))).findSome? (fun u => restoreAnywhere s u.1)

/-- Free slots of the save pool (R245). -/
def poolSlots (s : State) (n : Nat) : Option (List Nat) :=
  let used := s.saves.flatMap (fun u => u.2.pool) ++ (poolJobs s).flatMap (·.2)
  let l := ((List.range (min s.savesize.toNat (used.length + n))).filter (fun i => !(used.contains i))).take n
  if l.length = n then some l else none

/-- The grid that makes room for a priority, with slots for its teams: of the lowest priority, the one accepted last.
Log entry 89 (DESIGN CHOICE). -/
def victim (s : State) (p : Nat) : Option (Nat × List Nat) :=
  let ok (g : Nat) (d : Grid) : Option (Nat × List Nat) :=
    let n := (placedTeams s g).length
    if d.state == 2 && d.lr.preemptible && !d.monitor && d.lr.prio < p && d.halting.isEmpty && 0 < n then (poolSlots s n).map (fun l => (g, l)) else none
  let worse (a b : Grid) : Bool := b.lr.prio < a.lr.prio || (b.lr.prio == a.lr.prio && a.accepted < b.accepted)
  (s.grids.filterMap (fun g => ok g.1 g.2)).foldl (fun b v => match b with
    | none => some v
    | some x => if worse (s.grid x.1) (s.grid v.1) then some v else b) none

/-- SCHEDULER_PREEMPT (R243): the grid halts, and each of its units is saved into slots of the pool.
Log entry 89 (DESIGN CHOICE). -/
def preemptGrid (s : State) (g : Nat) (slots : List Nat) : State :=
  let n := max 1 (clusterSize (s.grid g))
  let ts := placedTeams s g
  let units := (ts.map (fun t => t.2.2.index / n)).eraseDups
  let core := (ts.map (·.1)).headD 0
  (units.foldl (fun (a : State × List Nat) u =>
    let k := (ts.filter (fun t => t.2.2.index / n == u)).length
    let (id, s) := a.1.fresh
    let j : Job := { id, core, slot := 64, uid := 0, res := 0, d := .no, kind := .save g (u * n) 0 (a.2.take k) 0 [] }
    ({ s with jobs := s.jobs ++ [j] }, a.2.drop k)) (haltGrid s g, slots)).1

/-- What the scheduler does for a priority: a saved unit, a team or cluster, or a pre-emption for a grid that waits.
Log entry 89 (DESIGN CHOICE). -/
def schedule (s : State) (p : Nat) : Option State :=
  match savedTurn s p with
  | some s => some s
  | none =>
    let l := waitingGrids s p
    match l.findSome? (placeTurn s p) with
    | some s => some s
    | none => if l.isEmpty || !(poolJobs s).isEmpty then none else (victim s p).map (fun v => preemptGrid s v.1 v.2)

/-- SCHEDULER_PLACE (R242, R243): the highest priority for which something can be done. -/
def execSchedulerPlace (s : State) : Out :=
  if s.phase != .running then .fault .dark
  else match [3, 2, 1, 0].findSome? (schedule s) with
    | some s => .next s
    | none => .fault .notEnabled

end Sys2Proof.Machine
end

