-- ==== Sys2Proof/Machine/Dispatch.lean ====
section
/-! DEFINITION. Machine/Dispatch.lean: one arm for each row of the opcode table. -/

namespace Sys2Proof.Machine

def exec (i : Instr) (s : State) : Host.Outcome State Fault Refusal :=
  match i with
  | .bra w => Sys2Proof.Machine.execBra w s
  | .braFar w => Sys2Proof.Machine.execBraFar w s
  | .brc w => Sys2Proof.Machine.execBrc w s
  | .bru w => Sys2Proof.Machine.execBru w s
  | .brx w => Sys2Proof.Machine.execBrx w s
  | .call w => Sys2Proof.Machine.execCall w s
  | .callFar w => Sys2Proof.Machine.execCallFar w s
  | .ret w => Sys2Proof.Machine.execRet w s
  | .enrol w => Sys2Proof.Machine.execEnrol w s
  | .rejoin w => Sys2Proof.Machine.execRejoin w s
  | .leave w => Sys2Proof.Machine.execLeave w s
  | .rollrd w => Sys2Proof.Machine.execRollrd w s
  | .bart w => Sys2Proof.Machine.execBart w s
  | .barc w => Sys2Proof.Machine.execBarc w s
  | .bara w => Sys2Proof.Machine.execBara w s
  | .barw w => Sys2Proof.Machine.execBarw w s
  | .yield w => Sys2Proof.Machine.execYield w s
  | .waitw w => Sys2Proof.Machine.execWaitw w s
  | .settile w => Sys2Proof.Machine.execSettile w s
  | .loopu w => Sys2Proof.Machine.execLoopu w s
  | .trapc w => Sys2Proof.Machine.execTrapc w s
  | .pair w => Sys2Proof.Machine.execPair w s
  | .iadd w => Sys2Proof.Machine.execIadd w s
  | .isub w => Sys2Proof.Machine.execIsub w s
  | .imul w => Sys2Proof.Machine.execImul w s
  | .imulh w => Sys2Proof.Machine.execImulh w s
  | .imad w => Sys2Proof.Machine.execImad w s
  | .imin w => Sys2Proof.Machine.execImin w s
  | .imax w => Sys2Proof.Machine.execImax w s
  | .iabs w => Sys2Proof.Machine.execIabs w s
  | .ineg w => Sys2Proof.Machine.execIneg w s
  | .andW w => Sys2Proof.Machine.execAndW w s
  | .orW w => Sys2Proof.Machine.execOrW w s
  | .xorW w => Sys2Proof.Machine.execXorW w s
  | .notW w => Sys2Proof.Machine.execNotW w s
  | .shl w => Sys2Proof.Machine.execShl w s
  | .shr w => Sys2Proof.Machine.execShr w s
  | .shra w => Sys2Proof.Machine.execShra w s
  | .rot w => Sys2Proof.Machine.execRot w s
  | .popc w => Sys2Proof.Machine.execPopc w s
  | .clz w => Sys2Proof.Machine.execClz w s
  | .brev w => Sys2Proof.Machine.execBrev w s
  | .bfx w => Sys2Proof.Machine.execBfx w s
  | .bfi w => Sys2Proof.Machine.execBfi w s
  | .prmb w => Sys2Proof.Machine.execPrmb w s
  | .sel w => Sys2Proof.Machine.execSel w s
  | .icmp w => Sys2Proof.Machine.execIcmp w s
  | .iset w => Sys2Proof.Machine.execIset w s
  | .lea w => Sys2Proof.Machine.execLea w s
  | .add64 w => Sys2Proof.Machine.execAdd64 w s
  | .sub64 w => Sys2Proof.Machine.execSub64 w s
  | .mad64 w => Sys2Proof.Machine.execMad64 w s
  | .mov w => Sys2Proof.Machine.execMov w s
  | .movi w => Sys2Proof.Machine.execMovi w s
  | .vbcast w => Sys2Proof.Machine.execVbcast w s
  | .v2s w => Sys2Proof.Machine.execV2s w s
  | .pand w => Sys2Proof.Machine.execPand w s
  | .por w => Sys2Proof.Machine.execPor w s
  | .pxor w => Sys2Proof.Machine.execPxor w s
  | .pnot w => Sys2Proof.Machine.execPnot w s
  | .p2v w => Sys2Proof.Machine.execP2v w s
  | .v2p w => Sys2Proof.Machine.execV2p w s
  | .shfl w => Sys2Proof.Machine.execShfl w s
  | .vote w => Sys2Proof.Machine.execVote w s
  | .redx w => Sys2Proof.Machine.execRedx w s
  | .scanx w => Sys2Proof.Machine.execScanx w s
  | .matchW w => Sys2Proof.Machine.execMatchW w s
  | .ffl w => Sys2Proof.Machine.execFfl w s
  | .umov w => Sys2Proof.Machine.execUmov w s
  | .uloop w => Sys2Proof.Machine.execUloop w s
  | .ucmp w => Sys2Proof.Machine.execUcmp w s
  | .uand w => Sys2Proof.Machine.execUand w s
  | .fadd w => Sys2Proof.Machine.execFadd w s
  | .fsub w => Sys2Proof.Machine.execFsub w s
  | .fmul w => Sys2Proof.Machine.execFmul w s
  | .ffma w => Sys2Proof.Machine.execFfma w s
  | .fmin w => Sys2Proof.Machine.execFmin w s
  | .fmax w => Sys2Proof.Machine.execFmax w s
  | .fminm w => Sys2Proof.Machine.execFminm w s
  | .fmaxm w => Sys2Proof.Machine.execFmaxm w s
  | .fabs w => Sys2Proof.Machine.execFabs w s
  | .fneg w => Sys2Proof.Machine.execFneg w s
  | .fcpys w => Sys2Proof.Machine.execFcpys w s
  | .fcmp w => Sys2Proof.Machine.execFcmp w s
  | .fclass w => Sys2Proof.Machine.execFclass w s
  | .frnd w => Sys2Proof.Machine.execFrnd w s
  | .fscale w => Sys2Proof.Machine.execFscale w s
  | .ffrx w => Sys2Proof.Machine.execFfrx w s
  | .cvtf w => Sys2Proof.Machine.execCvtf w s
  | .cvti w => Sys2Proof.Machine.execCvti w s
  | .cvtfi w => Sys2Proof.Machine.execCvtfi w s
  | .packb w => Sys2Proof.Machine.execPackb w s
  | .unpkb w => Sys2Proof.Machine.execUnpkb w s
  | .sclx w => Sys2Proof.Machine.execSclx w s
  | .exp2 w => Sys2Proof.Machine.execExp2 w s
  | .log2 w => Sys2Proof.Machine.execLog2 w s
  | .rcp w => Sys2Proof.Machine.execRcp w s
  | .rsq w => Sys2Proof.Machine.execRsq w s
  | .sqrt w => Sys2Proof.Machine.execSqrt w s
  | .sin w => Sys2Proof.Machine.execSin w s
  | .cos w => Sys2Proof.Machine.execCos w s
  | .tanh w => Sys2Proof.Machine.execTanh w s
  | .sigm w => Sys2Proof.Machine.execSigm w s
  | .erf w => Sys2Proof.Machine.execErf w s
  | .divf w => Sys2Proof.Machine.execDivf w s
  | .divi w => Sys2Proof.Machine.execDivi w s
  | .flrd w => Sys2Proof.Machine.execFlrd w s
  | .flclr w => Sys2Proof.Machine.execFlclr w s
  | .flset w => Sys2Proof.Machine.execFlset w s
  | .fcntrd w => Sys2Proof.Machine.execFcntrd w s
  | .fcntclr w => Sys2Proof.Machine.execFcntclr w s
  | .fmode w => Sys2Proof.Machine.execFmode w s
  | .fmodeGet w => Sys2Proof.Machine.execFmodeGet w s
  | .fdot2 w => Sys2Proof.Machine.execFdot2 w s
  | .fdot4 w => Sys2Proof.Machine.execFdot4 w s
  | .fmad2 w => Sys2Proof.Machine.execFmad2 w s
  | .fsat w => Sys2Proof.Machine.execFsat w s
  | .fmed3 w => Sys2Proof.Machine.execFmed3 w s
  | .fset w => Sys2Proof.Machine.execFset w s
  | .ld w => Sys2Proof.Machine.execLd w s
  | .st w => Sys2Proof.Machine.execSt w s
  | .lds w => Sys2Proof.Machine.execLds w s
  | .sts w => Sys2Proof.Machine.execSts w s
  | .ldb w => Sys2Proof.Machine.execLdb w s
  | .stb w => Sys2Proof.Machine.execStb w s
  | .ldw w => Sys2Proof.Machine.execLdw w s
  | .stw w => Sys2Proof.Machine.execStw w s
  | .ldnt w => Sys2Proof.Machine.execLdnt w s
  | .stnt w => Sys2Proof.Machine.execStnt w s
  | .pref w => Sys2Proof.Machine.execPref w s
  | .cctlInv w => Sys2Proof.Machine.execCctlInv w s
  | .cctlClean w => Sys2Proof.Machine.execCctlClean w s
  | .cctlFlush w => Sys2Proof.Machine.execCctlFlush w s
  | .probe w => Sys2Proof.Machine.execProbe w s
  | .ldq w => Sys2Proof.Machine.execLdq w s
  | .stq w => Sys2Proof.Machine.execStq w s
  | .spill w => Sys2Proof.Machine.execSpill w s
  | .fill w => Sys2Proof.Machine.execFill w s
  | .addrx w => Sys2Proof.Machine.execAddrx w s
  | .atom w => Sys2Proof.Machine.execAtom w s
  | .atoms w => Sys2Proof.Machine.execAtoms w s
  | .cas w => Sys2Proof.Machine.execCas w s
  | .cass w => Sys2Proof.Machine.execCass w s
  | .red w => Sys2Proof.Machine.execRed w s
  | .reds w => Sys2Proof.Machine.execReds w s
  | .ldacq w => Sys2Proof.Machine.execLdacq w s
  | .strel w => Sys2Proof.Machine.execStrel w s
  | .fence w => Sys2Proof.Machine.execFence w s
  | .fencex w => Sys2Proof.Machine.execFencex w s
  | .atom64 w => Sys2Proof.Machine.execAtom64 w s
  | .cas128 w => Sys2Proof.Machine.execCas128 w s
  | .redf w => Sys2Proof.Machine.execRedf w s
  | .waitv w => Sys2Proof.Machine.execWaitv w s
  | .arrv w => Sys2Proof.Machine.execArrv w s
  | .xchg w => Sys2Proof.Machine.execXchg w s
  | .launch w => Sys2Proof.Machine.execLaunch w s
  | .launchw w => Sys2Proof.Machine.execLaunchw w s
  | .trap w => Sys2Proof.Machine.execTrap w s
  | .eret w => Sys2Proof.Machine.execEret w s
  | .sread w => Sys2Proof.Machine.execSread w s
  | .swrite w => Sys2Proof.Machine.execSwrite w s
  | .ctxsave w => Sys2Proof.Machine.execCtxsave w s
  | .ctxload w => Sys2Proof.Machine.execCtxload w s
  | .preempt w => Sys2Proof.Machine.execPreempt w s
  | .freeze w => Sys2Proof.Machine.execFreeze w s
  | .thawResume w => Sys2Proof.Machine.execThawResume w s
  | .thawRetry w => Sys2Proof.Machine.execThawRetry w s
  | .thawTrap w => Sys2Proof.Machine.execThawTrap w s
  | .thawEnd w => Sys2Proof.Machine.execThawEnd w s
  | .keyset w => Sys2Proof.Machine.execKeyset w s
  | .keydrop w => Sys2Proof.Machine.execKeydrop w s
  | .watch w => Sys2Proof.Machine.execWatch w s
  | .watchWait w => Sys2Proof.Machine.execWatchWait w s
  | .monevWait w => Sys2Proof.Machine.execMonevWait w s
  | .monevPost w => Sys2Proof.Machine.execMonevPost w s
  | .monevIrq w => Sys2Proof.Machine.execMonevIrq w s
  | .getid w => Sys2Proof.Machine.execGetid w s
  | .clkrd w => Sys2Proof.Machine.execClkrd w s
  | .invtlb w => Sys2Proof.Machine.execInvtlb w s
  | .pgattr w => Sys2Proof.Machine.execPgattr w s
  | .dst w => Sys2Proof.Machine.execDst w s
  | .dred w => Sys2Proof.Machine.execDred w s
  | .dred64 w => Sys2Proof.Machine.execDred64 w s
  | .commit w => Sys2Proof.Machine.execCommit w s
  | .commitNw w => Sys2Proof.Machine.execCommitNw w s
  | .cpoll w => Sys2Proof.Machine.execCpoll w s
  | .dcount w => Sys2Proof.Machine.execDcount w s
  | .dmode w => Sys2Proof.Machine.execDmode w s
  | .dmodeGet w => Sys2Proof.Machine.execDmodeGet w s
  | .dbind w => Sys2Proof.Machine.execDbind w s
  | .dbindRel w => Sys2Proof.Machine.execDbindRel w s
  | .cpy w => Sys2Proof.Machine.execCpy w s
  | .cpyg w => Sys2Proof.Machine.execCpyg w s
  | .cpyx w => Sys2Proof.Machine.execCpyx w s
  | .feed w => Sys2Proof.Machine.execFeed w s
  | .drain w => Sys2Proof.Machine.execDrain w s
  | .ovld w => Sys2Proof.Machine.execOvld w s
  | .winw w => Sys2Proof.Machine.execWinw w s
  | .cwait w => Sys2Proof.Machine.execCwait w s
  | .cfill w => Sys2Proof.Machine.execCfill w s
  | .cstat w => Sys2Proof.Machine.execCstat w s
  | .cqry w => Sys2Proof.Machine.execCqry w s
  | .mma w => Sys2Proof.Machine.execMma w s
  | .mmaz w => Sys2Proof.Machine.execMmaz w s
  | .macrd w => Sys2Proof.Machine.execMacrd w s
  | .macz w => Sys2Proof.Machine.execMacz w s
  | .mres w => Sys2Proof.Machine.execMres w s
  | .mrel w => Sys2Proof.Machine.execMrel w s
  | .selk w => Sys2Proof.Machine.execSelk w s
  | .selkx w => Sys2Proof.Machine.execSelkx w s
  | .sample w => Sys2Proof.Machine.execSample w s
  | .mstat w => Sys2Proof.Machine.execMstat w s
  | .migr w => Sys2Proof.Machine.execMigr w s
  | .migra w => Sys2Proof.Machine.execMigra w s
  | .pmove w => Sys2Proof.Machine.execPmove w s
  | .pqry w => Sys2Proof.Machine.execPqry w s
  | .owninv w => Sys2Proof.Machine.execOwninv w s
  | .pstubRd w => Sys2Proof.Machine.execPstubRd w s
  | .pstubReclaim w => Sys2Proof.Machine.execPstubReclaim w s
  | .pstubKeep w => Sys2Proof.Machine.execPstubKeep w s
  | .bput w => Sys2Proof.Machine.execBput w s
  | .bget w => Sys2Proof.Machine.execBget w s
  | .rst w => Sys2Proof.Machine.execRst w s
  | .rld w => Sys2Proof.Machine.execRld w s
  | .ratom w => Sys2Proof.Machine.execRatom w s
  | .acnt w => Sys2Proof.Machine.execAcnt w s
  | .acntRel w => Sys2Proof.Machine.execAcntRel w s
  | .await w => Sys2Proof.Machine.execAwait w s
  | .connRd w => Sys2Proof.Machine.execConnRd w s
  | .connOpen w => Sys2Proof.Machine.execConnOpen w s
  | .connReset w => Sys2Proof.Machine.execConnReset w s
  | .bkmode w => Sys2Proof.Machine.execBkmode w s
  | .bkmodeOff w => Sys2Proof.Machine.execBkmodeOff w s
  | .bkbc w => Sys2Proof.Machine.execBkbc w s
  | .bkmac w => Sys2Proof.Machine.execBkmac w s
  | .bklutLd w => Sys2Proof.Machine.execBklutLd w s
  | .bklut w => Sys2Proof.Machine.execBklut w s
  | .bkrda w => Sys2Proof.Machine.execBkrda w s
  | .bkadd w => Sys2Proof.Machine.execBkadd w s
  | .bkz w => Sys2Proof.Machine.execBkz w s
  | .nop => Sys2Proof.Machine.execNop s
  | .exit => Sys2Proof.Machine.execExit s
  | .pause => Sys2Proof.Machine.execPause s
  | .cctlInvall => Sys2Proof.Machine.execCctlInvall s
  | .heatend => Sys2Proof.Machine.execHeatend s
  | .dflush => Sys2Proof.Machine.execDflush s
  | .mret => Sys2Proof.Machine.execMret s
  | .fack => Sys2Proof.Machine.execFack s
  | .clusterBarrierResume core cl bar => Sys2Proof.Machine.execClusterBarrierResume core cl bar s
  | .yieldHoldEnd core slot => Sys2Proof.Machine.execYieldHoldEnd core slot s
  | .waitwRecheck core slot wait => Sys2Proof.Machine.execWaitwRecheck core slot wait s
  | .crewPromotion core seat => Sys2Proof.Machine.execCrewPromotion core seat s
  | .laneStarvationPath core slot => Sys2Proof.Machine.execLaneStarvationPath core slot s
  | .resultWriteback core slot res => Sys2Proof.Machine.execResultWriteback core slot res s
  | .coalescerResume core => Sys2Proof.Machine.execCoalescerResume core s
  | .tableWalkDone req => Sys2Proof.Machine.execTableWalkDone req s
  | .memoryReadAtOwner req => Sys2Proof.Machine.execMemoryReadAtOwner req s
  | .memoryWriteAtOwner req => Sys2Proof.Machine.execMemoryWriteAtOwner req s
  | .atomicAtOwner req => Sys2Proof.Machine.execAtomicAtOwner req s
  | .loadResponse req => Sys2Proof.Machine.execLoadResponse req s
  | .orderingComplete core slot => Sys2Proof.Machine.execOrderingComplete core slot s
  | .redfAtSlice req => Sys2Proof.Machine.execRedfAtSlice req s
  | .watermarkBroadcast grid => Sys2Proof.Machine.execWatermarkBroadcast grid s
  | .fwctlEnable wr => Sys2Proof.Machine.execFwctlEnable wr s
  | .fwctlDisable wr => Sys2Proof.Machine.execFwctlDisable wr s
  | .fwctlDisableDone win => Sys2Proof.Machine.execFwctlDisableDone win s
  | .hdmctlClose wr => Sys2Proof.Machine.execHdmctlClose wr s
  | .gridstatFree wr => Sys2Proof.Machine.execGridstatFree wr s
  | .fcntstatClear wr => Sys2Proof.Machine.execFcntstatClear wr s
  | .portstatClear wr => Sys2Proof.Machine.execPortstatClear wr s
  | .preemptHalt core grid => Sys2Proof.Machine.execPreemptHalt core grid s
  | .hostLineRecall line => Sys2Proof.Machine.execHostLineRecall line s
  | .hostCxlMemAccess a => Sys2Proof.Machine.execHostCxlMemAccess a s
  | .heatEnd grid => Sys2Proof.Machine.execHeatEnd grid s
  | .heatWatchdog grid => Sys2Proof.Machine.execHeatWatchdog grid s
  | .eventQueueRetry die => Sys2Proof.Machine.execEventQueueRetry die s
  | .dependencePoll => Sys2Proof.Machine.execDependencePoll s
  | .schedulerPlace => Sys2Proof.Machine.execSchedulerPlace s
  | .gridComplete grid => Sys2Proof.Machine.execGridComplete grid s
  | .boardReset => Sys2Proof.Machine.execBoardReset s
  | .identityRecord rec => Sys2Proof.Machine.execIdentityRecord rec s
  | .monitorStart => Sys2Proof.Machine.execMonitorStart s
  | .firmwareUpdate fw => Sys2Proof.Machine.execFirmwareUpdate fw s
  | .attestationReport => Sys2Proof.Machine.execAttestationReport s
  | .powerEvaluation p => Sys2Proof.Machine.execPowerEvaluation p s
  | .clockStepComplete => Sys2Proof.Machine.execClockStepComplete s
  | .thermalHold celsius => Sys2Proof.Machine.execThermalHold celsius s
  | .thermalHoldEnd t => Sys2Proof.Machine.execThermalHoldEnd t s
  | .thermalTrip t => Sys2Proof.Machine.execThermalTrip t s
  | .patrolScrub granule found => Sys2Proof.Machine.execPatrolScrub granule found s
  | .linkCalibration port farChip farPort => Sys2Proof.Machine.execLinkCalibration port farChip farPort s
  | .laserWearLevelling engine bias => Sys2Proof.Machine.execLaserWearLevelling engine bias s
  | .telemetry => Sys2Proof.Machine.execTelemetry s
  | .logSpillDone core => Sys2Proof.Machine.execLogSpillDone core s
  | .binRecordAdd core => Sys2Proof.Machine.execBinRecordAdd core s
  | .binAgeExpiry quad bin => Sys2Proof.Machine.execBinAgeExpiry quad bin s
  | .binAccept msg => Sys2Proof.Machine.execBinAccept msg s
  | .releaseNotice msg => Sys2Proof.Machine.execReleaseNotice msg s
  | .recordApply engine => Sys2Proof.Machine.execRecordApply engine s
  | .weightAck msg => Sys2Proof.Machine.execWeightAck msg s
  | .commitToken chip group number => Sys2Proof.Machine.execCommitToken chip group number s
  | .activationAlert stack pc => Sys2Proof.Machine.execActivationAlert stack pc s
  | .copyOpStart core => Sys2Proof.Machine.execCopyOpStart core s
  | .copyLineWrite core ticket => Sys2Proof.Machine.execCopyLineWrite core ticket s
  | .copyComplete core ticket => Sys2Proof.Machine.execCopyComplete core ticket s
  | .matrixGrant quad => Sys2Proof.Machine.execMatrixGrant quad s
  | .matrixGroup quad => Sys2Proof.Machine.execMatrixGroup quad s
  | .matrixComplete quad => Sys2Proof.Machine.execMatrixComplete quad s
  | .selectStart quad => Sys2Proof.Machine.execSelectStart quad s
  | .selectComplete quad => Sys2Proof.Machine.execSelectComplete quad s
  | .ownerQuery q => Sys2Proof.Machine.execOwnerQuery q s
  | .ownerAnswer q => Sys2Proof.Machine.execOwnerAnswer q s
  | .negativeAck req => Sys2Proof.Machine.execNegativeAck req s
  | .pmoveHomeUpdate mv => Sys2Proof.Machine.execPmoveHomeUpdate mv s
  | .pmoveCopyComplete mv => Sys2Proof.Machine.execPmoveCopyComplete mv s
  | .stubForward req => Sys2Proof.Machine.execStubForward req s
  | .redirect gpn stub owner => Sys2Proof.Machine.execRedirect gpn stub owner s
  | .stubQuietExpiry stub => Sys2Proof.Machine.execStubQuietExpiry stub s
  | .stubReclaimRequest stub => Sys2Proof.Machine.execStubReclaimRequest stub s
  | .stubReclaimGrant stub => Sys2Proof.Machine.execStubReclaimGrant stub s
  | .trackerPeriodEnd stack => Sys2Proof.Machine.execTrackerPeriodEnd stack s
  | .migrationGrantRequest mv => Sys2Proof.Machine.execMigrationGrantRequest mv s
  | .migrationGrantReply mv => Sys2Proof.Machine.execMigrationGrantReply mv s
  | .continuationArrival mv => Sys2Proof.Machine.execContinuationArrival mv s
  | .migrationAck mv => Sys2Proof.Machine.execMigrationAck mv s
  | .guestIssueWindowEnd core slot => Sys2Proof.Machine.execGuestIssueWindowEnd core slot s
  | .locationNotice note => Sys2Proof.Machine.execLocationNotice note s
  | .exitNotice note => Sys2Proof.Machine.execExitNotice note s
  | .returnContinuation mv => Sys2Proof.Machine.execReturnContinuation mv s
  | .guestHalt note => Sys2Proof.Machine.execGuestHalt note s
  | .guestResume note => Sys2Proof.Machine.execGuestResume note s
  | .guestRemove note => Sys2Proof.Machine.execGuestRemove note s
  | .packetSend chip => Sys2Proof.Machine.execPacketSend chip s
  | .flitCrcError port lasting => Sys2Proof.Machine.execFlitCrcError port lasting s
  | .writePacket p => Sys2Proof.Machine.execWritePacket p s
  | .readRequestPacket p => Sys2Proof.Machine.execReadRequestPacket p s
  | .readResponsePacket p => Sys2Proof.Machine.execReadResponsePacket p s
  | .rmwRequestPacket p => Sys2Proof.Machine.execRmwRequestPacket p s
  | .rmwResponsePacket p => Sys2Proof.Machine.execRmwResponsePacket p s
  | .ackPacket p => Sys2Proof.Machine.execAckPacket p s
  | .refusalPacket p => Sys2Proof.Machine.execRefusalPacket p s
  | .mapWritePacket p => Sys2Proof.Machine.execMapWritePacket p s
  | .connectionResetPacket p => Sys2Proof.Machine.execConnectionResetPacket p s
  | .unknownPacket p => Sys2Proof.Machine.execUnknownPacket p s
  | .heldPacketPerform chip seq => Sys2Proof.Machine.execHeldPacketPerform chip seq s
  | .retransmitTimeout chip => Sys2Proof.Machine.execRetransmitTimeout chip s
  | .bksw stack cmd => Sys2Proof.Machine.execBksw stack cmd s
  | .bcst stack cmd => Sys2Proof.Machine.execBcst stack cmd s
  | .macb stack cmd => Sys2Proof.Machine.execMacb stack cmd s
  | .lutb stack cmd => Sys2Proof.Machine.execLutb stack cmd s
  | .lutl stack cmd => Sys2Proof.Machine.execLutl stack cmd s
  | .rdac stack cmd => Sys2Proof.Machine.execRdac stack cmd s
  | .addw stack cmd => Sys2Proof.Machine.execAddw stack cmd s
  | .zacc stack cmd => Sys2Proof.Machine.execZacc stack cmd s
  | .rowWaitRetry core slot => Sys2Proof.Machine.execRowWaitRetry core slot s
  | .refusedPacketResend chip seq => Sys2Proof.Machine.execRefusedPacketResend chip seq s
  | .connResetTimeout chip => Sys2Proof.Machine.execConnResetTimeout chip s

end Sys2Proof.Machine
end

