-- ==== Sys2Proof/Machine/Guests.lean ====
section
/-! DEFINITION. Machine/Guests.lean: what the chips tell each other about guest crews: halts and heats (R409, R410), and the end
of a heat or of a grid (R137, R316, R404, R411). The spec says what must have come about on every chip, and gives no messages for
it: log entry 140 (DESIGN CHOICE). -/

namespace Sys2Proof.Machine

/-! ## At a host -/

/-- A resident or expected guest crew here of a chip's grid. -/
def guestOfGrid (chip g : Nat) (w : Crew) : Bool := w.st != .free && w.grid == g && w.guest.any (fun q => q.chip == chip)

/-- Core and slot of the accounts here of guest crews of a chip's grid (R404). -/
def guestAccounts (s : State) (chip g : Nat) : List (Nat × Nat) :=
  s.cores.flatMap (fun c => (c.2.teams.filter (fun t => t.2.guest && t.2.homeChip == chip && t.2.grid == g)).map (fun t => (c.1, t.1)))

/-- The held operations of a chip's grid are applied in key order (R218). -/
def applyGuestHeld (chip g : Nat) (s : State) (m : Nat) : State :=
  let mine (h : HeldOp) : Bool := h.grid == g && h.chip == chip
  let ops := ((s.stack m).held.filter mine).foldl (fun l h => insertHeld h l) []
  ops.foldl applyHeld (s.modStack m (fun k => { k with held := k.held.filter (fun h => !(mine h)) }))

/-- A crew's lanes have all executed HEATEND, and its REDFs have reached their slices (R251). -/
def heatOver (s : State) (w : Crew) : Bool :=
  w.live != 0 && (lanesOf w.live).all w.atHeatEnd && !(s.reqs.any (fun r => r.uid == w.uid && r.toHold))

/-- A guest crew's origin learns that its lanes have executed HEATEND (R409). Log entry 140 (DESIGN CHOICE). -/
def tellHeat (c k : Nat) (s : State) : Out :=
  let w := s.crew c k
  match w.guest with
  | some g =>
    if w.st == .resident && g.chip != s.chipid && !g.told && heatOver s w then
      .next (sendNote (s.modCrew c k (fun w => { w with guest := some { g with told := true } })) g.chip
        (.heatAt g.cont.grid g.cont.team g.cont.crewid w.live w.heat))
    else .fault .notEnabled
  | none => .fault .notEnabled

/-- A chip that is asked to stop applies what its slices hold, releases the records of its guest accounts as it is told to, and
answers when they are applied; at the end of a grid when it has no guest crew of it any more, with the events they have
counted (R137, R316, R404, R411). Log entries 72 (DESIGN CHOICE), 104 (DEDUCED), 140 (DESIGN CHOICE). -/
def stopHere (s : State) (m : Msg) (g rel : Nat) (close : Bool) : Option State :=
  let accts := guestAccounts s m.chip g
  let crews := s.cores.any (fun c => c.2.slots.any (fun k => guestOfGrid m.chip g k.2))
  let writes := s.reqs.any (fun r => r.acc.writes && accts.contains (r.core, r.ts))
  if close && (crews || writes) then none
  else if rel ≠ 0 && accts.any (fun t => unreleased s t.1 t.2) then some (releaseTeams s accts)
  else if rel = 2 && !(accts.all (fun t => let a := s.team t.1 t.2; a.appended == a.acked)) then none
  else
    let s := (List.range Config.nStacks).foldl (applyGuestHeld m.chip g) (dropNote s m)
    let counts := if close then guestCount s (m.chip, g) else []
    some (sendNote (if close then setGuestCount s (m.chip, g) [] else s) m.chip (.stopped g close counts))

/-- The next heat begins for the guest crews of a chip's grid, with the matching acquire (R251, R279).
Log entry 140 (DESIGN CHOICE). -/
def heatHere (s : State) (chip g h : Nat) : State :=
  let mine (w : Crew) : Bool := guestOfGrid chip g w
  let next (w : Crew) : Crew := { w.unpark (s.clk + 2) (· == .heat) with heat := h, seq := [], guest := w.guest.map (fun q => { q with told := false }) }
  ((s.cores.filter (fun c => c.2.slots.any (fun k => mine k.2))).map (·.1)).foldl (fun s c => invalL1 (s.modCore c (fun o => o.mapCrews mine next)) c) s

/-! ## At the origin -/

/-- Do something to the origin crew of a note. -/
def atOrigin (s : State) (g t j : Nat) (f : Crew → Crew) : Option State :=
  if originSaved s g t j then none
  else match findOrigin s g t j with
    | some (c, k) => some (s.modCrew c k f)
    | none => some s

/-- A host has stopped; the events it has counted are added (R137).
Log entries 72 (DESIGN CHOICE), 140 (DESIGN CHOICE). -/
def stoppedAt (s : State) (chip g : Nat) (close : Bool) (counts : List (Nat × Nat)) : State :=
  let d := s.grid g
  if !(d.asked && d.waitFor.contains chip) then s
  else
    let s := s.modGrid g (fun d => { d with waitFor := d.waitFor.filter (· != chip) })
    if close then counts.foldl (fun s e => addCounter (96 * d.die) 64 g e.2 s e.1) s else s

/-- Counters of a grid are cleared by a guest crew's word: at home, and then at the other hosts (R159). Log entry 72 (DESIGN CHOICE). -/
def clearedBy (s : State) (m : Msg) (g : Nat) (l : List Nat) (home : Bool) : State :=
  if home then ((s.grid g).hosted.filter (· != m.chip)).foldl (fun s c => sendNote s c (.clrCnt g l false)) (zeroCounters g l s)
  else setGuestCount s (m.chip, g) ((guestCount s (m.chip, g)).filter (fun e => !(l.contains e.1)))

/-! ## Releases at system scope (R209) -/

/-- A chip that is asked to clean has done so; the release that asked goes on once every chip has.
Log entry 61 (DEDUCED). -/
def cleanedBy (s : State) (m : Msg) (c k uid : Nat) : State :=
  let o (o : Ord) : Ord := { o with waitFor := o.waitFor.filter (· != m.chip) }
  s.modCrew c k (fun w => if w.uid = uid then { w with ords := w.ords.map o } else w)

/-! ## Notes -/

/-- What a note about guests does; none while it must wait. Log entry 140 (DESIGN CHOICE). -/
def takeNote (s : State) (m : Msg) : Option State :=
  match m.body with
  | .halted g t j mask => atOrigin (dropNote s m) g t j (fun w => { w with haltedAway := w.haltedAway ||| mask })
  | .heatAt g t j mask h => atOrigin (dropNote s m) g t j (fun w => if w.heat = h then { w with heatAway := w.heatAway ||| mask } else w)
  | .stop g rel close => stopHere s m g rel close
  | .stopped g close counts => some (stoppedAt (dropNote s m) m.chip g close counts)
  | .heat g h => some (heatHere (dropNote s m) m.chip g h)
  | .clrCnt g l home => some (clearedBy (dropNote s m) m g l home)
  | .cleanAsk c k uid => some (sendNote (cleanAll (dropNote s m) (fun _ _ => true)) m.chip (.cleaned c k uid))
  | .cleaned c k uid => some (cleanedBy (dropNote s m) m c k uid)
  | _ => none

/-- A note about guests is taken. Log entry 140 (DESIGN CHOICE). -/
def guestNote (id : Nat) (s : State) : Out :=
  match findNote s id with
  | some m => (match takeNote s m with
    | some t => .next t
    | none => .fault .notEnabled)
  | none => .fault .notEnabled

end Sys2Proof.Machine
end

