-- ==== Sys2Proof/Machine/Acts.lean ====
section
/-! DEFINITION. Machine/Acts.lean: what can come next: the paths that a seat chooses and the word that each runs (R64 to
R69), what its clock brings about at once, what comes about at a time that the spec leaves open, and the clock. -/

namespace Sys2Proof.Machine

/-! ## Paths -/

/-- A path still has its lanes: they are live here, and none has parked since it was chosen. -/
def pathStands (s : State) (i : Issue) : Bool :=
  let w := s.crew i.core i.slot
  i.lanes != 0 && (lanesOf i.lanes).all (fun l => w.mask.getLsbD l && (w.parkOf l).free s.clk)

/-- The PC of a path. -/
def pathPc (s : State) (i : Issue) : Pc := (s.crew i.core i.slot).pcOf ((lanesOf i.lanes).headD 0)

/-- A chosen path runs: the word at its PC is fetched and acts; lanes whose overlay is loading park (R53); what is no
word raises its cause (R22). Log entry 27 (DEDUCED). -/
def runPath (s : State) (i : Issue) : Out :=
  match fetch (s.core i.core) (pathPc s i) with
  | .word w => exec w.ins { s with cur := some { i with h := w.h } }
  | .park => .next (s.modCrew i.core i.slot (forLanes i.lanes (fun l k => k.setPark l .overlay))).done
  | .bad c len => raisePath { s with cur := some i } c (len.getD (Config.trapLen s.free % 4)) 0

/-- The path that runs next: path 1 of a choice, then path 2. Log entry 16 (DESIGN CHOICE). -/
def nextPathOf (s : State) : Option (Issue × State) :=
  match s.cur, s.second with
  | some i, _ => some (i, { s with cur := none })
  | none, some i => some (i, { s with second := none })
  | none, none => none

/-- Issues of its crew that each ready lane has let pass (R67). -/
def countStarve (ready issued : Mask) (t : Tab Nat) : Tab Nat :=
  (lanesOf (ready &&& ~~~issued)).map (fun l => (l, tget 0 t l + 1))

/-- A seat chooses a crew and its paths, whose words then run; its slot is taken for this clock (R64, R67). -/
def chooseSeat (c seat : Nat) (s : State) : Out :=
  match choice s c seat with
  | none => .fault .notEnabled
  | some k =>
    let w := s.crew c k
    let plan := planOf s c k
    let all := plan.foldl (fun m g => m ||| g.2.1) (0 : Mask)
    let path (second : Bool) (g : Pc × Mask × Fetched) : Issue :=
      { core := c, slot := k, lanes := g.2.1, second, pre := if second then some { live := w.live, away := w.away, rolls := w.rolls, tile := w.tile } else none }
    let s := s.modCore c (holdSeat seat (s.clk + 1))
    let s := s.modCrew c k (fun w => { w with starve := countStarve (w.ready s.clk) all w.starve, starved := none })
    .next { s with serial := s.serial + 1, cur := (plan.head?).map (path false), second := ((plan.drop 1).head?).map (path true) }

/-! ## The clock -/

def seats (s : State) : List (Nat × Nat) := s.cores.flatMap (fun c => (List.range 4).map (fun i => (c.1, i)))

/-- One clock passes, with its part of the 100 MHz reference clock and of the pod's nanoseconds (R16, R274). A seat
that can issue issues first (R64). Log entry 111 (DESIGN CHOICE). -/
def tick (s : State) : Out :=
  if !s.phase.lit || (seats s).any (fun e => (choice s e.1 e.2).isSome) then .fault .notEnabled
  else
    let r := s.refAcc + 100
    let n := s.nsAcc + 1000
    .next { s with clk := s.clk + 1, refAcc := r % s.mhz, ref := s.ref + r / s.mhz, nsAcc := n % s.mhz, podNs := s.podNs + n / s.mhz }

/-! ## What a state brings about -/

/-- An act: a next state where the state lets it come about. -/
abbrev Act := State → Out

def crewsOf (s : State) : List (Nat × Nat × Crew) := s.cores.flatMap (fun c => c.2.slots.map (fun k => (c.1, k.1, k.2)))

/-- Messages to other chips leave as packets. -/
def notesAct : Act := fun s => if s.notes.any (fun m => m.dst != s.chipid) then .next (flushNotes s) else .fault .notEnabled

/-- A demotion of a seat in this clock (R65). -/
def demoteAct (c seat : Nat) : Act := fun s =>
  match demotion s c seat with
  | some k => (match sendOut s c seat k with
    | some t => .next t
    | none => .fault .notEnabled)
  | none => .fault .notEnabled

/-- Cluster barriers whose phase completed 63 clocks ago: every core's lanes resume by the 64th (R75). -/
def clusterDue (s : State) : List Act :=
  (s.clusters.zipIdx).flatMap (fun q => ((List.range 4).filter (fun n => (tget ({} : Bar) q.1.bars n).since + 63 ≤ s.clk)).flatMap (fun n =>
    s.cores.map (fun c => execClusterBarrierResume c.1 q.2 n)))

/-- Waits whose last read is 1,024 clocks old (R92). -/
def waitsDue (s : State) (k : Nat × Nat × Crew) : List Act :=
  (k.2.2.waits.filter (fun w => w.since + 1024 ≤ s.clk)).map (fun w => execWaitwRecheck k.1 k.2.1 w.id)

/-- What is due: results whose last clock has come, in the order of their numbers, the ends of windows and intervals,
lanes that have starved, and then what R65 moves between the sets. Log entry 2 (DESIGN CHOICE). -/
def dueActs (s : State) : List Act :=
  if !s.phase.lit then [] else
  let due (k : Nat × Nat × Crew) : List Act :=
    (k.2.2.results.filter (fun r => r.ready && r.hi.any (· ≤ s.clk))).map (fun r => execResultWriteback k.1 k.2.1 r.id)
  let crew (k : Nat × Nat × Crew) : List Act := [execGuestIssueWindowEnd k.1 k.2.1, execYieldHoldEnd k.1 k.2.1, execLaneStarvationPath k.1 k.2.1]
  [notesAct] ++ (crewsOf s).flatMap due ++ (crewsOf s).flatMap crew ++ clusterDue s ++ (crewsOf s).flatMap (waitsDue s) ++
  s.grids.map (fun g => execHeatWatchdog g.1) ++ s.stks.map (fun m => execTrackerPeriodEnd m.1) ++ s.stubs.map (fun b => execStubQuietExpiry b.1) ++
  s.quads.flatMap (fun q => q.2.bins.map (fun b => execBinAgeExpiry q.1 b.1)) ++
  s.conns.flatMap (fun q => [execRetransmitTimeout q.1, execConnResetTimeout q.1]) ++
  (seats s).map (fun e => demoteAct e.1 e.2) ++ (seats s).map (fun e => execCrewPromotion e.1 e.2)

/-- The first of some acts that comes about. -/
def firstNext (s : State) : List Act → Option State
  | [] => none
  | f :: t => match f s with
    | .next x => some x
    | _ => firstNext s t

/-! ## What comes about at a time left open -/

/-- The outside: the oldest event that waits at the chip. Log entry 1 (DESIGN CHOICE). -/
def envAct : Act := fun s =>
  match s.env with
  | [] => .fault .notEnabled
  | i :: t => exec i { s with env := t, cur := none }

/-- The event of a packet, by its type. -/
def packetAct (p : Packet) : Act :=
  match p.typ, p.body with
  | 0x02, _ | 0x0A, .query _ => execReadRequestPacket p
  | 0x03, _ | 0x0A, .answer _ _ _ | 0x0A, .redirect _ _ _ | 0x0A, .homeReply _ _ _ => execReadResponsePacket p
  | 0x04, _ => execRmwRequestPacket p
  | 0x05, _ => execRmwResponsePacket p
  | 0x06, _ => execAckPacket p
  | 0x07, _ => execRefusalPacket p
  | 0x0B, _ => execMapWritePacket p
  | 0x0D, _ => execConnectionResetPacket p
  | _, _ => execWritePacket p

/-- The loopback gives its packets in the order sent. Log entries 1 (DESIGN CHOICE), 129 (DESIGN CHOICE). -/
def loopActs (s : State) : List Act := ((s.loop.head?).map packetAct).toList

/-- Results whose value has come, which may be written from their first clock on. -/
def crewActs (k : Nat × Nat × Crew) : List Act :=
  (k.2.2.results.filter (·.ready)).map (fun r => execResultWriteback k.1 k.2.1 r.id) ++
  (if k.2.2.ords.isEmpty then [] else [execOrderingComplete k.1 k.2.1]) ++
  k.2.2.waits.map (fun w => execWaitwRecheck k.1 k.2.1 w.id) ++
  (if k.2.2.park.any (fun e => e.2 == .row) then [execRowWaitRetry k.1 k.2.1] else []) ++ (if k.2.2.guest.isSome then [tellHeat k.1 k.2.1] else [])

/-- Requests of lanes (R169 to R173, R208, R218, R385, R388, R470). -/
def reqActs (s : State) (r : Req) : List Act :=
  [execTableWalkDone r.id, execMemoryReadAtOwner r.id, execMemoryWriteAtOwner r.id, execAtomicAtOwner r.id, execRedfAtSlice r.id,
   execLoadResponse r.id, execNegativeAck r.id, execStubForward r.id] ++
  (match r.acc with
   | .bkadd _ _ => s.stks.flatMap (fun m => r.pieces.map (fun p => execAddw m.1 (32 * r.id + p.lane)))
   | _ => [])

/-- Logs and copy engines of a core. -/
def coreActs (c : Nat) (o : Core) : List Act :=
  [execCoalescerResume c, execBinRecordAdd c, execLogSpillDone c, execCopyOpStart c] ++
  o.copies.flatMap (fun p => [execCopyLineWrite c p.ticket, execCopyComplete c p.ticket])

/-- Writes of registers that are on their way. -/
def wrActs (s : State) : List Act :=
  s.sysWrs.flatMap (fun r => [execFwctlEnable r.id, execFwctlDisable r.id, execHdmctlClose r.id, execGridstatFree r.id, execFcntstatClear r.id, execPortstatClear r.id]) ++
  (s.wins.filter (fun w => w.2.closing)).map (fun w => execFwctlDisableDone w.1)

def gridActs (g : Nat) (d : Grid) : List Act :=
  [execHeatEnd g, execWatermarkBroadcast g, execGridComplete g] ++ d.halting.map (fun c => execPreemptHalt c g)

/-- Matrix engines, select units, apply engines, base dies. -/
def unitActs (s : State) : List Act :=
  (s.quads.filter (fun q => !q.2.table.isEmpty)).flatMap (fun q => [execMatrixGrant q.1, execMatrixGroup q.1, execMatrixComplete q.1]) ++
  (s.quads.filter (fun q => !q.2.select.isEmpty)).flatMap (fun q => [execSelectStart q.1, execSelectComplete q.1]) ++
  s.stks.flatMap (fun m => (m.2.engines.filter (fun e => !e.2.staged.isEmpty)).map (fun e => execRecordApply (24 * m.1 + e.1))) ++
  s.stks.flatMap (fun m => m.2.bankQ.flatMap (fun b => [execBksw m.1 b.id, execBcst m.1 b.id, execMacb m.1 b.id, execLutb m.1 b.id,
    execLutl m.1 b.id, execRdac m.1 b.id, execZacc m.1 b.id]))

/-- What comes about by itself, where it can. -/
def ifSome (f : State → Option State) : Act := fun s => match f s with
  | some t => .next t
  | none => .fault .notEnabled

/-- A message on the mesh. -/
def msgActs (m : Msg) : List Act :=
  match m.body with
  | .bin _ _ => [execBinAccept m.id, ifSome (departBin · m.id)]
  | .notice _ _ | .notices _ => [execReleaseNotice m.id]
  | .back _ _ => [ifSome (takeReturned · m.id)]
  | .arrived _ _ => [ifSome (takeArrived · m.id)]
  | .wack _ _ _ _ => [execWeightAck m.id]
  | .token g n => [execCommitToken m.chip g n]
  | .grantReq _ _ _ => [execMigrationGrantRequest m.id]
  | .redirect g a b => [execRedirect g (ownerBits a) (ownerBits b)]
  | _ => []

/-- Pages and lanes that move, stubs, notes. -/
def moveActs (s : State) : List Act :=
  s.queries.flatMap (fun q => [execOwnerQuery q.id, execOwnerAnswer q.id]) ++
  s.pmoves.flatMap (fun m => [execPmoveHomeUpdate m.id, execPmoveCopyComplete m.id]) ++
  (s.stubs.filter (fun b => b.2.state = 3)).flatMap (fun b => [execStubReclaimRequest b.1, execStubReclaimGrant b.1]) ++
  s.lmoves.flatMap (fun m => [execMigrationGrantRequest m.id, execMigrationGrantReply m.id, execContinuationArrival m.id, execReturnContinuation m.id, execMigrationAck m.id]) ++
  s.notes.flatMap (fun m => [execLocationNotice m.id, execExitNotice m.id, execGuestHalt m.id, execGuestResume m.id, execGuestRemove m.id, guestNote m.id])

def connActs (c : Nat) (q : Conn) : List Act :=
  execPacketSend c :: q.held.map (fun p => execHeldPacketPerform c p.seq) ++ (q.kept.filter (fun e => e.refused != 0)).map (fun e => execRefusedPacketResend c e.pkt.seq)

/-- A system word under way goes on, if it can. -/
def jobAct (j : Job) : Act := fun s =>
  let t := jobStep s j
  if t.jobs != s.jobs || t.nextId != s.nextId || t.rdJobs != s.rdJobs || t.queries != s.queries then .next t else .fault .notEnabled

/-- A commit goes on, if it can (R306). -/
def commitAct (id : Nat) : Act := fun s =>
  match findCommit s id with
  | none => .fault .notEnabled
  | some m =>
    let waits (w : Crew) : Bool := match w.commit with | some r => r.id == id && !r.nw | none => false
    if (m.scope = 4 && !m.told && !m.released && commitHere s m) || (!m.released && commitArrived s m) || (m.scope = 4 && !m.tokenSent && commitSnapsDone s m) ||
        (commitDone s m && ((crewsOf s).any (fun k => waits k.2.2) || !(commitHeld s id))) then .next (settleCommit s id)
    else .fault .notEnabled

def lostAct : Act := ifSome resendLost

/-- A sector leaves its memory-side cache (R172). Log entry 39 (DESIGN CHOICE). -/
def evictAct : Act := fun s =>
  match s.msc[Config.evict s.free % s.msc.length]? with
  | some e => .next (evictSector s e.1)
  | none => .fault .notEnabled

/-- Everything that may come about next; without power, only what comes from outside.
Log entries 2 (DESIGN CHOICE), 110 (DESIGN CHOICE). -/
def openActs (s : State) : List Act :=
  if !s.phase.lit then [envAct] else
  [envAct, tick] ++ (seats s).map (fun e => chooseSeat e.1 e.2) ++ loopActs s ++ (crewsOf s).flatMap crewActs ++ s.reqs.flatMap (reqActs s) ++
  s.cores.flatMap (fun c => coreActs c.1 c.2) ++
  (s.clusters.zipIdx).flatMap (fun q => s.cores.flatMap (fun c => (List.range 4).map (fun n => execClusterBarrierResume c.1 q.2 n))) ++
  wrActs s ++ s.grids.flatMap (fun g => gridActs g.1 g.2) ++ (if s.evWait.isEmpty then [] else [execEventQueueRetry 0, execEventQueueRetry 1]) ++
  [execDependencePoll, execSchedulerPlace, execClockStepComplete] ++ unitActs s ++ s.net.flatMap msgActs ++ moveActs s ++
  s.conns.flatMap (fun q => connActs q.1 q.2) ++ s.jobs.map jobAct ++ s.commits.map (fun m => commitAct m.id) ++ [lostAct, evictAct]

/-- The states that the acts give. -/
def nexts (s : State) : List Act → List State
  | [] => []
  | f :: t => match f s with
    | .next x => x :: nexts s t
    | _ => nexts s t

/-- One of the states that may follow: the only one, or the one that Config.pick names. A chip that is held in reset
stays as it is. Log entry 2 (DESIGN CHOICE). -/
def pickNext (s : State) : List State → State
  | [] => s
  | [t] => t
  | t :: l => let x := (t :: l).getD (Config.pick s.free % (l.length + 1)) t; { x with free := x.free + 1 }

/-! ## A word to run next -/

/-- The record of the grid that a lone word runs in: one privileged team of one crew. -/
def loneRecord : LaunchRec := { teams := 1, crews := 1, flags := 1, scratch := 4096, sz0 := 1 }

/-- A crew to run a word stands in slot 0 of core 1: the one that is there, or a new one. Log entry 4 (DEDUCED). -/
def loneCrew (s : State) : State :=
  if (s.crew 1 0).st == .resident && (s.crew 1 0).mask != 0 then s
  else
    let s := s.modCore 1 (fun o => { o with slots := tdel o.slots 0, ov0 := { id := 0 } })
    placeTeam { s with grids := tset s.grids 1 { lr := loneRecord, state := 2, teamsLeft := 1, nextTeam := 1, ready := true } } 1 0 0 1

/-- The bytes of a word stand at offset 0 of overlay slot 0 of core 1, every lane of its crew in slot 0 stands there, and
they are the path that runs next. Log entry 4 (DEDUCED). -/
def placeWord (s : State) (nbits w : Nat) : State :=
  let s := loneCrew s
  let s := s.modCrew 1 0 (fun k => forLanes k.mask (fun l k => (k.setPc l {}).setPark l .no) k)
  let s := s.modCore 1 (fun o => { o with ov0 := { id := 0, mem := Memory.write o.ov0.mem 0 (leBytes 16 (w % 2 ^ nbits)) } })
  { s with phase := .running, cur := some { core := 1, slot := 0, lanes := (s.crew 1 0).mask }, second := none }

end Sys2Proof.Machine
end

