-- ==== Sys2Proof/Machine/Step.lean ====
section
/-! DEFINITION. Machine/Step.lean: one step of the machine, and a word placed where the next step runs it. -/

namespace Sys2Proof.Machine

/-- One step: a path that has been chosen runs its word; else what is due comes about; else one of the things that may
come about does (log entry 2). -/
def step (s : State) : Host.Outcome State Fault Refusal :=
  match nextPathOf s with
  | some (i, t) => if pathStands t i then runPath t i else .next t
  | none =>
    match firstNext s (dueActs s) with
    | some t => .next t
    | none => .next (pickNext s (nexts s (openActs s)))

/-- The same state with a word where the next step fetches: a path of all lanes of a privileged crew in core 1 has been
chosen, and its PC stands at the word. Log entry 4 (DEDUCED). -/
def State.withFetchWord (s : State) (nbits w : Nat) : State := placeWord s nbits w

end Sys2Proof.Machine
end

