-- ==== Sys2Proof/Safety.lean ====
section
/-! DEFINITION. Safety.lean: the terms that the model's statements use: an instruction that completes, a word that
issues, what a state keeps. -/

namespace Sys2Proof.Machine

/-- exec gives a next state, and this holds of it. -/
def Completes (i : Instr) (s : State) (P : State → Prop) : Prop := ∃ t, exec i s = .next t ∧ P t

/-- A word with these operands, which writes the vector registers `dst`, issues on the path of `x`: the chip runs, the path
has been chosen and its guard holds in some lane, no marker waits (R25, R70), no lane breaks the latch rules (R27), and
the rows it writes can be had (R99) unless its value is stored compressed (R100). -/
structure Issues (s : State) (w : Op) (dst : List Nat) (comp : Bool) (x : Ctx) : Prop where
  path : ∃ i, s.cur = some i ∧ ctxOf s i = x
  runs : s.phase = .running
  on : x.on ≠ 0
  marker : (s.crew x.c x.k).atMarker x.h x.second = false
  latches : ∀ l ∈ lanesOf x.on, latchOk (s.crew x.c x.k) (latchesOf w) dst l = true
  rows : (comp && x.whole) = true ∨ rowsFree (s.core x.c) (s.crew x.c x.k) (rowsNeeded (s.crew x.c x.k) dst) = true

/-- The executing lanes of a lane's tile (R117). -/
def participants (x : Ctx) (t l : Nat) : List Nat := (lanesOf x.on).filter (fun j => j / t == l / t)

/-- A destination: a vector or uniform register or a predicate (R29, R106). -/
def Opd.writes : Opd → Bool
  | .v _ => true
  | .u _ => true
  | .sp _ => true
  | _ => false

/-- The PC of the word that follows (R24). -/
def Ctx.next (x : Ctx) : Pc := { x.pc with off := x.pc.off + x.h.form.bytes }

/-- The crew of a word. -/
def State.at (s : State) (x : Ctx) : Crew := s.crew x.c x.k

/-- The lanes of a path stand at the word that follows, the others where they stood (R24). -/
def MovesOn (s t : State) (x : Ctx) : Prop :=
  ∀ l, (t.at x).pcOf l = if l ∈ lanesOf x.path then x.next else (s.at x).pcOf l

/-- An outstanding result of this issue with a fixed latency, these writes and these event counts has been left (R26, R137). -/
def Leaves (s t : State) (x : Ctx) (lat : Nat) (wr : List Wr) (cs : List Nat := []) : Prop :=
  ∃ r ∈ (t.at x).results, r.id = s.nextId ∧ r.serial = x.serial ∧ r.wr = wr ∧ r.counts = cs ∧ r.ready = true ∧
    r.lo = s.clk + lat ∧ r.hi = some (s.clk + lat)

/-- One whose time has bounds (R141). -/
def LeavesLong (s t : State) (x : Ctx) (lo hi : Nat) (wr : List Wr) (cs : List Nat := []) : Prop :=
  ∃ r ∈ (t.at x).results, r.id = s.nextId ∧ r.serial = x.serial ∧ r.wr = wr ∧ r.counts = cs ∧ r.ready = true ∧
    r.lo = s.clk + lo ∧ r.hi = some (s.clk + hi)

/-- Nothing differs but one crew, its seat's slot and the numbers that the model gives out. -/
structure OnlyCrew (s t : State) (x : Ctx) : Prop where
  rest : { t with cores := s.cores, cur := s.cur, free := s.free, nextId := s.nextId } = s
  cores : ∀ c, c ≠ x.c → t.core c = s.core c
  core : { t.core x.c with slots := (s.core x.c).slots, busy := (s.core x.c).busy } = s.core x.c
  slots : ∀ k, k ≠ x.k → t.crew x.c k = s.crew x.c k

/-- A crew keeps its registers, predicates, flags, mode, lanes, rolls and whatever else it holds: only PCs, the age,
latches, rows and outstanding results may differ, and vector registers released by a last read (R101). -/
structure KeepsCrew (k k' : Crew) (last : List Nat) : Prop where
  v : ∀ n, n ∉ last → ∀ l, l < 32 → (k'.ent n).val l = (k.ent n).val l
  rest : { k' with pc := k.pc, since := k.since, latch := k.latch, vent := k.vent, rows := k.rows,
                   pendRel := k.pendRel, results := k.results } = k

/-- What a word that only leaves a result keeps: the rest of the chip, its crew's registers; and its lanes move on. -/
structure OnlyResult (s t : State) (x : Ctx) (last : List Nat) : Prop where
  only : OnlyCrew s t x
  keeps : KeepsCrew (s.at x) (t.at x) last
  moves : MovesOn s t x

/-- The executing lanes stand at these PCs, the path's other lanes at the word that follows, the rest where they stood. -/
def Goes (s t : State) (x : Ctx) (dest : Nat → Pc) : Prop :=
  ∀ l, (t.at x).pcOf l = if l ∈ lanesOf x.on then dest l else if l ∈ lanesOf x.path then x.next else (s.at x).pcOf l

/-- A word that only changes its crew, and of it nothing but what every word changes and what `upd` says, leaving no result. -/
structure OnlyTo (s t : State) (x : Ctx) (w : Op) (upd : Crew → Crew) : Prop where
  only : OnlyCrew s t x
  keeps : KeepsCrew (upd (s.at x)) (t.at x) (lastRegs x.h w 1 1 1)
  results : (t.at x).results = (s.at x).results

/-- The word that OFF16 names, and whether it lies in the slot (R79, R80). -/
def Ctx.near (x : Ctx) (w : Op) : Int := x.pc.off + 4 * off16 w
def Ctx.inSlot (x : Ctx) (w : Op) : Prop := 0 ≤ x.near w ∧ x.near w ≤ 65532
def Ctx.there (x : Ctx) (w : Op) : Pc := { x.pc with off := (x.near w).toNat }

/-- The PC that a code address names (R79). -/
def codeAt (ca : W32) : Pc := { slot := bf ca.toNat 0 1, id := bf ca.toNat 16 16, off := 4 * bf ca.toNat 2 14 }

/-- The lanes of a mask have trapped with this cause, code and address (R253): the trap record, the saved PC, and the PC at TRAPENT;
every other lane goes where `dest` says. -/
structure Traps (s t : State) (x : Ctx) (m : List Nat) (cause code : Nat) (dest : Nat → Pc) (addr : W64 := 0) : Prop where
  saved : ∀ l ∈ m, tget 0 (t.at x).trappc l = x.pc.addr ∧ tget 0 (t.at x).trapaddr l = addr ∧
    tget 0 (t.at x).trapinfo l = w32 (2 ^ 31 + x.lenCode % 4 * 2 ^ 24 + code * 2 ^ 16 + cause) ∧
    (t.at x).pcOf l = codeAt (s.at x).trapent
  others : ∀ l, l ∉ m → tget 0 (t.at x).trappc l = tget 0 (s.at x).trappc l ∧ tget 0 (t.at x).trapaddr l = tget 0 (s.at x).trapaddr l ∧
    tget 0 (t.at x).trapinfo l = tget 0 (s.at x).trapinfo l ∧ (t.at x).parkOf l = (s.at x).parkOf l ∧ (t.at x).pcOf l = dest l
  only : OnlyCrew s t x
  results : (t.at x).results = (s.at x).results

/-- What taking a trap may change of a crew. -/
def trapFields (k' k : Crew) : Crew :=
  { k with trappc := k'.trappc, trapaddr := k'.trapaddr, trapinfo := k'.trapinfo, park := k'.park, faults := k'.faults }

/-- Nothing that memory holds differs: DRAM, the memory-side cache, host memory, scratchpads, matrix tiles. -/
structure SameMemory (s t : State) : Prop where
  dram : t.dram = s.dram
  msc : t.msc = s.msc
  host : t.hostMem = s.hostMem
  scratch : ∀ c, (t.core c).scratch = (s.core c).scratch
  tiles : t.quads = s.quads

/-- The comparison that M names on an integer type (R105): signed for .i32 and .i64, unsigned for .n32 and .n64. -/
def intTest (ty m a b : Nat) : Bool :=
  let v (n : Nat) : Int := if ty = 12 then signedOf 64 n else if ty = 11 then signedOf 32 n else n
  match m with
  | 0 => v a = v b
  | 1 => v a ≠ v b
  | 2 => v a < v b
  | 3 => v a ≤ v b
  | 4 => v b < v a
  | _ => v b ≤ v a

/-- A word that reads and writes registers of these widths can issue. -/
def Ready (s : State) (x : Ctx) (w : Op) (n : Widths) (comp : Bool) : Prop :=
  Opd.writes w.d = true ∧ Issues s w (vdst w.d n.d) comp x

/-- The instruction completes and leaves, with a fixed latency, a value for D in every executing lane that stands in this
relation to its lane and to its sources A, B and C; nothing else changes but what every word changes. -/
def Gives (i : Instr) (s : State) (x : Ctx) (w : Op) (n : Widths) (lat : Nat) (comp : Bool)
    (value : Nat → Nat → Nat → Nat → Nat → Prop) : Prop :=
  ∃ t val, exec i s = .next t ∧ Leaves s t x lat (wrN x comp w.d n.d val) ∧
    (∀ l ∈ lanesOf x.on, value l (rdN s x w n.a w.a l) (rdN s x w n.b w.b l) (rdN s x w n.c w.c l) (val l)) ∧
    OnlyResult s t x (lastRegs x.h w n.a n.b n.c)

/-! ## Memory words -/

/-- The lanes a word computes for: with a uniform D the lowest executing lane alone (R106, R186). -/
def acting (x : Ctx) (d : Opd) : List Nat := if isU d then [x.low] else lanesOf x.on

/-- The byte offset of a word: IMM32, signed, where it has one (R185). -/
def offsetOf (x : Ctx) (w : Op) : Int := if x.h.form.imm32 then signedOf 32 (w.imm.toNat % 2 ^ 32) else 0

/-- Base, index and offset of a lane: B is an index, or a small signed offset (R185). -/
def sumOf (s : State) (x : Ctx) (w : Op) (base l : Nat) : Int :=
  base + (match w.b with | .im n => n.toInt | o => ((rd s x 0 o l).toNat : Int)) + offsetOf x w

/-- A lane's 64-bit address: base and index, modulo 2^64 (R185). -/
def addr64 (s : State) (x : Ctx) (w : Op) (l : Nat) : Nat := (sumOf s x w (rd64 s x x.h.form false 0 w.a l).toNat l % 2 ^ 64).toNat

/-- A lane's address in a 32-bit space (R185). -/
def addr32 (s : State) (x : Ctx) (w : Op) (l : Nat) : Nat := (sumOf s x w (rd s x 0 w.a l).toNat l % 2 ^ 32).toNat

/-- The width of a memory type, and how a load of it fills D (R186, R187). -/
def widthOf (ty : Nat) : Nat := match ty with | 9 => 1 | 13 => 1 | 10 => 2 | 14 => 2 | 18 => 8 | _ => 4
def fillOf (ty : Nat) : FillKind :=
  match ty with | 9 => .ext true 1 | 10 => .ext true 2 | 13 => .ext false 1 | 14 => .ext false 2 | 18 => .regs 2 | _ => .regs 1

/-- The low `n` bytes of a run of registers at D (R187). -/
def bytesAt (s : State) (x : Ctx) (w : Op) (n l : Nat) : List Byte :=
  ((rdRun s x w.d ((n + 3) / 4) l).flatMap (fun v => leBytes 4 v.toNat)).take n

/-- A scratchpad offset of a team lies within its run, whose lines have all arrived (R166). -/
def inRun (s : State) (c ts off n : Nat) : Prop :=
  off + n ≤ (s.team c ts).scratch ∧ absentLines (s.core c) ((s.team c ts).scrBase + off) n = []

/-- The byte that a list of writes leaves at an address: the last one stands (R169). -/
def lastOf (cells : List (Nat × Byte)) (a : Nat) (old : Byte) : Byte :=
  ((cells.filter (fun e => e.1 == a)).getLast?.map (·.2)).getD old

/-- Base and offset of an atomic word: B and C are operands, not indexes (R219). -/
def atom64At (s : State) (x : Ctx) (w : Op) (l : Nat) : Nat := ((((rd64 s x x.h.form false 0 w.a l).toNat : Int) + offsetOf x w) % 2 ^ 64).toNat
def atom32At (s : State) (x : Ctx) (w : Op) (l : Nat) : Nat := ((((rd s x 0 w.a l).toNat : Int) + offsetOf x w) % 2 ^ 32).toNat

/-- The accesses of an atomic word of `n` bytes in the lanes: aligned, and canonical, within the team's run, or within that of
the team at a rank of the cluster (R190, R220, R228). -/
inductive AtomAt (s : State) (x : Ctx) (w : Op) (n : Nat) : Place → (Nat → LaneAcc) → Prop
  | global (h : ∀ l ∈ acting x w.d, atom64At s x w l % n = 0 ∧ atom64At s x w l + n ≤ 2 ^ 57) :
      AtomAt s x w n .global (fun l => { lane := l, addr := atom64At s x w l, n })
  | scratch (g : (s.at x).guest = none) (h : ∀ l ∈ acting x w.d, atom32At s x w l % n = 0 ∧ inRun s x.c (s.at x).ts (atom32At s x w l) n) :
      AtomAt s x w n .scratch (fun l => { lane := l, addr := (s.team x.c (s.at x).ts).scrBase + atom32At s x w l, n, space := 1, tgt := x.c })
  | cluster (team : Nat → Nat × Nat) (g : (s.at x).guest = none)
      (h : ∀ l ∈ acting x w.d, atom32At s x w l % n = 0 ∧ rankTeam s x.c x.k (atom32At s x w l / 2 ^ 24) = some (team l) ∧
        inRun s (team l).1 (team l).2 (atom32At s x w l % 2 ^ 24) n) :
      AtomAt s x w n .cluster (fun l =>
        { lane := l, addr := (s.team (team l).1 (team l).2).scrBase + atom32At s x w l % 2 ^ 24, n, space := 1, tgt := (team l).1 })

/-- The line requests of some accesses, by the space and the core that they reach: space, core, line, pieces (R169, R190). -/
def wordLines (each : Bool) (l : List LaneAcc) : List (Nat × Nat × Nat × List Piece) :=
  ((l.map (fun y => (y.space, y.tgt))).eraseDups).flatMap (fun g =>
    (lineGroups each (l.filter (fun y => y.space == g.1 && y.tgt == g.2))).map (fun e => (g.1, g.2, e.1, e.2)))

/-- A request of a word, as it starts: whose it is, what it asks, the result it belongs to, its first stage. -/
structure Asking (s : State) (x : Ctx) (m : MemWord) (res : Nat) (q : Req) : Prop where
  crew : q.core = x.c ∧ q.slot = x.k ∧ q.uid = (s.at x).uid ∧ q.ctx = (s.at x).ctx ∧ q.ts = (s.at x).ts
  word : q.word = s.nextId ∧ q.pc = x.pc ∧ q.res = res
  acc : q.acc = m.acc ∧ q.width = m.width ∧ q.cp = m.cp ∧ q.nt = m.nt ∧ q.plain = m.plain
  fabric : q.atom = m.atom ∧ q.hostOk = m.hostOk ∧ q.fab = m.fab ∧ q.ord = m.ord ∧ q.rc = m.rc ∧ q.rel = m.rel
  stage : q.stage = if q.space = 0 then .look else if m.rel then .held else .scratch

/-- State `u` holds a memory word that has just started: its requests stand behind all others; where it has a result, this is
outstanding without its value, to be gathered in `m.kind` form for its lanes; where it releases or acquires, its crew's
orders end with its own; nothing else differs but what every word changes. A whole, uniform-producing load says so (R100). -/
structure Asked (s u : State) (x : Ctx) (m : MemWord) (res : Nat) (accs : List LaneAcc) (comp : Bool := false) : Prop where
  rest : OnlyCrew s { u with reqs := s.reqs, fills := s.fills } x
  keeps : KeepsCrew { s.at x with lasts := (u.at x).lasts, ords := (u.at x).ords } (u.at x) []
  moves : MovesOn s u x
  lines : ∃ new before, u.reqs = s.reqs ++ new ∧ new.map (fun q => (q.space, q.tgt, q.line, q.pieces)) = wordLines m.each accs ∧
    s.nextId < before ∧ (∀ q ∈ new, Asking s x m res q ∧ before ≤ q.id) ∧
    (u.at x).ords = (s.at x).ords ++ if (m.rel || m.acq) && !new.isEmpty then
      [{ rel := m.rel, acq := m.acq, scope := m.scope, lanes := maskOf (accs.map (·.lane)) ||| m.zero, pc := x.pc, len := x.lenCode
         before, after := .reqs (new.map (·.id)) }] else []
  long : m.long = true → (∃ r ∈ (u.at x).results, r.id = res ∧ r.serial = x.serial ∧ r.ready = false ∧
      r.vs = vdst m.dst m.kind.regCount ∧ r.us = udst m.dst m.kind.regCount) ∧
    (let lanes := maskOf (accs.map (·.lane)) ||| m.zero
     u.fills = s.fills ++ [{ res, core := x.c, slot := x.k, uid := (s.at x).uid, kind := m.kind, dst := m.dst, lanes
                             comp := if comp && x.whole && lanes == x.on then some lanes else none }])
  plain : m.long = false → res = 0 ∧ u.fills = s.fills ∧ (u.at x).results = (s.at x).results

/-- What follows a word's own effect: rows, latches, and nothing else of its crew or the chip. -/
structure EndsAs (u t : State) (x : Ctx) : Prop where
  only : OnlyCrew u t x
  keeps : KeepsCrew (u.at x) (t.at x) []
  pcs : ∀ l, (t.at x).pcOf l = (u.at x).pcOf l
  results : (t.at x).results = (u.at x).results

/-- The instruction completes as a memory word: it asks for these accesses, and its core's requests move on as far as they go. -/
def Asks (i : Instr) (s : State) (x : Ctx) (m : MemWord) (accs : List LaneAcc) (comp : Bool := false) : Prop :=
  ∃ u res t, exec i s = .next t ∧ Asked s u x m res accs comp ∧ EndsAs (closeFill (pump u x.c) res) t x

/-- Lanes of a word have split off with a cause that goes to the monitor first (R184, R252): they stand at the word, parked,
each with its record; one event of type 0x01 names the lowest; the other lanes move on. -/
structure Splits (s u : State) (x : Ctx) (lanes : List Nat) (cause : Nat) (addr : Nat → W64) : Prop where
  rest : OnlyCrew s { u with evq0 := s.evq0, evq1 := s.evq1 } x
  keeps : KeepsCrew { s.at x with park := (u.at x).park, faults := (u.at x).faults } (u.at x) []
  split : ∀ l, if l ∈ lanes then (u.at x).pcOf l = x.pc ∧ (u.at x).parkOf l = .fault ∧
      ∃ f, tget? (u.at x).faults l = some f ∧ f.cause = cause ∧ f.addr = addr l
    else (u.at x).pcOf l = (if l ∈ lanesOf x.path then x.next else (s.at x).pcOf l) ∧ (u.at x).parkOf l = (s.at x).parkOf l
  results : (u.at x).results = (s.at x).results
  event : let e := s.crewEvent x.c x.k 0x01 cause (maskOf lanes) (addr (lanes.headD 0)) x.pc.addr
    if x.c < 96 then u.evq0 = s.evq0 ++ [e] ∧ u.evq1 = s.evq1 else u.evq1 = s.evq1 ++ [e] ∧ u.evq0 = s.evq0

/-- The writes and flags of a float word from what each executing lane gives. -/
def floatWrites (x : Ctx) (comp : Bool) (d : Opd) (wd : Nat) (on : Bool) (val : Nat → FRes) : List Wr :=
  wrN x comp d wd (fun l => (val l).val) ++
    flWr on ((lanesOf x.on).map (fun l => (l, (val (if isU d then x.low else l)).fl)))

/-- The events that a float word counts where FPMODE.CNT is set: once with a uniform D, else in every executing lane. -/
def floatCounts (x : Ctx) (d : Opd) (on : Bool) (val : Nat → FRes) : List Nat :=
  if on then (if isU d then [x.low] else lanesOf x.on).flatMap (fun l => (val l).counts) else []

/-- The float instruction completes and leaves, with a fixed latency, for each executing lane a value, flags and counts that
stand in this relation to its sources A, B and C; nothing else changes. -/
def GivesF (i : Instr) (s : State) (x : Ctx) (w : Op) (lat : Nat) (value : Nat → Nat → Nat → FRes → Prop) : Prop :=
  let u := uniformProducing w
  ∃ t val, exec i s = .next t ∧
    Leaves s t x lat (floatWrites x u w.d 1 (s.at x).flOn val) (floatCounts x w.d (s.at x).cntOn val) ∧
    (∀ l ∈ lanesOf x.on, value (rdF s x w.imm w.ty w.a l) (rdF s x w.imm w.ty w.b l) (rdF s x w.imm w.ty w.c l) (val l)) ∧
    OnlyResult s t x (lastRegs x.h w 1 1 1)

/-! ## System words and engines -/

/-- The instruction completes: but for what every word changes of its crew (PCs, latches, rows, results) the next state
is `u`, its lanes move on, and this holds of its crew's outstanding results. -/
def Does (i : Instr) (s u : State) (x : Ctx) (w : Op) (P : List Result → Prop) : Prop :=
  Completes i s fun t => OnlyCrew u t x ∧ KeepsCrew (u.at x) (t.at x) (lastRegs x.h w 16 16 16) ∧ MovesOn s t x ∧ P (t.at x).results

/-- No result has been left. -/
def NoneLeft (s : State) (x : Ctx) (rs : List Result) : Prop := rs = (s.at x).results

/-- A long-latency result with these writes has been left; its value has come (R25). -/
def LongLeft (s : State) (x : Ctx) (wr : List Wr) (rs : List Result) : Prop :=
  ∃ r ∈ rs, s.nextId ≤ r.id ∧ r.serial = x.serial ∧ r.ready = true ∧ r.hi = none ∧ r.wr = wr

/-- A long-latency result has been left under this number, for a run of registers at D, whose value is still to come. -/
def OpenLeft (x : Ctx) (id : Nat) (d : Opd) (n : Nat) (rs : List Result) : Prop :=
  ∃ r ∈ rs, r.id = id ∧ r.serial = x.serial ∧ r.ready = false ∧ r.hi = none ∧ r.wr = [] ∧ r.vs = vdst d n ∧ r.us = udst d n

/-- The instruction completes and leaves its status in D as a long-latency result; the chip is changed to `u`. -/
def Answers (i : Instr) (s u : State) (x : Ctx) (w : Op) (v : Nat) : Prop := Does i s u x w (LongLeft s x (wrOf x false w.d (fun _ => w32 v)))

/-- The instruction completes with a job that gives its result of `n` registers later; the chip is changed to `u`. -/
def Starts (i : Instr) (s u : State) (x : Ctx) (w : Op) (n : Nat) (kind : JobKind) : Prop :=
  Does i s { u with jobs := u.jobs ++ [{ id := u.nextId + 1, core := x.c, slot := x.k, uid := (s.at x).uid, res := u.nextId, d := w.d, kind }] } x w
    (OpenLeft x u.nextId w.d n)

/-- The instruction completes with an incomplete order of its lanes, which waits until what precedes it is performed (R209);
the chip is changed to `u`. -/
def Orders (i : Instr) (s u : State) (x : Ctx) (w : Op) (o : Ord) (P : List Result → Prop) : Prop :=
  Does i s (u.modCrew x.c x.k (fun k => { k with ords := k.ords ++ [{ o with pc := x.pc, len := x.lenCode }] })) x w P

/-- The instruction completes with its executing lanes parked by a wait `q`, which names for each lane that reads an access, a
value to compare with and a mask; the others wait with them; a read of each line is on its way (R92, R220, R224, R351). -/
def Waits (i : Instr) (s : State) (x : Ctx) (w : Op) (dst : List Nat) (q : Wait) (acc : Nat → LaneAcc) (cmp mask : Nat → W64)
    (lanes : List Nat := lanesOf x.on) : Prop :=
  let k := s.at x
  Issues s w dst false x →
    ∃ u t, exec i s = .next t ∧ OnlyCrew (pump u x.c) t x ∧ KeepsCrew ((pump u x.c).at x) (t.at x) (lastRegs x.h w 2 2 2) ∧
      OnlyCrew s { u with reqs := s.reqs, fills := s.fills } x ∧ Goes s u x (fun _ => x.next) ∧
      KeepsCrew { k with park := (u.at x).park, waits := (u.at x).waits } (u.at x) [] ∧
      (∀ l, (u.at x).parkOf l = if l ∈ lanesOf x.on then .wait s.nextId else k.parkOf l) ∧
      (∃ v, (u.at x).waits = k.waits ++ [v] ∧
        { v with addrs := [], cmp := [], mask := [] } =
          { q with id := s.nextId, res := s.nextId + 1, lanes := maskOf lanes, also := x.on &&& ~~~(maskOf lanes), pc := x.pc,
                   len := x.lenCode, since := s.clk } ∧
        ∀ l ∈ lanes, tget? v.addrs l = some (w64 (acc l).addr) ∧ tget? v.cmp l = some (cmp l) ∧ tget? v.mask l = some (mask l)) ∧
      ∃ new, u.reqs = s.reqs ++ new ∧ new.map (fun r => (r.line, r.pieces)) =
          lineGroups false (lanes.map (fun l => { acc l with addr := (acc l).addr % 2 ^ 64 })) ∧
        ∀ r ∈ new, r.acc = .wait s.nextId ∧ r.core = x.c ∧ r.slot = x.k ∧ r.res = s.nextId + 1 ∧
          r.stage = if (acc x.low).space = 1 then .scratch else .look

/-! ## Copy engines -/

/-- A range of `n` bytes of a space, and the address under which the engine holds it (R335, R336). -/
def Lies (s : State) (x : Ctx) (space a n r : Nat) : Prop :=
  let within (c ts off : Nat) : Prop :=
    (n = 0 ∨ off + n ≤ (s.team c ts).scratch) ∧ r = c * 2 ^ 32 + (s.team c ts).scrBase + off
  if space = 0 then r = a % 2 ^ 64
  else a < 2 ^ 32 ∧ (s.at x).guest = none ∧
    if space = 1 then within x.c (s.at x).ts a
    else ∃ t, rankTeam s x.c x.k (a / 2 ^ 24) = some t ∧ within t.1 t.2 (a % 2 ^ 24)

/-- A result with a fixed latency and these writes has been left. -/
def FixedLeft (s : State) (x : Ctx) (lat : Nat) (wr : List Wr) (rs : List Result) : Prop :=
  ∃ r ∈ rs, r.id = s.nextId ∧ r.serial = x.serial ∧ r.ready = true ∧ r.lo = s.clk + lat ∧ r.hi = some (s.clk + lat) ∧ r.counts = [] ∧ r.wr = wr

/-- The instruction does not issue: its crew is to leave for the pending set and try again, and the seat's slot is free in
this clock (R64, R65, R333). -/
def Retries (i : Instr) (s : State) (x : Ctx) : Prop :=
  Completes i s fun t => t.cur = none ∧ OnlyCrew s { t with cur := s.cur } x ∧ t.at x = { s.at x with leaving := true } ∧
    (x.second = false → tget 0 (t.core x.c).busy (x.k % 4) = s.clk)

/-- The instruction completes with its executing lanes split off with this cause, and does nothing else. -/
def Refuses (i : Instr) (s : State) (x : Ctx) (cause : Nat) : Prop :=
  ∃ u t, exec i s = .next t ∧ Splits s u x (lanesOf x.on) cause (fun _ => 0) ∧ EndsAs u t x

/-- A copy word's operation has been queued (R333, R334, R338): it stands last in its core's queue under the core's ticket, the
ticket rises by 1, the lines it claims lose their presence bits, and D receives the ticket in 4 clk; beside this the chip
is changed to `u`. -/
def Queues (i : Instr) (s u : State) (x : Ctx) (w : Op) (o : CopyOp) : Prop :=
  Does i s (claimLines (u.modCore x.c (fun q => { q with copies := q.copies ++ [o], ticket := q.ticket + 1 })) o.claims) x w
    (FixedLeft s x 4 (wrOf x false w.d (fun _ => (s.core x.c).ticket)))

end Sys2Proof.Machine
end

