-- ==== Sys2Proof/Certificates/Slice0/Obligations.lean ====
section
/-! DEFINITION. Certificates/Slice0/Obligations.lean: the statements about the model, family by family. -/

section
open Sys2Proof Sys2Proof.Machine

/-! ## Integer words (spec/04_integer.md) -/

/-- R108: IADD, ISUB, IMUL, IMULH, IMAD, IMIN, IMAX, IABS and INEG complete, with the latencies of R107, and each element of D is
the word's value of the elements of A, B and C, clamped to the range of TYPE with .sat, modulo 2^w. The model's own choices
here: log entries 19, 20 and 25. -/
def Obligations.ElementArithmetic : Prop :=
  ∀ (w : Op) (s : State) (x : Ctx), w.ty ∈ [9, 10, 11, 13, 14, 15] → Ready s x w {} (uniformProducing w) →
    let W := if w.ty = 9 ∨ w.ty = 13 then 8 else if w.ty = 10 ∨ w.ty = 14 then 16 else 32
    let sg := w.ty ≤ 12
    let E (v e : Nat) : Int := if sg then signedOf W (bf v (W * e) W) else bf v (W * e) W
    let lo : Int := if sg then -2 ^ (W - 1) else 0
    let hi : Int := if sg then 2 ^ (W - 1) - 1 else 2 ^ W - 1
    let sat := bit w.m 0
    ∀ r ∈ ([(.iadd w, 4, sat, fun a b _ => a + b), (.isub w, 4, sat, fun a b _ => a - b), (.imul w, 6, sat, fun a b _ => a * b),
            (.imulh w, 6, false, fun a b _ => a * b / 2 ^ 32), (.imad w, 6, sat, fun a b c => a * b + c),
            (.imin w, 4, false, fun a b _ => min a b), (.imax w, 4, false, fun a b _ => max a b),
            (.iabs w, 4, sat, fun a _ _ => |a|), (.ineg w, 4, sat, fun a _ _ => -a)] :
            List (Instr × Nat × Bool × (Int → Int → Int → Int))),
      Gives r.1 s x w {} r.2.1 (uniformProducing w) fun _ a b c v => ∀ e, e < 32 / W →
        let t := r.2.2.2 (E a e) (E b e) (E c e)
        (bf v (W * e) W : Int) = (if r.2.2.1 then max lo (min hi t) else t) % 2 ^ W

/-- R109: ADD64, SUB64 and MAD64 complete; the 64-bit value is the sum, difference or product and sum, clamped to the range of
TYPE with .sat (ADD64 and SUB64 alone), modulo 2^64. The model's own choices here: log entries 19, 20, 21 and 25. -/
def Obligations.PairArithmetic : Prop :=
  ∀ (w : Op) (s : State) (x : Ctx),
    let sg := w.ty ≤ 12
    let I (n v : Nat) : Int := if sg then signedOf n v else v
    let lo : Int := if sg then -2 ^ 63 else 0
    let hi : Int := if sg then 2 ^ 63 - 1 else 2 ^ 64 - 1
    let clip (t : Int) : Int := if bit w.m 0 then max lo (min hi t) else t
    (w.ty ∈ [12, 16] → Ready s x w { d := 2, a := 2, b := 2, c := 2 } (uniformProducing w) →
      Gives (.add64 w) s x w { d := 2, a := 2, b := 2, c := 2 } 4 (uniformProducing w)
        (fun _ a b _ v => (v : Int) = clip (I 64 a + I 64 b) % 2 ^ 64) ∧
      Gives (.sub64 w) s x w { d := 2, a := 2, b := 2, c := 2 } 4 (uniformProducing w)
        (fun _ a b _ v => (v : Int) = clip (I 64 a - I 64 b) % 2 ^ 64)) ∧
    (w.ty ∈ [11, 15] → Ready s x w { d := 2, c := 2 } (uniformProducing w) →
      Gives (.mad64 w) s x w { d := 2, c := 2 } 8 (uniformProducing w)
        (fun _ a b c v => (v : Int) = (I 32 a * I 32 b + I 64 c) % 2 ^ 64))

/-- R110: AND, OR, XOR, NOT, SHL, SHR, SHRA, ROT, POPC, CLZ and BREV complete in 4 clk with the values of the table, W being 32 or
64 by TYPE and k being B. The model's own choices here: log entries 19, 20, 21 and 25. -/
def Obligations.LogicAndShifts : Prop :=
  ∀ (w : Op) (s : State) (x : Ctx),
    let u := uniformProducing w
    let N := if w.w64 then 2 else 1
    let W := 32 * N
    let nb (b : Nat) : Nat := if bit w.m 0 then 2 ^ W - 1 - b else b
    (Ready s x w (same w) u →
      Gives (.andW w) s x w (same w) 4 u (fun _ a b _ v => v = a &&& nb b) ∧
      Gives (.orW w) s x w (same w) 4 u (fun _ a b _ v => v = a ||| nb b) ∧
      Gives (.xorW w) s x w (same w) 4 u (fun _ a b _ v => v = a ^^^ nb b) ∧
      Gives (.notW w) s x w (same w) 4 u (fun _ a _ _ v => v = 2 ^ W - 1 - a) ∧
      Gives (.brev w) s x w (same w) 4 u (fun _ a _ _ v => ∀ i, i < W → bit v (W - 1 - i) = bit a i)) ∧
    (Ready s x w (sameAD w) u →
      Gives (.shl w) s x w (sameAD w) 4 u (fun _ a k _ v => v = if W ≤ k then 0 else a * 2 ^ k % 2 ^ W) ∧
      Gives (.shr w) s x w (sameAD w) 4 u (fun _ a k _ v => v = if W ≤ k then 0 else a / 2 ^ k) ∧
      Gives (.shra w) s x w (sameAD w) 4 u (fun _ a k _ v =>
        (v : Int) = if W ≤ k then (if bit a (W - 1) then 2 ^ W - 1 else 0) else signedOf W a / 2 ^ k % 2 ^ W)) ∧
    (Ready s x w (sameA w) u →
      Gives (.popc w) s x w (sameA w) 4 u (fun _ a _ _ v => v = ((List.range W).filter (fun i => bit a i)).length) ∧
      Gives (.clz w) s x w (sameA w) 4 u (fun _ a _ _ v =>
        if a = 0 then v = W else v < W ∧ 2 ^ (W - 1 - v) ≤ a ∧ a < 2 ^ (W - v))) ∧
    (Ready s x w {} u →
      Gives (.rot w) s x w {} 4 u (fun _ a k _ v => ∀ i, i < 32 →
        bit v ((if bit w.m 0 then i + 32 - k % 32 else i + k) % 32) = bit a i))

/-- R111: BFX, BFI, PRMB and SEL complete in 4 clk. BFX takes bits pos to pos + len - 1 of A, extended from bit len - 1; BFI puts
the low len bits of A at pos in C; PRMB picks bytes of B:A; SEL picks A or B by the predicate that M names. The model's own
choices here: log entries 19, 20, 21 and 25. -/
def Obligations.FieldsAndSelection : Prop :=
  ∀ (w : Op) (s : State) (x : Ctx),
    let u := uniformProducing w
    let pos (b : Nat) : Nat := b % 256
    let len (b : Nat) : Nat := min (b / 256 % 256) 32
    (Ready s x w {} u →
      (w.ty ∈ [11, 15] → Gives (.bfx w) s x w {} 4 u (fun _ a b _ v =>
        let sg : Bool := w.ty = 11
        let f (i : Nat) : Bool := if pos b + i < 32 then bit a (pos b + i) else sg && bit a 31
        ∀ i, i < 32 → bit v i = (if len b = 0 then false else if i < len b then f i else sg && f (len b - 1)))) ∧
      Gives (.bfi w) s x w {} 4 u (fun _ a b c v =>
        ∀ i, i < 32 → bit v i = if pos b ≤ i ∧ i < pos b + len b then bit a (i - pos b) else bit c i) ∧
      Gives (.prmb w) s x w {} 4 u (fun _ a b c v => ∀ i, i < 4 →
        let y := bf (b * 2 ^ 32 + a) (8 * bf c (4 * i) 3) 8
        bf v (8 * i) 8 = if bit c (4 * i + 3) then (if bit y 7 then 255 else 0) else y)) ∧
    (Ready s x w (same w) false →
      Gives (.sel w) s x w (same w) 4 false (fun l a b _ v => v = if readQ s x w.m l then a else b))

/-- R112, R105: ICMP writes the comparison of A with B to its predicate, combined with qC as OPT says; ISET writes 1 or 0, or ones
or 0 in every bit. Signed for .i types. The model's own choices here: log entries 19, 20, 21 and 25. -/
def Obligations.Comparisons : Prop :=
  ∀ (w : Op) (s : State) (x : Ctx),
    let u := uniformProducing w
    let test := intTest w.ty w.m
    w.ty ∈ [11, 12, 15, 16] → w.m < 6 →
    (Ready s x w { same w with d := 1, c := 1 } u →
      Gives (.icmp w) s x w { same w with d := 1, c := 1 } 4 u (fun _ a b c v =>
        let q := c ≠ 0
        v = b2n (match w.opt with
          | 0 => test a b | 1 => test a b && q | 2 => test a b || q | _ => test a b ^^ q))) ∧
    (Ready s x w (same w) u →
      Gives (.iset w) s x w (same w) 4 u (fun _ a b _ v =>
        v = if test a b then (if w.mb 9 then (if w.w64 then 2 ^ 64 - 1 else 2 ^ 32 - 1) else 1) else 0))

/-- R113, R115: LEA adds B shifted by M to A; MOV copies A; MOVI writes its immediate; VBCAST writes lane B mod 32 of A to every
executing lane; V2S writes that lane, or the lowest executing lane, to a uniform register. MOVI and VBCAST are
uniform-producing. The model's own choices here: log entries 19, 20, 21 and 25. -/
def Obligations.MovesAndLea : Prop :=
  ∀ (w : Op) (s : State) (x : Ctx),
    let u := uniformProducing w
    let W := if w.w64 then 64 else 32
    (Ready s x w (sameAD w) u → Gives (.lea w) s x w (sameAD w) 4 u (fun _ a b _ v => v = (a + b * 2 ^ w.m) % 2 ^ W)) ∧
    (Ready s x w (same w) u → Gives (.mov w) s x w (same w) 2 u (fun _ a _ _ v => v = a)) ∧
    (Ready s x w (same w) true → Gives (.movi w) s x w (same w) 2 true (fun _ _ _ _ v => v = w.imm.toNat % 2 ^ W)) ∧
    (Ready s x w { same w with b := 1 } true → Gives (.vbcast w) s x w { same w with b := 1 } 4 true
      (fun _ _ b _ v => v = rdN s x w (same w).a w.a (b % 32))) ∧
    (Ready s x w { same w with b := 1 } u → Gives (.v2s w) s x w { same w with b := 1 } 4 u
      (fun _ _ b _ v => v = rdN s x w (same w).a w.a (if w.mb 0 then x.low else b % 32)))

/-- R116, R121: PAND, POR, PXOR, PNOT, P2V, V2P, ULOOP, UCMP and UAND complete in 2 clk with the values of the rules. R121: UMOV
copies a run of uniform registers, all read before any is written. -/
def Obligations.PredicatesAndUniform : Prop :=
  (∀ (w : Op) (s : State) (x : Ctx),
     let u := uniformProducing w
     let na (a : Nat) : Bool := (a != 0) != w.mb 0
     let nb (b : Nat) : Bool := (b != 0) != w.mb 1
     Ready s x w {} u → (w.ty ∈ [11, 15] → w.m < 6 →
         Gives (.ucmp w) s x w {} 2 u (fun _ a b _ v => v = b2n (intTest w.ty w.m a b))) ∧
       Gives (.pand w) s x w {} 2 u (fun _ a b _ v => v = b2n (na a && nb b)) ∧
       Gives (.por w) s x w {} 2 u (fun _ a b _ v => v = b2n (na a || nb b)) ∧
       Gives (.pxor w) s x w {} 2 u (fun _ a b _ v => v = b2n (na a ^^ nb b)) ∧
       Gives (.pnot w) s x w {} 2 u (fun _ a _ _ v => v = b2n (a == 0)) ∧
       Gives (.p2v w) s x w {} 2 u (fun _ a _ _ v =>
         if w.mb 0 then ∀ i, i < 32 → (bit v i = true ↔ i ∈ lanesOf x.on ∧ rd s x 0 w.a i ≠ 0) else v = a) ∧
       Gives (.v2p w) s x w {} 2 u (fun l a _ _ v => v = if w.mb 0 then bf a l 1 else b2n (a != 0)) ∧
       Gives (.uloop w) s x w {} 2 u (fun _ a b _ v => v = if b ≤ (a + 1) % 2 ^ 32 then 0 else (a + 1) % 2 ^ 32) ∧
       Gives (.uand w) s x w {} 2 u (fun _ a _ _ v => v = a &&& x.on.toNat)) ∧
  (∀ (w : Op) (s : State) (x : Ctx) (r q : BitVec 9), Issues s w [] false x → w.d = .u r → w.a = .u q →
     let n := 2 ^ w.opt * (if w.w64 then 2 else 1)
     r.toNat + n ≤ 512 → q.toNat + n ≤ 512 →
     Completes (.umov w) s fun t =>
       Leaves s t x 2 ((List.range n).map (fun i => Wr.u (r.toNat + i) (readU s x (q.toNat + i)))) ∧
       OnlyResult s t x (lastRegs x.h w 1 1 1))

/-! ## Cross-lane words -/

/-- R118: SHFL completes in 6 clk. A lane receives A of lane j of its tile, or its own A where j lies outside and .wrap is not
given; D2 says whether the lane read lies inside the tile and executes the word. The model's own choices here: log entry 21. -/
def Obligations.Shuffle : Prop :=
  ∀ (w : Op) (s : State) (x : Ctx), Ready s x w { d := if w.w64 then 2 else 1 } (uniformProducing w) → w.opt < 4 →
    let n := if w.w64 then 2 else 1
    let t := x.tile
    t ∈ [1, 2, 4, 8, 16, 32] →
    let j (l : Nat) : Int :=
      let i := l % t
      let d := (rd s x w.imm w.b l).toNat
      match w.opt with
      | 0 => (d % t : Nat) | 1 => (i : Int) - d | 2 => (i : Int) + d | _ => (i ^^^ d % t : Nat)
    let inside (l : Nat) : Bool := (0 ≤ j l ∧ j l < t) ∨ w.mb 0
    let from_ (l : Nat) : Nat := if inside l then l / t * t + (j l % t).toNat else l
    Completes (.shfl w) s fun r =>
      Leaves s r x 6 (wrN x (uniformProducing w) w.d n (fun l => rdN s x w n w.a (from_ l)) ++
        wrOf x false w.d2 (fun l => if inside l ∧ from_ l ∈ lanesOf x.on then 1 else 0)) ∧
      OnlyResult s r x (lastRegs x.h w n 1 1)

/-- R117, R119: VOTE, FFL and MATCH complete when their lanes are converged (R78) and a uniform D comes with a tile of 32; every
participant of a tile receives its tile's result. The model's own choices here: log entries 19, 21 and 26. -/
def Obligations.VotesAndMatches : Prop :=
  ∀ (w : Op) (s : State) (x : Ctx),
    let t := x.tile
    let u := uniformProducing w && t == 32
    let n := if w.w64 then 2 else 1
    let part := participants x t
    let yes (l : Nat) : List Nat := (part l).filter (fun j => rd s x 0 w.a j != 0)
    Ready s x w {} u → t ∈ [1, 2, 4, 8, 16, 32] → notConverged x t = false → (isU w.d = true → t = 32) →
    (Completes (.vote w) s fun r =>
      Leaves s r x 4 (wrOf x u w.d (fun l =>
        match w.opt with
        | 0 => if yes l = [] then 0 else 1
        | 1 => if yes l = part l then 1 else 0
        | 2 => if yes l = [] ∨ yes l = part l then 1 else 0
        | _ => maskOf (yes l))) ∧
      OnlyResult s r x (lastRegs x.h w 1 1 1)) ∧
    (Completes (.ffl w) s fun r =>
      Leaves s r x 4 (wrOf x u w.d (fun l =>
        match if w.mb 0 then (yes l).getLast? else (yes l).head? with
        | some j => w32 j
        | none => 0xFFFFFFFF)) ∧
      OnlyResult s r x (lastRegs x.h w 1 1 1)) ∧
    (Completes (.matchW w) s fun r =>
      Leaves s r x 8 (wrOf x u w.d (fun l => maskOf ((part l).filter (fun j => rdN s x w n w.a j == rdN s x w n w.a l)))) ∧
      OnlyResult s r x (lastRegs x.h w n 1 1))

/-- R120: REDX and SCANX complete under the conditions of R117. On integers (8 clk) the sum of the participants (for SCANX those
up to the lane, or before it with .excl) is exact and then saturated or taken modulo 2^32, .min and .max give the least and
the greatest, .and, .or and .xor combine bits, and no participant gives the identity. On .f32 (12 clk) the values are those of
the fixed tree, and its flags go to every participant. The model's own choices here: log entries 19 and 33. -/
def Obligations.Reductions : Prop :=
  ∀ (w : Op) (s : State) (x : Ctx),
    let t := x.tile
    let u := uniformProducing w && t == 32
    let part := participants x t
    let src (j : Nat) : Nat := (rd s x 0 w.a j).toNat
    let I (j : Nat) : Int := if w.ty = 11 then signedOf 32 (src j) else src j
    let total (ls : List Nat) : Nat :=
      match w.m with
      | 0 => let v := (ls.map I).sum
             wrapInt 32 (if bit w.opt 0 then clampTo (w.ty == 11) 32 v else v)
      | 1 => wrapInt 32 (ls.foldl (fun a j => min a (I j)) (if w.ty = 11 then 2 ^ 31 - 1 else 2 ^ 32 - 1))
      | 2 => wrapInt 32 (ls.foldl (fun a j => max a (I j)) (if w.ty = 11 then -2 ^ 31 else 0))
      | 3 => ls.foldl (fun a j => a &&& src j) (2 ^ 32 - 1)
      | 4 => ls.foldl (fun a j => a ||| src j) 0
      | _ => ls.foldl (fun a j => a ^^^ src j) 0
    let tile (l : Nat) : List Part :=
      (List.range t).map (fun i => if l / t * t + i ∈ lanesOf x.on then some ((src (l / t * t + i) : Int), 0) else none)
    let tree (scan : Bool) (l : Nat) : Int × Fl := redValue scan (scan && bit w.opt 1) w.m 0 t (l % t) (tile l)
    let float (scan : Bool) : List Wr := wrOf x (u && !scan) w.d (fun l => w32 (wrapInt 32 (tree scan l).1)) ++
      flWr (s.at x).flOn ((lanesOf x.on).map (fun l => (l, (tree scan l).2)))
    let done (i : Instr) (lat : Nat) (wr : List Wr) : Prop := Completes i s fun r =>
      ∃ cs, Leaves s r x lat wr cs ∧ OnlyResult s r x (lastRegs x.h w 1 1 1)
    Ready s x w {} false → t ∈ [1, 2, 4, 8, 16, 32] → notConverged x t = false → (isU w.d = true → t = 32) →
    (w.m ≤ 2 ∧ w.ty ∈ [11, 15] ∧ (w.m = 0 ∨ bit w.opt 0 = false) ∨ w.m ∈ [3, 4, 5] ∧ w.ty = 17 ∧ bit w.opt 0 = false →
      done (.redx w) 8 (wrOf x u w.d (fun l => w32 (total (part l)))) ∧
      done (.scanx w) 8 (wrOf x false w.d (fun l => w32 (total ((part l).filter (fun j => if bit w.opt 1 then j < l else j ≤ l)))))) ∧
    (w.m ≤ 2 → w.ty = 0 → bit w.opt 0 = false → done (.redx w) 12 (float false) ∧ done (.scanx w) 12 (float true))

/-! ## Floating point (spec/05_float.md) -/

/-- R142, R143, R147, R141: FADD, FSUB, FMUL and FFMA give the exact sum, difference, product and product with sum of their
flushed sources, in each element of TYPE, rounded once by RND (R132), with R142's NaN, infinity and zero-sign rules, .sat,
flags and counts; FMIN to FMED3 give the source that R143's order picks; FSAT clamps to 0 to 1; FRND gives the integer next to
A that RND names; FFRX the significand, or the exponent. Latencies are R141's; %fl is written where FPMODE.FL is set, and
events are counted where FPMODE.CNT is. The model's own choices here: log entries 19, 31 and 32. -/
def Obligations.FloatWords : Prop :=
  ∀ (w : Op) (s : State) (x : Ctx), w.ty ∈ [0, 1, 2, 20, 21] → Ready s x w {} (uniformProducing w) →
    let mode := (s.at x).fpmode.toNat
    let rnd := if w.m % 8 = 0 then bf mode 0 3 else w.m % 8
    let f := if w.ty = 20 then 1 else if w.ty = 21 then 2 else w.ty
    let flush := bit mode (if f = 0 then 4 else 5)
    let one := if f = 0 then 0x3F800000 else if f = 1 then 0x3C00 else 0x3F80
    let places : List Nat := if w.ty = 20 ∨ w.ty = 21 then [0, 16] else [0]
    let num (y : XR) : ℚ := match y with
      | .fin g n e _ => (if g then -1 else 1) * n * 2 ^ e
      | _ => 0
    let src (v h : Nat) : XR := decodeF f flush (bf v h (if f = 0 then 32 else 16))
    let pattern (y : XR) : Nat := (roundTo false y f 1 false).1
    let sat (r : Nat) : Nat := let y := decodeF f false r
      if y.isNan = true ∨ y.isNeg = true ∨ y.isZero = true then 0 else if y.isInf = true ∨ 1 < num y then one else r
    let nans (r : Nat) : List Nat := if (decodeF f false r).isNan then [f * 4] else []
    let word (i : Instr) (lat : Nat) (el : XR → XR → XR → Nat → Fl → List Nat → Prop) : Prop :=
      GivesF i s x w lat fun a b c q => ∃ (r : Nat → Nat) (fl : Nat → Fl) (cs : Nat → List Nat),
        (∀ h ∈ places, el (src a h) (src b h) (src c h) (r h) (fl h) (cs h)) ∧
        q.val = (places.map (fun h => r h * 2 ^ h)).sum ∧ q.fl = places.foldl (fun v h => v ||| fl h) 0 ∧ q.counts = places.flatMap cs
    let sum (l : List XR) (y : XR) (nv : Fl) : Prop :=
      if .inf false ∈ l ∧ .inf true ∈ l then y = .nan ∧ nv = flNV
      else nv = 0 ∧ if .inf false ∈ l then y = .inf false else if .inf true ∈ l then y = .inf true
        else ∃ g n e, y = .fin g n e false ∧ num y = (l.map num).sum ∧
          (n = 0 → g = if ∀ z ∈ l, num z = 0 ∧ z.isNeg = true then true else if ∀ z ∈ l, num z = 0 ∧ z.isNeg = false then false else rnd == 3)
    let product (a b y : XR) (nv : Fl) : Prop :=
      if a.isInf = true ∧ b.isZero = true ∨ a.isZero = true ∧ b.isInf = true then y = .nan ∧ nv = flNV
      else nv = 0 ∧ if a.isInf = true ∨ b.isInf = true then y = .inf (a.isNeg != b.isNeg)
        else ∃ n e, y = .fin (a.isNeg != b.isNeg) n e false ∧ num y = num a * num b
    let rounded (inf : Bool) (ok : XR → Fl → Prop) (r : Nat) (fl : Fl) (cs : List Nat) : Prop := ∃ y nv, ok y nv ∧
      let o := roundTo flush y f rnd false
      r = (if bit w.m 3 then sat o.1 else o.1) ∧ fl = o.2 ||| nv ∧
      cs = nans r ++ (if (decodeF f false r).isInf && !inf then [f * 4 + 1] else []) ++
        (if fl.getLsbD 2 then [f * 4 + 2] else []) ++ (if fl.getLsbD 1 then [f * 4 + 3] else [])
    let neg (i : Nat) (y : XR) : XR := if bit w.opt i then y.negate else y
    let adds (i : Instr) (minus : Bool) : Prop := word i 6 fun a b _ => rounded (a.isInf || b.isInf) fun y nv =>
      if a.isNan = true ∨ b.isNan = true then y = .nan ∧ nv = 0 else sum [neg 0 a, if minus then (neg 1 b).negate else neg 1 b] y nv
    let below (a b : XR) : Bool := decide (a = .inf true ∧ b ≠ .inf true ∨ b = .inf false ∧ a ≠ .inf false ∨
      a.isInf = false ∧ b.isInf = false ∧ (num a < num b ∨ num a = num b ∧ a.isNeg = true ∧ b.isNeg = false))
    let lo (a b : XR) : XR := if a.isNan then b else if b.isNan then a else if below b a then b else a
    let hi (a b : XR) : XR := if a.isNan then b else if b.isNan then a else if below b a then a else b
    let picks (i : Instr) (g : XR → XR → XR → XR) : Prop := word i 4 fun a b c r fl cs => r = pattern (g a b c) ∧ fl = 0 ∧ cs = nans r
    adds (.fadd w) false ∧ adds (.fsub w) true ∧
    word (.fmul w) 6 (fun a b _ => rounded (a.isInf || b.isInf) fun y nv =>
      if a.isNan = true ∨ b.isNan = true then y = .nan ∧ nv = 0 else product (neg 0 a) (neg 1 b) y nv) ∧
    word (.ffma w) 6 (fun a b c => rounded (a.isInf || b.isInf || c.isInf) fun y nv =>
      if a.isNan = true ∨ b.isNan = true then y = .nan ∧ nv = 0
      else ∃ p v, product (neg 0 a) b p v ∧ if p = .nan then y = .nan ∧ nv = v else if c.isNan then y = .nan ∧ nv = 0 else sum [p, neg 1 c] y nv) ∧
    picks (.fmin w) (fun a b _ => lo a b) ∧ picks (.fmax w) (fun a b _ => hi a b) ∧
    picks (.fminm w) (fun a b _ => if a.isNan || b.isNan then .nan else lo a b) ∧
    picks (.fmaxm w) (fun a b _ => if a.isNan || b.isNan then .nan else hi a b) ∧
    picks (.fmed3 w) (fun a b c => hi (lo a b) (lo (hi a b) c)) ∧
    word (.fsat w) 4 (fun a _ _ r fl cs => r = sat (pattern a) ∧ fl = 0 ∧ cs = []) ∧
    word (.frnd w) 6 (fun a _ _ r fl cs => fl = 0 ∧ cs = nans r ∧ match a with
      | .fin g _ _ _ => ∃ m : Nat, r = pattern (.fin g m 0 false) ∧ let v := |num a|
        (rnd = 1 → |v - m| ≤ 1 / 2 ∧ (|v - m| = 1 / 2 → m % 2 = 0)) ∧ (rnd = 2 → m = ⌊v⌋₊) ∧
        (rnd = 3 → m = if g then ⌈v⌉₊ else ⌊v⌋₊) ∧ (rnd = 4 → m = if g then ⌊v⌋₊ else ⌈v⌉₊)
      | y => r = pattern y) ∧
    (w.ty ∈ [0, 1, 2] → GivesF (.ffrx w) s x w 6 fun a _ _ q => q.fl = 0 ∧ let y := src a 0
      if bit w.opt 0 then q.counts = [] ∧ match y with
        | .nan => q.val = 0x80000000
        | .inf _ => q.val = 0x7FFFFFFF
        | .fin _ n _ _ => if n = 0 then q.val = 0 else ∃ e : ℤ, 2 ^ e ≤ |num y| ∧ |num y| < 2 ^ (e + 1) ∧ (q.val : ℤ) = e % 2 ^ 32
      else q.counts = nans q.val ∧ match y with
        | .fin g n _ _ => if n = 0 then q.val = pattern y else ∃ k d, q.val = pattern (.fin g k d false) ∧
            ∃ e : ℤ, num (.fin g k d false) * 2 ^ e = num y ∧ 1 ≤ |num (.fin g k d false)| ∧ |num (.fin g k d false)| < 2
        | y => q.val = pattern y)

/-- R144: FABS clears, FNEG inverts, and FCPYS takes from B the sign bit of each element; the other bits of an element are A's, a
scalar 16-bit result has no others, no flag is raised and nothing is counted. R146: FCLASS sets exactly the bit of the
element's class: for .f32 the class that its exponent, fraction and sign give. -/
def Obligations.SignOperations : Prop :=
  (∀ (w : Op) (s : State) (x : Ctx), w.ty ∈ [0, 1, 2, 20, 21] → Ready s x w {} (uniformProducing w) →
     let S := if w.ty = 0 then 31 else 15
     let at_ : List Nat := if w.ty = 20 ∨ w.ty = 21 then [0, 16] else [0]
     ∀ r ∈ ([(.fabs w, fun _ _ => false), (.fneg w, fun a _ => !a), (.fcpys w, fun _ b => b)] : List (Instr × (Bool → Bool → Bool))),
       GivesF r.1 s x w 4 fun a b _ q => q.fl = 0 ∧ q.counts = [] ∧
         q.val < (if w.ty = 1 ∨ w.ty = 2 then 2 ^ 16 else 2 ^ 32) ∧
         ∀ h ∈ at_, bf q.val h S = bf a h S ∧ bit q.val (h + S) = r.2 (bit a (h + S)) (bit b (h + S))) ∧
  (∀ (w : Op) (s : State) (x : Ctx), Ready s x w {} (uniformProducing w) →
     GivesF (.fclass w) s x w 4 fun a _ _ q => q.fl = 0 ∧ q.counts = [] ∧ (∃ i, i < 9 ∧ q.val = 2 ^ i) ∧
       (w.ty = 0 → w.opt = 0 → q.val =
         let e := bf a 23 8
         let neg := bit a 31
         if e = 255 then (if bf a 0 23 ≠ 0 then 256 else if neg then 1 else 128)
         else if e = 0 then (if bf a 0 23 = 0 then (if neg then 8 else 16) else if neg then 4 else 32)
         else if neg then 2 else 64))

/-- R145: FCMP and FSET complete in 4 clk without flags or counts. A NaN makes conditions 0 to 6 false and 7 to 13 true; otherwise
the relation of the exact values, flushed by FPMODE, decides, with -0 equal to +0. FCMP combines it with qC. The model's own
choices here: log entries 19 and 31. -/
def Obligations.FloatComparisons : Prop :=
  ∀ (w : Op) (s : State) (x : Ctx), w.ty ∈ [0, 1, 2] → w.m < 14 → Ready s x w {} (uniformProducing w) →
    let D (v : Nat) : XR := decodeF w.ty ((s.at x).env.ftz w.ty) v
    let test (a b : Nat) : Bool :=
      let o : Int := if ltX false (D a) (D b) then -1 else if ltX false (D b) (D a) then 1 else 0
      if (D a).isNan ∨ (D b).isNan then 7 ≤ w.m
      else match w.m with
        | 0 | 8 => o = 0 | 1 | 9 => o ≠ 0 | 2 | 10 => o < 0 | 3 | 11 => o ≤ 0 | 4 | 12 => 0 < o | 5 | 13 => 0 ≤ o
        | 6 => true | _ => false
    (w.opt = 0 ∨ (∃ n, w.c = .sp n) → GivesF (.fcmp w) s x w 4 fun a b c q => q.fl = 0 ∧ q.counts = [] ∧
      q.val = b2n (match w.opt with
        | 0 => test a b | 1 => test a b && c ≠ 0 | 2 => test a b || c ≠ 0 | _ => test a b ^^ decide (c ≠ 0))) ∧
    (GivesF (.fset w) s x w 4 fun a b _ q => q.fl = 0 ∧ q.counts = [] ∧
      q.val = if test a b then (if bit w.opt 0 then 0xFFFFFFFF else if w.ty = 0 then 0x3F800000 else if w.ty = 1 then 0x3C00 else 0x3F80)
              else 0)

/-- R147 to R151: FSCALE, the conversions CVTF, CVTI and CVTFI, and SCLX complete in 6 clk with the values of their functions; the
source type of a conversion is the number in B. R153, R154, R157: the SFU words complete in 12 clk, FDOT2 and FMAD2 in 6 and
FDOT4 in 8; SQRT and DIVF are long-latency results of 20 to 48 clk (R141). The model's own choices here: log entries 19, 31,
32 and 35. -/
def Obligations.ScalingAndConversions : Prop :=
  (∀ (w : Op) (s : State) (x : Ctx),
     let v := (s.at x).env
     let u := uniformProducing w
     let wc : Op := { w with b := .no }
     let uc := uniformProducing wc
     let st := cvtSrc w
     let done (i : Instr) (w : Op) (u : Bool) (wd wa : Nat) (val : Nat → FRes) : Prop := Completes i s fun t =>
       Leaves s t x 6 (floatWrites x u w.d wd (s.at x).flOn val) (floatCounts x w.d (s.at x).cntOn val) ∧
       OnlyResult s t x (lastRegs x.h w wa 1 1)
     (Ready s x w {} u →
       done (.fscale w) w u 1 1 (fun l => fFscale v w.ty w.m w.opt (rdF s x w.imm w.ty w.a l)
         (rdE s x w.imm (if packed w.ty then 10 else 11) w.b l) 0) ∧
       done (.sclx w) w u 1 1 (fun l => fSclx v w.ty w.m w.opt (rdF s x 0 0 w.a l) 0 0)) ∧
     (Ready s x wc {} uc →
       done (.cvtf w) wc uc 1 1 (fun l => fCvtf st v w.ty w.m w.opt (rdF s x 0 st w.a l) 0 (rdF s x 0 st w.c l)) ∧
       done (.cvti w) wc uc 1 (if wide st then 2 else 1) (fun l => fCvti st v w.ty w.m w.opt
         (rdN s x { w with md := BitVec.ofNat 11 (st * 16) } (if wide st then 2 else 1) w.a l) 0
         (rdN s x { w with md := BitVec.ofNat 11 (st * 16) } (if wide st then 2 else 1) w.c l))) ∧
     (Ready s x wc { d := if w.w64 then 2 else 1 } uc →
       done (.cvtfi w) wc uc (if w.w64 then 2 else 1) 1 (fun l => fCvtfi st v w.ty w.m w.opt (rdF s x 0 st w.a l) 0 (rdF s x 0 st w.c l)))) ∧
  (∀ (w : Op) (s : State) (x : Ctx), Ready s x w {} (uniformProducing w) →
     let v := (s.at x).env
     let u := uniformProducing w
     let src (o : Opd) (l : Nat) : Nat := rdF s x w.imm w.ty o l
     let done (i : Instr) (lat : Nat) (val : Nat → FRes) : Prop := Completes i s fun t =>
       Leaves s t x lat (floatWrites x u w.d 1 (s.at x).flOn val) (floatCounts x w.d (s.at x).cntOn val) ∧
       OnlyResult s t x (lastRegs x.h w 1 1 1)
     let long (i : Instr) (val : Nat → FRes) : Prop := Completes i s fun t =>
       LeavesLong s t x 20 48 (floatWrites x u w.d 1 (s.at x).flOn val) (floatCounts x w.d (s.at x).cntOn val) ∧
       OnlyResult s t x (lastRegs x.h w 1 1 1)
     (∀ r ∈ ([(.exp2 w, 0x0D6), (.log2 w, 0x0D7), (.rcp w, 0x0D8), (.rsq w, 0x0D9), (.sin w, 0x0DB), (.cos w, 0x0DC),
              (.tanh w, 0x0DD), (.sigm w, 0x0DE), (.erf w, 0x0DF)] : List (Instr × Nat)),
       done r.1 12 (fun l => fSfu r.2 v w.ty w.m w.opt (src w.a l) (src w.b l) 0)) ∧
     long (.sqrt w) (fun l => fSfu 0x0DA v w.ty w.m w.opt (src w.a l) (src w.b l) 0) ∧
     long (.divf w) (fun l => fDivf v w.ty w.m w.opt (src w.a l) (src w.b l) 0) ∧
     (∀ r ∈ ([(.fdot2 w, 6, fFdot2), (.fdot4 w, 8, fFdot4), (.fmad2 w, 6, fFmad2)] : List (Instr × Nat × FLane)),
       done r.1 r.2.1 (fun l => r.2.2 v w.ty w.m w.opt (src w.a l) (src w.b l) (rdF s x w.imm 0 w.c l))))

/-- R155: DIVI truncates toward zero; a divisor of 0 gives 0xFFFF_FFFF (A for .rem) with DZ, the most negative number by -1 gives
itself (0 for .rem) with NV; it counts nothing and its result comes within 20 to 48 clk (R141). -/
def Obligations.IntegerDivision : Prop :=
  ∀ (w : Op) (s : State) (x : Ctx), w.ty ∈ [11, 15] → Ready s x w {} (uniformProducing w) →
    let u := uniformProducing w
    let rem := bit w.opt 0
    ∃ t val, exec (.divi w) s = .next t ∧
      LeavesLong s t x 20 48 (floatWrites x u w.d 1 (s.at x).flOn val) [] ∧ OnlyResult s t x (lastRegs x.h w 1 1 1) ∧
      ∀ l ∈ lanesOf x.on,
        let a := rdE s x w.imm w.ty w.a l
        let b := rdE s x w.imm w.ty w.b l
        let A : Int := if w.ty = 11 then signedOf 32 a else a
        let B : Int := if w.ty = 11 then signedOf 32 b else b
        if b = 0 then (val l).val = (if rem then a else 0xFFFFFFFF) ∧ (val l).fl = flDZ
        else if w.ty = 11 ∧ a = 0x80000000 ∧ b = 0xFFFFFFFF then (val l).val = (if rem then 0 else 0x80000000) ∧ (val l).fl = flNV
        else ((val l).val : Int) = (if rem then A.tmod B else A.tdiv B) % 2 ^ 32 ∧ (val l).fl = 0

/-- R158: FLRD gives each lane its %fl, or the OR over the executing lanes; FLCLR and FLSET clear and set the bits that A[4:0]
names in each executing lane, whatever FPMODE.FL is, from the next clock. R159, R160: FMODE writes the bits of FPMODE that B
names, from the next clock, where the rounding code that results is one of 1 to 4; FMODE.get gives FPMODE; FCNTRD gives the
counter less at most the events that other crews wrote in the last 256 clk, within 400 clk; from the next clock FCNTCLR leaves
the named counter, or every one with .all, at zero, and no other changes. The model's own choices here: log entries 36 and 37. -/
def Obligations.FlagWords : Prop :=
  (∀ (w : Op) (s : State) (x : Ctx),
     let a (l : Nat) : BitVec 5 := (rd s x 0 w.a l).setWidth 5
     let each : Tab (BitVec 5) := (lanesOf x.on).map (fun l => (l, a l))
     (Ready s x w {} false →
       Completes (.flrd w) s fun t =>
         Leaves s t x 2 (wrOf x false w.d (fun l =>
           (if bit w.opt 0 || isU w.d then (lanesOf x.on).foldl (fun a l => a ||| readFl s x l) 0 else readFl s x l).setWidth 32)) ∧
         OnlyResult s t x (lastRegs x.h w 1 1 1)) ∧
     (Issues s w [] false x →
       (Completes (.flclr w) s fun t => Leaves s t x 1 [.flClr each] ∧ OnlyResult s t x (lastRegs x.h w 1 1 1)) ∧
       (Completes (.flset w) s fun t => Leaves s t x 1 [.fl each] ∧ OnlyResult s t x (lastRegs x.h w 1 1 1)))) ∧
  (∀ (w : Op) (s : State) (x : Ctx),
     let k := s.at x
     let i := w.ty * 4 + w.opt
     let late := (s.grid k.grid).recent.filter (fun e => e.2.2.2 == i && s.clk < e.1 + 256 && !((e.2.1, e.2.2.1) == (x.c, x.k)))
     (Issues s w [] false x →
       let a := rd s x w.imm w.a x.low
       let m := rd s x w.imm w.b x.low &&& 0xF7
       bf ((modeNow k &&& ~~~m) ||| (a &&& m)).toNat 0 3 ∈ [1, 2, 3, 4] →
         Completes (.fmode w) s fun t => Leaves s t x 1 [.mode a m] ∧ OnlyResult s t x (lastRegs x.h w 1 1 1)) ∧
     (Ready s x w {} false →
       (Completes (.fmodeGet w) s fun t => Leaves s t x 2 (wrOf x false w.d (fun _ => k.fpmode)) ∧ OnlyResult s t x (lastRegs x.h w 1 1 1)) ∧
       (foreign s k = false → Completes (.fcntrd w) s fun t => ∃ n, n ≤ late.length ∧
         LeavesLong s t x 2 400 (wrOf x false w.d (fun _ => w32 ((tget 0 (s.grid k.grid).counters i).toNat - n))) ∧
         OnlyResult s t x (lastRegs x.h w 1 1 1))) ∧
     (Issues s w [] false x → Completes (.fcntclr w) s fun t =>
       Leaves s t x 1 [.cnt (if w.mb 0 then List.range 36 else [i])] ∧ OnlyResult s t x (lastRegs x.h w 1 1 1))) ∧
  (∀ (s : State) (c k : Nat) (r : Result) (l : List Nat), let w := s.crew c k
     w.results.find? (fun q => q.id == r.id) = some r → r.ready = true → r.lo ≤ s.clk → r.wr = [.cnt l] → r.counts = [] →
     foreign s w = false → Completes (.resultWriteback c k r.id) s fun t =>
       ∀ j, tget 0 (t.grid w.grid).counters j = if j ∈ l then 0 else tget 0 (s.grid w.grid).counters j)

/-- R152, R128: PACKB gathers a record of the scale B and the element of every lane, UNPKB gives a lane its element, the scale or
the element's value, over a converged crew whose tile is whole. -/
def Obligations.BlockRecords : Prop :=
  ∀ (w : Op) (s : State) (x : Ctx), w.ty ∈ [3, 4, 5, 6, 7] → Ready s x w {} false → (s.at x).tile = 32 → notConverged x 32 = false →
    let n := if w.ty = 3 ∨ w.ty = 4 then 8 else if w.ty = 7 then 4 else 6
    let e (i : Nat) : Nat := if x.mask.getLsbD i then (rd s x 0 w.a i).toNat % 2 ^ n else 0
    let packed := (rd s x w.imm w.b x.low).toNat % 256 + 256 * ((List.range 32).map (fun i => e i * 2 ^ (n * i))).sum
    let rcd := ((List.range 9).map (fun i => (rd s x 0 w.a i).toNat * 2 ^ (32 * i))).sum
    let el (l : Nat) : Nat := rcd / 2 ^ (8 + n * l) % 2 ^ n
    (Completes (.packb w) s fun t =>
      Leaves s t x 8 (wrOf x false w.d (fun l => w32 (packed / 2 ^ (32 * l)))) ∧ OnlyResult s t x (lastRegs x.h w 1 1 1)) ∧
    (w.opt = 0 → Completes (.unpkb w) s fun t =>
      Leaves s t x 8 (wrOf x false w.d (fun l => w32 (el l))) ∧ OnlyResult s t x (lastRegs x.h w 1 1 1)) ∧
    (w.opt = 1 → Completes (.unpkb w) s fun t =>
      Leaves s t x 8 (wrOf x false w.d (fun _ => w32 (rcd % 256))) ∧ OnlyResult s t x (lastRegs x.h w 1 1 1)) ∧
    (w.opt = 2 → Completes (.unpkb w) s fun t => ∃ (cs : List Nat) (val : Nat → Nat × Fl), Leaves s t x 8 (wrOf x false w.d (fun l => w32 (val l).1) ++
        flWr (s.at x).flOn ((lanesOf x.on).map (fun l => (l, (val l).2)))) cs ∧ OnlyResult s t x (lastRegs x.h w 1 1 1) ∧
      ∀ l ∈ lanesOf x.on, val l = roundTo (s.at x).env.ftzs
        (if rcd % 256 = 255 then .nan else match decodeF w.ty false (el l) with
          | .fin g m d _ => .fin g m (d + ((rcd % 256 : Nat) : Int) - 127) false
          | y => y) 0 1 false)

/-- R38: the two halves of a PAIR word complete together, each with what its own word would leave, and both read their sources
before either writes. R26, R98 to R101, R30, R134: a result whose value has come, and whose time is not before now, is
written: its number is no longer outstanding, and each of its writes is found where it belongs: a vector register's lanes (a
row keeps its other lanes), a compressed value in every lane, a uniform register unless path 2 of its clock wrote it, the
lanes of a predicate other than q0, and flags set. The model's own choices here: log entries 18, 20 and 25. -/
def Obligations.PairAndWriteback : Prop :=
  (∀ (p : PairOp) (s : State) (x : Ctx), Issues s {} [p.x.d.toNat, p.y.d.toNat] false x →
      let own (h : Half) : List (Nat × Instr) := let w := halfOp h
        [(0x040, .iadd w), (0x041, .isub w), (0x042, .imul w), (0x044, .imad w), (0x045, .imin w), (0x046, .imax w), (0x047, .iabs w),
         (0x048, .ineg w), (0x049, .andW w), (0x04A, .orW w), (0x04B, .xorW w), (0x04C, .notW w), (0x04D, .shl w), (0x04E, .shr w),
         (0x04F, .shra w), (0x050, .rot w), (0x051, .popc w), (0x052, .clz w), (0x053, .brev w), (0x054, .bfx w), (0x055, .bfi w),
         (0x056, .prmb w), (0x057, .sel w), (0x05A, .lea w), (0x05E, .mov w), (0x0C0, .fadd w), (0x0C1, .fsub w), (0x0C2, .fmul w),
         (0x0C3, .ffma w), (0x0C4, .fmin w), (0x0C5, .fmax w), (0x0C6, .fminm w), (0x0C7, .fmaxm w), (0x0C8, .fabs w), (0x0C9, .fneg w),
         (0x0CA, .fcpys w), (0x0CD, .frnd w), (0x0CE, .fscale w), (0x0EB, .fsat w), (0x0E8, .fdot2 w), (0x0EA, .fmad2 w), (0x0EC, .fmed3 w),
         (0x0D6, .exp2 w), (0x0D7, .log2 w), (0x0D8, .rcp w), (0x0D9, .rsq w), (0x0DA, .sqrt w), (0x0DB, .sin w), (0x0DC, .cos w),
         (0x0DD, .tanh w), (0x0DE, .sigm w), (0x0DF, .erf w)]
      let leaves (t : State) (h : Half) (id : Nat) : Prop := ∃ r ∈ (t.at x).results, r.id = id ∧
        ∀ e ∈ own h, e.1 = h.opc.toNat → h.ty.toNat ∉ [12, 16, 18] →
          Completes e.2 s fun u => ∃ q ∈ (u.at x).results, q.id = s.nextId ∧ r = { q with id }
      let lastOf (h : Half) : List Nat := (if h.la then [h.a.toNat] else []) ++ (if h.lb then [h.b.toNat] else []) ++ if h.lc then [h.c.toNat] else []
      Completes (.pair p) s fun t => leaves t p.x s.nextId ∧ leaves t p.y (s.nextId + 1) ∧ OnlyResult s t x (lastOf p.x ++ lastOf p.y)) ∧
  (∀ (s : State) (c k : Nat) (r : Result), (s.crew c k).results.find? (fun q => q.id == r.id) = some r → r.ready = true →
      r.lo ≤ s.clk →
      let freed (n : Nat) : Bool := (s.crew c k).pendRel.any (fun e => e.1 == n && e.2.all (· == r.id))
      Completes (.resultWriteback c k r.id) s fun t =>
        (∀ q ∈ (t.crew c k).results, q.id ≠ r.id) ∧
        (∀ n vals, r.wr = [.v n vals] → (vals.map (·.1)).Nodup → ∀ l, l < 32 →
          ((t.crew c k).ent n).val l = if freed n then 0 else tget (((s.crew c k).ent n).val l) vals l) ∧
        (∀ n v, r.wr = [.comp n v] → ∀ l, l < 32 → ((t.crew c k).ent n).val l = if freed n then 0 else v) ∧
        (∀ n v, r.wr = [.u n v] → tget 0 (t.crew c k).u n = if n ∈ r.noU then tget 0 (s.crew c k).u n else v) ∧
        (∀ n m vals, r.wr = [.q n m vals] → (t.crew c k).pred n =
          if n = 0 then BitVec.allOnes 32 else ((s.crew c k).pred n &&& ~~~m) ||| (vals &&& m)) ∧
        (∀ vals, r.wr = [.fl vals] → (vals.map (·.1)).Nodup → ∀ l,
          tget 0 (t.crew c k).fl l = tget 0 (s.crew c k).fl l ||| tget 0 vals l))

/-! ## Control (spec/03_control.md) -/

/-- R80, R85, R86: BRA, BRC and BRU send every executing lane to the offset that OFF16 names where it lies in 0 to 65532; BRC
takes it when any, all or none of them read 1 in the predicate, BRU when the uniform register stands so to zero. BRX goes to
bits 15 to 2 of A, BRA.far and RET to a code address whose bit 1 is 0. R84, R86: CALL and CALL.far leave the code address of
the next word in D within 2 clk and go on at their target, unless the next word lies past the slot; LOOPU leaves s[D] - 1 and
branches while that is not zero. The model's own choices here: log entries 29 and 30. -/
def Obligations.Branches : Prop :=
  (∀ (w : Op) (s : State) (x : Ctx), Issues s w [] false x →
     let goes (i : Instr) (dest : Nat → Pc) : Prop := Completes i s fun t => OnlyTo s t x w id ∧ Goes s t x dest
     (x.inSlot w → goes (.bra w) (fun _ => x.there w)) ∧
     (bit w.imm.toNat 1 = false → goes (.braFar w) (fun _ => codeAt (w.imm.setWidth 32))) ∧
     (∀ n, w.d = .sp n → w.mn < 3 →
       let yes := (lanesOf x.on).filter (fun l => readQ s x (n.toNat - 0x80) l)
       let take : Prop := match w.mn with
         | 0 => yes ≠ [] | 1 => yes = lanesOf x.on | _ => yes = []
       (take → x.inSlot w → goes (.brc w) (fun _ => x.there w)) ∧ (¬take → goes (.brc w) (fun _ => x.next))) ∧
     (let v := (rd s x 0 w.d 0).toInt
      let take : Prop := match w.mn with
        | 0 => v = 0 | 1 => v ≠ 0 | 2 => v < 0 | 3 => 0 ≤ v | 4 => 0 < v | _ => v ≤ 0
      (take → x.inSlot w → goes (.bru w) (fun _ => x.there w)) ∧ (¬take → goes (.bru w) (fun _ => x.next))) ∧
     goes (.brx w) (fun l => { x.pc with off := 4 * bf (rd s x 0 w.a l).toNat 2 14 }) ∧
     ((∀ l ∈ lanesOf x.on, bit (rd s x 0 w.a l).toNat 1 = false) → goes (.ret w) (fun l => codeAt (rd s x 0 w.a l)))) ∧
  (∀ (w : Op) (s : State) (x : Ctx), Opd.writes w.d = true → Issues s w (vdst w.d 1) false x →
     let done (i : Instr) (val : W32) (dest : Pc) : Prop := Completes i s fun t =>
       Leaves s t x 2 (wrOf x false w.d (fun _ => val)) ∧ OnlyCrew s t x ∧
       KeepsCrew (s.at x) (t.at x) (lastRegs x.h w 1 1 1) ∧ Goes s t x (fun _ => dest)
     (x.next.off ≠ 65536 →
       (x.inSlot w → done (.call w) x.next.addr (x.there w)) ∧
       (bit w.imm.toNat 1 = false → done (.callFar w) x.next.addr (codeAt (w.imm.setWidth 32)))) ∧
     (isU w.d = true → let k := rd s x 0 w.d 0 - 1
       (k ≠ 0 → x.inSlot w → done (.loopu w) k (x.there w)) ∧ (k = 0 → done (.loopu w) 0 x.next)))

/-- R94, R253, R78, R80: in a crew with a handler, whose lanes are not in it, TRAP traps every executing lane with cause 0x60 and
its code, TRAPC those whose comparison holds; a branch out of the slot traps with cause 0x02, ENROL of a roll with arrivals
with 0x03, ERET outside a handler with 0x01. The other lanes move on, and no register or byte of memory changes. The model's
own choices here: log entries 26 and 28. -/
def Obligations.TrapsAreTaken : Prop :=
  ∀ (w : Op) (s : State) (x : Ctx), Issues s w [] false x → (s.at x).trapent ≠ 0xFFFFFFFF →
    (∀ l ∈ lanesOf x.on, bit (tget 0 (s.at x).trapinfo l).toNat 31 = false) →
    let traps (i : Instr) (m : List Nat) (cause code : Nat) : Prop := Completes i s fun t =>
      Traps s t x m cause code (fun l => if l ∈ lanesOf x.path then x.next else (s.at x).pcOf l) ∧
      KeepsCrew (trapFields (t.at x) (s.at x)) (t.at x) (lastRegs x.h w 1 1 1)
    let v (o : Opd) (l : Nat) : Int := if w.mb 0 then (rd s x 0 o l).toInt else (rd s x 0 o l).toNat
    traps (.trap w) (lanesOf x.on) 0x60 (w.mf 3 8) ∧
    traps (.trapc w) ((lanesOf x.on).filter (fun l => match w.mf 1 2 with
      | 0 => v w.a l = v w.b l | 1 => v w.a l ≠ v w.b l | 2 => v w.a l < v w.b l | _ => v w.b l ≤ v w.a l)) 0x60 (w.mf 3 8) ∧
    (¬x.inSlot w → traps (.bra w) (lanesOf x.on) 0x02 0) ∧
    (tget 0 (s.at x).arrivals (w.mf 0 3) ≠ 0 → traps (.enrol w) (lanesOf x.on) 0x03 0) ∧
    traps (.eret w) (lanesOf x.on) 0x01 0

/-- R272, R253, R96: ERET in lanes that are in their handler clears INTRAP and returns to the saved PC, past the trapped word with
.next. A trap in a crew without a handler, or in a lane that is in its handler, freezes the crew: its lanes stand at the word,
and one event of type 0x02 carries the cause. The model's own choices here: log entry 98. -/
def Obligations.ReturnAndFreeze : Prop :=
  ∀ (w : Op) (s : State) (x : Ctx), Issues s w [] false x →
    let k := s.at x
    ((∀ l ∈ lanesOf x.on, bit (tget 0 k.trapinfo l).toNat 31 = true) → Completes (.eret w) s fun t =>
      OnlyTo s t x w (fun k => { k with trapinfo := (t.at x).trapinfo }) ∧
      (∀ l, tget 0 (t.at x).trapinfo l = if l ∈ lanesOf x.on then tget 0 k.trapinfo l &&& 0x7FFFFFFF else tget 0 k.trapinfo l) ∧
      Goes s t x (fun l =>
        let p := codeAt (tget 0 k.trappc l)
        let n := bf (tget 0 k.trapinfo l).toNat 24 2
        if w.mb 0 then { p with off := p.off + if n = 0 then 8 else if n = 1 then 12 else 16 } else p)) ∧
    (k.trapent = 0xFFFFFFFF ∨ (∀ l ∈ lanesOf x.on, bit (tget 0 k.trapinfo l).toNat 31 = true) → k.frozen = false →
      (k.guest.isSome = true ∨ (s.grid k.grid).monitor = false) → s.evq0.length < Config.eventQueue → s.evq1.length < Config.eventQueue →
      Completes (.trap w) s fun t => (t.at x).frozen = true ∧ (∀ l ∈ lanesOf x.on, (t.at x).pcOf l = x.pc) ∧ SameMemory s t ∧
        KeepsCrew { trapFields (t.at x) k with frozen := true } (t.at x) (lastRegs x.h w 1 1 1) ∧
        let e := s.crewEvent x.c x.k 0x02 0x60 (laneBit x.low) 0 x.pc.addr
        if x.c < 96 then t.evq0 = s.evq0 ++ [e] ∧ t.evq1 = s.evq1 else t.evq1 = s.evq1 ++ [e] ∧ t.evq0 = s.evq0)

/-- R88, R72: ENROL makes the executing lanes members of a roll without arrivals; members that REJOIN arrive and park, and the
roll releases when every member has arrived; LEAVE takes lanes that have not arrived out of a roll or of all, with any
release; ROLLRD reads the arrival mask. A release empties both masks and lets the arrived lanes go on from the second clock. -/
def Obligations.Rolls : Prop :=
  ∀ (w : Op) (s : State) (x : Ctx), Issues s w [] false x →
    let k := s.at x
    let n := w.mf 0 3
    let roll (j : Nat) : Mask := tget 0 k.rolls j
    let arr (j : Nat) : Mask := tget 0 k.arrivals j
    let full (r a : Mask) : Bool := r ≠ 0 ∧ a = r
    let masks (t : State) (j : Nat) (r a : Mask) : Prop :=
      tget 0 (t.at x).rolls j = (if full r a then 0 else r) ∧ tget 0 (t.at x).arrivals j = (if full r a then 0 else a)
    let only (t : State) : Prop :=
      OnlyTo s t x w (fun k => { k with rolls := (t.at x).rolls, arrivals := (t.at x).arrivals, park := (t.at x).park }) ∧
      Goes s t x (fun _ => x.next)
    (arr n = 0 → Completes (.enrol w) s fun t => only t ∧ (∀ l, (t.at x).parkOf l = k.parkOf l) ∧
      (t.at x).arrivals = k.arrivals ∧ ∀ j, tget 0 (t.at x).rolls j = if j = n then roll n ||| x.on else roll j) ∧
    (x.on &&& ~~~(roll n) = 0 → Completes (.rejoin w) s fun t => only t ∧
      let a := arr n ||| x.on
      masks t n (roll n) a ∧ (∀ j, j ≠ n → tget 0 (t.at x).rolls j = roll j ∧ tget 0 (t.at x).arrivals j = arr j) ∧
      ∀ l, l < 32 → (t.at x).parkOf l =
        if l ∈ lanesOf x.on then (if full (roll n) a then .resume (s.clk + 2) else .rejoin n)
        else if full (roll n) a ∧ (arr n).getLsbD l = true ∧ k.parkOf l = .rejoin n then .resume (s.clk + 2) else k.parkOf l) ∧
    (x.on &&& arr n = 0 → w.mb 3 = false → Completes (.leave w) s fun t => only t ∧
      masks t n (roll n &&& ~~~x.on) (arr n) ∧ ∀ j, j ≠ n → tget 0 (t.at x).rolls j = roll j ∧ tget 0 (t.at x).arrivals j = arr j) ∧
    ((∀ j, j < 8 → x.on &&& arr j = 0) → w.mb 3 = true → Completes (.leave w) s fun t => only t ∧
      ∀ j, j < 8 → masks t j (roll j &&& ~~~x.on) (arr j)) ∧
    (Ready s x w {} false → Completes (.rollrd w) s fun t =>
      Leaves s t x 2 (wrOf x false w.d (fun _ => arr n)) ∧ OnlyResult s t x (lastRegs x.h w 1 1 1))

/-- R74 to R76, R89: lanes that have not arrived and whose writes are performed arrive at a barrier that expects them: the arrival
count rises, and where it reaches the expected count the phase rises, the count becomes 0 and the arrived bits clear. At BART
and BARC they park, at a team barrier until the second clock after its completion; BARA leaves the phase and goes on; BARW
parks the lanes whose token the phase has not passed, and at cluster scope acquires. The model's own choices here: log entry
59. -/
def Obligations.Barriers : Prop :=
  ∀ (w : Op) (s : State) (x : Ctx),
    let k := s.at x
    let free (cl : Bool) (n : Nat) : Prop := k.guest = none ∧ k.st = .resident ∧ k.lostWrite = false ∧
      writesOpen s x.c x.k x.on s.nextId = false ∧ (∀ l ∈ lanesOf x.on, hasArrived k cl n l = false) ∧
      (cl = true → s.clusters.any (fun q => q.grid == k.grid && q.index == k.cluster) = true) ∧
      (barOf s x.c x.k cl n).arrivals + (lanesOf x.on).length ≤ (barOf s x.c x.k cl n).expected
    let full (cl : Bool) (n : Nat) : Prop :=
      (barOf s x.c x.k cl n).arrivals + (lanesOf x.on).length = (barOf s x.c x.k cl n).expected
    let arrives (t : State) (cl : Bool) (n : Nat) : Prop :=
      let b := barOf s x.c x.k cl n
      let b' := barOf t x.c x.k cl n
      (full cl n → b'.phase = b.phase + 1 ∧ b'.arrivals = 0 ∧ b'.expected = b.expected - b.engines) ∧
      (¬full cl n → b'.phase = b.phase ∧ b'.arrivals = b.arrivals + (lanesOf x.on).length ∧ b'.expected = b.expected) ∧
      (∀ l ∈ lanesOf x.on, arrived (t.at x) cl n l = true ↔ ¬full cl n) ∧ SameMemory s t ∧ Goes s t x (fun _ => x.next) ∧
      KeepsCrew { k with arrT := (t.at x).arrT, arrC := (t.at x).arrC, park := (t.at x).park } (t.at x) (lastRegs x.h w 1 1 1)
    let parks (t : State) (cl : Bool) (n : Nat) : Prop :=
      (t.at x).results = k.results ∧ ∀ l ∈ lanesOf x.on,
        (full cl n → cl = false → (t.at x).parkOf l = .resume (s.clk + 2)) ∧
        (¬full cl n ∨ cl = true → (t.at x).parkOf l = .barrier cl n (barOf s x.c x.k cl n).phase)
    (Issues s w [] false x →
      (free false (w.mf 0 4) → Completes (.bart w) s fun t => arrives t false (w.mf 0 4) ∧ parks t false (w.mf 0 4)) ∧
      (free true (w.mf 0 2) → Completes (.barc w) s fun t => arrives t true (w.mf 0 2) ∧ parks t true (w.mf 0 2)) ∧
      (k.guest = none → Completes (.barw w) s fun t =>
        let p := (barOf s x.c x.k (w.mb 4) (w.mf 0 4)).phase
        (∀ l, (t.at x).parkOf l = if l ∈ lanesOf x.on ∧ (p - rd s x 0 w.a l).toInt ≤ 0 then .barw (w.mb 4) (w.mf 0 4) (rd s x 0 w.a l)
          else k.parkOf l) ∧
        KeepsCrew { k with park := (t.at x).park } (t.at x) (lastRegs x.h w 1 1 1) ∧ Goes s t x (fun _ => x.next) ∧
        SameMemory s t ∧ (w.mb 4 = false → OnlyCrew s t x) ∧ (w.mb 4 = true → (t.core x.c).l1 = []))) ∧
    (Opd.writes w.d = true → Issues s w (vdst w.d 1) false x → (w.mb 4 = true → w.mf 0 4 < 4) → free (w.mb 4) (w.mf 0 4) →
      Completes (.bara w) s fun t => arrives t (w.mb 4) (w.mf 0 4) ∧
        Leaves s t x 2 (wrOf x false w.d (fun _ => (barOf s x.c x.k (w.mb 4) (w.mf 0 4)).phase)))

/-- R41, R87, R90, R91, R93: NOP does nothing but move on; PAUSE sends its crew to the pending set, paused; YIELD holds it, to the
larger of two holds, and from 64 clk on sends it to the pending set; SETTILE over a converged crew sets %tile to 2^k; EXIT
ends its lanes, which leave their rolls and are expected at no barrier, and frees the slot of a crew with no lane left. The
model's own choices here: log entry 15. -/
def Obligations.SeatWords : Prop :=
  ∀ (w : Op) (s : State) (x : Ctx),
    let k := s.at x
    let n := (lanesOf x.on).length
    let sets (i : Instr) (w : Op) (upd : Crew → Crew) : Prop := Completes i s fun t => OnlyTo s t x w upd ∧ Goes s t x (fun _ => x.next)
    (Issues s {} [] false x →
      sets .nop {} id ∧ sets .pause {} (fun k => { k with leaving := true, paused := true }) ∧
      (x.on &&& ~~~k.live = 0 → k.st = .resident → Completes .exit s fun t =>
        (k.live ≠ x.on → (t.at x).live = k.live &&& ~~~x.on ∧ (t.at x).away = k.away &&& ~~~x.on ∧ SameMemory s t ∧
          (∀ j, j < 8 → tget 0 (t.at x).rolls j &&& x.on = 0 ∧ tget 0 (t.at x).arrivals j &&& x.on = 0) ∧
          (k.guest = none → ∀ j, j < 16 → (barOf s x.c x.k false j).engines = 0 →
            (barOf t x.c x.k false j).expected = (barOf s x.c x.k false j).expected - n) ∧
          KeepsCrew { k with live := (t.at x).live, away := (t.at x).away, rolls := (t.at x).rolls, arrivals := (t.at x).arrivals,
                             arrT := (t.at x).arrT, arrC := (t.at x).arrC, park := (t.at x).park, ords := (t.at x).ords } (t.at x) []) ∧
        (k.live = x.on → k.guest = none → (t.at x).st = .free))) ∧
    (Issues s w [] false x →
      sets (.yield w) w (fun k => { k with yieldTo := max k.yieldTo (s.clk + w.mf 0 8), leaving := k.leaving || decide (64 ≤ w.mf 0 8) }) ∧
      (notConverged x 32 = false → sets (.settile w) w (fun k => { k with tile := 2 ^ w.mn })))

/-- R65, R67, R75, R90, R91, R99: the end of a YIELD lets its crew issue; a lane that 64 issues have passed decides path 2; lanes
parked for a row try again when one is free; the lanes of a core that are parked on a completed cluster barrier resume and
acquire; a promoted crew becomes active, clears its paused flag, and takes the place of another only at age 448. The model's
own choices here: log entries 12 and 15. -/
def Obligations.SeatEvents : Prop :=
  ∀ (c n i b : Nat) (s : State),
    let k := s.crew c n
    let x : Ctx := { c, k := n, path := 0, on := 0, h := {}, pc := {}, serial := 0, live := 0, away := 0, second := false }
    let sets (e : Instr) (upd : Crew → Crew) : Prop := Completes e s fun t => OnlyCrew s t x ∧ t.crew c n = upd k
    (k.yieldTo ≠ 0 → k.yieldTo < s.clk → sets (.yieldHoldEnd c n) (fun k => { k with yieldTo := 0 })) ∧
    (∀ l, l ∈ lanesOf (k.ready s.clk) → 64 ≤ tget 0 k.starve l → (∀ j ∈ lanesOf (k.ready s.clk), j < l → tget 0 k.starve j < 64) →
      k.starved = none → sets (.laneStarvationPath c n) (fun k => { k with starved := some l })) ∧
    (k.st = .resident → k.park.any (fun e => e.2 == .row) = true → rowsFree (s.core c) k 1 = true → Completes (.rowWaitRetry c n) s fun t =>
      OnlyCrew s t x ∧ { t.crew c n with park := k.park } = k ∧
      ∀ l, (t.crew c n).parkOf l = if k.parkOf l = .row then .resume s.clk else k.parkOf l) ∧
    (∀ q, s.clusters[i]? = some q → k.st = .resident → inCluster q.grid q.index k = true →
      let p := (tget {} q.bars b).phase
      (∃ l, barOver true b p (k.parkOf l) = true) → Completes (.clusterBarrierResume c i b) s fun t =>
        (t.core c).l1 = [] ∧ SameMemory s t ∧ { t.crew c n with park := k.park } = k ∧
        ∀ l, (t.crew c n).parkOf l = if barOver true b p (k.parkOf l) then .resume (s.clk + 1) else k.parkOf l) ∧
    (i < 4 → ∀ j out, promotion s c i = some (j, out) → Completes (.crewPromotion c i) s fun t =>
      (s.crew c j).active = false ∧ canIssue s c j = true ∧ (t.crew c j).active = true ∧ (t.crew c j).paused = false ∧
      (∀ y, out = some y → (t.crew c y).active = false ∧ 448 ≤ (s.crew c j).age s.clk) ∧
      ∀ y, y ≠ j → out ≠ some y → t.crew c y = s.crew c y)

/-! ## Memory (spec/06_memory.md) -/

/-- R162, R169, R185 to R187: LD, LDNT and LDQ ask for the bytes of each lane's canonical address, LD by its cache policy, and
leave a long-latency result that the type extends; ST, STNT and STQ send the low bytes of D, read at issue. Misaligned
accesses are cut at lines. The model's own choices here: log entries 41 and 47. -/
def Obligations.GlobalWords : Prop :=
  ∀ (w : Op) (s : State) (x : Ctx),
    let lanes := acting x w.d
    let loads (i : Instr) (n : Nat) (kind : FillKind) (nt hostOk : Bool) : Prop :=
      (∀ l ∈ lanes, addr64 s x w l + n ≤ 2 ^ 57) → Issues s w (vdst w.d ((n + 3) / 4)) (uniformProducing w) x →
        Asks i s x { acc := .load, width := n, cp := w.opt, nt, hostOk, long := true, kind, dst := w.d, uni := isU w.d }
          (lanes.map (fun l => { lane := l, addr := addr64 s x w l, n })) (uniformProducing w)
    let stores (i : Instr) (n : Nat) (nt hostOk : Bool) : Prop :=
      (∀ l ∈ lanes, addr64 s x w l + n ≤ 2 ^ 57) → Issues s w [] false x →
        Asks i s x { acc := .store, width := n, cp := w.opt, nt, hostOk, uni := isU w.d }
          (lanes.map (fun l => { lane := l, addr := addr64 s x w l, n, data := bytesAt s x w n l }))
    loads (.ld w) (widthOf w.ty) (fillOf w.ty) false true ∧ loads (.ldnt w) (widthOf w.ty) (fillOf w.ty) true true ∧
    stores (.st w) (widthOf w.ty) false true ∧ stores (.stnt w) (widthOf w.ty) true true ∧
    loads (.ldq w) 16 (.regs 4) false false ∧ stores (.stq w) 16 false false

/-- R166, R190: LDS and STS reach the team's run in the core's scratchpad, below .scratch; LDW and STW the run of the team at a
rank of the cluster, or with .map, in a privileged crew, the on-chip map. The model's own choices here: log entries 53 and 54. -/
def Obligations.LocalWords : Prop :=
  ∀ (w : Op) (s : State) (x : Ctx),
    let lanes := acting x w.d
    let k := s.at x
    let n := widthOf w.ty
    let load : MemWord := { acc := .load, width := n, long := true, kind := fillOf w.ty, dst := w.d, uni := isU w.d }
    let store : MemWord := { acc := .store, width := n, uni := isU w.d }
    let both (ld st : Instr) (acc : Nat → LaneAcc) : Prop :=
      (Issues s w (vdst w.d ((n + 3) / 4)) (uniformProducing w) x → Asks ld s x load (lanes.map acc) (uniformProducing w)) ∧
      (Issues s w [] false x → Asks st s x store (lanes.map (fun l => { acc l with data := bytesAt s x w n l })))
    ((∀ l ∈ lanes, inRun s x.c k.ts (addr32 s x w l) n) → k.guest = none →
      both (.lds w) (.sts w) (fun l =>
        { lane := l, addr := (s.team x.c k.ts).scrBase + addr32 s x w l, n, space := 1, tgt := x.c })) ∧
    (∀ team : Nat → Nat × Nat, w.mb 0 = false → k.guest = none →
      (∀ l ∈ lanes, rankTeam s x.c x.k (addr32 s x w l / 2 ^ 24) = some (team l) ∧
        inRun s (team l).1 (team l).2 (addr32 s x w l % 2 ^ 24) n) →
      both (.ldw w) (.stw w) (fun l =>
        { lane := l, addr := (s.team (team l).1 (team l).2).scrBase + addr32 s x w l % 2 ^ 24, n, space := 1, tgt := (team l).1 })) ∧
    (w.mb 0 = true → k.priv = true →
      (∀ l ∈ lanes, addr64 s x w l < 2 ^ 38 ∧ mapOk s (addr64 s x w l) n = true ∧ (mapReg (addr64 s x w l) = 0 →
        absentLines (s.core (mapCore (addr64 s x w l))) (mapOfs (addr64 s x w l)) n = [])) →
      both (.ldw w) (.stw w) (fun l =>
        let a := addr64 s x w l
        if mapReg a = 0 then { lane := l, addr := mapOfs a, n, space := 1, tgt := mapCore a }
        else { lane := l, addr := a, n, space := 2, tgt := mapCore a }))

/-- R167, R168, R189: ADDRX leaves the address of an element of a buffer record, swizzled, and its bound; LDB and STB leave the
bound and access memory in the lanes in bounds alone, LDB giving 0 in the others. R191, R103: SPILL and FILL reach each lane's
words of the crew's private region. The model's own choices here: log entries 49 and 67. -/
def Obligations.BufferAndPrivate : Prop :=
  ∀ (w : Op) (s : State) (x : Ctx),
    let n := widthOf w.ty
    let k := s.at x
    let rcd (l : Nat) : Nat := ((rdRun s x w.a 4 l).zipIdx.map (fun e => e.1.toNat * 2 ^ (32 * e.2))).sum
    let swz (l : Nat) : Nat := bf (rcd l) 112 4
    let i (l : Nat) : Nat := (rd s x 0 w.b l).toNat
    let j (l : Nat) : Nat := if swz l = 0 then i l else i l ^^^ (i l / 2 ^ (swz l + 2) % 8)
    let elem (l : Nat) : Nat := ((bf (rcd l) 0 64 + j l * bf (rcd l) 64 16 + offsetOf x w : Int) % 2 ^ 64).toNat
    let inb (l : Nat) : Bool := decide (swz l ≤ 7) && decide (i l < bf (rcd l) 80 32) &&
      (bf (rcd l) 64 16 == 0 || decide (offsetOf x w + n ≤ bf (rcd l) 64 16))
    let bound : List Wr := if w.m = 0 then [] else [.q w.m x.on (maskOf ((lanesOf x.on).filter inb))]
    let lanes := acting x w.d
    let good := lanes.filter inb
    let buffer (e : Instr) (dst : List Nat) (comp : Bool) (m : MemWord) (data : Nat → List Byte) : Prop :=
      (∀ l ∈ good, elem l + n ≤ 2 ^ 57) → Issues s w dst comp x → ∃ u res t, exec e s = .next t ∧
        Asked (fixedResult s x 4 bound) u x m res (good.map (fun l => { lane := l, addr := elem l, n, data := data l })) comp ∧
        EndsAs (closeFill (pump u x.c) res) t x
    let o := ((rd s x 0 w.a 0).toInt + offsetOf x w) % 2 ^ 32 |>.toNat
    let word (l b : Nat) : LaneAcc :=
      { lane := l, addr := k.privBase.toNat + (o + 4 * b) / 4 * 128 + l * 4, n := 4, at0 := 4 * b }
    let words (l : Nat) : List LaneAcc := (List.range (n / 4)).map (word l)
    (Issues s w (vdst w.d 2) (uniformProducing w) x → Opd.writes w.d = true → Completes (.addrx w) s fun t =>
      Leaves s t x 4 (wr64 x (uniformProducing w) w.d (fun l => w64 (if swz l ≤ 7 then elem l else 0)) ++ bound) ∧
      OnlyResult s t x (lastRegs x.h w 4 1 1)) ∧
    buffer (.ldb w) (vdst w.d ((n + 3) / 4)) (uniformProducing w)
      { acc := .load, width := n, cp := w.opt, long := true, kind := fillOf w.ty, dst := w.d, uni := isU w.d
        zero := maskOf (lanes.filter (fun l => !(inb l))) } (fun _ => []) ∧
    buffer (.stb w) [] false { acc := .store, width := n, cp := w.opt, uni := isU w.d } (bytesAt s x w n) ∧
    (w.ty ∈ [17, 18] → o % 4 = 0 → o + n ≤ 256 * 2 ^ k.pshift → (∀ l ∈ lanesOf x.on, ∀ y ∈ words l, y.addr + 4 ≤ 2 ^ 57) →
      (Issues s w (vdst w.d (n / 4)) false x →
        Asks (.fill w) s x { acc := .load, width := n, long := true, kind := fillOf w.ty, dst := w.d, plain := true, uni := isU w.d }
          ((lanesOf x.on).flatMap words)) ∧
      (Issues s w [] false x → Asks (.spill w) s x { acc := .store, width := n, plain := true, uni := isU w.d }
        ((lanesOf x.on).flatMap (fun l => (words l).map (fun y => { y with data := ((bytesAt s x w n l).drop y.at0).take 4 })))))

/-- R192 to R194: PREF asks for the whole lines of the lanes whose address is canonical and leaves nothing; CCTL.inv, .clean and
.flush ask for each lane's line and leave a result without a value; CCTL.invall empties the core's L1; PROBE asks for its
status word, which is 0 in a lane whose address is not canonical, and PROBE.sp gives presence and bounds at once. The model's
own choices here: log entries 48, 50 and 52. -/
def Obligations.CacheWords : Prop :=
  ∀ (w : Op) (s : State) (x : Ctx),
    let canon (l : Nat) : Bool := decide (addr64 s x w l + 1 ≤ 2 ^ 57)
    let lanes := acting x w.d
    (Issues s w [] false x →
      Asks (.pref w) s x { acc := .pref (w.mb 0), hostOk := true }
        (((lanesOf x.on).filter (fun l => decide (addr64 s x w l / 256 * 256 + 256 ≤ 2 ^ 57))).map
          (fun l => { lane := l, addr := addr64 s x w l / 256 * 256, n := 256 })) ∧
      ((∀ l ∈ lanesOf x.on, canon l = true) → ∀ r ∈ ([(.cctlInv w, 0), (.cctlClean w, 2), (.cctlFlush w, 3)] : List (Instr × Nat)),
        Asks r.1 s x { acc := .cctl r.2, hostOk := true, long := true }
          ((lanesOf x.on).map (fun l => { lane := l, addr := addr64 s x w l, n := 1 })))) ∧
    (Issues s {} [] false x → Completes .cctlInvall s fun t => (t.core x.c).l1 = [] ∧ SameMemory s t ∧ MovesOn s t x ∧
      KeepsCrew (s.at x) (t.at x) [] ∧ ∃ r ∈ (t.at x).results, r.id = s.nextId ∧ r.ready = true ∧ r.wr = [] ∧ r.hi = none) ∧
    (Opd.writes w.d = true → Issues s w (vdst w.d 1) (uniformProducing w) x →
      (w.mb 0 = false → Asks (.probe w) s x { acc := .probe, long := true, kind := .regs 1, dst := w.d, hostOk := true, uni := isU w.d
                                              zero := maskOf (lanes.filter (fun l => !(canon l))) }
        ((lanes.filter canon).map (fun l => { lane := l, addr := addr64 s x w l, n := 1 })) (uniformProducing w)) ∧
      (w.mb 0 = true → Completes (.probe w) s fun t => OnlyResult s t x (lastRegs x.h w 1 1 1) ∧
        ∃ r ∈ (t.at x).results, r.id = s.nextId ∧ r.ready = true ∧ r.hi = none ∧ r.wr = wrOf x false w.d (fun l =>
          let T := s.team x.c (s.at x).ts
          let o := addr32 s x w l
          if (s.at x).guest = none ∧ o < T.scratch then (if (s.core x.c).present ((T.scrBase + o) / 64) then 0x101 else 1) else 0)))

/-- R162, R166, R182, R184: lanes whose global address is not canonical, or whose scratchpad bytes reach beyond .scratch, split
off with cause 0x11; the word asks for nothing in them. The model's own choices here: log entries 47 and 55. -/
def Obligations.AddressFaults : Prop :=
  ∀ (w : Op) (s : State) (x : Ctx), s.evq0.length < Config.eventQueue → s.evq1.length < Config.eventQueue →
    let lanes := acting x w.d
    let n := widthOf w.ty
    let splits (i : Instr) (dst : List Nat) (addr : Nat → Nat) : Prop := Issues s w dst false x → ∃ u t, exec i s = .next t ∧
      Splits s u x lanes 0x11 (fun l => w64 (addr l)) ∧ u.reqs = s.reqs ∧ EndsAs (pump u x.c) t x
    let regs (n : Nat) : List Nat := vdst w.d ((n + 3) / 4)
    ((∀ l ∈ lanes, 2 ^ 57 < addr64 s x w l + n) → ∀ r ∈ ([(.ld w, regs n), (.ldnt w, regs n), (.st w, []), (.stnt w, [])] :
      List (Instr × List Nat)), splits r.1 r.2 (addr64 s x w)) ∧
    ((∀ l ∈ lanes, 2 ^ 57 < addr64 s x w l + 16) → splits (.ldq w) (regs 16) (addr64 s x w) ∧ splits (.stq w) [] (addr64 s x w)) ∧
    ((∀ l ∈ lanes, (s.team x.c (s.at x).ts).scratch < addr32 s x w l + n) →
      splits (.lds w) (regs n) (addr32 s x w) ∧ splits (.sts w) [] (addr32 s x w))

/-! ## Ordering (spec/07_ordering.md) -/

/-- R219 to R223, R228: at an aligned address that it may reach, and outside a heat where R217 forbids it, every read-modify-write
word asks, in each executing lane, for one indivisible operation of its kind with B (and C), and leaves the old value in D;
RED, REDS and REDF leave nothing. SEM and SCOPE say what it releases and acquires. R221: the operators of table 32 and table
64 on the old value m and the operand b. The model's own choices here: log entries 43, 45, 59 and 65. -/
def Obligations.Atomics : Prop :=
  (∀ (w : Op) (s : State) (x : Ctx) (acc : Nat → LaneAcc),
     let held := inHeat s (s.at x)
     let asks (i : Instr) (place : Place) (n : Nat) (fn : RmwFn) (a : Acc) (ret free : Bool) : Prop :=
       AtomAt s x w n place acc → (held && !free) = false → Issues s w (if ret then vdst w.d (n / 4) else []) false x →
         Asks i s x { acc := a, width := n, atom := true, long := ret, kind := if ret then .regs (n / 4) else .none, dst := w.d
                      rel := bit (aSem w) 1, acq := bit (aSem w) 0, scope := aScope w, uni := isU w.d }
           ((acting x w.d).map (fun l => { acc l with b := rmwVal s x fn n w.b l, c := atomVal s x n w.c l }))
     let op := aOp w
     let n := if op = 1 then 8 else 4
     let float : Bool := decide (10 ≤ op) && decide (op ≤ 14)
     let sp : Place := if aFl w then .cluster else .scratch
     asks (.atom w) .global 4 (.t32 op) (.rmw (.t32 op) true) true false ∧
     asks (.atoms w) sp 4 (.t32 op) (.rmw (.t32 op) true) true false ∧
     asks (.atom64 w) .global 8 (.t64 op) (.rmw (.t64 op) true) true false ∧
     asks (.cas w) .global n .cas (.rmw .cas true) true false ∧ asks (.cass w) sp n .cas (.rmw .cas true) true false ∧
     asks (.cas128 w) .global 16 .cas (.rmw .cas true) true false ∧
     asks (.xchg w) (if aFl w then .scratch else .global) n .xchg (.rmw .xchg true) true false ∧
     asks (.red w) .global 4 (.t32 op) (.rmw (.t32 op) false) false (!float) ∧
     asks (.reds w) sp 4 (.t32 op) (.rmw (.t32 op) false) false (!float) ∧
     asks (.redf w) .global 4 (.t32 (redfOp op)) (.redf (.t32 (redfOp op)) held) false true) ∧
  (∀ (W m b : Nat), W = 32 ∨ W = 64 → m < 2 ^ W → b < 2 ^ W →
     let I := signedOf W
     tableOp W 0 m b = (m + b) % 2 ^ W ∧
     I (tableOp W 1 m b) = min (I m) (I b) ∧ I (tableOp W 2 m b) = max (I m) (I b) ∧
     tableOp W 3 m b = min m b ∧ tableOp W 4 m b = max m b ∧
     tableOp W 5 m b = m &&& b ∧ tableOp W 6 m b = m ||| b ∧ tableOp W 7 m b = m ^^^ b ∧
     tableOp W 8 m b = (if b ≤ m then 0 else m + 1) ∧ tableOp W 9 m b = (if m = 0 ∨ b < m then b else m - 1) ∧
     (∀ n old c, rmwNew .xchg n old b c = some (b % 2 ^ (8 * n)) ∧
       rmwNew .cas n old b c = if old = b % 2 ^ (8 * n) then some (c % 2 ^ (8 * n)) else none))

/-- R224 to R227, R92: LDACQ loads and acquires, at cluster scope and wider, and at a guest's team scope, never from the L1; STREL
releases and stores; ARRV adds the sum of the lanes of one address once and releases; WAITW and WAITV park their lanes and
read their words, with a uniform D one for all of them. FENCE performs its acquire at once where nothing has to be waited for,
and else waits with its crew's other orders, as FENCEX does. The model's own choices here: log entries 59, 60, 61, 63 and 136. -/
def Obligations.SyncWords : Prop :=
  ∀ (w : Op) (s : State) (x : Ctx) (acc : Nat → LaneAcc),
    let k := s.at x
    let n := if aOp w = 1 then 8 else 4
    let lanes := acting x w.d
    let place : Place := if aFl w then .scratch else .global
    (AtomAt s x w n place acc →
      (Issues s w (vdst w.d (n / 4)) (uniformProducing w) x →
        let near := aScope w = 0 ∨ aScope w = 1 ∧ k.guest = none
        Asks (.ldacq w) s x { acc := if near then .load else .acq, width := n, atom := true, hostOk := true, long := true, kind := .regs (n / 4)
                              dst := w.d, acq := true, scope := aScope w, uni := isU w.d } (lanes.map acc) (uniformProducing w)) ∧
      (Issues s w [] false x → Asks (.strel w) s x { acc := .rel, width := n, atom := true, hostOk := true, rel := true, scope := aScope w
                                                     uni := isU w.d } (lanes.map (fun l => { acc l with data := bytesAt s x w n l })))) ∧
    (let n := if w.mb 2 then 8 else 4
     let ret := !(w.mb 5)
     let addr (l : Nat) : Nat := if w.mb 1 then atom32At s x w l else atom64At s x w l
     let val (l : Nat) : Nat := (atomVal s x n w.b l).toNat % 2 ^ (8 * n)
     let groups := byAddr (lanes.map (fun l => (l, addr l)))
     let shared (l : Nat) : LaneAcc :=
       let g := lanes.filter (fun j => addr j == addr l)
       if g.headD 0 = l then { acc l with b := BitVec.ofNat 128 ((g.map val).sum % 2 ^ (8 * n)) } else { acc l with share := true }
     (ret && inHeat s k) = false → AtomAt s x w n (if w.mb 1 then .scratch else .global) acc →
     Issues s w (if ret then vdst w.d (n / 4) else []) false x →
       Asks (.arrv w) s x { acc := .rmw (if n = 8 then .t64 0 else .t32 0) ret, width := n, atom := true, long := ret, dst := w.d
                            kind := if ret then .arrv (n == 8) (arrvParts val groups) else .none
                            rel := true, acq := bit (aSem w) 0, scope := aScope w, uni := isU w.d }
         (groups.flatMap (fun g => g.2.map shared))) ∧
    (let rel := bit (aSem w) 1
     let acq := bit (aSem w) 0
     let scope := if k.guest.isSome && decide (aScope w ∈ [1, 2]) then 3 else aScope w
     let waits : Bool := (rel && (aScope w == 5 || k.lostWrite || writesOpen s x.c x.k x.on s.nextId)) ||
       (acq && readsOpen s x.c x.k x.on s.nextId)
     let later (t : State) (e : BitVec 4) : Prop := Goes s t x (fun _ => x.next) ∧
       OnlyTo s t x {} (fun k => { k with ords := k.ords ++ [{ rel, acq, scope := aScope w, lanes := x.on, before := s.nextId
                                                               engines := e, pc := x.pc, len := x.lenCode }] })
     Issues s {} [] false x →
       (waits = true → Completes (.fence w) s fun t => later t 0) ∧
       (waits = false → Completes (.fence w) s fun t => Goes s t x (fun _ => x.next) ∧ SameMemory s t ∧ KeepsCrew k (t.at x) [] ∧
         (t.at x).ords = k.ords ∧ (acq = true → 2 ≤ scope → (t.core x.c).l1 = [])) ∧
       (aOp w / 2 % 16 ≠ 0 → Completes (.fencex w) s fun t => later t (BitVec.ofNat 4 (aOp w / 2)))) ∧
    (let waits (i : Instr) (dst : List Nat) (q : Wait) (acc : Nat → LaneAcc) (cmp mask : Nat → W64) : Prop := Waits i s x w dst q acc cmp mask
     (let q := waitRec 0 (w.mf 1 3) (w.mf 4 3) false (w.mb 0) .no
      let to4 (a : Nat) : Nat := a / 4 * 4
      (w.mb 0 = false → (∀ l ∈ lanesOf x.on, to4 (atom64At s x w l) + 4 ≤ 2 ^ 57) →
        waits (.waitw w) [] q (fun l => { lane := l, addr := to4 (atom64At s x w l), n := 4 })
          (fun l => (rd s x 0 w.b l).setWidth 64) (fun _ => BitVec.allOnes 64)) ∧
      (w.mb 0 = true → k.guest = none → (∀ l ∈ lanesOf x.on, inRun s x.c k.ts (to4 (atom32At s x w l)) 4) →
        waits (.waitw w) [] q (fun l => { lane := l, addr := (s.team x.c k.ts).scrBase + to4 (atom32At s x w l), n := 4, space := 1 })
          (fun l => (rd s x 0 w.b l).setWidth 64) (fun _ => BitVec.allOnes 64))) ∧
     (∀ sp, w.mb 2 = sp → let n := if w.mb 3 then 8 else 4
       AtomAt s x w n (if sp then .scratch else .global) acc →
       Waits (.waitv w) s x w (vdst w.d (n / 4)) (waitRec 1 (w.mf 4 2) (aScope w) (w.mb 3) sp w.d) acc
         (fun l => (atomVal s x n w.b l).setWidth 64)
         (fun l => if x.h.form.x then (atomVal s x n w.c l).setWidth 64 else BitVec.allOnes 64) lanes))

/-! ## System words (spec/08_system.md) -/

/-- R233 to R236, R273, R284: SREAD gives the lane's TRAPINFO, TRAPPC or TRAPADDR, or a register of its grid, in 4 clk, and any
other register as a long-latency result; an unprivileged crew reads another grid's as 0. The model's own choices here: log
entry 72. -/
def Obligations.RegisterReads : Prop :=
  ∀ (w : Op) (s : State) (x : Ctx), Opd.writes w.d = true →
    let n := bf w.imm.toNat 0 16
    let i := bf w.imm.toNat 16 8
    let r := if w.mb 0 then 2 else 1
    let k := s.at x
    let g := s.grid i
    let m := s.stack i
    let win : Win := tget {} s.wins i
    let wr (v : Nat → Nat) : List Wr := wrRun x false w.d r (fun l => leWords r (v l))
    let fixed (v : Nat → Nat) : Prop := Completes (.sread w) s fun t => Leaves s t x 4 (wr v) ∧ OnlyResult s t x (lastRegs x.h w 1 1 1)
    Issues s w (vdst w.d r) false x →
    (n = 1 → fixed (fun l => (tget 0 k.trapinfo l).toNat)) ∧ (n = 2 → fixed (fun l => (tget 0 k.trappc l).toNat)) ∧
    (n = 3 → fixed (fun l => (tget 0 k.trapaddr l).toNat)) ∧
    (n ∈ [0x10, 0x11, 0x12] → (k.priv = false → k.grid ≠ i → fixed (fun _ => 0)) ∧
      (k.priv = true → fixed (fun _ =>
        if n = 0x10 then (if g.state = 0 then 0 else g.state * 2 ^ 29 + bf g.lr.flags 2 2 * 2 ^ 27 + bf g.lr.flags 0 1 * 2 ^ 26 +
          bf g.lr.flags 1 1 * 2 ^ 25 + (if g.ended then 2 ^ 24 else 0) + g.teamsLeft % 2 ^ 24)
        else if n = 0x11 then g.fcntctl.toNat else g.fcntstat.toNat))) ∧
    ∀ e ∈ ([(0x20, s.cwtbase.toNat), (0x21, s.savebase.toNat), (0x22, s.savesize.toNat), (0x23, s.holdbase.toNat), (0x24, s.holdsize.toNat),
            (0x25, s.groupbase.toNat), (0x30, m.itbase.toNat), (0x31, m.anchorbase.toNat), (0x40, win.ctl.toNat), (0x41, win.size.toNat),
            (0x42, win.view.toNat), (0x50, s.hdmctl.toNat), (0x60, s.homebase.toNat), (0x61, s.hometab.toNat), (0x62, m.stubbase.toNat),
            (0x63, m.migcore.toNat), (0x64, s.stubcfg.toNat), (0x65, s.trkcfg.toNat), (0x66, m.pgpool.toNat), (0x70, s.connbase.toNat),
            (0x71, s.fabcfg.toNat)] : List (Nat × Nat)),
      n = e.1 → Does (.sread w) s s x w (LongLeft s x (wr (fun _ => e.2)))

/-- R3, R234, R273: SWRITE by a privileged crew stores the writable bits of a base, size or configuration register, and by an
unprivileged one nothing; TRAPPC takes the value in each executing lane, with bit 1 zero; a write with an effect of its own,
to GRIDSTAT, FCNTSTAT, PORTSTAT, an open HDMCTL or an enabled FWCTL, goes to its unit, and the crew waits for it. The events
by which it arrives free the id of a done grid, clear TRIP or the link counts, close the window to host memory, and close a
format window at once for new accesses; when FWCTL_DISABLE_DONE comes the memory-side cache holds no line of the view and EN
reads 0; EN is set where the checks of R176 hold, else ERR. -/
def Obligations.RegisterWrites : Prop :=
  (∀ (w : Op) (s : State) (x : Ctx), Issues s w [] false x → (∃ r, w.d = .u r) →
    let n := bf w.imm.toNat 0 16
    let i := bf w.imm.toNat 16 8
    let v := if w.mb 0 then usrc64 s x w.d else usrc s x w.d
    let k := s.at x
    let regs : List (Nat × Nat × (State → Nat)) := [(0x20, 0xFFFFFFF000, (·.cwtbase.toNat)), (0x21, 0xFFFFFFF000, (·.savebase.toNat)),
      (0x22, 2 ^ 32 - 1, (·.savesize.toNat)), (0x23, 0xFFFFFFF000, (·.holdbase.toNat)), (0x24, 2 ^ 32 - 1, (·.holdsize.toNat)),
      (0x25, 0xFFFFFFF000, (·.groupbase.toNat)), (0x30, 0xFFFFFFF000, fun s => (s.stack i).itbase.toNat),
      (0x31, 0xFFFFFFF000, fun s => (s.stack i).anchorbase.toNat), (0x60, 0xFFFFFFF000, (·.homebase.toNat)),
      (0x61, 0xFFFFFFF000, (·.hometab.toNat)), (0x62, 0xFFFFFFF000, fun s => (s.stack i).stubbase.toNat),
      (0x63, 0xFFFF, fun s => (s.stack i).migcore.toNat), (0x64, 0xFFFF, (·.stubcfg.toNat)), (0x65, 0xC000FFFF, (·.trkcfg.toNat)),
      (0x66, 0x80000000000FFFFF, fun s => (s.stack i).pgpool.toNat), (0x70, 0xFFFFFFF000, (·.connbase.toNat)), (0x71, 0x3FFFFF, (·.fabcfg.toNat))]
    (k.priv = true → ∀ e ∈ regs, n = e.1 → ∃ u, Does (.swrite w) s u x w (NoneLeft s x) ∧ e.2.2 u = v &&& e.2.1 ∧
      (∀ f ∈ regs, f.1 ≠ n → f.2.2 u = f.2.2 s) ∧ (∀ j, j ≠ i → u.stack j = s.stack j) ∧
      { u.stack i with itbase := 0, anchorbase := 0, stubbase := 0, migcore := 0, pgpool := 0 } =
        { s.stack i with itbase := 0, anchorbase := 0, stubbase := 0, migcore := 0, pgpool := 0 } ∧
      { u with cwtbase := s.cwtbase, savebase := s.savebase, savesize := s.savesize, holdbase := s.holdbase, holdsize := s.holdsize
               groupbase := s.groupbase, stks := s.stks, homebase := s.homebase, hometab := s.hometab, stubcfg := s.stubcfg
               trkcfg := s.trkcfg, connbase := s.connbase, fabcfg := s.fabcfg } = s) ∧
    (k.priv = false → (∃ e ∈ regs, n = e.1) ∨ n = 0x10 ∨ n = 0x50 ∨ n = 0x72 → Does (.swrite w) s s x w (NoneLeft s x)) ∧
    (n = 2 → Does (.swrite w) s (s.modCrew x.c x.k (forLanes x.on (fun l k => { k with trappc := tset k.trappc l (w32 v &&& 0xFFFFFFFD) }))) x w (NoneLeft s x)) ∧
    (k.priv = true → (n = 0x10 ∧ bf v 29 3 = 0 ∧ (s.grid i).state = 4) ∨ (n = 0x12 ∧ bit v 31 = true) ∨ (n = 0x72 ∧ bit v 29 = true) →
      Does (.swrite w) s { s.modCrew x.c x.k (fun k => { k with sysHold := k.sysHold + 1 }) with
        sysWrs := s.sysWrs ++ [{ id := s.nextId, core := x.c, slot := x.k, reg := n, inst := i, data := w64 v, priv := k.priv, grid := k.grid }] }
        x w (NoneLeft s x))) ∧
  ∀ (s : State) (id : Nat) (r : SysWr),
    let rest (t : State) : Prop := t.sysWrs = s.sysWrs.filter (fun q => !(q.id == id)) ∧ SameMemory s t
    let ctl (s : State) (b : Nat) : Bool := (tget ({} : Win) s.wins r.inst).ctl.getLsbD b
    (findWr s id 0x10 = some r → (s.grid r.inst).state = 4 →
      Completes (.gridstatFree id) s fun t => rest t ∧ (t.grid r.inst).state = 0 ∧ ∀ g, g ≠ r.inst → t.grid g = s.grid g) ∧
    (findWr s id 0x12 = some r → Completes (.fcntstatClear id) s fun t => rest t ∧
      (t.grid r.inst).fcntstat = (s.grid r.inst).fcntstat &&& 0x7FFFFFFF ∧ ∀ g, g ≠ r.inst → t.grid g = s.grid g) ∧
    (findWr s id 0x72 = some r → Completes (.portstatClear id) s fun t => rest t ∧
      t.port r.inst = { s.port r.inst with trans := 0, drop := 0 } ∧ ∀ p, p ≠ r.inst → t.port p = s.port p) ∧
    (findWr s id 0x50 = some r → Completes (.hdmctlClose id) s fun t => rest t ∧
      ∀ b, t.hdmctl.getLsbD b = (s.hdmctl.getLsbD b && decide (b ≠ 63))) ∧
    (findWr s id 0x40 = some r → bit r.data.toNat 63 = true → Completes (.fwctlEnable id) s fun t => rest t ∧
      ctl t 63 = (ctl s 63 || winOk s r.inst) ∧ ctl t 62 = (ctl s 62 || !(winOk s r.inst)) ∧ ∀ b, b < 62 → ctl t b = ctl s b) ∧
    (findWr s id 0x40 = some r → bit r.data.toNat 63 = false → Completes (.fwctlDisable id) s fun t => rest t ∧
      tget ({} : Win) t.wins r.inst = { tget ({} : Win) s.wins r.inst with closing := true }) ∧
    ((tget ({} : Win) s.wins id).closing = true → winBusy s (tget {} s.wins id) = false → Completes (.fwctlDisableDone id) s fun t =>
      let v : Win := tget {} s.wins id
      let view (n : Nat) : Bool := overlaps (64 * n) 64 v.base (v.count * v.recSize)
      t.hostMem = s.hostMem ∧ (∀ c, t.core c = s.core c) ∧ t.quads = s.quads ∧ t.sysWrs = s.sysWrs ∧
      (∀ n, if view n then tget? t.msc n = none else tget? t.msc n = tget? s.msc n) ∧ (tget ({} : Win) t.wins id).closing = false ∧
      ∀ b, (tget ({} : Win) t.wins id).ctl.getLsbD b = ((tget ({} : Win) s.wins id).ctl.getLsbD b && decide (b ≠ 63)))

/-- R281, R284: GETID and CLKRD complete in 2 and 4 clk with the values of their selectors. R277: KEYSET answers 0 and sets the
key pair, or 1, 2 or 3 and sets nothing, and zeroes the 16 registers; KEYDROP poisons what the cache held dirty for the
context. R282, R283: INVTLB removes entries of every TLB, and walks under way for them complete with the old entry; PGATTR
answers 1 where the address has no entry, 2 for a window page or D on a host page, and else changes the entry's attributes.
R278, R280: WATCH asks for the line; MONEV.post queues its event; WATCH.wait and MONEV.wait wait. The model's own choices
here: log entries 99, 100, 101, 103 and 111. -/
def Obligations.SystemWords : Prop :=
  ∀ (w : Op) (s : State) (x : Ctx), (∀ n, w.a ≠ .v n) → (∀ n, w.b ≠ .v n) → (∀ n, w.c ≠ .v n) →
    let k := s.at x
    (Opd.writes w.d = true →
      (∀ e ∈ ([(0, x.c), (1, x.c / 32 * 8 + x.c % 16 / 2), (2, x.c / 16 % 2 * 2 + x.c % 2), (3, x.k), (4, x.k % 4),
               (5, if x.c < 96 then 0 else 1), (6, if k.priv then 1 else 0), (7, k.ctx), (8, k.group),
               (9, if k.guest = none then (s.grid k.grid).lr.teams else teamsOf s k), (10, 1)] : List (Nat × Nat)), w.mf 0 4 = e.1 →
        Issues s w (vdst w.d 1) true x → Completes (.getid w) s fun t =>
          Leaves s t x 2 (wrOf x true w.d (fun _ => w32 e.2)) ∧ OnlyResult s t x (lastRegs x.h w 1 1 1)) ∧
      (∀ e ∈ ([(0, 2, s.ref), (1, 2, s.podNs), (2, 1, s.mhz)] : List (Nat × Nat × Nat)), w.mf 0 2 = e.1 →
        Issues s w (vdst w.d e.2.1) true x → Completes (.clkrd w) s fun t =>
          Leaves s t x 4 (wrRun x true w.d e.2.1 (fun _ => leWords e.2.1 e.2.2)) ∧ OnlyResult s t x (lastRegs x.h w 1 1 1))) ∧
    (Issues s w [] false x → k.priv = true → (∃ d, w.d = .u d) →
      let a := usrc s x w.a
      let key := BitVec.ofNat 512 (leNat ((rdRun s x w.b 16 x.low).flatMap (fun v => leBytes 4 v.toNat)))
      (∀ b, w.b = .u b →
        let st := if 4095 < a then 3 else if a = 0 then 1 else if (tget? s.keys a).isSome then 2 else 0
        Does (.keyset w) s (if st = 0 then { s with keys := tset s.keys a key, keysGone := s.keysGone.filter (· != a) } else s) x w
          (LongLeft s x ((List.range 16).map (fun i => Wr.u (b.toNat + i) 0) ++ wrOf x false w.d (fun _ => w32 st)))) ∧
      (4095 < a → Answers (.keydrop w) s s x w 3) ∧ (a ≤ 4095 → keyOf s a = none → Answers (.keydrop w) s s x w 1) ∧
      (a ≤ 4095 → keyOf s a ≠ none → Completes (.keydrop w) s fun t => LongLeft s x (wrOf x false w.d (fun _ => 0)) (t.at x).results ∧
        keyOf t a = none ∧ (∀ c, c ≠ a → keyOf t c = keyOf s c) ∧ (∀ c, c ∈ t.keysGone ↔ c = a ∨ c ∈ s.keysGone) ∧ (∀ c, (t.core c).l1 = []) ∧
        ((s.msc.map (·.1)).Nodup → ∀ n e, tget? s.msc n = some e → if e.ctx = a then tget? t.msc n = none ∧
          (e.dirty = true → tget false t.poison (2 * n) = true ∧ tget false t.poison (2 * n + 1) = true) else tget? t.msc n = some e)) ∧
      (let va := usrc64 s x w.b
       let page (e : TlbEnt) (n : Nat) : Bool := e.ctx == a && e.vpn == va / 2 ^ n
       let on (r : Req) (n : Nat) : Bool := r.line / 2 ^ n == va / 2 ^ n
       ∀ e ∈ ([(0, fun _ => false, fun _ => false, fun _ => true), (1, fun e => e.ctx != a, fun e => e.ctx != a, fun r => r.ctx == a),
               (2, fun e => !(page e 16), fun e => !(page e 21), fun r => r.ctx == a && (on r 16 || on r 21))] :
               List (Nat × (TlbEnt → Bool) × (TlbEnt → Bool) × (Req → Bool))),
         w.mn = e.1 → Does (.invtlb w) s { s with
           cores := s.cores.map (fun c => (c.1, { c.2 with tlb := c.2.tlb.filter e.2.1, tlbBig := c.2.tlbBig.filter e.2.2.1 }))
           reqs := s.reqs.map (fun r => if r.stage == .walk && e.2.2.2 r then { r with keepOld := true } else r) } x w (LongLeft s x [])) ∧
      (let va := usrc64 s x w.b
       let set := bf w.imm.toNat 0 8
       let clr := bf w.imm.toNat 8 8
       let r := walkReport s (dieOfCore x.c) a va
       (2 ^ 57 ≤ va ∨ r.2 = none → Answers (.pgattr w) s r.1 x w 1) ∧
       (∀ e, va < 2 ^ 57 → (walk s a va).1 = some e →
         let at_ := entryAddr r.1 e.1
         let old := sysPeek r.1 at_ 1
         let new := (old &&& (255 - clr)) ||| set
         let less : Bool := (bit old 2 && !(bit new 2)) || (bit old 3 && !(bit new 3)) || bit old 4 != bit new 4 || bit old 5 != bit new 5
         let u := if less then dropPage (sysWrite r.1 at_ 1 new) a va else sysWrite r.1 at_ 1 new
         if e.2.fw || (bit set 4 && (tget? s.hostPages e.2.gpn).isSome) then Answers (.pgattr w) s r.1 x w 2
         else if bit old 4 && !(bit new 4) then Starts (.pgattr w) s u x w 1 (.pgattr
           (if e.2.big then (List.range 32).map (e.2.gpn - va / 65536 % 32 + ·) else [e.2.gpn]) none)
         else Answers (.pgattr w) s u x w 0)) ∧
      Starts (.watchWait w) s s x w 1 .watchWait ∧ Starts (.monevWait w) s s x w 8 .evWait) ∧
    (Issues s w [] false x → k.priv = true →
      let a := usrc s x w.a
      (usrc s x w.b ≤ 15 → usrc64 s x w.a < 2 ^ 57 → Asks (.watch w) s x { acc := .watch, width := 1, hostOk := true, uni := true }
        [{ lane := x.low, addr := usrc64 s x w.a, n := 1, b := BitVec.ofNat 128 (usrc s x w.b) }]) ∧
      (a ≠ 0 → a ≤ 63 → Orders (.monevIrq w) s s x w { rel := true, acq := false, scope := 5, lanes := x.on, before := s.nextId, after := .irq a }
        (NoneLeft s x))) ∧
    (Issues s w [] false x →
      let e := { s.crewEvent x.c x.k 0x0A (usrc s x w.b % 256) 0 0 0 with value := w32 (usrc s x w.a) }
      let q := if x.c < 96 then s.evq0 else s.evq1
      (q.length < 4096 → Does (.monevPost w) s (if x.c < 96 then { s with evq0 := s.evq0 ++ [e] } else { s with evq1 := s.evq1 ++ [e] }) x w
        (NoneLeft s x)) ∧
      (4096 ≤ q.length → Does (.monevPost w) s { s.modCrew x.c x.k (fun k => { k with sysHold := k.sysHold + 1 }) with
        evWait := s.evWait ++ [(dieOfCore x.c, e)] } x w (NoneLeft s x)))

/-- R231: a privileged word in an unprivileged crew raises cause 0x11 in every executing lane and does nothing else. R271, R279:
LAUNCH and LAUNCHW release at chip scope and answer later; HEATEND parks the lanes, with a release at chip scope, and outside
a heat traps with cause 0x50. R274, R275: CTXSAVE, CTXLOAD and PREEMPT answer with their statuses or later; a halt reaches
every crew of the grid on its core, and STATE is 3 once every core has it. The model's own choices here: log entries 65, 93
and 96. -/
def Obligations.GridWords : Prop :=
  ∀ (w : Op) (s : State) (x : Ctx), (∀ n, w.a ≠ .v n) → (∀ n, w.b ≠ .v n) → (∀ n, w.c ≠ .v n) →
    let k := s.at x
    (Issues s w [] false x → k.priv = false → s.evq0.length < 4096 → s.evq1.length < 4096 →
      ∀ i ∈ [Instr.ctxsave w, .ctxload w, .preempt w, .freeze w, .thawResume w, .thawRetry w, .thawTrap w, .thawEnd w, .keyset w, .keydrop w,
             .watch w, .watchWait w, .monevWait w, .monevIrq w, .invtlb w, .pgattr w],
        Refuses i s x 0x11) ∧
    (Issues s w [] false x → ∀ e ∈ [(Instr.launch w, false), (.launchw w, true)],
      Orders e.1 s s x w { rel := true, acq := false, scope := 3, lanes := x.on, before := s.nextId + 1
                           after := .launch w.d (w64 (usrc64 s x w.a)) e.2 s.nextId } (fun rs => ∃ r ∈ rs, r.id = s.nextId ∧
        r.ready = false ∧ r.us = udst w.d 1)) ∧
    (Issues s {} [] false x → notConverged x 32 = false →
      (inHeat s k = true → Completes .heatend s fun t =>
        OnlyTo s t x {} (fun k => { k with park := (t.at x).park, ords := k.ords ++
          [{ rel := true, acq := false, scope := 3, lanes := x.on, before := s.nextId, after := .heat, pc := x.pc, len := x.lenCode }] }) ∧
        MovesOn s t x ∧ ∀ l, (t.at x).parkOf l = if l ∈ lanesOf x.mask then .heat else k.parkOf l) ∧
      (inHeat s k = false → k.trapent ≠ 0xFFFFFFFF → (∀ l ∈ lanesOf x.on, inTrap (tget 0 k.trapinfo l) = false) →
        Completes .heatend s fun t => Traps s t x (lanesOf x.on) 0x50 0 (fun l => if l ∈ lanesOf x.path then x.next else k.pcOf l))) ∧
    (Issues s w [] false x → k.priv = true → (∃ d, w.d = .u d) →
      let b := usrc s x w.b
      let g := b / 2 ^ 24 % 256
      let p := usrc s x w.a % 256
      let job (i : Instr) (kind : JobKind) : Prop := Completes i s fun t => ∃ j ∈ t.jobs, j.kind = kind ∧ j.core = x.c ∧ j.slot = x.k ∧
        j.d = w.d ∧ OpenLeft x j.res w.d 1 (t.at x).results
      ((s.grid g).state ≠ 2 → (s.grid g).state ≠ 3 → Answers (.ctxsave w) s s x w 0x80000002) ∧
      ((s.grid g).state = 2 ∨ (s.grid g).state = 3 → unitHalted s (unitOf s g (b % 2 ^ 24)) = false → Answers (.ctxsave w) s s x w 0x80000001) ∧
      ((s.grid g).state = 2 ∨ (s.grid g).state = 3 → unitHalted s (unitOf s g (b % 2 ^ 24)) = true →
        job (.ctxsave w) (.save g (b % 2 ^ 24) (usrc64 s x w.a) [] 0 [])) ∧
      Starts (.ctxload w) s s x w 1 (.load (usrc64 s x w.a) (if b = 0xFFFFFFFF then none else some b)) ∧
      ((s.grid p).state ≠ 2 ∨ (s.grid p).monitor = true → Answers (.preempt w) s s x w 1) ∧
      ((s.grid p).state = 2 → (s.grid p).monitor = false → (s.grid p).halting = [] → ∃ u, Starts (.preempt w) s u x w 1 (.preempt p) ∧
        { u with grids := s.grids } = s ∧ (∀ g, g ≠ p → u.grid g = s.grid g) ∧
        (∀ c, c ∈ (u.grid p).halting ↔ c ∈ s.cores.map (·.1) ∧ slotsOfGrid s p c ≠ []) ∧
        (u.grid p).state = if (u.grid p).halting = [] then 3 else 2)) ∧
    (∀ c g, c ∈ (s.grid g).halting → Completes (.preemptHalt c g) s fun t =>
      (∀ k ∈ slotsOfGrid s g c, (t.crew c k).halted = true) ∧ (∀ k, k ∉ slotsOfGrid s g c → t.crew c k = s.crew c k) ∧
      (∀ d, d ≠ c → t.core d = s.core d) ∧ (t.grid g).halting = (s.grid g).halting.filter (· ≠ c) ∧
      (t.grid g).state = if (∀ d ∈ (s.grid g).halting, d = c) ∧ (s.grid g).state = 2 then 3 else (s.grid g).state)

/-- R259, R275, R276: FREEZE freezes the crew, copy engine, port or apply engine that its descriptor names, or every crew of a
grid; a bad descriptor changes nothing. THAW answers 3 for a bad descriptor and 1 where nothing matches; .resume and .retry
make a stopped crew or engine run again, .retry unparks the lanes of B that a fault has parked; .trap sends them to .trap, or
answers 2 without one; .end ends the grid and answers once its guests are removed. The model's own choices here: log entries
97 and 98. -/
def Obligations.FreezeAndThaw : Prop :=
  ∀ (w : Op) (s : State) (x : Ctx), (∀ n, w.a ≠ .v n) → (∀ n, w.b ≠ .v n) → (∀ n, w.c ≠ .v n) → (∃ r, w.d = .u r) →
    Issues s w [] false x → (s.at x).priv = true →
    let d := usrc s x w.a
    let b := BitVec.ofNat 32 (usrc s x w.b)
    let kind := bf d 30 2
    let core := bf d 22 8
    let slot := bf d 16 6
    let unit := bf d 0 8
    let inRange (grid : Bool) : Bool := bf d 8 8 == 0 && (grid || (if kind ≤ 1 then core ≤ 191 else if kind = 2 then unit ≤ 46 else unit ≤ 191))
    let q := s.crew core slot
    let all : List (Nat × Instr) := [(0, .thawResume w), (1, .thawRetry w), (2, .thawTrap w), (3, .thawEnd w)]
    let status (v : Nat) (t : State) : Prop := LongLeft s x (wrOf x false w.d (fun _ => w32 v)) (t.at x).results ∧ MovesOn s t x
    (inRange (w.mb 0) = false → Does (.freeze w) s s x w (NoneLeft s x)) ∧
    (inRange (w.mb 0) = true →
      (w.mb 0 = true → Completes (.freeze w) s fun t => ∀ c k, k ∈ slotsOfGrid s unit c → (t.crew c k).frozen = true) ∧
      (w.mb 0 = false → kind = 0 → q.st = .resident → Completes (.freeze w) s fun t => (t.crew core slot).frozen = true) ∧
      (w.mb 0 = false → kind = 1 → Does (.freeze w) s (s.modCore core (fun o => { o with copyFrozen := true })) x w (NoneLeft s x)) ∧
      (w.mb 0 = false → kind = 2 → Does (.freeze w) s (s.modPort unit (fun p => { p with frozen := true })) x w (NoneLeft s x)) ∧
      (w.mb 0 = false → kind = 3 → Does (.freeze w) s (s.modEngine unit (fun e => { e with frozen := true })) x w (NoneLeft s x))) ∧
    (inRange (w.mb 2) = false → ∀ i ∈ all, Answers i.2 s s x w 3) ∧ (w.mb 2 = false → kind ≠ 0 → Answers (.thawEnd w) s s x w 3) ∧
    (inRange (w.mb 2) = true → w.mb 2 = false →
      (kind = 0 → q.st ≠ .resident → ∀ i ∈ all, Answers i.2 s s x w 1) ∧
      (kind = 1 → (s.core core).copyFrozen = true → ∀ i ∈ all, i.1 < 2 → Completes i.2 s fun t => status 0 t ∧
        (t.core core).copyFrozen = false ∧ ∀ o ∈ (t.core core).copies, o.cause = 0) ∧
      (kind = 2 → (s.port unit).frozen = true → ∀ i ∈ all, i.1 < 2 →
        Answers i.2 s (s.modPort unit (fun p => { p with frozen := false })) x w 0) ∧
      (kind = 3 → (s.engine unit).frozen = true → ∀ i ∈ all, i.1 < 2 →
        Answers i.2 s (s.modEngine unit (fun e => { e with frozen := false })) x w 0) ∧
      (kind = 0 → q.st = .resident → (core, slot) ≠ (x.c, x.k) →
        let parked := faultLanesOf q b
        let left (i : Nat × Instr) : List Nat := if i.1 = 1 then parked else []
        let noLog : Prop := (∀ e ∈ (s.core core).slots, ∀ p ∈ e.2.park, p.2 ≠ .log) ∧ ∀ r ∈ s.reqs, r.core = core → r.stage = .ready → r.defers = false
        (∀ i ∈ all, i.1 < 2 → (q.halted || q.frozen) = true ∨ left i ≠ [] → noLog → Completes i.2 s fun t => status 0 t ∧
          (t.crew core slot).halted = false ∧ (t.crew core slot).frozen = false ∧
          ∀ l, (t.crew core slot).parkOf l = if l ∈ left i then .no else q.parkOf l) ∧
        (∀ i ∈ all, i.1 < 2 → (q.halted || q.frozen) = false → left i = [] → Answers i.2 s s x w 1) ∧
        (parked = [] → Answers (.thawTrap w) s s x w 1) ∧
        (parked ≠ [] → q.trapent = 0xFFFFFFFF → Answers (.thawTrap w) s s x w 2) ∧
        (parked ≠ [] → q.trapent ≠ 0xFFFFFFFF → (∀ l ∈ parked, inTrap (tget 0 q.trapinfo l) = false) → Completes (.thawTrap w) s fun t =>
          status 0 t ∧ ∀ l, if l ∈ parked then (t.crew core slot).pcOf l = codeAt q.trapent ∧ tget 0 (t.crew core slot).trappc l = (q.pcOf l).addr ∧
            bf (tget 0 (t.crew core slot).trapinfo l).toNat 0 8 = (tget { cause := 0 } q.faults l).cause % 256
          else (t.crew core slot).pcOf l = q.pcOf l ∧ (t.crew core slot).parkOf l = q.parkOf l))) ∧
    (inRange true = true → w.mb 2 = true →
      let g := s.grid unit
      (g.state = 0 ∨ g.state = 4 ∨ g.monitor = true ∨ g.ended = true → Answers (.thawEnd w) s s x w 1) ∧
      (g.state ∈ [1, 2, 3] → g.monitor = false → g.ended = false → Completes (.thawEnd w) s fun t =>
        (t.grid unit).ended = true ∧ (t.grid unit).teamsLeft = 0 ∧ (∃ j ∈ t.jobs, j.kind = .thawEnd unit ∧ j.d = w.d) ∧
        ∀ e ∈ t.saves, e.2.grid ≠ unit))

/-- R248, R250, R251, R265, R278: what comes about by itself in the system: a watched line that the host takes back fires its
slots; a host access outside the open window completes poisoned, one within it reads or writes its address; a waiting event
enters its queue; a heat that is over ends for every crew of its grid at once, when the chips that have had guest crews of it
have stopped; the watchdog posts once. R241 to R244: a queued grid becomes ready when its dependences are met; the next team
or cluster of the grid whose turn it is is placed; a grid whose teams have all retired raises its completion word by 1, and is
done or frees its id. The model's own choices here: log entries 64, 65, 99, 104, 109 and 140. -/
def Obligations.SystemEvents : Prop :=
  ∀ (s : State) (g : Nat),
    let d := s.grid g
    (∀ line c k i e, s.phase = .running → tget? (s.crew c k).watches i = some e → e.armed = true → e.line = line →
      Completes (.hostLineRecall line) s fun t => t = { s with cores := t.cores } ∧ ∀ c k i, tget? (t.crew c k).watches i =
        (tget? (s.crew c k).watches i).map (fun e => if e.armed && e.line == line then { e with armed := false, fired := true } else e)) ∧
    (∀ (r : HostAccess) (n : Nat), s.phase ≠ .off → n = ((r.write.map (·.length)).getD r.len) → 0 < n → r.addr % 64 + n ≤ 64 →
      let h := s.hdmctl.toNat
      let a := bf h 19 19 * 2 ^ 21 + r.addr
      let ctx := bf h 38 12
      (bit h 63 = false ∨ bf h 0 19 * 2 ^ 21 < r.addr + n →
        Completes (.hostCxlMemAccess r) s fun t => t = { s with hostReads := s.hostReads ++ [(r.tag, none)] }) ∧
      (bit h 63 = true → r.addr + n ≤ bf h 0 19 * 2 ^ 21 → a + n ≤ 8 * 2 ^ 36 → Completes (.hostCxlMemAccess r) s fun t =>
        (r.write = none → let q := devRead s ctx a n
          t = { q.1 with hostReads := t.hostReads } ∧ t.hostReads = s.hostReads ++ [(r.tag, if q.2.2 = [] then some q.2.1 else none)]) ∧
        (∀ b, r.write = some b → t.hostReads = s.hostReads ++ [(r.tag, some [])] ∧
          ∃ org, SameMemory (devWrite s ctx (cellsAt a b) false org) t))) ∧
    (∀ die e, s.evWait.find? (fun e => e.1 == die) = some (die, e) → (if die = 0 then s.evq0 else s.evq1).length < 4096 →
      Completes (.eventQueueRetry die) s fun t => t.evWait = s.evWait.erase (die, e) ∧
        (if die = 0 then t.evq0 = s.evq0 ++ [e] ∧ t.evq1 = s.evq1 else t.evq1 = s.evq1 ++ [e] ∧ t.evq0 = s.evq0) ∧ SameMemory s t) ∧
    (d.state = 2 → d.heat < d.lr.heats → d.saved = [] → d.watermark = d.lr.teams → watermarkOf s g = d.lr.teams →
      (∀ m ∈ s.stks, ∀ h ∈ m.2.held, h.grid ≠ g) → bit d.entryNow 0 = false → d.heat + 1 < d.lr.heats →
      (d.asked = false → d.hosted ≠ [] → Completes (.heatEnd g) s fun t => t.grid g = { d with asked := true, waitFor := d.hosted } ∧
        ∀ c ∈ d.hosted, ∃ n ∈ t.notes, n.dst = c ∧ n.body = .stop g 0 false) ∧
      (d.asked = true ∨ d.hosted = [] → d.waitFor = [] → Completes (.heatEnd g) s fun t =>
        t.grid g = { d with heat := d.heat + 1, heatStart := s.podNs, dogPosted := false, watermark := 0, asked := false } ∧
        (∀ c ∈ d.hosted, ∃ n ∈ t.notes, n.dst = c ∧ n.body = .heat g (d.heat + 1)) ∧
        ∀ c k, let w := s.crew c k
          if w.st = .resident ∧ crewOfGrid s g w = true then
            t.crew c k = { w.unpark (s.clk + 2) (· == .heat) with heat := d.heat + 1, seq := [], heatAway := 0 } ∧ (t.core c).l1 = []
          else t.crew c k = w)) ∧
    (d.state = 2 → d.heat < d.lr.heats → bf d.entryNow 16 16 ≠ 0 → d.dogPosted = false → d.heatStart + bf d.entryNow 16 16 * 1000000 < s.podNs →
      Completes (.heatWatchdog g) s fun t =>
        t = (s.modGrid g (fun d => { d with dogPosted := true })).post d.die { typ := 0x0B, grid := g, value := w32 d.heat }) ∧
    (s.phase = .running → d.state = 1 → d.ready = false → depsMet s d.lr = true → Completes .dependencePoll s fun t =>
      ∀ h, t.grid h = { s.grid h with ready := (s.grid h).ready || ((s.grid h).state == 1 && depsMet s (s.grid h).lr) }) ∧
    (∀ p rest u, s.phase = .running → p < 4 → (∀ q, q < 4 → p < q → schedule s q = none) → savedTurn s p = none → waitingGrids s p = g :: rest →
      d.lr.heats = 0 → placeUnit s g = some u → Completes .schedulerPlace s fun t => t = { u with rotor := tset u.rotor p d.accepted } ∧
        (t.grid g).state = 2 ∧ (t.grid g).nextTeam = d.nextTeam + min (d.lr.ccols * d.lr.crows) (d.lr.teams - d.nextTeam)) ∧
    (d.state = 2 ∨ d.state = 3 → d.teamsLeft = 0 → d.monitor = false → d.closing = false → Completes (.gridComplete g) s fun t =>
      t = releaseGrid (s.modGrid g (fun d => { d with closing := true })) g) ∧
    (d.state = 2 ∨ d.state = 3 → d.teamsLeft = 0 → d.monitor = false → d.closing = true → gridQuiet s g = true → d.asked = true ∨ d.hosted = [] →
      d.waitFor = [] → s.commits = [] → s.jobs = [] →
      let a := s.cwtbase.toNat + 8 * d.lr.done
      Completes (.gridComplete g) s fun t =>
        (∀ e, s.cwtbase.toNat % 4096 = 0 → tget? s.msc (a / 64) = some e → e.poison = 0 → e.data.length = 64 → keyOf s e.ctx = none →
          sysPeek t a 8 = (sysPeek s a 8 + 1) % 2 ^ 64) ∧
        if bit d.lr.flags 4 then (t.grid g).state = 4 else (t.grid g).state = 0)

/-- R16 to R18, R262 to R264, R268, R269, R431: board reset gives every register its reset value; a valid identity record starts
the chip; a verified monitor image runs on cores 0 and 96; updates need a valid signature; each attestation takes a leaf. The
clock falls in steps of 25 MHz to 1.2 GHz while power is above the limit that the board has set, then matrix passes and bank
commands are throttled, and rises again to 3.0 GHz; 100 degrees hold the clock at 1.2 GHz until it has been at 95 or below for
10 ms, and 1 ms at 110 cuts the power. Scrubbing reports and poisons; links train, count errors and stay down. The model's own
choices here: log entries 6, 11, 91, 92, 105, 106, 107 and 108. -/
def Obligations.BoardEvents : Prop :=
  ∀ (s : State),
    let g := s.gremen
    let lit : Prop := s.phase = .started ∨ s.phase = .running
    let keeps (i : Instr) (g' : Gremen) : Prop := Completes i s fun t => t = { s with gremen := g' }
    (Completes .boardReset s fun t => t = { State.reset with
      free := s.free, nextId := s.nextId, env := s.env, wire := s.wire, msix := s.msix, hostReads := s.hostReads, reports := s.reports, hostMem := s.hostMem, hostPages := s.hostPages, gremen := { limit := g.limit, tripLog := g.tripLog, firmware := g.firmware, monitor := g.monitor, leaf := g.leaf } }) ∧
    (∀ r : W16, s.phase = .waitIdentity → Completes (.identityRecord r) s fun t => t = if r.getLsbD 15 && namesChip (r.toNat % 2 ^ 15) then
      { s with phase := .started, chipid := r.toNat % 2 ^ 15, gremen := { g with identity := some (r.toNat % 2 ^ 15) } } else s) ∧
    (∀ f, g.monitor = some f → s.phase = .started → recordOk f.record = true → s.cores = [] →
      if firmwareValid f then Completes .monitorStart s fun t => t.phase = .running ∧ (t.grid 0).state = 2 ∧ (t.grid 0).monitor = true ∧
        ∀ c ∈ [0, 96], (t.crew c 0).st = .resident ∧ (t.crew c 0).priv = true ∧ (t.crew c 0).ctx = 0 ∧ (t.crew c 0).live = BitVec.allOnes 32 ∧
          ∀ l, l < 32 → (t.crew c 0).pcOf l = codeAt (parseRecord f.record).entry
      else exec .monitorStart s = .fault .notEnabled) ∧
    (∀ f, Completes (.firmwareUpdate f) s fun t => t = if !(firmwareValid f) then s
      else { s with gremen := if f.monitor then { g with monitor := some f } else { g with firmware := f.record ++ f.image0 ++ f.image1 } }) ∧
    (∀ id, g.identity = some id → Completes .attestationReport s fun t =>
      t = if 2 ^ 20 ≤ g.leaf then s else { s with gremen := { g with leaf := g.leaf + 1 }, reports := s.reports ++ [{
        leaf := g.leaf, identity := id, key := (List.range 56).map Config.identityByte
        signature := (List.range 1772).map (Config.signByte g.leaf (leBytes 2 (2 ^ 15 + id))) }] }) ∧
    (∀ p : PowerReading, lit → 1000 * g.evals ≤ s.ref → g.step = none → p.limit ≤ 2400000 →
      let mw := p.milliwatts
      let g' := { g with evals := s.ref / 1000 + 1, limit := p.limit }
      (p.limit < mw → 1200 < s.mhz → keeps (.powerEvaluation p) { g' with step := some (max 1200 (s.mhz - 25)) }) ∧
      (p.limit < mw → s.mhz ≤ 1200 → Completes (.powerEvaluation p) s fun t => t.mhz = s.mhz ∧
        t.gremen = { g' with throttleMatrix := true, throttleBank := g.throttleMatrix || g.throttleBank }) ∧
      (mw ≤ p.limit → g.throttleBank = true → keeps (.powerEvaluation p) { g' with throttleBank := false }) ∧
      (mw ≤ p.limit → g.throttleBank = false → g.throttleMatrix = true → keeps (.powerEvaluation p) { g' with throttleMatrix := false }) ∧
      (mw ≤ p.limit → g.throttleBank = false → g.throttleMatrix = false → g.hold = false → s.mhz < 3000 →
        keeps (.powerEvaluation p) { g' with step := some (min 3000 (s.mhz + 25)) })) ∧
    (∀ p : PowerReading, lit → 2400000 < p.limit → exec (.powerEvaluation p) s = .fault .notEnabled) ∧
    (∀ m, g.step = some m → Completes .clockStepComplete s fun t => t = { s with mhz := m, gremen := { g with step := none } }) ∧
    (∀ c, lit → 100 ≤ c → g.hold = false → Completes (.thermalHold c) s fun t => t.gremen.hold = true ∧ t.gremen.holdFrom = s.ref ∧ t.mhz = s.mhz ∧
      t.gremen.step = if s.mhz = 1200 then none else some 1200) ∧
    (∀ r : ThermalReading, lit → r.celsius ≤ 95 → g.hold = true →
      (1000000 ≤ r.ticks → g.holdFrom + r.ticks ≤ s.ref → Completes (.thermalHoldEnd r) s fun t => t.gremen = { g with hold := false } ∧ t.mhz = s.mhz) ∧
      (r.ticks < 1000000 → exec (.thermalHoldEnd r) s = .fault .notEnabled)) ∧
    (∀ r : ThermalReading, 110 ≤ r.celsius → s.phase ≠ .off →
      (100000 ≤ r.ticks → (lit → g.hold = true ∧ g.holdFrom + r.ticks ≤ s.ref) → Completes (.thermalTrip r) s fun t =>
        t = { s with phase := .off, msix := s.msix ++ [0], gremen := { g with tripLog := g.tripLog ++ [r.celsius] } }) ∧
      (r.ticks < 100000 → exec (.thermalTrip r) s = .fault .notEnabled)) ∧
    (∀ n, lit → n < 2 ^ 34 → (Completes (.patrolScrub n .clean) s fun t => t = s) ∧
      (∀ b, Completes (.patrolScrub n (.correctable b)) s fun t => t = s.post (if n / 2 ^ 31 % 8 < 4 then 0 else 1)
        { typ := if b then 0x09 else 0x08, addr := w64 (32 * n) }) ∧
      Completes (.patrolScrub n .uncorrectable) s fun t => t = s.setPoison n true) ∧
    (∀ p c q, lit → p < 47 → Completes (.linkCalibration p c q) s fun t => (∀ r, r ≠ p → t.port r = s.port r) ∧
      t.port p = { s.port p with up := decide (farEnd s p = some (c, q)) && !(s.port p).down }) ∧
    (∀ p b, lit → p < 47 → (s.port p).up = true → Completes (.flitCrcError p b) s fun t => (∀ r, r ≠ p → t.port r = s.port r) ∧
      t.port p = if b then { s.port p with up := false, down := true } else { s.port p with trans := (s.port p).trans + 1 }) ∧
    (∀ e b, lit → e < 4 → keeps (.laserWearLevelling e b) { g with bias := tset g.bias e b }) ∧
    (lit → Completes .telemetry s fun t => ∃ v, t = { s with free := s.free + 1, gremen := { g with telemetry := g.telemetry ++ [v] } })

/-! ## Memory and ordering, from the events (spec/06_memory.md, spec/07_ordering.md) -/

/-- R169 to R173, R178 to R183, R187, R222: the course of a line request. A walk fills the TLB, and the checks go on, or its lanes
park with cause 0x10 where no entry maps the page; the first line that stopped goes on when miss entries are free; a read
takes the sectors it asked for from the memory-side cache, which fills from DRAM; a write is merged there, in host memory or
in a scratchpad, the last lane standing; read-modify-writes of a line are performed lane by lane, each on what the ones before
it left; a response without poison brings its bytes to its word's result. R206: of an access that is performed byte by byte,
some bytes may be read or written before the others. The model's own choices here: log entries 38, 39, 40, 41, 42, 46 and 142. -/
def Obligations.MemoryEvents : Prop :=
  ∀ (s : State) (id : Nat) (r : Req), findReq s id = some r →
    let dram (m f : Nat) (o : Nat) : Nat := m * 2 ^ 36 + f * 2 ^ 16 + (r.line + o) % 65536
    let comes (e : Instr) (P : State → Prop) : Prop := ∃ u, exec e s = .next (pump u r.core) ∧ P u
    let asked : List Nat := (List.range 4).filter (fun i => (if r.miss = 0 then r.mask else r.miss).getLsbD i)
    (r.stage = .walk → r.keepOld = false → (walk s r.ctx r.line).1 = none → r.acc ∈ [.load, .store] → comes (.tableWalkDone id) fun u =>
      ∀ p ∈ r.pieces, p.lane < 32 → canFault s r p.lane = true → (u.crew r.core r.slot).parkOf p.lane = .fault ∧
        ∃ f, tget? (u.crew r.core r.slot).faults p.lane = some f ∧ f.cause = 0x10) ∧
    (∀ e t, r.stage = .walk → r.keepOld = false → (walk s r.ctx r.line).1 = some (e, t) → t.big = false → comes (.tableWalkDone id) fun u =>
      tlbLookup (u.core r.core) r.ctx r.line = some t ∧
      ∀ c m f, r.acc = .load → t.rd = true → t.fw = false → tget? s.hostPages t.gpn = none → ocFind s t.gpn = some (.dram c m f) →
        reachable s c = true → f < Config.firstStagingFrame → r.rc = none →
        findReq u id = some { r with fresh := true, old := none, tr := some t, owner := some (.dram c m f), stage := .ready }) ∧
    (∀ t, r.stage = .stalled → (∀ q ∈ s.reqs, q.core = r.core → q = r) → r.acc = .load → r.space = 0 → r.tr = some t → t.dfr = false → r.rel = false →
      Completes (.coalescerResume r.core) s fun t => ∀ q ∈ t.reqs, q.id = id → q.stage ≠ .stalled) ∧
    (served s r = true → earlyPlaces s r = [] → r.acc = .load → r.line % 256 = 0 →
      (∀ f, r.owner = some (.host f) → comes (.memoryReadAtOwner id) fun u => u.hostMem = s.hostMem ∧ u.msc = s.msc ∧ ∃ d,
        findReq u id = some { r with stage := .respond, data := d } ∧
        ∀ i ∈ asked, ∀ j, j < 64 → tget 0 d (64 * i + j) = s.hostMem.get (f * 65536 + (r.line + 64 * i) % 65536 + j)) ∧
      (∀ t m f, r.owner = some (.dram s.chipid m f) → r.tr = some t → t.fw = false → m < 8 → f < 2 ^ 20 → Memory.wf s.dram = true →
        comes (.memoryReadAtOwner id) fun u => ∃ d bad, findReq u id = some { r with stage := .respond, data := d, poison := r.poison ++ bad } ∧
          ∀ i ∈ asked, ∃ e, let n := dram m f (64 * i) / 64
            tget? u.msc n = some e ∧ (∀ j, j < 64 → j < e.data.length → tget 0 d (64 * i + j) = e.data.getD j 0) ∧
            match tget? s.msc n with
            | none => e.data = granRead s r.ctx (2 * n) ++ granRead s r.ctx (2 * n + 1) ∧ e.dirty = false
            | some e0 => keyOf s e0.ctx = keyOf s r.ctx → e = e0)) ∧
    (r.acc = .store → earlyPlaces s r = [] →
      let late (l : List (Nat × Byte)) : List (Nat × Byte) := l.filter (fun e => (tget? r.early (e.1 % 256)).isNone)
      (r.space = 1 → scratchTurn s r = true → Completes (.memoryWriteAtOwner id) s fun t => t.dram = s.dram ∧ t.msc = s.msc ∧ t.hostMem = s.hostMem ∧
        ∀ a, tget 0 (t.core r.tgt).scratch a = lastOf (late (r.pieces.flatMap (fun p => cellsAt p.addr p.data))) a (tget 0 (s.core r.tgt).scratch a)) ∧
      (r.space = 0 → served s r = true → r.line % 256 = 0 → (∀ p ∈ r.pieces, p.addr / 256 = r.line / 256 ∧ p.addr % 256 + p.data.length ≤ 256) →
        (∀ f, r.owner = some (.host f) → Memory.wf s.hostMem = true → comes (.memoryWriteAtOwner id) fun u => u.dram = s.dram ∧ u.msc = s.msc ∧
          ∀ a, u.hostMem.get a = lastOf (late (r.pieces.flatMap (fun p => cellsAt (f * 65536 + p.addr % 65536) p.data))) a (s.hostMem.get a)) ∧
        (∀ t m f, r.owner = some (.dram s.chipid m f) → r.tr = some t → t.fw = false → m < 8 → f < 2 ^ 20 → comes (.memoryWriteAtOwner id) fun u =>
          u.hostMem = s.hostMem ∧
          let cells := late (r.pieces.flatMap (fun p => cellsAt (dram m f 0 + p.addr % 256) p.data))
          ∀ n e, n ∈ cells.map (fun c => c.1 / 64) → tget? s.msc n = some e → keyOf s e.ctx = keyOf s r.ctx → e.poison = 0 → e.data.length = 64 →
            ∃ e', tget? u.msc n = some e' ∧ e'.dirty = true ∧ e'.poison = 0 ∧ e'.ctx = r.ctx ∧
              ∀ j, j < 64 → e'.data.getD j 0 = lastOf cells (64 * n + j) (e.data.getD j 0)))) ∧
    (∀ fn ret, r.acc = .rmw fn ret →
      (r.space = 1 → scratchTurn s r = true →
        let one (a : (Nat → Byte) × List (Nat × BitVec 128)) (p : Piece) : (Nat → Byte) × List (Nat × BitVec 128) :=
          if p.len = 0 then a
          else
            let old := leNat ((List.range p.len).map (fun i => a.1 (p.addr + i)))
            (match rmwNew fn p.len old p.b.toNat p.c.toNat with
              | some v => fun j => if p.addr ≤ j ∧ j < p.addr + p.len then (leBytes p.len v).getD (j - p.addr) 0 else a.1 j
              | none => a.1, a.2 ++ [(p.lane, BitVec.ofNat 128 old)])
        let q := r.pieces.foldl one (fun j => tget 0 (s.core r.tgt).scratch j, [])
        comes (.atomicAtOwner id) fun u => (∀ j, tget 0 (u.core r.tgt).scratch j = q.1 j) ∧ u.dram = s.dram ∧ u.msc = s.msc ∧
          findReq u id = if ret then some { r with stage := .respond, olds := q.2 } else none) ∧
      (∀ t m f p e, r.space = 0 → served s r = true → r.owner = some (.dram s.chipid m f) → r.tr = some t → t.fw = false → m < 8 → f < 2 ^ 20 →
        r.pieces = [p] → r.line = p.addr / 256 * 256 → p.len ∈ [4, 8, 16] → p.addr % p.len = 0 →
        let a := dram m f 0 + p.addr % 256
        tget? s.msc (a / 64) = some e → keyOf s e.ctx = keyOf s r.ctx → e.poison = 0 → e.data.length = 64 →
        let old := leNat ((e.data.drop (a % 64)).take p.len)
        comes (.atomicAtOwner id) fun u =>
          (findReq u id = if ret then some { r with stage := .respond, olds := [(p.lane, BitVec.ofNat 128 old)] } else none) ∧
          ∃ e', tget? u.msc (a / 64) = some e' ∧ e'.data = match rmwNew fn p.len old p.b.toNat p.c.toNat with
            | some v => e.data.take (a % 64) ++ leBytes p.len v ++ e.data.drop (a % 64 + p.len)
            | none => e.data)) ∧
    (r.acc = .load → r.olds = [] → r.res ≠ 0 →
      let brings (byte : Piece → Nat → Byte) (u : State) : Prop := ∀ f, s.fills.find? (fun f => f.res == r.res) = some f →
        let cells := r.pieces.flatMap (fun p => (List.range p.len).map (fun i => (16 * p.lane + p.at_ + i, byte p i)))
        ∃ b, (∀ k, tget 0 b k = lastOf cells k (tget 0 f.bytes k)) ∧
          if (∃ q ∈ s.reqs, q.res = r.res ∧ q.id ≠ id) ∨ (∃ c ∈ s.cores, ∃ k ∈ c.2.slots, ∃ v ∈ k.2.waits, v.res = r.res) then
            { f with bytes := b } ∈ u.fills
          else ∀ q ∈ (s.crew f.core f.slot).results, q.id = r.res →
            { q with ready := true, wr := q.wr ++ Fill.wr { f with bytes := b } } ∈ (u.crew f.core f.slot).results
      let first (p : Piece) (i : Nat) (v : Byte) : Byte := (tget? r.early (p.addr % 256 + i)).getD v
      (r.space = 1 → scratchTurn s r = true → Completes (.loadResponse id) s fun t => SameMemory s t ∧
        if earlyPlaces s r = [] then brings (fun p i => first p i (tget 0 (s.core r.tgt).scratch (p.addr + i))) t
        else ∃ e, findReq t id = some { r with early := e } ∧
          ∀ i, tget? e i = if i ∈ earlyPlaces s r then some (tget 0 (s.core r.tgt).scratch (r.line + i)) else tget? r.early i) ∧
      (r.space = 0 → respondTurn s r = true → r.poison = [] → comes (.loadResponse id) fun u =>
        brings (fun p i => first p i (tget 0 r.data (p.addr % 256 + i))) u ∧ SameMemory s u))

/-- R92, R209, R218, R225, R280: a wait reads its words again; a system-scope release cleans the memory-side cache and asks every
other chip of the pod instance to clean its own; an order that nothing holds up, whose clean requests are all answered,
completes: a fence leaves and its acquire empties the L1, a LAUNCH begins to read its record, an MSI-X vector is sent, a
heat's arrival counts. A held REDF stands at its slice with its key; when the watermark rises, what lies below it is applied.
The model's own choices here: log entries 59, 61, 64, 65 and 136. -/
def Obligations.OrderEvents : Prop :=
  (∀ (s : State) (c k id : Nat) (w : Wait), (s.crew c k).waits.find? (fun w => w.id == id) = some w → (s.crew c k).halted = false →
    (s.crew c k).frozen = false → (∀ q ∈ s.reqs, q.core = c → q.slot = k → q.acc ≠ .wait id) →
    let again (q : Wait) : Wait := if q.id = id then { q with since := s.clk } else q
    ∃ u new, exec (.waitwRecheck c k id) s = .next (pump u c) ∧
      u = { s.modCrew c k (fun k => { k with waits := k.waits.map again }) with reqs := s.reqs ++ new, nextId := u.nextId } ∧
      new.map (fun q => (q.line, q.pieces)) = lineGroups false ((lanesOf w.lanes).map (fun l =>
        { lane := l, addr := (tget 0 w.addrs l).toNat, n := if w.w64 then 8 else 4, tgt := c })) ∧
      ∀ q ∈ new, q.acc = .wait w.id ∧ q.core = c ∧ q.slot = k ∧ q.res = w.res ∧ q.stage = if w.sp then .scratch else .look) ∧
  (∀ (s : State) (c k : Nat) (o : Ord), let w := s.crew c k
    w.st = .resident → w.ords = [o] → enginesOpen s c k o = false → w.lostWrite = false → (o.rel = true → writesOpen s c k o.lanes o.before = false) →
    (o.rel = true → o.scope = 5 → o.asked = false → (o.after = .fack → fabricOpen s w.uid o.before = false) →
      ∃ u, exec (.orderingComplete c k) s = .next (pump u c) ∧
        (u.crew c k).ords = [{ o with asked := true, waitFor := podChips s w }] ∧ (∀ n e, tget? u.msc n = some e → e.dirty = false) ∧
        u.notes.map (fun m => (m.dst, m.body)) = s.notes.map (fun m => (m.dst, m.body)) ++
          (podChips s w).map (fun chip => (chip, .cleanAsk c k w.uid))) ∧
    ((o.rel = true → o.scope = 5 → o.asked = true) → (∀ chip ∈ o.waitFor, (s.conn chip).lost = true) →
    let comes (P : State → Prop) : Prop := ∃ u, exec (.orderingComplete c k) s = .next (pump u c) ∧ (u.crew c k).ords = [] ∧ P u
    (o.after = .fence → (o.acq = true → readsOpen s c k o.lanes o.before = false) → comes fun u =>
      o.acq = true → 2 ≤ o.scope → (u.core c).l1 = []) ∧
    (o.after = .heat → o.engines = 0 → comes fun u => u = s.modCrew c k (fun w => { w with ords := [] })) ∧ (∀ v, o.after = .irq v → comes fun u => u.msix = s.msix ++ [v]) ∧
    (∀ d a wait res, o.after = .launch d a wait res → comes fun u => ∃ j, u.jobs = s.jobs ++ [j] ∧ j.core = c ∧ j.slot = k ∧ j.res = res ∧ j.d = d ∧
      j.kind = .launch [] a.toNat wait (launcherOf s w)))) ∧
  (∀ (s : State) (id : Nat) (r : Req) (fn : RmwFn) (t : Trans) (c m f : Nat), findReq s id = some r → r.acc = .redf fn true → r.owner = some (.dram c m f) →
    r.tr = some t → t.fw = false → served s r = true → ∃ u, exec (.redfAtSlice id) s = .next (pump u r.core) ∧ (∀ q ∈ u.reqs, q.id ≠ id) ∧
      ∃ new, (u.stack m).held = (s.stack m).held ++ new ∧ new.map (fun h => (h.addr, h.value, h.fn, h.grid)) =
        r.pieces.map (fun p => (m * 2 ^ 36 + f * 2 ^ 16 + p.addr % 65536, p.b.setWidth 32, fn, (s.team r.core r.ts).grid)) ∧
        ∀ e ∈ new.zip r.pieces, ∀ y, e.2.key = some y → e.1.key = y) ∧
  (∀ (s : State) (g : Nat), let d := s.grid g
    d.state = 2 → d.heat < d.lr.heats → d.watermark < watermarkOf s g → Completes (.watermarkBroadcast g) s fun t =>
      (t.grid g).watermark = watermarkOf s g ∧ ∀ m h, m < 8 → (h ∈ (t.stack m).held ↔ h ∈ (s.stack m).held ∧
        ¬(h.grid = g ∧ h.chip = s.chipid ∧ h.key.team < watermarkOf s g)))

/-! ## Deferred operations (spec/09_deferred.md) -/

/-- R319, R320: DST, DRED and DRED64 ask, at a canonical address, for one append in each executing lane of its bytes or operand.
R306, R307, R320: COMMIT and COMMIT.nw release and arrive; a guest crew may commit its team only, and none inside a heat. R321
to R325: CPOLL gives 1 once the crew's commit is complete; DFLUSH empties the log and the bins of the team's records; DCOUNT
gives the outstanding weight or the free log slots; DMODE changes DCFG under its mask, which the words of its clock do not
see; DBIND pins a free bin, or the least recently used one that is not pinned, and answers 0, 1 or 2. The model's own choices
here: log entries 65, 68, 71 and 144. -/
def Obligations.DeferredWords : Prop :=
  ∀ (w : Op) (s : State) (x : Ctx),
    let k := s.at x
    let T := s.team x.c k.ts
    let n := widthOf w.ty
    let acc (n l : Nat) : LaneAcc :=
      { lane := l, addr := addr64 s x w l, n, data := bytesAt s x w n l, b := BitVec.ofNat 128 (leNat (bytesAt s x w n l)) }
    (Issues s w [] false x → (∀ l ∈ lanesOf x.on, addr64 s x w l + n ≤ 2 ^ 57) →
      Asks (.dst w) s x { acc := .dst, width := n } ((lanesOf x.on).map (acc n))) ∧
    (∀ e ∈ [(Instr.dred w, 4), (.dred64 w, 8)], Issues s w [] false x →
      (∀ l ∈ lanesOf x.on, addr64 s x w l + e.2 ≤ 2 ^ 57) →
      Asks e.1 s x { acc := .dred (w.mf 0 6), width := e.2 } ((lanesOf x.on).map (acc e.2))) ∧
    (Issues s w [] false x → notConverged x 32 = false →
      (k.guest = none ∨ w.mf 0 3 = 1 → inHeat s k = false →
        let o (nw : Bool) (before res : Nat) : Ord :=
          { rel := true, acq := false, scope := if k.guest = none then w.mf 0 3 else 3, lanes := x.on, before, after := .commit nw (w.mf 0 3) res }
        Orders (.commit w) s s x w (o false (s.nextId + 1) s.nextId) (OpenLeft x s.nextId .no 0) ∧
        Orders (.commitNw w) s s x w (o true s.nextId 0) (NoneLeft s x)) ∧
      (k.trapent ≠ 0xFFFFFFFF → (∀ l ∈ lanesOf x.on, inTrap (tget 0 k.trapinfo l) = false) →
        ∀ i ∈ [Instr.commit w, .commitNw w],
          let traps (cause : Nat) : Prop := Completes i s fun t => Traps s t x (lanesOf x.on) cause 0 (fun l => if l ∈ lanesOf x.path then x.next else k.pcOf l)
          (k.guest ≠ none → w.mf 0 3 ≠ 1 → traps 0x03) ∧ (k.guest = none ∨ w.mf 0 3 = 1 → inHeat s k = true → traps 0x50))) ∧
    (Opd.writes w.d = true → Issues s w (vdst w.d 1) false x →
      let arriving : Prop := ∃ o ∈ k.ords, ∃ nw sc res, o.after = .commit nw sc res
      let gives (v : W32) (t : State) : Prop := Leaves s t x 4 (wrOf x false w.d (fun _ => v))
      (arriving → Completes (.cpoll w) s fun t => gives 0 t ∧ OnlyResult s t x (lastRegs x.h w 1 1 1)) ∧
      (¬arriving → k.commit = none → Completes (.cpoll w) s fun t => gives 1 t ∧ (2 ≤ k.lastScope → (t.core x.c).l1 = [])) ∧
      (∀ r m, ¬arriving → k.commit = some r → findCommit s r.id = some m →
        (commitDone s m = false → Completes (.cpoll w) s fun t => gives 0 t ∧ OnlyResult s t x (lastRegs x.h w 1 1 1)) ∧
        (commitDone s m = true → r.nw = true → Completes (.cpoll w) s fun t => gives 1 t ∧ (t.at x).commit = none ∧
          (t.at x).uncovered = k.uncovered &&& ~~~k.armedAt)) ∧
      Completes (.dmodeGet w) s (fun t => gives (if T.dcfgAt = some s.clk then T.dcfgWas else T.dcfg) t ∧ OnlyResult s t x (lastRegs x.h w 1 1 1))) ∧
    (Opd.writes w.d = true → Issues s w (vdst w.d 1) true x → Completes (.dcount w) s fun t => OnlyResult s t x (lastRegs x.h w 1 1 1) ∧
      Leaves s t x 4 (wrOf x true w.d (fun _ => w32 (if w.mb 0 then (s.core x.c).logFree else min (T.appended - T.acked) (2 ^ 32 - 1))))) ∧
    (Issues s w [] false x →
      let b := rd s x w.imm w.b x.low &&& 0x1FFFF
      Does (.dmode w) s (s.modTeam x.c k.ts (fun m =>
        { m with dcfg := (m.dcfg &&& ~~~b) ||| (rd s x w.imm w.a x.low &&& b), dcfgAt := some s.clk
                 dcfgWas := if m.dcfgAt = some s.clk then m.dcfgWas else m.dcfg })) x w (NoneLeft s x)) ∧
    (Issues s {} [] false x → (∀ e ∈ (s.core x.c).slots, ∀ p ∈ e.2.park, p.2 ≠ .log) → (∀ r ∈ s.reqs, r.core = x.c → r.stage ≠ .ready) →
      Completes .dflush s fun t => MovesOn s t x ∧ (∀ e ∈ (t.core x.c).log, e.ts ≠ k.ts) ∧ (∀ c ∈ (t.core x.c).spill, c.ts ≠ k.ts) ∧
        ∀ b, ∀ r ∈ (t.bin (quadOfCore x.c) b).recs, ¬(r.2.ts = k.ts ∧ r.2.ciq = ciqOfCore x.c)) ∧
    (Issues s w [] false x → (∃ d, w.d = .u d) →
      let chip := (rd s x w.imm w.b x.low).toNat % 2 ^ 15
      let q := quadOfCore x.c
      let mine (e : Nat × Bin) : Bool := e.2.pin == some (x.c, k.ts) && e.2.chip == some chip
      let pins := ((s.quad q).bins.filter (fun e => e.2.pin.isSome)).length
      (namesChip chip = false ∨ chip = s.chipid → Answers (.dbind w) s s x w 2 ∧ Answers (.dbindRel w) s s x w 2) ∧
      (namesChip chip = true → chip ≠ s.chipid →
        ((s.quad q).bins.any mine = true → Answers (.dbind w) s s x w 0) ∧
        ((s.quad q).bins.any mine = false → 16 ≤ pins → Answers (.dbind w) s s x w 1) ∧
        ((s.quad q).bins.any mine = false → pins < 16 → Completes (.dbind w) s fun t => LongLeft s x (wrOf x false w.d (fun _ => 0)) (t.at x).results ∧
          ∃ b, 192 ≤ b ∧ b < 256 ∧ (t.bin q b).pin = some (x.c, k.ts) ∧ (t.bin q b).chip = some chip ∧ (t.bin q b).recs = [] ∧
            (s.bin q b).pin = none ∧ ((s.bin q b).chip = none ∨ ∀ d, 192 ≤ d → d < 256 → (s.bin q d).pin = none →
              (s.bin q d).chip ≠ none ∧ (s.bin q b).lastUse ≤ (s.bin q d).lastUse)) ∧
        Answers (.dbindRel w) s (s.modQuad q (fun u => { u with bins := u.bins.map (fun e => if mine e then (e.1, { e.2 with pin := none }) else e) }))
          x w 0))

/-- R291 to R304, R308: a chunk of spilled records stands; the oldest record of a log enters its bin; a bin that has waited too
long ships; an engine stages the records of a bin, releases those of an origin on its notice, and applies the lowest row
first, changing the bytes of its word in DRAM and answering with the record's weight, which reaches the account; a token of
another chip counts for its commit; a base-die alert is posted. The model's own choices here: log entries 57, 66, 69 and 73. -/
def Obligations.DeferredEvents : Prop :=
  (∀ (s : State) (c : Nat) (k : Chunk), (s.core c).spill.find? (·.writing) = some k → ∃ u, exec (.logSpillDone c) s = .next (wakeLog u c) ∧
    (u.core c).log = (s.core c).log ∧ (u.core c).spill = ((s.core c).spill.map (fun q => if q.no = k.no ∧ q.grid = k.grid then { q with writing := false } else q)).filter
      (fun q => !q.recs.isEmpty)) ∧
  (∀ (s : State) (c : Nat) (e : LogEnt) (t : List LogEnt), (s.core c).log = e :: t → (∀ k ∈ (s.core c).spill, k.ts ≠ e.ts) → e.rcd.chip = s.chipid →
    let q := quadOfCore c
    let b := engineOf (8 * e.rcd.wi)
    let rs := (s.bin q b).recs ++ [(s.clk, { ciq := ciqOfCore c, ts := e.ts, wt := 1, op := e.rcd.op, mw := e.rcd.mw, wi := e.rcd.wi, value := e.rcd.value,
                                             key := e.rcd.key, gpn := e.rcd.gpn, gen := (s.team c e.ts).rels })]
    (∀ v ∈ (s.quad q).bins, ∀ r ∈ v.2.recs, r.2.gpn = e.rcd.gpn → v.1 < 192 ∧ r.2.wi / 8192 = e.rcd.wi / 8192) →
    (∀ r ∈ (s.bin q b).recs, ¬(r.2.wi = e.rcd.wi ∧ r.2.gpn = e.rcd.gpn ∧ r.2.ciq = ciqOfCore c ∧ r.2.ts = e.ts)) → binSlotsOf (rs.map (·.2)) < Config.binSlots →
    ∃ u, exec (.binRecordAdd c) s = .next (wakeLog u c) ∧ (u.core c).log = t ∧ (u.core c).spill = (s.core c).spill ∧ (u.bin q b).recs = rs ∧
      ∀ d, d ≠ b → (u.bin q d).recs = (s.bin q d).recs) ∧
  (∀ (s : State) (q b : Nat), let rs := (s.bin q b).recs
    (∃ e ∈ rs, let age := bf (s.team (coreOfQuad q e.2.ciq) e.2.ts).dcfg.toNat 0 16
      age ≠ 0 ∧ e.1 + 256 * age < s.clk) → Completes (.binAgeExpiry q b) s fun t => (t.bin q b).recs = [] ∧ (∀ d, d ≠ b → t.bin q d = s.bin q d) ∧
        (b < 192 → ∃ m, t.net = s.net ++ [m] ∧ m.dst = b ∧ m.chip = s.chipid ∧ m.body = .bin q (rs.map (·.2)))) ∧
  (∀ (s : State) (id : Nat) (m : Msg) (q : Nat) (l : List BinRec), findMsg s id = some m → m.body = .bin q l → m.pkt = false → msgTurn s m = true →
    m.dst < 192 → (s.engine m.dst).frozen = false → (s.engine m.dst).staged.length + l.length ≤ Config.stagedRecords → s.rnotes = [] →
    (∀ r ∈ (s.engine m.dst).staged, canApply s r = false) → (m.chip = s.chipid → unitWaits s q id s.chipid l = false) →
    (∀ r ∈ l, recSt s r = .serve ∨ recSt s r = .hold) →
    Completes (.binAccept id) s fun t => t.net = s.net.filter (fun n => !(n.id == id)) ∧ (t.engine m.dst).staged = (s.engine m.dst).staged ++
      l.map (fun r => { rcd := r, org := { chip := m.chip, quad := q, ciq := r.ciq, ts := r.ts }, released := false })) ∧
  (∀ (s : State) (id : Nat) (m : Msg) (o : RecOrigin) (n : Nat), findMsg s id = some m → m.body = .notice o n → m.pkt = false → msgTurn s m = true →
    Completes (.releaseNotice id) s fun t => (∃ new, t.net = s.net.filter (fun n => !(n.id == id)) ++ new) ∧
      (t.engine m.dst).staged = (s.engine m.dst).staged.map (fun r => if r.org = o then { r with released := true } else r)) ∧
  (∀ (s : State) (e : Nat) (r : Staged), (s.engine e).frozen = false → nextApply s e = some r →
    let a := 8 * r.rcd.wi
    let p := a + (mwBytes r.rcd.mw).1
    let n := (mwBytes r.rcd.mw).2
    Completes (.recordApply e) s fun t => (t.engine e).staged = (s.engine e).staged.erase r ∧
      (r.org.chip = s.chipid → ∃ m, t.net = s.net ++ [m] ∧ m.body = .wack r.org.quad r.org.ciq r.org.ts r.rcd.wt) ∧
      ((∀ i, i < 4 → tget? s.msc (a / 256 * 4 + i) = none) → tget false s.poison (a / 32) = false → r.rcd.mw < 16 → Memory.wf s.dram = true →
        tget? s.gkey (a / 32) = keyOf s (entCtx (frameEntry s (stackOf a) (frameOf a))) →
        entCtx (frameEntry s (stackOf a) (frameOf a)) ∉ s.keysGone →
        let v := recNew r.rcd.op n (leNat (s.dram.read n p)) r.rcd.value.toNat
        ∀ b, t.dram.get b = if p ≤ b ∧ b < p + n then (leBytes n v).getD (b - p) 0 else s.dram.get b)) ∧
  (∀ (s : State) (id : Nat) (m : Msg) (q ciq ts w : Nat), findMsg s id = some m → m.body = .wack q ciq ts w → (s.team (coreOfQuad q ciq) ts).fwd = none →
    ∃ u, exec (.weightAck id) s = .next (settleCommits u) ∧ (u.team (coreOfQuad q ciq) ts).acked = (s.team (coreOfQuad q ciq) ts).acked + w) ∧
  (∀ (s : State) (chip g n : Nat) (m : Msg), s.net.find? (fun m => m.chip == chip && m.body == .token g n) = some m →
    ∃ u, exec (.commitToken chip g n) s = .next (settleCommits u) ∧ u.tokens = s.tokens ++ [(chip, g, n)] ∧ u.net = s.net.filter (fun p => !(p.id == m.id))) ∧
  (∀ (s : State) (m pc : Nat), m < 8 → pc < 384 → Completes (.activationAlert m pc) s fun t =>
    t = s.post (if m < 4 then 0 else 1) { typ := 0x07, value := w32 (m * 384 + pc) })

/-! ## Copy engines (spec/11_copy.md) -/

/-- R333 to R335, R343 to R350: with room in the queue, and its ranges and completion word inside what R335 allows, a copy word
queues its operation and gives its ticket, or with no bytes to move adds to its completion word at once; with a full queue its
crew leaves for the pending set; a length or a privilege that R335 refuses faults with cause 0x11. R351, R352: CWAIT waits on
its word; CSTAT and CQRY tell of the queue. The model's own choices here: log entry 14. -/
def Obligations.CopyWords : Prop :=
  ∀ (w : Op) (s : State) (x : Ctx),
    let k := s.at x
    let q := s.core x.c
    let d := leNat ((rdRun s x w.a 4 x.low).flatMap (fun v => leBytes 4 v.toNat))
    let n := (rd s x 0 w.b x.low).toNat
    let ss := w.mf 9 2
    let ds := w.mf 7 2
    let mod (space : Nat) : Nat := if space = 0 then 2 ^ 64 else 2 ^ 32
    let lines (r n : Nat) : List Nat := if ds = 0 then [] else rangeLines r n
    (∀ cw : Option Nat, q.copies.length < 32 → (∃ r, w.d = .u r) → Issues s w [] false x →
      (if bit w.imm.toNat 31 then cw = none else ∃ r, Lies s x 1 (bf w.imm.toNat 2 16 * 4) 4 r ∧ cw = some (r % 2 ^ 32)) →
      let op (kind : CopyKind) : CopyOp :=
        { ticket := q.ticket.toNat, kind, slot := x.k, ts := k.ts, grid := k.grid, ctx := k.ctx, priv := k.priv, ss, ds, src := 0, dst := 0
          n := 0, cw, pc := x.pc.addr, uid := k.uid, before := s.nextId }
      let queues (i : Instr) (o : CopyOp) : Prop := Queues i s s x w o
      let ended (i : Instr) : Prop := Does i s (s.modCore x.c (fun q =>
          let q := { q with ticket := q.ticket + 1 }
          match cw with
          | some a => q.scrWrite (cellsAt a (leBytes 4 (leNat (q.scrRead a 4) + 1)))
          | none => q)) x w (FixedLeft s x 4 (wrOf x false w.d (fun _ => q.ticket)))
      ((∀ a b, n ≤ 2 ^ 24 → Lies s x ss (bf d 0 64) n a → Lies s x ds (bf d 64 64) n b →
          if n = 0 then ended (.cpy w) else queues (.cpy w) { op .cpy with src := w64 a, dst := w64 b, n, claims := lines b n }) ∧
        (∀ b, n ≤ 2 ^ 24 → bf d 96 32 = 0 → Lies s x ds (bf d 0 64) n b →
          if n = 0 then ended (.cfill w) else queues (.cfill w) { op .cfill with dst := w64 b, n, aux := bf d 64 32, claims := lines b n }) ∧
        (let count := bf d 80 16
         let run := bf d 64 16
         ∀ runs : Nat → Nat, (ss = 0 ∨ bf d 0 64 < 2 ^ 32) → 1 ≤ count → count ≤ 4096 → 64 ≤ run → run ≤ 4096 → run % 64 = 0 →
           (∀ j, j < count → Lies s x ss ((bf d 0 64 + j * bf d 96 32) % mod ss) run (runs j)) →
           queues (.feed w) { op .feed with src := w64 (runs 0), n := run, elem := count, stride := bf d 96 32, sel := w.mf 0 1
                                            lanes := (List.range count).map (fun j => (runs j, 0)) }) ∧
        (let row0 := bf d 96 8
         let count := bf d 104 8
         let stride := bf d 64 32
         ∀ rows : Nat → Nat, (ds = 0 ∨ bf d 0 64 < 2 ^ 32) → bf d 112 16 = 0 → 1 ≤ count → row0 + count ≤ 64 → stride % 4 = 0 → 256 ≤ stride →
           (∀ r, r < count → Lies s x ds ((bf d 0 64 + r * stride) % mod ds) 256 (rows r)) →
           ∀ t, (s.team x.c k.ts).tiles[w.mf 0 3]? = some t →
           Queues (.drain w) s (s.modQuad (quadOfCore x.c) (fun u => { u with reads := u.reads ++ [{
               id := s.nextId + 2, after := (u.table.filter (fun e => e.tile == t)).map (·.id), core := x.c, slot := x.k, tile := t
               row := 0, half := 0, lanes := 0, res := 0, d := .no, ticket := some q.ticket.toNat }] })) x w
             { op .drain with dst := w64 (rows 0), n := 256, elem := count, stride, aux := row0, sel := w.mf 0 3
                              lanes := (List.range count).map (fun r => (256 * r, rows r))
                              claims := if ds = 0 then [] else ((List.range count).flatMap (fun r => rangeLines (rows r) 256)).eraseDups }) ∧
        (bf d 96 32 = 0 → 1 ≤ bf d 80 16 → bf d 80 16 ≤ 2048 → bf d 64 16 ≠ 0xFFFF → (k.priv = true ∨ otherGrid s x.c k.grid = false) →
          Queues (.ovld w) s (s.modCore x.c (fun q => q.setOv (w.mf 0 1) { q.ov (w.mf 0 1) with loading := some (bf d 64 16) })) x w
            { op .ovld with src := w64 (bf d 0 64), n := 32 * bf d 80 16, sel := w.mf 0 1, aux := bf d 64 16 }) ∧
        (∀ a, Lies s x ss (bf d 0 64) n a → k.priv = true → 4 ≤ n → n ≤ 4096 → n % 4 = 0 → bf d 117 11 = 0 → bf d 64 38 % 4 = 0 →
          queues (.winw w) { op .winw with src := w64 a, dst := w64 (bf d 64 38), n, aux := bf d 102 15 })) ∧
      (let e := 2 ^ w.mf 3 4
       let src := bf d 0 64
       let dst := bf d 64 64
       (ss = 0 ∨ src < 2 ^ 32) → (ds = 0 ∨ dst < 2 ^ 32) →
       (∀ (a : Nat) (el : Nat → Nat × Nat), Lies s x ds dst (32 * e) a →
         (∀ l ∈ lanesOf x.on, Lies s x ss ((src + (rd s x 0 w.b l).toNat * e) % mod ss) e (el l).1 ∧ Lies s x ds ((dst + l * e) % mod ds) e (el l).2) →
         queues (.cpyg w) { op .cpyg with src := w64 src, dst := w64 dst, n := e, elem := e, lanes := (lanesOf x.on).map el, claims := lines a (32 * e) }) ∧
       (∀ (a : Nat) (el : Nat → Nat × Nat), Lies s x ss src (32 * e) a →
         (∀ l ∈ lanesOf x.on, Lies s x ss ((src + l * e) % mod ss) e (el l).1 ∧ Lies s x ds ((dst + (rd s x 0 w.b l).toNat * e) % mod ds) e (el l).2) →
         queues (.cpyx w) { op .cpyx with src := w64 src, dst := w64 dst, n := e, elem := e, lanes := (lanesOf x.on).map el
                                          claims := if ds = 0 then [] else ((lanesOf x.on).flatMap (fun l => rangeLines (el l).2 e)).eraseDups }))) ∧
    (Issues s w [] false x →
      (32 ≤ q.copies.length → ∀ i ∈ [Instr.cpy w, .cpyg w, .cpyx w, .feed w, .drain w, .ovld w, .winw w, .cfill w],
        Retries i s x) ∧
      (q.copies.length < 32 → s.evq0.length < 4096 → s.evq1.length < 4096 → ∀ e ∈ [(Instr.cpy w, decide (2 ^ 24 < n)),
          (.cfill w, decide (2 ^ 24 < n)), (.winw w, !k.priv)], e.2 = true →
        Refuses e.1 s x 0x11) ∧
      (let a := (rd s x w.imm w.a x.low).toNat
       (∀ n, w.a ≠ .v n) → (∀ n, w.b ≠ .v n) → k.guest = none → a % 4 = 0 → inRun s x.c k.ts a 4 →
         Waits (.cwait w) s x w [] (waitRec 2 2 0 false true .no)
           (fun l => { lane := l, addr := (s.team x.c k.ts).scrBase + a, n := 4, space := 1 })
           (fun l => (rd s x w.imm w.b l).setWidth 64) (fun _ => BitVec.allOnes 64))) ∧
    (Opd.writes w.d = true → Issues s w (vdst w.d 1) true x →
      (Completes (.cstat w) s fun t => OnlyResult s t x (lastRegs x.h w 1 1 1) ∧ Leaves s t x 4 (wrOf x true w.d (fun _ =>
        w32 ((32 - q.copies.length) * 2 ^ 26 + (q.copies.filter (fun o => o.ts == k.ts && o.ofWord)).length * 2 ^ 20 +
          if q.copyFrozen then 2 ^ 19 else 0)))) ∧
      (Completes (.cqry w) s fun t => OnlyResult s t x (lastRegs x.h w 1 1 1) ∧ Leaves s t x 4 (wrOf x true w.d (fun _ =>
        if q.copies.any (fun o => o.ticket == (rd s x w.imm w.b x.low).toNat) then 0 else 1))))

/-- R333, R338 to R341, R347, R349: operations start in queue order, at most four at once; an operation takes its next bytes, at
most 64, and sets the presence bits of the lines that it has finished; a FEED's bytes enter its FIFO in order; a fault freezes
the engine and posts; once all is written the operation leaves the queue, its completion word rises by 1, and placement's
loads that wait come in. The model's own choices here: log entries 74, 75 and 77. -/
def Obligations.CopyEvents : Prop :=
  ∀ (s : State) (c : Nat),
    let q := s.core c
    (∀ o, q.copyFrozen = false → (q.copies.filter (·.active)).length < 4 → q.copies.find? (fun o => !o.active) = some o → forkReady s c o = true →
      Completes (.copyOpStart c) s fun t => (∃ d, findOp t c o.ticket = some { o with active := true, done := d }) ∧
        (∀ n, n ≠ o.ticket → findOp t c n = findOp s c n) ∧ ∀ e, (t.core e).scratch = (s.core e).scratch) ∧
    (∀ n o u rest, findOp s c n = some o → hasTurn s c n = true → o.active = true → o.cause = 0 → o.left = u :: rest →
      let read (b : List Byte) : Prop := o.ss ≠ 0 ∧ (rangeLines u.src u.n).any (lineWaits s o.grid o.before) = false ∧
        b = (s.core (u.src / 2 ^ 32)).scrRead (u.src % 2 ^ 32) u.n
      (∀ b, o.kind = .cpy ∧ read b ∨ o.kind = .cfill ∧ b = (List.range u.n).map (fun i => BitVec.ofNat 8 (o.aux / 2 ^ (8 * ((u.dst + i) % 4)))) →
        o.ds ≠ 0 → o.buf = none → o.old = [] → unitHeld s c o u = false → Completes (.copyLineWrite c n) s fun t =>
          (∃ p, findOp t c n = some p ∧ p.left = rest ∧ { p with old := o.old, done := o.done } = { o with pos := o.pos + 1 }) ∧ (t.core c).copyTurn = some n ∧
          ∀ e a, tget 0 (t.core e).scratch a = let at_ := u.dst % 2 ^ 32
            if e = u.dst / 2 ^ 32 ∧ at_ ≤ a ∧ a < at_ + u.n then b.getD (a - at_) 0 else tget 0 (s.core e).scratch a) ∧
      (∀ b, o.kind = .feed → q.fifoTeam = some o.ts → q.copies.any (fun p => p.kind == .feed && p.sel == o.sel && p.before < o.before) = false →
        (if o.sel = 0 then q.fifoA else q.fifoB).length + 64 ≤ Config.fifoBytes → read b → Completes (.copyLineWrite c n) s fun t =>
          (if o.sel = 0 then (t.core c).fifoA = q.fifoA ++ b ∧ (t.core c).fifoB = q.fifoB else
            (t.core c).fifoB = q.fifoB ++ b ∧ (t.core c).fifoA = q.fifoA) ∧ findOp t c n = some { o with pos := o.pos + 1 } ∧ (t.core c).copyTurn = some n) ∧
      (o.kind = .feed → q.fifoTeam ≠ some o.ts → Completes (.copyLineWrite c n) s fun t => (t.core c).copyFrozen = true ∧
        (∃ p, findOp t c n = some p ∧ p.cause = 0x11 ∧ p.pos = o.pos) ∧
        ∃ e, t = { s.post (dieOfCore c) e with cores := t.cores, free := t.free, rdJobs := t.rdJobs } ∧ e.typ = 0x03 ∧ e.cause = 0x11 ∧
          e.value = w32 (2 ^ 30 + c * 2 ^ 22) ∧ e.pc = o.pc ∧ e.grid = if (s.team c o.ts).guest then 0xFF else o.grid)) ∧
    (∀ n o, findOp s c n = some o → o.active = true → o.cause = 0 → o.left = [] → o.seqs = [] → o.bulk = none → o.kind ≠ .cont →
      let rest := q.copies.filter (fun p => !(p.ticket == n))
      let loads := q.copyWait.take (32 - rest.length)
      Completes (.copyComplete c n) s fun t => (t.core c).copyWait = q.copyWait.drop loads.length ∧
        (t.core c).copies = rest ++ loads.zipIdx.map (fun e => { e.1 with ticket := (q.ticket + w32 e.2).toNat }) ∧
        (∀ a, o.cw = some a → leNat ((t.core c).scrRead a 4) = (leNat (q.scrRead a 4) + 1) % 2 ^ 32) ∧
        (o.kind = .ovld → (((t.core c).ov o.sel).id = o.aux) ∧ ((t.core c).ov o.sel).mem = Memory.write [] 0 (o.buf.getD [])))

/-! ## Matrix engines and select units (spec/12_matrix.md) -/

/-- R354 to R374: MMA, MMAZ and MACZ, with all 32 lanes, room in the table and a tile of the team, enter their request, and their
barrier expects one more arrival; SELK, SELKX and SAMPLE, with a descriptor within its limits, enter the select queue.
Otherwise they wait for room, trap with cause 0x03, or fault with cause 0x11. MACRD leaves its row once no earlier entry names
the tile; MRES and MREL grant and end a reservation or say why not; MSTAT tells of the quad. The model's own choices here: log
entries 14, 80 and 84. -/
def Obligations.MatrixWords : Prop :=
  ∀ (w : Op) (s : State) (x : Ctx),
    let k := s.at x
    let T := s.team x.c k.ts
    let qi := quadOfCore x.c
    let q := s.quad qi
    let bar : Option Nat := if w.mb 4 then none else some (w.mf 0 4)
    let expect (u : State) : State := match bar with
      | some n => expectEngine u x.c k.ts n
      | none => u
    let n := w.imm.toNat
    let e0 : MReq :=
      { id := s.nextId, core := x.c, slot := x.k, ts := k.ts, grid := k.grid, tile := T.tiles.getD (w.mf 8 3) 0, zero := false, mul := false
        lv := 0, aty := 0, bty := 0, sp := false, ka := false, kb := false, groups := 0, m := 0, n := 0, bar
        prio := bf (s.grid k.grid).lr.flags 2 2, age := 0, flOn := k.flOn, cntOn := k.cntOn, uid := k.uid }
    let mul (zero : Bool) : MReq :=
      { e0 with zero, mul := true, lv := w64 (usrc64 s x w.a), aty := bf n 27 5, bty := bf n 22 5, sp := w.mb 7, ka := w.mb 6, kb := w.mb 5
                groups := bf n 17 5 + 1, m := bf n 11 6 + 1, n := bf n 5 6 + 1 }
    let all : List (Instr × MReq) := [(.mma w, mul false), (.mmaz w, mul true), (.macz w, e0)]
    (Issues s w [] false x → ∀ e ∈ all, (e.2.mul = true → keepTooLarge w s x = false) →
      (x.mask = BitVec.allOnes 32 → x.on = BitVec.allOnes 32 →
        (w.mf 8 3 < T.tiles.length → q.table.length < 16 →
          Does e.1 s (expect (s.modQuad qi (fun u => { u with table := u.table ++ [e.2] }))) x w (NoneLeft s x)) ∧
        (w.mf 8 3 < T.tiles.length → 16 ≤ q.table.length → Retries e.1 s x) ∧
        (T.tiles.length ≤ w.mf 8 3 → s.evq0.length < 4096 → s.evq1.length < 4096 → Refuses e.1 s x 0x11)) ∧
      (x.mask ≠ BitVec.allOnes 32 ∨ x.on ≠ BitVec.allOnes 32 → k.trapent ≠ 0xFFFFFFFF → (∀ l ∈ lanesOf x.on, inTrap (tget 0 k.trapinfo l) = false) →
        Completes e.1 s fun t => Traps s t x (lanesOf x.on) 0x03 0 (fun l => if l ∈ lanesOf x.path then x.next else k.pcOf l))) ∧
    (∀ (r : BitVec 8) (t : Nat), w.d = .v r → Issues s w (vdst w.d 1) false x → T.tiles[w.mf 8 3]? = some t →
      (∀ r ∈ q.reads, ∃ e ∈ q.table, e.id ∈ r.after) →
      let row := usrc s x w.b % 64
      let rd_ : TileRead := { id := s.nextId + 1, after := (q.table.filter (fun e => e.tile == t)).map (·.id), core := x.c, slot := x.k, tile := t, row
                              half := w.mf 0 1, lanes := x.on, res := s.nextId, d := w.d }
      ((∃ e ∈ q.table, e.tile = t) →
        Does (.macrd w) s (s.modQuad qi (fun u => { u with reads := u.reads ++ [rd_] })) x w (OpenLeft x s.nextId w.d 1)) ∧
      ((∀ e ∈ q.table, e.tile ≠ t) → Completes (.macrd w) s fun u => OnlyCrew s { u with quads := s.quads } x ∧ (∀ i, u.quad i = s.quad i) ∧ MovesOn s u x ∧
        KeepsCrew k (u.at x) (lastRegs x.h w 1 1 1) ∧
        LongLeft s x [.v r.toNat ((lanesOf x.on).map (fun l => (l, tget 0 q.acc (t * 4096 + row * 64 + 32 * w.mf 0 1 + l))))] (u.at x).results)) ∧
    (∀ r, w.d = .u r → Issues s w [] false x →
      let n := usrc s x w.b
      let free := (List.range 8).filter (fun i => (tget? q.holders i).isNone)
      let st := if n = 0 ∨ 8 < n then 4 else if k.guest ≠ none ∨ T.tiles ≠ [] then 3 else if (s.core x.c).fifoTeam ≠ none then 2
        else if free.length < n then 1 else 0
      (st ≠ 0 → Answers (.mres w) s s x w st) ∧
      (st = 0 → Completes (.mres w) s fun t => LongLeft s x (wrOf x false w.d (fun _ => 0)) (t.at x).results ∧ MovesOn s t x ∧
        let got := free.take n
        (t.team x.c k.ts).tiles = got ∧ (∀ i, tget? (t.quad qi).holders i = if i ∈ got then some (x.c, k.ts) else tget? q.holders i) ∧
        (∀ i, tget 0 (t.quad qi).acc i = if i / 4096 ∈ got then 0 else tget 0 q.acc i) ∧
        (t.core x.c).fifoA = [] ∧ (t.core x.c).fifoB = [] ∧ (t.core x.c).fifoTeam = some k.ts) ∧
      (T.tiles = [] → Answers (.mrel w) s s x w 1) ∧
      (T.tiles ≠ [] → (∀ j ∈ s.jobs, j.kind ≠ .mrel) → (∀ h ∈ q.holders, (s.team h.2.1 h.2.2).live = true) →
        (tilesBusy s x.c k.ts = true → Starts (.mrel w) s s x w 1 .mrel) ∧
        (tilesBusy s x.c k.ts = false → (q.holders.map (·.1)).Nodup → Completes (.mrel w) s fun t =>
          LongLeft s x [.u r.toNat 0] (t.at x).results ∧ MovesOn s t x ∧ (t.team x.c k.ts).tiles = [] ∧
          (∀ i, tget? (t.quad qi).holders i = if tget? q.holders i = some (x.c, k.ts) then none else tget? q.holders i) ∧
          (∀ i, tget 0 (t.quad qi).acc i = if tget? q.holders (i / 4096) = some (x.c, k.ts) then 0 else tget 0 q.acc i) ∧
          ((s.core x.c).fifoTeam = some k.ts → (t.core x.c).fifoA = [] ∧ (t.core x.c).fifoB = [] ∧ (t.core x.c).fifoTeam = none)))) ∧
    (Opd.writes w.d = true → Issues s w (vdst w.d 1) true x →
      Does (.mstat w) s (if w.mb 0 then s.modCrew x.c x.k (fun k => { k with mfl := 0 }) else s) x w (FixedLeft s x 4 (wrOf x true w.d (fun _ =>
        w32 ((16 - q.table.length) * 2 ^ 27 + (q.table.filter (fun e => e.core == x.c && e.ts == k.ts)).length * 2 ^ 22 +
          (8 - q.select.length) * 2 ^ 18 + T.tiles.length * 2 ^ 14 + (if (s.core x.c).fifoTeam = some k.ts then 2 ^ 13 else 0) + k.mfl.toNat))))) ∧
    (Issues s w [] false x →
      let within (a n : Nat) : Prop := k.guest = none ∧ a + n ≤ T.scratch
      let op (kind : Nat) (args : List W32) : SReq :=
        { id := s.nextId, core := x.c, slot := x.k, ts := k.ts, kind, args, pairs := false, draw := 0, bar := none, res := 0, d := .no, d2 := .no
          lanes := x.on, claims := [], running := false, uid := k.uid }
      let off (n : Nat) (a : List W32) : List W32 := a.zipIdx.map (fun e => if e.2 < n then w32 (e.1.toNat + T.scrBase) else e.1)
      let word (a : List W32) (i : Nat) : Nat := (a.getD i 0).toNat
      (let a := rdRun s x w.a 8 x.low
       let m := if w.mb 5 then 8 else 4
       let cs := bf (word a 4) 16 16
       let rs := bf (word a 4) 0 16
       let L := bf (word a 5) 16 12 + 1
       let C := bf (word a 5) 0 8 + 1
       let out := C * (bf (word a 6) 0 6 + 1) * 8
       ∀ e ∈ [(Instr.selk w, 0), (.selkx w, 1)],
         let good : Prop := word a 0 % m = 0 ∧ word a 1 % 8 = 0 ∧ cs % m = 0 ∧ rs % m = 0 ∧ bf (word a 5) 28 4 = 0 ∧ bf (word a 5) 8 8 = 0 ∧
           bf (word a 6) 6 26 = 0 ∧ word a 7 = 0 ∧ within (word a 0) ((L - 1) * rs + (C - 1) * cs + m) ∧ within (word a 1) out ∧
           (e.2 = 1 → within (word a 2) ((C * L + 7) / 8))
         let claims := rangeLines (x.c * 2 ^ 32 + word (off 3 a) 1) out
         (good → q.select.length < 8 → Does e.1 s (expect (claimLines (s.modQuad qi (fun u => { u with select := u.select ++
           [{ op e.2 (off 3 a) with pairs := w.mb 5, bar, claims }] })) claims)) x w (NoneLeft s x)) ∧
         (good → 8 ≤ q.select.length → Retries e.1 s x) ∧
         (¬good → s.evq0.length < 4096 → s.evq1.length < 4096 → Refuses e.1 s x 0x11)) ∧
      (let a := rdRun s x w.a 4 x.low
       let good : Prop := word a 0 % 4 = 0 ∧ 1 ≤ word a 2 ∧ word a 2 ≤ 32768 ∧ within (word a 0) (4 * word a 2) ∧ within (word a 1) ((word a 2 + 7) / 8)
       (good → q.select.length < 8 → (∃ r, w.d = .u r) → Does (.sample w) s (s.modQuad qi (fun u => { u with select := u.select ++
         [{ op 2 (off 2 a) with id := s.nextId + 1, draw := rd s x 0 w.b x.low, res := s.nextId, d := w.d, d2 := w.d2 }] })) x w
         (OpenLeft x s.nextId w.d 1)) ∧
       (good → 8 ≤ q.select.length → Retries (.sample w) s x) ∧
       (¬good → s.evq0.length < 4096 → s.evq1.length < 4096 → Refuses (.sample w) s x 0x11)))

/-- R358 to R361, R363, R364: the arbiter grants the eligible request that ranks first; MMAZ and MACZ clear their elements; each
live group takes its panels from the FIFOs and adds to every element of the request, in the integer classes the sum of
products modulo 2^32, in the float classes the rounded sum to the rounded sum of products, a sparse row having two elements in
each run of four at the places that it names; at the end the flags reach MFL and the request leaves the table and arrives.
R365 to R368: the select unit runs its queue in order; SELK writes in place j the pair above which j others rank; SAMPLE
draws. The model's own choices here: log entries 82 and 83. -/
def Obligations.MatrixEvents : Prop :=
  ∀ (s : State) (q : Nat),
    let u := s.quad q
    let oldest := u.table.filter (eligible s q)
    (∀ e, u.running = none → e ∈ oldest → (∀ o ∈ oldest, o ≠ e → ranksAbove e o = true) → e.m ≤ 64 → e.n ≤ 64 →
      Completes (.matrixGrant q) s fun t => (t.quad q).running = some e.id ∧
        (∀ i, tget 0 (t.quad q).acc i = if e.zero = true ∧ i / 4096 = e.tile ∧ i % 4096 / 64 < e.m ∧ i % 64 < e.n then 0 else tget 0 u.acc i) ∧
        (t.quad q).table.map (fun o => (o.id, o.age)) = u.table.map (fun o => (o.id,
          if o.id ≠ e.id ∧ (oldest.any fun g => g.id == o.id) = true then min 255 (o.age + 1) else o.age)) ∧ t.cores = s.cores) ∧
    (∀ e g, runningReq s q = some e → e.nextGroup = some g → e.m ≤ 64 → e.n ≤ 64 →
      let c := s.core e.core
      let da := if e.sp then sparseBytes e.aty else denseBytes e.aty
      let db := denseBytes e.bty
      let live := (List.range 32).filter (fun k => bit e.lv.toNat (2 * g + k / 16))
      let at_ (a : List Byte) (j : Nat) : Nat := bf (leNat (a.drop (da - 4))) (2 * j) 2
      let pairs (a : List Byte) : List (Nat × Nat) :=
        if e.sp then ((live.filter (fun k => k % 4 == 0)).map (· / 4)).flatMap (fun j =>
          if at_ a (2 * j) < at_ a (2 * j + 1) then [(2 * j, 4 * j + at_ a (2 * j)), (2 * j + 1, 4 * j + at_ a (2 * j + 1))] else [])
        else live.map (fun k => (k, k))
      c.fifoTeam = some e.ts → e.readA + 64 * da ≤ c.fifoA.length → e.readB + 64 * db ≤ c.fifoB.length →
      Completes (.matrixGroup q) s fun t =>
        let rowA (r : Nat) : List Byte := (c.fifoA.drop (e.readA + da * r)).take da
        let colB (k : Nat) : List Byte := (c.fifoB.drop (e.readB + db * k)).take db
        let int8 (l : List Byte) (i : Nat) : Int := signedOf 8 (l.getD i 0).toNat
        (∀ i, let r := i % 4096 / 64
          let k := i % 64
          let now := tget 0 (t.quad q).acc i
          let old := tget 0 u.acc i
          if i / 4096 = e.tile ∧ r < e.m ∧ k < e.n then
            now = (mulStep e old ((pairs (rowA r)).map (fun p => ((elemOf e.aty (rowA r) p.1).1, (elemOf e.bty (colB k) p.2).1)))).1 ∧
            (e.bty = 9 → e.aty = 9 →
              (now.toNat : Int) = (old.toNat + ((pairs (rowA r)).map (fun p => int8 (rowA r) p.1 * int8 (colB k) p.2)).sum) % 2 ^ 32)
          else now = old) ∧
        (t.core e.core).fifoA = (if e.ka then c.fifoA else c.fifoA.drop (64 * da)) ∧
        (t.core e.core).fifoB = (if e.kb then c.fifoB else c.fifoB.drop (64 * db)) ∧
        (∀ d, d ≠ e.core → t.core d = s.core d) ∧ (t.quad q).running = u.running) ∧
    (∀ e, runningReq s q = some e → e.nextGroup = none →
      let all : BitVec 5 := e.flags.foldl (fun f p => f ||| p.2) 0
      ∃ v, exec (.matrixComplete q) s = .next (settleQuad (match e.bar with
          | some n => arriveEngine v e.core e.ts n
          | none => v) q) ∧
        (v.quad q).running = none ∧ (v.quad q).table = u.table.filter (fun o => !(o.id == e.id)) ∧ (v.quad q).reads = u.reads ∧
        (∀ i, tget 0 (v.quad q).acc i = if e.mul = false ∧ i / 4096 = e.tile then 0 else tget 0 u.acc i) ∧
        (v.crew e.core e.slot).mfl = if e.flOn = true ∧ (s.crew e.core e.slot).uid = e.uid then (s.crew e.core e.slot).mfl ||| all
          else (s.crew e.core e.slot).mfl) ∧
    (∀ r rest, u.select = r :: rest →
      (r.running = false → s.reqs.any (Req.blocks r.core r.slot r.uid (BitVec.allOnes 32) r.id) = false → Completes (.selectStart q) s fun t =>
        t = s.modQuad q (fun u => { u with select := u.select.map (fun o => if o.id = r.id then { o with running := true } else o) })) ∧
      (r.running = true → r.srcLines.any (lineWaits s (s.team r.core r.ts).grid r.id) = false →
        let o := s.core r.core
        let v (i : Nat) : Nat := (r.args.getD i 0).toNat
        let word (a : Nat) : Nat := leNat (o.scrRead a 4)
        let bitOf (a i : Nat) : Bool := (tget (0 : Byte) o.scratch (a + i / 8)).getLsbD (i % 8)
        let nan (b : Nat) : Bool := bf b 23 8 == 255 && bf b 0 23 != 0
        (r.kind < 2 →
          let L := bf (v 5) 16 12 + 1
          let C := bf (v 5) 0 8 + 1
          let K := bf (v 6) 0 6 + 1
          let at_ (c i : Nat) : Nat := v 0 + i * bf (v 4) 0 16 + c * bf (v 4) 16 16
          let idx (c i : Nat) : Nat := if r.pairs then word (at_ c i) else (v 3 + i) % 2 ^ 32
          let val (c i : Nat) : Nat := if r.pairs then word (at_ c i + 4) else word (at_ c i)
          let key (b : Nat) : Int := if nan b then -2 ^ 40 else if bit b 31 then -(b % 2 ^ 31 : Nat) else b
          let rows (c : Nat) : List Nat := (List.range L).filter (fun i => r.kind == 0 || bitOf (v 2) (c * L + i))
          let above (c i j : Nat) : Bool := decide (key (val c j) < key (val c i)) ||
            (key (val c i) == key (val c j) && (decide (idx c i < idx c j) || (idx c i == idx c j && decide (i < j))))
          ∃ x, exec (.selectComplete q) s = .next (match r.bar with
              | some n => arriveEngine x r.core r.ts n
              | none => x) ∧ (x.quad q).select = rest ∧
            (∀ a, a < v 1 ∨ v 1 + C * K * 8 ≤ a → tget 0 (x.core r.core).scratch a = tget 0 o.scratch a) ∧
            ∀ c j, c < C → j < K →
              let p := v 1 + (c * K + j) * 8
              let put (i b : Nat) : Prop := (x.core r.core).scrRead p 4 = leBytes 4 i ∧ (x.core r.core).scrRead (p + 4) 4 = leBytes 4 b
              if j < (rows c).length then
                ∃ i ∈ rows c, ((rows c).filter (fun m => above c m i)).length = j ∧ put (idx c i) (if nan (val c i) then 0x7FC00000 else val c i)
              else put 0xFFFFFFFF 0x7FC00000) ∧
        (∀ d d2, r.kind = 2 → r.d = .u d → r.d2 = .sp d2 →
          let N := v 2
          let logit (i : Nat) : Nat := word (v 0 + 4 * i)
          let legal := (List.range N).filter (fun i => bitOf (v 1) i && !(nan (logit i)))
          let draws (i : W32) (ok : Bool) : Prop := ∃ x, (x.quad q).select = rest ∧ x.cores = s.cores ∧
            exec (.selectComplete q) s = .next (fillResult x r.core r.slot r.res [.u d.toNat i, .q (d2.toNat - 0x80) r.lanes (if ok then r.lanes else 0)])
          let good : Prop := 0 < v 3 ∧ v 3 < 0x7F800000 ∧ legal ≠ []
          let fl (b : Nat) : XR := decodeF 0 false b
          (¬good ∨ (∀ i ∈ legal, logit i = 0xFF800000) → draws 0xFFFFFFFF false) ∧
          (∀ i, good → i ∈ legal → logit i = 0x7F800000 → (∀ j ∈ legal, j < i → logit j ≠ 0x7F800000) → draws (w32 i) true) ∧
          (good → (∀ i ∈ legal, logit i ≠ 0x7F800000) → ∀ m ∈ legal, logit m ≠ 0xFF800000 →
            (∀ i ∈ legal, if i < m then ltX false (fl (logit i)) (fl (logit m)) = true else ltX false (fl (logit m)) (fl (logit i)) = false) →
            let sc := log2eOver (fl (v 3))
            let w (i : Nat) : XR := rnd32 (sfuFn 0x0D6 (mulR (dotX [] [fl (logit i), (fl (logit m)).negate] 1).1 sc)).1
            let parts : List Part := (List.range N).map (fun i => if i ∈ legal then some ((encodeF 0 (w i) : Nat), 0) else none)
            let total : XR := match (redTree (redOp 0 0) 16 parts).headD none with
              | some p => fl p.1.toNat
              | none => XR.zero false
            let target := mulR (.fin false (r.draw.toNat % 2 ^ 24) (-24) false) total
            let acc (n : Nat) : XR := (legal.take n).foldl (fun a i => addR a (w i)) (XR.zero false)
            let hit (n : Nat) : Bool := !(acc (n + 1)).isNan && !target.isNan && ltX false target (acc (n + 1))
            let pos (i : Nat) : Bool := !(w i).isNan && ltX false (XR.zero false) (w i)
            (∀ n i, legal[n]? = some i → hit n = true → (∀ k, k < n → hit k = false) → draws (w32 i) true) ∧
            ((∀ n, n < legal.length → hit n = false) → ∀ i ∈ legal, pos i = true →
              (∀ j ∈ legal, i < j → pos j = false) → draws (w32 i) true)))))

/-! ## Migration (spec/13_migration.md) -/

/-- R396, R398, R408, R413, R414: MIGR and MIGRA first wait as a marker does; then, as MRET of a guest crew, they park their
lanes, which are released at pod scope before they move; MRET at the origin does nothing. The model's own choices here: log
entries 113 and 116. -/
def Obligations.MigrationWords : Prop :=
  ∀ (w : Op) (s : State) (x : Ctx),
    let k := s.at x
    let moved (ret fallback : Bool) (qd : Opd) (found : Tab (Nat × Option Nat × Nat)) : State :=
      { s with lmoves := s.lmoves ++ [{
          id := s.nextId, cont := contOf s x.c x.k [] x.pc ret 0 0 0, core := x.c, slot := x.k, lanes := x.on, chip := 0, dcore := none, stack := 0
          stage := 1, gcore := 0, gslot := 0, cause := 0, fallback, qd, pc := x.pc, len := x.lenCode, found }] }
    let leaving (u : State) : Crew := { k with
      park := (u.at x).park, ords := k.ords ++ [{ rel := true, acq := false, scope := 4, lanes := x.on, before := s.nextId + 1, after := .move [s.nextId], pc := x.pc, len := x.lenCode }] }
    let parked (u : State) : Prop := ∀ l, (u.at x).parkOf l = if l ∈ lanesOf x.on then .migration s.nextId else k.parkOf l
    let moves (i : Instr) (ret fallback : Bool) (qd : Opd) (found : Tab (Nat × Option Nat × Nat)) (last : List Nat) : Prop :=
      Completes i s fun t => OnlyCrew (moved ret fallback qd found) t x ∧ KeepsCrew (leaving t) (t.at x) last ∧
        (t.at x).results = k.results ∧ MovesOn s t x ∧ parked t
    (Issues s w [] false x → k.results ≠ [] → x.second = false → ∀ i ∈ [Instr.migr w, .migra w], Completes i s fun t => t = { s with cur := none }) ∧
    (Issues s w [] false x → (k.results = [] ∨ x.second = true) →
      moves (.migr w) false (w.mb 0) w.d ((lanesOf x.on).map (fun l =>
        let v := if x.h.form.imm32 then w.imm.toNat % 2 ^ 32 else (rd s x 0 w.a l).toNat
        (l, (if bit v 31 then s.chipid else bf v 16 15, some (bf v 0 8), 0)))) (lastRegs x.h w 1 1 1) ∧
      ((∀ l ∈ lanesOf x.on, addr64 s x w l < 2 ^ 57) → ∃ u t, exec (.migra w) s = .next t ∧ EndsAs (pump u x.c) t x ∧
        OnlyCrew (moved false (w.mb 0) w.d []) { u with reqs := s.reqs } x ∧ KeepsCrew { leaving u with lasts := (u.at x).lasts } (u.at x) [] ∧
        MovesOn s u x ∧ parked u ∧ ∃ new, u.reqs = s.reqs ++ new ∧
          new.map (fun r => (r.line, r.pieces)) = lineGroups false ((lanesOf x.on).map (fun l => { lane := l, addr := addr64 s x w l, n := 1 })) ∧
          ∀ r ∈ new, r.acc = .migra ∧ r.core = x.c ∧ r.slot = x.k ∧ r.word = s.nextId ∧ r.ctx = k.ctx ∧ r.stage = .look)) ∧
    (Issues s {} [] false x →
      (k.guest = none → Completes .mret s fun t => OnlyCrew s t x ∧ KeepsCrew k (t.at x) [] ∧ (t.at x).results = k.results ∧ MovesOn s t x) ∧
      (k.guest ≠ none → moves .mret true false .no [] []))

/-- R385, R387, R389, R390, R392, R415 to R418: PMOVE asks the home, or answers at once why the page cannot move; PQRY asks for
the pairs of its lanes' pages; OWNINV drops owner-cache entries, one for each lane or all; PSTUB reads, keeps or reclaims a
stub. The privileged ones fault in an unprivileged crew. The model's own choices here: log entries 117, 118 and 119. -/
def Obligations.PageWords : Prop :=
  ∀ (w : Op) (s : State) (x : Ctx),
    let k := s.at x
    let global (l : Nat) : LaneAcc := { lane := l, addr := addr64 s x w l, n := 1 }
    let g := usrc64 s x w.a
    let n := usrc64 s x w.b
    let new : Owner := if bf n 23 9 = 0 ∧ bf n 47 17 = 0 then .dram (bf n 32 15) (bf n 20 3) (bf n 0 20) else .host 0
    let h := homeOf s g
    let m : PMove := { id := s.nextId + 1, gpn := g, stack := 0, frame := 0, new, core := x.c, slot := x.k, res := s.nextId, stage := 0
                       tracker := false, d := w.d }
    (Issues s w [] false x → k.priv = false → s.evq0.length < 4096 → s.evq1.length < 4096 →
      (∀ i ∈ [Instr.pmove w, .pstubRd w, .pstubReclaim w, .pstubKeep w], Refuses i s x 0x11) ∧ (w.mb 0 = true → Refuses (.owninv w) s x 0x11)) ∧
    (Issues s w [] false x → k.priv = true → (∀ p ∈ s.pmoves, p.id ≠ s.nextId + 1) → ∀ d, w.d = .u d →
      let answers (v : Nat) : Prop := Does (.pmove w) s s x w (LongLeft s x [.u d.toNat (w32 v)])
      let host : Bool := viewPage s g || (tget? s.hostPages g).isSome
      (host = true → answers 6) ∧ (host = false → namesChip h = false ∨ 2 ^ 39 ≤ g → answers 1) ∧
      (host = false → namesChip h = true → g < 2 ^ 39 →
        (h ≠ s.chipid → ∃ q u, newQuery { s with nextId := s.nextId + 2 } g = (q, u) ∧
          Does (.pmove w) s { u with pmoves := u.pmoves ++ [{ m with q }] } x w (OpenLeft x s.nextId w.d 1)) ∧
        (h = s.chipid → homeFind s g = none → answers 1) ∧
        (∀ i c st f, h = s.chipid → homeFind s g = some i → homeOwner (homeRead s i) = .dram c st f →
          let held : Prop := c = s.chipid ∧ (frameSt s st f g = .serve ∨ frameSt s st f g = .hold ∧ tget? s.stubs (frameKey st f) = none)
          let bad : Prop := new = .host 0 ∨ new = .dram s.chipid st f ∨ stagingFrame (bf n 0 20) = true
          (¬held → answers 1) ∧ (held → bad → answers 5) ∧ (held → ¬bad → reachable s (bf n 32 15) = false → answers 4) ∧
          (held → ¬bad → reachable s (bf n 32 15) = true →
            Does (.pmove w) s { s with pmoves := s.pmoves ++ [{ m with stack := st, frame := f, stage := 1 }] } x w (OpenLeft x s.nextId w.d 1))))) ∧
    ((∀ l ∈ acting x w.d, addr64 s x w l < 2 ^ 57) → Opd.writes w.d = true → Issues s w (vdst w.d 2) (uniformProducing w) x →
      Asks (.pqry w) s x { acc := .pqry (w.mb 0), width := 8, long := true, kind := .regs 2, dst := w.d, hostOk := true, uni := isU w.d }
        ((acting x w.d).map global) (uniformProducing w)) ∧
    (Issues s w [] false x →
      (w.mb 0 = true → k.priv = true → Does (.owninv w) s { s with ownerCache := [] } x w (NoneLeft s x)) ∧
      (w.mb 0 = false → (∀ l ∈ lanesOf x.on, addr64 s x w l < 2 ^ 57) → Asks (.owninv w) s x { acc := .owninv, hostOk := true } ((lanesOf x.on).map global))) ∧
    (Issues s w [] false x → k.priv = true → (∃ d, w.d = .u d) →
      let key := usrc s x w.a % 2 ^ 23
      let pair (lo hi : Nat) : List Result → Prop := LongLeft s x (wr64 x false w.d (fun _ => w64 (hi * 2 ^ 32 + lo)))
      let with_ (f : Stub → Stub) : State := { s with stubs := s.stubs.map (fun e => if e.1 == key then (key, f e.2) else e) }
      (tget? s.stubs key = none → Does (.pstubRd w) s s x w (pair 0 0) ∧
        Does (.pstubKeep w) s (with_ (fun b => { b with keep := true })) x w (pair 1 0) ∧ Does (.pstubReclaim w) s s x w (pair 1 0)) ∧
      (∀ b, tget? s.stubs key = some b →
        Does (.pstubRd w) s s x w (pair b.count (b.state * 2 ^ 30 + (if b.keep then 2 ^ 15 else 0) + (ownerChip b.succ).getD 0)) ∧
        Does (.pstubKeep w) s (with_ (fun b => { b with keep := true })) x w (pair 0 0) ∧
        (b.state = 1 → Does (.pstubReclaim w) s (with_ (fun b => { b with keep := false })) x w (pair 2 0)) ∧
        (b.state = 3 → Starts (.pstubReclaim w) s (with_ (fun b => { b with keep := false })) x w 2 (.stub key)) ∧
        (b.state = 2 → homeOf s b.gpn = s.chipid → Starts (.pstubReclaim w) s
          (with_ (fun b => { b with keep := false, state := 3, moved := false, granted := false })) x w 2 (.stub key))))

/-- R383 to R385: the home answers a query with the page's owner, and the answer enters the owner cache and lets requests go on; a
frame that a page has left turns its requests away, to ask the home again. R387: the home records a move or refuses it; the
copy brings the page's bytes to the new frame, the old one becomes a live stub, and the status is 0; with a lost connection
the move is undone. R388 to R390: a live stub forwards and redirects, and after a quiet interval asks to be reclaimed, which
the home grants to the oldest alone. R392: at a period's end a hot page gives a hint or moves. The model's own choices here:
log entries 117 and 118. -/
def Obligations.PageEvents : Prop :=
  ∀ (s : State),
    let here (m f : Nat) : Owner := .dram s.chipid m f
    let waiting (q : Nat) : List Req := s.reqs.filter (fun r => r.stage == .query q)
    let toHome (g : Nat) (b : Body) (tag : Nat) : Packet :=
      { typ := 0x0A, src := s.chipid, dst := homeOf s g, gpn := g, reqKind := 4, tag, body := b }
    (∀ q e, s.queries.find? (fun e => e.id == q) = some e → e.answered = false →
      let ent := (homeFind s e.gpn).map (homeRead s)
      let owner := ent.map (fun n => ownerOfBits (bf n 147 38))
      let n := (ent.map (fun n => bf n 0 2)).getD 0
      (e.asker = s.chipid → homeOf s e.gpn = s.chipid → Completes (.ownerQuery q) s fun t =>
        t = { s with queries := s.queries.map (fun x => if x.id == q then { x with answered := true, owner, nstub := n } else x) }) ∧
      (e.asker ≠ s.chipid → exec (.ownerQuery q) s = .next (emit { s with queries := s.queries.filter (fun x => !(x.id == q)) }
        { typ := 0x0A, src := s.chipid, dst := e.asker, gpn := e.gpn, reqKind := 5, body := .answer e.gpn owner n }))) ∧
    (∀ q e, s.queries.find? (fun e => e.id == q && e.answered && e.asker == s.chipid) = some e → s.pmoves.filter (fun m => m.stage = 0 && m.q == q) = [] →
      let u : State := { s with queries := s.queries.filter (fun x => !(x.id == q)) }
      (∀ o, e.owner = some o → waiting q = [] → Completes (.ownerAnswer q) s fun t => t = ocPut u e.gpn o ∧ ocFind t e.gpn = some o) ∧
      (∀ o r tr, e.owner = some o → waiting q = [r] → r.tr = some tr → findReq s r.id = some r → (∀ b, r.acc ≠ .pqry b) →
        exec (.ownerAnswer q) s = .next (pump (checkOwner (ocPut u e.gpn o) r tr o) r.core)) ∧
      (∀ r, e.owner = none → waiting q = [r] → findReq s r.id = some r →
        exec (.ownerAnswer q) s = .next (pump (failReq (setReq u r) r 0x10) r.core))) ∧
    (∀ id r tr c m f, findReq s id = some r → r.tr = some tr → r.owner = some (.dram c m f) → r.stage = .atOwner → ownerTurn s r = true → tr.fw = false →
      (frameSt s m f tr.gpn = .gone → Completes (.negativeAck id) s fun t => ocFind t tr.gpn = none ∧
        ∃ q, (∃ e ∈ t.queries, e.id = q ∧ e.gpn = tr.gpn ∧ e.asker = s.chipid) ∧
          findReq t id = some { r with owner := none, stage := .query q, data := [], poison := [], miss := 0 }) ∧
      (∀ succ, frameSt s m f tr.gpn = .stub succ →
        let n := match ownerChip succ with | some d => (s.conn d).next | none => 0
        ∃ u b, tget? s.stubs (frameKey m f) = some b ∧
          u = { s with stubs := tset s.stubs (frameKey m f) { b with count := min 0xFFFFFFFF (b.count + 1), moved := true, quietFrom := s.ref } } ∧
          exec (.stubForward id) s = .next (sendMsg (route u { r with owner := some succ } tr)
            (if ownerChip succ ≠ some s.chipid then n + 1 else 0) ((ownerChip succ).getD s.chipid) (.redirect tr.gpn (.dram c m f) succ)))) ∧
    (∀ g a b m, s.net.find? (fun m => m.body == .redirect g (ownerOfBits a) (ownerOfBits b) && (m.dst = 0 || pktDone s (m.chip, m.dst - 1))) = some m →
      let u : State := { s with net := s.net.filter (fun n => !(n.id == m.id)) }
      Completes (.redirect g a b) s fun t => if ocFind s g = some (ownerOfBits a) then t = ocPut u g (ownerOfBits b) ∧ ocFind t g = some (ownerOfBits b) else t = u) ∧
    (∀ mv m, findPmove s mv = some m →
      let k := frameKey m.stack m.frame
      let own : Bool := homeOf s m.gpn == s.chipid
      let answers (i : Instr) (st : Nat) : Prop := exec i s = .next (fillResult { s with pmoves := s.pmoves.filter (fun n => !(n.id == m.id)) }
        m.core m.slot m.res (giveWords m.d [w32 st]))
      (m.stage = 1 → own = true → m.tracker = false →
        (homeFind s m.gpn = none → answers (.pmoveHomeUpdate mv) 1) ∧
        (∀ i, homeFind s m.gpn = some i → let e := homeRead s i
          (bit e 3 = true → answers (.pmoveHomeUpdate mv) 3) ∧ (bit e 3 = false → bf e 0 2 = 2 → answers (.pmoveHomeUpdate mv) 2) ∧
          (bit e 3 = false → bf e 0 2 ≠ 2 → ∀ c st f, m.new = .dram c st f → ∃ e',
            bf e' 147 38 = ownerBits m.new % 2 ^ 38 ∧ (bf e' (if bf e 0 2 = 0 then 109 else 71) 38 = bf e 147 38) ∧ bf e' 0 2 = (bf e 0 2 + 1) % 4 ∧
            bf e' 32 32 = (bf e 32 32 + 1) % 2 ^ 32 ∧ bit e' 3 = true ∧ bf e' 185 71 = bf e 185 71 ∧ bit e' 4 = bit e 4 ∧
            Completes (.pmoveHomeUpdate mv) s fun t => findPmove t mv = some { m with stage := 2 } ∧
              tget? t.stubs k = some { gpn := m.gpn, state := 1, succ := m.new } ∧ (c = s.chipid → tget? t.arriving (frameKey st f) = some m.gpn) ∧
              (c = s.chipid → t = { homeWrite s i e' with pmoves := t.pmoves, stubs := t.stubs, arriving := t.arriving }) ∧
              (c ≠ s.chipid → t = queueKept { homeWrite s i e' with pmoves := t.pmoves, stubs := t.stubs }
                { typ := 0x01, src := s.chipid, dst := c, gpn := m.gpn, frame := frameKey st f, reqKind := 4, body := .page m.gpn st f [] [] })))) ∧
      (m.stage = 2 → frameDrained s m.stack k = true → bankReading s m.stack m.frame = false →
        (∀ st f, m.new = here st f → Completes (.pmoveCopyComplete mv) s fun t => findPmove t mv = none ∧
          (∃ b, tget? t.stubs k = some b ∧ b.gpn = m.gpn ∧ b.state = 2 ∧ b.succ = m.new) ∧ tget? t.arriving (frameKey st f) = none ∧
          (s.msc = [] → Memory.wf s.dram = true → m.stack < 8 → m.frame < 2 ^ 20 → st < 8 → f < 2 ^ 20 → ∀ i, i < 65536 →
            t.dram.get (devAddr st f i) = s.dram.get (devAddr m.stack m.frame i))) ∧
        (∀ c st f, m.new = .dram c st f → c ≠ s.chipid → (s.conn c).lost = false → Completes (.pmoveCopyComplete mv) s fun t =>
          ∃ l, findPmove t mv = some { m with stage := 3, seqs := l } ∧ l.length = 16 ∧ ∀ p ∈ l, p.1 = c) ∧
        (∀ c st f, m.new = .dram c st f → c ≠ s.chipid → (s.conn c).lost = true → Completes (.pmoveCopyComplete mv) s fun t =>
          findPmove t mv = none ∧ tget? t.stubs k = none ∧
            ∃ u : State, t = u.post (dieOfStack m.stack) { typ := 0x13, value := 7, addr := w64 m.gpn })) ∧
      (m.stage = 3 → (∀ p ∈ m.seqs, pktDone s p = true) → Completes (.pmoveCopyComplete mv) s fun t => findPmove t mv = none ∧
        ∃ b, tget? t.stubs k = some b ∧ b.gpn = m.gpn ∧ b.state = 2 ∧ b.succ = m.new)) ∧
    (∀ k b, tget? s.stubs k = some b →
      let set (u : State) (f : Stub → Stub) : State := { u with stubs := u.stubs.map (fun e => if e.1 == k then (k, f e.2) else e) }
      let asked := set s (fun b => { b with state := 3, moved := false, granted := false })
      let oldest : Bool := match homeFind s b.gpn with
        | some i => bf (homeRead s i) 0 2 != 0 && bf (homeRead s i) 109 38 == ownerBits (stubOwner s k)
        | none => false
      (b.state = 2 → b.keep = false → b.quietFrom + max 10 (bf s.stubcfg.toNat 0 16) * 1000 ≤ s.ref →
        (homeOf s b.gpn = s.chipid → Completes (.stubQuietExpiry k) s fun t => t = asked) ∧
        (homeOf s b.gpn ≠ s.chipid → exec (.stubQuietExpiry k) s = .next (queueKept asked (toHome b.gpn (.reclaim b.gpn (stubOwner s k) false) 0)))) ∧
      (b.state = 3 → (∀ j ∈ s.jobs, j.kind ≠ .stub k) →
        (b.granted = false → homeOf s b.gpn = s.chipid → Completes (.stubReclaimRequest k) s fun t =>
          t = if oldest then set s (fun b => { b with granted := true }) else set s (fun b => { b with state := 2, quietFrom := s.ref })) ∧
        (b.granted = true → b.moved = true → Completes (.stubReclaimGrant k) s fun t => t = set s (fun b => { b with state := 2, quietFrom := s.ref })) ∧
        (b.granted = true → b.moved = false → Completes (.stubReclaimGrant k) s fun t => tget? t.stubs k = none ∧
          (∀ j, j ≠ k → tget? t.stubs j = tget? s.stubs j) ∧ b.gpn ∈ tget [] (t.stack (k / 2 ^ 20)).frames (k % 2 ^ 20) ∧
          ∃ u : State, u.evq0 = s.evq0 ∧ u.evq1 = s.evq1 ∧ u.evWait = s.evWait ∧ t = u.post (dieOfStack (k / 2 ^ 20)) { typ := 0x10, value := w32 k, addr := w64 b.gpn }))) ∧
    (∀ m, m < 8 → (s.stack m).trackFrom + max 1 (bf s.trkcfg.toNat 8 8) * 100000 ≤ s.ref →
      let T := s.stack m
      let u := s.modStack m (fun t => { t with track := [], trackFrom := t.trackFrom + max 1 (bf s.trkcfg.toNat 8 8) * 100000 })
      let pages := T.track.filter (fun p => !(frameClaimed s m p.frame))
      (pages = [] → Completes (.trackerPeriodEnd m) s fun t => t = u) ∧
      (∀ p ∈ pages, (∀ o ∈ pages, o.total < p.total ∨ o.total = p.total ∧ p.gpn < o.gpn ∨ o = p) →
        let cfg := s.trkcfg.toNat
        let cold : Prop := p.total < bf cfg 0 8 * 256 ∨ p.total = 0
        let hints (e : Nat × Nat) : Prop := bit cfg 30 = true ∧ e.1 ≠ s.chipid ∧ 3 * p.total ≤ 4 * e.2
        let frames (k : Nat) : Prop := k < 8 ∧ dieOfStack k ≠ dieOfStack m ∧ bit (s.stack k).pgpool.toNat 63 = true
        let crosses : Prop := bit cfg 31 = true ∧ 3 * p.total ≤ 4 * p.otherDie
        (cold ∨ (∀ e ∈ p.chips, ¬hints e) ∧ (¬crosses ∨ ∀ k, ¬frames k) → Completes (.trackerPeriodEnd m) s fun t => t = u) ∧
        (∀ e ∈ p.chips, ¬cold → hints e → (∀ d ∈ p.chips, hints d → d = e) →
          Completes (.trackerPeriodEnd m) s fun t => t = u.post (dieOfStack m) { typ := 0x12, value := w32 e.1, addr := w64 p.gpn }) ∧
        (∀ k, ¬cold → (∀ e ∈ p.chips, ¬hints e) → crosses → frames k → (∀ j, j < k → ¬frames j) →
          exec (.trackerPeriodEnd m) s = .next (startPmove { u with nextId := s.nextId + 1 }
            { id := s.nextId, gpn := p.gpn, stack := 0, frame := 0, new := here k (bf (s.stack k).pgpool.toNat 0 20), core := 0, slot := 0, res := 0
              stage := 0, tracker := true }))))

/-- R398 to R402, R405 to R408, R410, R411: a core grants a slot or answers why not; a granted group is written by the copy
engine, a refused one takes the fallback or traps; an arriving group forms or joins a guest crew with the state it carries,
invalidates the L1 and tells its origin; once acknowledged its lanes are away from the origin, or have left the guest crew; a
return brings them back with their migrated registers alone; notices and halts reach the crews they name. The model's own
choices here: log entries 112, 113, 114 and 115. -/
def Obligations.LaneMoveEvents : Prop :=
  ∀ (s : State) (mv : Nat) (m : LMove),
    let h := m.cont
    let p := codeAt h.pc
    let set (n : LMove) : State := { s with lmoves := s.lmoves.map (fun o => if o.id == n.id then n else o) }
    let carries (t : State) (c k : Nat) : Prop := (t.core c).l1 = [] ∧ ∀ r ∈ h.lanes, let q := t.crew c k
      q.pcOf r.lane = p ∧ tget 0 q.fl r.lane = r.fl ∧ tget 0 q.seq r.lane = r.seq ∧
      (∀ i, 1 ≤ i → i ≤ 15 → (q.pred i).getLsbD r.lane = r.preds.getLsbD i) ∧ ∀ n j, h.vregs[j]? = some n → (q.ent n).val r.lane = r.regs.getD j 0
    let apart : Prop := (h.lanes.map (·.lane)).Nodup ∧ (∀ r ∈ h.lanes, r.lane < 32) ∧ h.vregs.Nodup ∧ h.uregs.Nodup
    (findMove s mv = some m →
      (∀ c, m.stage = 2 → m.chip = s.chipid → m.dcore = some c ∨ m.dcore = none ∧ c = portCore s m.stack →
        let o := s.core c
        let pod : Prop := h.originChip = s.chipid ∨ h.group ≠ 0xFFFF ∧ s.chipid ∈ groupMembers s h.group
        let rows := bf h.floor.toNat 0 9
        let has : Bool := slotHas o p.slot p.id
        let runs : Prop := ∃ e ∈ o.slots, e.2.st = .resident ∧ ∃ l ∈ lanesOf e.2.live, (e.2.pcOf l).slot = p.slot
        let refuses (cause : Nat) : Prop := Completes (.migrationGrantRequest mv) s fun t => t = set { m with stage := 7, cause }
        (191 < c ∨ ¬pod → refuses 0x20) ∧
        (∀ k, c ≤ 191 → pod → joinSlot s c h = some k → Completes (.migrationGrantRequest mv) s fun t =>
          findMove t mv = some { m with stage := 3, gcore := c, gslot := k } ∧
          t.crew c k = { s.crew c k with guest := (s.crew c k).guest.map (fun g => { g with incoming := g.incoming + 1 }) }) ∧
        (c ≤ 191 → pod → joinSlot s c h = none → (nextCrewSlot o = none ∨ freeTeamSlot s c = none → refuses 0x20) ∧
          ∀ k ts, nextCrewSlot o = some k → freeTeamSlot s c = some ts →
            (o.loanFree < rows → refuses 0x20) ∧ (rows ≤ o.loanFree → has = false → h.imgsz = 0 ∨ runs → refuses 0x23) ∧
            (rows ≤ o.loanFree → has = true ∨ h.imgsz ≠ 0 ∧ ¬runs → Completes (.migrationGrantRequest mv) s fun t =>
              findMove t mv = some { m with stage := 3, gcore := c, gslot := k } ∧
              t.crew c k = { st := .reserved, uid := s.nextId, grid := h.grid, team := h.team, crewid := h.crewid, cluster := h.cluster, ts, ctx := h.ctx
                             priv := h.priv, group := h.group, heat := h.heat, tile := 2 ^ h.tileLog, fpmode := h.fpmode, floor := rows
                             trapent := h.trapent, privBase := h.privBase, pshift := bf h.floor.toNat 12 4
                             guest := some { chip := h.originChip, core := h.originCore, slot := h.originSlot, cont := h, formed := 0, open_ := false, incoming := 1
                                             seen := h.seen } } ∧
              (t.team c ts).guest = true ∧ (t.team c ts).scratch = 0 ∧
              (has = false → ((t.core c).ov p.slot).loading = some p.id ∧ ∃ e ∈ (t.core c).copies ++ (t.core c).copyWait, e.kind = .ovld ∧ e.src = h.img ∧ e.n = 32 * h.imgsz ∧
                e.aux = p.id ∧ e.sel = p.slot)))) ∧
      (m.stage = 3 → (s.core m.core).copies.length < 32 → Completes (.migrationGrantReply mv) s fun t =>
        let w := s.crew m.core m.slot
        let after : Pc := { m.pc with off := m.pc.off + (if m.len = 0 then 8 else if m.len = 1 then 12 else 16) }
        let sent := contOf s m.core m.slot (lanesOf m.lanes) after h.ret (predNo m.qd) h.groupNo h.groupCount
        findMove t mv = some { m with stage := 4, cont := sent } ∧ ∃ o, (t.core m.core).copies = (s.core m.core).copies ++ [o] ∧ o.kind = .cont ∧
          o.ticket = (s.core m.core).ticket.toNat ∧ (t.core m.core).ticket = (s.core m.core).ticket + 1 ∧
          o.elem = m.id ∧ o.aux = m.chip ∧ o.lanes = if h.ret then [] else
            (migRegs s w).1.flatMap (fun n => (lanesOf m.lanes).map (fun l =>
              (m.gcore * 2 ^ 30 + 2 ^ 27 + m.gslot * 32768 + n * 128 + l * 4, ((w.ent n).val l).toNat))) ++
            (migRegs s w).2.map (fun n => (m.gcore * 2 ^ 30 + 2 * 2 ^ 27 + m.gslot * 2048 + n * 4, (tget 0 w.u n).toNat))) ∧
      (m.stage = 7 → (m.fallback = true → Completes (.migrationGrantReply mv) s fun t => findMove t mv = none ∧
          (∀ l ∈ lanesOf m.lanes, (t.crew m.core m.slot).parkOf l = .resume s.clk) ∧
          ∀ n, 1 ≤ n → (t.crew m.core m.slot).pred n = if n = predNo m.qd then (s.crew m.core m.slot).pred n &&& ~~~m.lanes else (s.crew m.core m.slot).pred n) ∧
        (m.fallback = false → m.cause ∈ [0x20, 0x21, 0x22, 0x23] → (s.crew m.core m.slot).trapent ≠ 0xFFFFFFFF →
          (∀ l ∈ lanesOf m.lanes, inTrap (tget 0 (s.crew m.core m.slot).trapinfo l) = false) → Completes (.migrationGrantReply mv) s fun t =>
          findMove t mv = none ∧ ∀ l ∈ lanesOf m.lanes, let w := t.crew m.core m.slot
            w.pcOf l = codeAt (s.crew m.core m.slot).trapent ∧ tget 0 w.trappc l = m.pc.addr ∧ bf (tget 0 w.trapinfo l).toNat 0 8 = m.cause)) ∧
      (∀ g, m.stage = 5 → m.chip = s.chipid → h.ret = false → (s.crew m.gcore m.gslot).guest = some g → ofGroup h g = true →
        g.open_ = false ∨ nextCrewSlot (s.core m.gcore) = none → contRows s m.gcore m.gslot h = true → apart → Completes (.continuationArrival mv) s fun t =>
          let w := s.crew m.gcore m.gslot
          let q := t.crew m.gcore m.gslot
          findMove t mv = some { m with stage := 6 } ∧ carries t m.gcore m.gslot ∧ (w.st = .reserved → q.st = .resident) ∧ q.live = w.live ||| h.mask ∧
          (∀ n j, h.uregs[j]? = some n → tget 0 q.u n = h.uvals.getD j 0) ∧
          (∀ l ∈ lanesOf h.mask, q.parkOf l = if ((s.core m.gcore).ov p.slot).loading = some p.id then .overlay else .no) ∧
          ∃ n ∈ t.notes, n.dst = h.originChip ∧ n.body = .location h.grid h.team h.crewid h.mask s.chipid m.gcore m.gslot) ∧
      (m.stage = 5 → m.chip = s.chipid → h.ret = false → (s.crew m.gcore m.gslot).guest.any (ofGroup h) = false → Completes (.continuationArrival mv) s fun t =>
          findMove t mv = some { m with stage := 6 } ∧ t.cores = s.cores ∧
          ∃ n ∈ t.notes, n.dst = h.originChip ∧ n.body = .exitNote h.grid h.team h.crewid h.mask (h.seen ++ [s.chipid])) ∧
      (m.stage = 5 → m.chip = s.chipid → h.ret = true → findOrigin s h.grid h.team h.crewid = none → originSaved s h.grid h.team h.crewid = false →
        Completes (.returnContinuation mv) s fun t => findMove t mv = some { m with stage := 6 } ∧ t.cores = s.cores) ∧
      (∀ c k, m.stage = 5 → m.chip = s.chipid → h.ret = true → (∀ n ∈ s.lmoves, n.core = c → n.slot = k → n.sent s = false ∨ n.lanes &&& h.mask = 0) → findOrigin s h.grid h.team h.crewid = some (c, k) → contRows s c k h = true → apart →
        Completes (.returnContinuation mv) s fun t =>
          let w := s.crew c k
          let q := t.crew c k
          findMove t mv = some { m with stage := 6 } ∧ carries t c k ∧ q.away = w.away &&& ~~~h.mask ∧ q.live = w.live ∧ q.u = w.u ∧ q.fpmode = w.fpmode ∧
          ∀ l ∈ lanesOf h.mask, q.parkOf l = .resume s.clk) ∧
      (m.stage = 6 ∨ m.stage = 5 ∧ m.chip ≠ s.chipid ∧ pktDone s (m.chip, m.seq) = true →
        let w := s.crew m.core m.slot
        (w.guest = none → Completes (.migrationAck mv) s fun t => let q := t.crew m.core m.slot
          findMove t mv = none ∧ q.away = w.away ||| m.lanes ∧ q.live = w.live ∧ ∀ l, if l ∈ lanesOf m.lanes then q.parkOf l = .no ∧
              tget? q.hosts l = some ((tget? w.hosts l).getD { chip := m.chip, core := m.gcore, slot := m.gslot, moving := true })
            else q.parkOf l = w.parkOf l ∧ tget? q.hosts l = tget? w.hosts l) ∧
        (w.guest ≠ none → w.live &&& ~~~m.lanes ≠ 0 → Completes (.migrationAck mv) s fun t => findMove t mv = none ∧
          (t.crew m.core m.slot).live = w.live &&& ~~~m.lanes))) ∧
    (∀ q core stack, findMove s mv = none → findMsg s mv = some q → q.body = .grantReq h core stack → core.any (191 < ·) = true →
      exec (.migrationGrantRequest mv) s = .next (ctlPacket { s with net := s.net.filter (fun n => !(n.id == q.id)) } q.chip q.dst (.grantRep 0 0 0x20))) ∧
    (∀ c k g, (s.crew c k).st = .resident → (s.crew c k).guest = some g → g.open_ = false → g.formed + 64 ≤ s.clk →
      Completes (.guestIssueWindowEnd c k) s fun t => t = s.modCrew c k (fun w => { w with guest := some { g with open_ := true } })) ∧
    (∀ id q, findNote s id = some q →
      let u : State := { s with notes := s.notes.filter (fun n => !(n.id == q.id)) }
      (∀ g t j mask chip core slot, q.body = .location g t j mask chip core slot → originSaved s g t j = false →
        (findOrigin s g t j = none → Completes (.locationNotice id) s fun t => t = u) ∧
        (∀ c k, findOrigin s g t j = some (c, k) → Completes (.locationNotice id) s fun t =>
          t = u.modCrew c k (fun w => { w with hosts := (t.crew c k).hosts }) ∧
          ∀ l, tget? (t.crew c k).hosts l = if l ∈ lanesOf (mask &&& (s.crew c k).live) then some { chip, core, slot, moving := false }
            else tget? (s.crew c k).hosts l)) ∧
      (∀ g t j mask seen, q.body = .exitNote g t j mask seen → originSaved s g t j = false →
        (findOrigin s g t j = none → Completes (.exitNotice id) s fun t => t = { u with grids := t.grids } ∧ (∀ n, n ≠ g → t.grid n = s.grid n) ∧
          ((s.grid g).state ≠ 0 → (s.grid g).removing = [] → t.grid g = { s.grid g with hosted := ((s.grid g).hosted ++ seen.filter (· != s.chipid)).eraseDups })) ∧
        (∀ c k, findOrigin s g t j = some (c, k) → (∀ n ∈ s.lmoves, n.core = c → n.slot = k → n.sent s = false ∨ n.lanes &&& mask = 0) → let w := s.crew c k
          w.live &&& ~~~(mask &&& w.away) ≠ 0 → Completes (.exitNotice id) s fun t =>
            (t.crew c k).live = w.live &&& ~~~(mask &&& w.away) ∧ (t.crew c k).away = w.away &&& ~~~mask)) ∧
      (∀ chip oc ok c k, q.body = .halt chip oc ok c k → movedFrom s chip oc ok c k = [] → Completes (.guestHalt id) s fun t =>
        (isGuestOf s chip oc ok c k = false → t = u) ∧
        ∀ g, (s.crew c k).guest = some g → isGuestOf s chip oc ok c k = true →
          let v := u.modCrew c k (fun w => { w with halted := true })
          let stay := (s.crew c k).live &&& ~~~(movingLanes s c k)
          t = if stay = 0 then v else sendNote v g.chip (.halted g.cont.grid g.cont.team g.cont.crewid stay)) ∧
      (∀ chip oc ok c k e, q.body = .halt chip oc ok c k → movedFrom s chip oc ok c k = [e] → isGuestOf s chip oc ok c k = false →
        Completes (.guestHalt id) s fun t => t = sendNote u e.toChip (.halt chip oc ok e.toCore e.toSlot)) ∧
      (∀ chip oc ok nc nk c k, q.body = .resume chip oc ok nc nk c k → movedFrom s chip oc ok c k = [] → Completes (.guestResume id) s fun t =>
        t = if isGuestOf s chip oc ok c k then u.modCrew c k (fun w =>
          { w with halted := false, guest := w.guest.map (fun g => { g with core := nc, slot := nk }) }) else u) ∧
      (∀ chip oc ok c k, q.body = .remove chip oc ok c k → movedFrom s chip oc ok c k = [] → Completes (.guestRemove id) s fun t =>
        if isGuestOf s chip oc ok c k then tget? (t.core c).slots k = none else t = u))

/-! ## Fabric (spec/15_fabric.md) -/

/-- R443, R447: RST asks for one write for each line, with .rc naming its counter's chip, page, offset and frame; RLD, at an
aligned address, for one read for each line, and RATOM, outside a heat, for one read-modify-write for each lane; all of them
as packets, with ORD under .ord. R446: BPUT and BGET are queued with their pieces, each with a reserved SEQ of the peer's
connection. R448: FACK joins its crew's orders. R449, R450: ACNT binds and unbinds an arrival counter; AWAIT waits on its
word. R451, R452: CONN tells of a connection, opens it, or begins its reset. The model's own choices here: log entries 47, 127
and 128. -/
def Obligations.FabricWords : Prop :=
  ∀ (w : Op) (s : State) (x : Ctx),
    let k := s.at x
    let q := s.core x.c
    let lanes := acting x w.d
    let quiet : Prop := s.evq0.length < 4096 ∧ s.evq1.length < 4096
    (let n := widthOf w.ty
     let store : MemWord := { acc := .rst, width := n, fab := true, ord := w.mb 10, uni := isU w.d }
     let stores (m : MemWord) : Prop := (∀ l ∈ lanes, addr64 s x w l + n ≤ 2 ^ 57) → Issues s w [] false x →
       Asks (.rst w) s x m (lanes.map (fun l => { lane := l, addr := addr64 s x w l, n, data := bytesAt s x w n l }))
     (w.mb 9 = false → stores store) ∧
     (∀ chip frame t, let va := usrc64 s x w.c
       w.mb 9 = true → va % 8 = 0 → farOf s x.c k.ctx va true = (s, .to chip frame t) → t.fw = false → t.dfr = false →
       stores { store with rc := some (chip, t.gpn, va % 65536, frame) }) ∧
     (Issues s w (vdst w.d ((n + 3) / 4)) (uniformProducing w) x →
       ((∀ l ∈ lanes, addr64 s x w l % n = 0 ∧ addr64 s x w l + n ≤ 2 ^ 57) →
         Asks (.rld w) s x { acc := .rld, width := n, fab := true, ord := w.mb 10, long := true, kind := fillOf w.ty, dst := w.d, uni := isU w.d }
           (lanes.map (fun l => { lane := l, addr := addr64 s x w l, n })) (uniformProducing w)) ∧
       ((∀ l ∈ lanes, addr64 s x w l % n ≠ 0) → quiet → ∃ u t, exec (.rld w) s = .next t ∧
         Splits s u x lanes 0x11 (fun l => w64 (addr64 s x w l)) ∧ u.reqs = s.reqs ∧ EndsAs (pump u x.c) t x))) ∧
    (let n := if w.mb 9 then 8 else 4
     let fn : RmwFn := if w.ty = 15 then .cas else if n = 8 then .t64 w.ty else .t32 w.ty
     Issues s w (vdst w.d (n / 4)) false x →
       (∀ acc : Nat → LaneAcc, inHeat s k = false → AtomAt s x w n .global acc →
         Asks (.ratom w) s x { acc := .ratom fn, width := n, atom := true, fab := true, ord := w.mb 10, each := true, long := true
                               kind := .regs (n / 4), dst := w.d, uni := isU w.d }
           (lanes.map (fun l => { acc l with b := rmwVal s x fn n w.b l, c := atomVal s x n w.c l }))) ∧
       (inHeat s k = true → k.trapent ≠ 0xFFFFFFFF → (∀ l ∈ lanesOf x.on, inTrap (tget 0 k.trapinfo l) = false) →
         Completes (.ratom w) s fun t => Traps s t x (lanesOf x.on) 0x50 0 (fun l => if l ∈ lanesOf x.path then x.next else k.pcOf l))) ∧
    (Issues s {} [] false x →
      Orders .fack s s x {} { rel := false, acq := false, scope := 0, lanes := x.on, before := s.nextId, after := .fack } (NoneLeft s x)) ∧
    (let d := leNat ((rdRun s x w.a 8 x.low).flatMap (fun v => leBytes 4 v.toNat))
     let n := bf d 128 32
     let ctl := bf d 160 32
     let sp := w.mf 8 2
     Issues s w [] false x →
       (32 ≤ q.copies.length → Retries (.bput w) s x ∧ Retries (.bget w) s x) ∧
       (q.copies.length < 32 → 2 ^ 24 < n → seqsOwed s k.uid = false → quiet → Refuses (.bput w) s x 0x11 ∧ Refuses (.bget w) s x 0x11) ∧
       ∀ (get : Bool) (cw : Option Nat) (near : Nat), let i : Instr := if get then .bget w else .bput w
         let far := bf d (if get then 0 else 64) 64
         (∃ r, w.d = .u r) → q.copies.length < 32 → seqsOwed s k.uid = false → n ≤ 2 ^ 24 → Lies s x sp (bf d (if get then 64 else 0) 64) n near →
         bf ctl 0 3 ≤ 4 → bf ctl 3 10 = 0 → bf ctl 16 3 = 0 → (get = true → bf d 192 64 = 0) →
         (if bit w.imm.toNat 31 then cw = none else ∃ r, Lies s x 1 (bf w.imm.toNat 2 16 * 4) 4 r ∧ cw = some (r % 2 ^ 32)) →
         let pieces := cutPieces (2 ^ (bf ctl 0 3 + 8)) far near (sp == 0) (n + 1) 0 n
         let b : Bulk := { peer := none, ord := w.mb 10, act := if bit ctl 31 then some (bf ctl 23 8, bf ctl 19 4) else none
                           pin := if bit ctl 15 then some (bf ctl 13 2) else none, rc := bf d 192 64, todo := pieces }
         let op (b : Bulk) : CopyOp :=
           { ticket := q.ticket.toNat, kind := if get then .bget else .bput, slot := x.k, ts := k.ts, grid := k.grid, ctx := k.ctx, priv := k.priv
             ss := if get then 0 else sp, ds := if get then sp else 0, src := w64 (if get then far else near), dst := w64 (if get then near else far)
             n, cw, pc := x.pc.addr, uid := k.uid, before := s.nextId, bulk := some b
             claims := if get && sp != 0 then rangeLines near n else [] }
         let queued (u : State) (o : CopyOp) : Prop :=
           Does i s (claimLines (u.modCore x.c (fun q => { q with copies := q.copies ++ [o], ticket := q.ticket + 1 })) o.claims) x w
             (FixedLeft u x 4 (wrOf x false w.d (fun _ => q.ticket)))
         (n = 0 → queued s (op b)) ∧
         (∀ chip frame t, let old := s.conn chip
           n ≠ 0 → farOf s x.c k.ctx far (!get) = (s, .to chip frame t) → old.lost = false → old.next < 2 ^ 24 → ∃ u,
             queued u (op { b with peer := some chip, todo := pieces.zipIdx.map (fun e => { e.1 with pkt := some (chip, (old.next + e.2) % 2 ^ 24) }) }) ∧
             { u with conns := s.conns, nextId := s.nextId } = s ∧ (∀ c, c ≠ chip → u.conn c = s.conn c) ∧
             ∃ new, (u.conn chip).kept = old.kept ++ new ∧ (u.conn chip).next = (old.next + pieces.length) % 2 ^ 24 ∧
               new.map (fun e => (e.pkt.seq, e.reserved, e.sent)) = (List.range pieces.length).map (fun j => ((old.next + j) % 2 ^ 24, true, false)))) ∧
    ((∀ n, w.a ≠ .v n) → (∀ n, w.b ≠ .v n) → Issues s w [] false x →
      (∀ r, w.d = .u r → let n := w.mf 6 4
        let a := usrc s x w.a
        let good : Prop := k.guest = none ∧ a % 4 = 0 ∧ a + 4 ≤ (s.team x.c k.ts).scratch
        (good → ∀ c, tget? q.arrCtrs n = some c → c.ts ≠ k.ts → Answers (.acnt w) s s x w 1) ∧
        (good → (∀ c, tget? q.arrCtrs n = some c → c.ts = k.ts) →
          let bar := if w.mb 5 then some (w.mf 1 4) else none
          let c : ArrCtr := { ts := k.ts, off := a, threshold := w32 (usrc s x w.b), bar, armed := bar.isSome, sum := 0 }
          let u := s.modCore x.c (fun o => { o with arrCtrs := tset o.arrCtrs n c })
          Answers (.acnt w) s (match bar with
            | some b => expectEngine u x.c k.ts b
            | none => u) x w 0) ∧
        (¬good → quiet → Refuses (.acnt w) s x 0x11) ∧
        (k.guest ≠ none ∨ (∀ c, tget? q.arrCtrs n = some c → c.ts ≠ k.ts) → Answers (.acntRel w) s s x w 2) ∧
        (∀ c, k.guest = none → tget? q.arrCtrs n = some c → c.ts = k.ts →
          let u := s.modCore x.c (fun o => { o with arrCtrs := tdel o.arrCtrs n })
          (c.armed = false → Answers (.acntRel w) s u x w 0) ∧
          (∀ b, c.armed = true → c.bar = some b →
            let less (o : Bar) : Bar := { o with expected := o.expected - 1 }
            Answers (.acntRel w) s (checkTeamBar (u.modTeam x.c k.ts (fun m =>
              { m with bars := tset m.bars b (less (tget {} m.bars b)) })) x.c k.ts b) x w 0))) ∧
      (let n := w.mf 3 4
       (k.guest ≠ none ∨ (∀ c, tget? q.arrCtrs n = some c → c.ts ≠ k.ts) → quiet → Refuses (.await w) s x 0x11) ∧
       (∀ c, k.guest = none → tget? q.arrCtrs n = some c → c.ts = k.ts → c.off + 4 ≤ (s.team x.c k.ts).scratch →
         Waits (.await w) s x w [] (waitRec 3 2 4 false true .no)
           (fun l => { lane := l, addr := (s.team x.c k.ts).scrBase + c.off, n := 4, space := 1 })
           (fun l => (rd s x w.imm w.b l).setWidth 64) (fun _ => BitVec.allOnes 64))) ∧
      (∀ r, w.d = .u r → let chip := usrc s x w.a
        let c := s.conn chip
        (namesChip chip = false → quiet → Refuses (.connRd w) s x 0x30 ∧ Refuses (.connOpen w) s x 0x30 ∧ (k.priv = true → Refuses (.connReset w) s x 0x30)) ∧
        (k.priv = false → quiet → Refuses (.connReset w) s x 0x11) ∧
        (namesChip chip = true →
          (let word : List W32 := [w32 ((if c.lost then 2 else if inSram s chip then 1 else 0) + 16 * ((livePaths s chip).map (2 ^ ·)).sum),
             w32 c.next, w32 c.oldest, c.resends, tget 0 c.bytes 0, tget 0 c.bytes 1, tget 0 c.bytes 2, tget 0 c.bytes 3]
           Does (.connRd w) s s x w (LongLeft s x ((List.range 8).map (fun i => Wr.u (r.toNat + i) (word.getD i 0))))) ∧
          Answers (.connOpen w) s (useConn s chip) x w 0 ∧
          (k.priv = true → c.lost = false → Answers (.connReset w) s s x w 1) ∧
          (k.priv = true → c.lost = true → Starts (.connReset w) s (emit (s.modConn chip (fun c => { c with kept := [] }))
            { typ := 0x0D, src := s.chipid, dst := chip, reqKind := 5 }) x w 1 (.connReset chip s.ref)))))

/-- R434 to R439, R443, R444, R447, R452: the first packet of a connection that has not left leaves on the live path with the
fewest unacknowledged bytes. A packet that comes in its turn does what its type says at the frame that serves it: bytes are
written, an RC counter and an arrival counter take LEN, a read is answered with bytes, a read-modify-write with old values;
its SEQ is performed, and it is acknowledged where no answer tells. A response or an acknowledgement ends the copy and reaches
the line that waits. A refusal marks its packet, which is sent again to the owner or after RTO, or freezes the engine. An
overdue packet is sent on the next live path, or the send half is lost and the lanes that wait fault. A reset zeroes both
halves. The model's own choices here: log entries 120, 121, 122, 124, 126 and 129. -/
def Obligations.FabricEvents : Prop :=
  (∀ (s : State) (chip i : Nat) (e : Kept), let q := s.conn chip
    let fewest : Prop := i ∈ livePaths s chip ∧ ∀ j ∈ livePaths s chip, pathLoad q i < pathLoad q j ∨ pathLoad q i = pathLoad q j ∧ i ≤ j
    q.kept.find? (fun e => !e.sent) = some e → e.reserved = false → e.refused = 0 → seqDist e.pkt.seq q.oldest < 256 → q.lost = false →
    (if e.pkt.pin = true ∧ e.pkt.path ∈ livePaths s chip then i = e.pkt.path else fewest) →
    Completes (.packetSend chip) s fun t => t = putOut (s.modConn chip (fun q => { q with kept := q.kept.map (fun f =>
      if f.pkt.seq = e.pkt.seq then { f with pkt := { e.pkt with path := i }, sent := true, at_ := s.ref } else f) })) { e.pkt with path := i }) ∧
  (∀ (s u : State) (p : Packet), s.phase.lit = true → packetFits s p = true →
    (p.src = s.chipid ∧ p ∈ s.loop ∧ u = { s with loop := s.loop.erase p } ∨
      p.src ≠ s.chipid ∧ namesChip p.src = true ∧ p.dst = s.chipid ∧ (arrivalPort s p).isSome = true ∧ u = s) →
    let q := u.conn p.src
    let inOrder : Prop := p.seq = q.recvAll ∧ q.recvSet = [] ∧ q.held = [] ∧ passedOn u p = false
    let sends (t : State) (r : Packet) : Prop :=
      if r.dst = s.chipid then t.loop = u.loop ++ [{ r with path := 0 }] ∧ t.wire = u.wire
      else t.loop = u.loop ∧ ((∀ i, choosePath u r.dst ≠ some i) → t.wire = u.wire) ∧
        ∀ i o, choosePath u r.dst = some i → pathPort u r.dst i = some o → t.wire = u.wire ++ [(o, { r with path := i })]
    let performed (t : State) : Prop := (t.conn p.src).recvAll = (p.seq + 1) % 2 ^ 24 ∧ (t.conn p.src).recvSet = []
    let acked (t : State) : Prop := performed t ∧
      sends t { typ := 0x06, src := s.chipid, dst := p.src, seq := (p.seq + 1) % 2 ^ 24, reqKind := 5, len := 32, body := .bitmap [] }
    let m := p.frame / 2 ^ 20
    let f := p.frame % 2 ^ 20
    let base := m * 2 ^ 36 + f * 2 ^ 16
    let serves : Prop := m < 8 ∧ stagingFrame f = false ∧ frameSt u m f p.gpn = .serve
    let cached (n : Nat) (e : MscSector) : Prop := tget? s.msc n = some e ∧ keyOf s e.ctx = keyOf s p.ctx ∧ e.poison = 0 ∧ e.data.length = 64
    let filled (r : Req) : Req := { r with noFill := if r.fab && r.key.isSome then 0xF else r.noFill }
    let answer (typ len : Nat) (b : Body) : Packet :=
      { typ, src := s.chipid, dst := p.src, seq := p.seq, ctx := p.ctx, gpn := p.gpn, off := p.off, reqKind := p.reqKind, reqIdx := p.reqIdx
        tag := p.tag, len, body := b }
    (∀ cells, p.typ = 1 → p.body = .bytes cells → cells.length = p.len → (∀ c ∈ cells, c.1 < 65536) → p.act = none → p.rc = none → inOrder → serves →
      Completes (.writePacket p) s fun t => acked t ∧ t.hostMem = s.hostMem ∧ ∀ n e, n ∈ cells.map (fun c => (base + c.1) / 64) → cached n e →
        ∃ e', tget? t.msc n = some e' ∧ e'.dirty = true ∧ e'.poison = 0 ∧ e'.ctx = p.ctx ∧
          ∀ j, j < 64 → e'.data.getD j 0 = lastOf (cells.map (fun c => (base + c.1, c.2))) (64 * n + j) (e.data.getD j 0)) ∧
    (∀ flush, p.typ = 1 → p.body = .clean flush → p.act = none → p.rc = none → inOrder → serves → p.off % 256 = 0 →
      writesTo u.reqs (base + p.off) = false → Completes (.writePacket p) s fun t => acked t ∧
        ∀ i, i < 4 → ∀ e, tget? t.msc ((base + p.off) / 64 + i) = some e → e.dirty = false ∧ flush = false) ∧
    (p.typ = 1 → p.body = .empty → inOrder →
      (∀ g o k e, p.act = none → p.rc = some (g, o, k) → k / 2 ^ 20 < 8 → stagingFrame (k % 2 ^ 20) = false →
        frameSt u (k / 2 ^ 20) (k % 2 ^ 20) g = .serve → o % 8 = 0 → o < 65536 →
        let a := k / 2 ^ 20 * 2 ^ 36 + k % 2 ^ 20 * 2 ^ 16 + o
        cached (a / 64) e → Completes (.writePacket p) s fun t => acked t ∧ ∃ e', tget? t.msc (a / 64) = some e' ∧ e'.data =
          e.data.take (a % 64) ++ leBytes 8 ((leNat ((e.data.drop (a % 64)).take 8) + p.len) % 2 ^ 64) ++ e.data.drop (a % 64 + 8)) ∧
      (∀ c n a, p.rc = none → p.act = some (c, n) → tget? (u.core c).arrCtrs n = some a → a.armed = false →
        absentLines (u.core c) ((u.team c a.ts).scrBase + a.off) 4 = [] → Completes (.writePacket p) s fun t => acked t ∧
          let w := (s.team c a.ts).scrBase + a.off
          leNat ((t.core c).scrRead w 4) = (leNat ((s.core c).scrRead w 4) + p.len) % 2 ^ 32 ∧
          tget? (t.core c).arrCtrs n = some { a with sum := a.sum + p.len })) ∧
    (∀ o n e, p.typ = 2 → p.body = .ranges [(o, n)] → p.orig = none → inOrder → serves → 0 < n → o % 64 + n ≤ 64 → o + n ≤ 65536 →
      cached ((base + o) / 64) e → Completes (.readRequestPacket p) s fun t => performed t ∧ t.msc = s.msc ∧
        sends t (answer 3 n (.data (cellsAt o ((e.data.drop (o % 64)).take n)) []))) ∧
    (∀ l e, p.typ = 4 → p.body = .rmw [l] → p.orig = none → savedAnswer u (savedAt p) = none → inOrder → serves → l.lane < 32 → l.width ∈ [4, 8, 16] →
      l.off % l.width = 0 → l.off + l.width ≤ 65536 →
      let a := base + l.off
      let old := leNat ((e.data.drop (a % 64)).take l.width)
      cached (a / 64) e → Completes (.rmwRequestPacket p) s fun t => performed t ∧ sends t (answer 5 p.len (.olds [(l.lane, BitVec.ofNat 128 old)] 0)) ∧
        ∃ e', tget? t.msc (a / 64) = some e' ∧ e'.data = match rmwNew l.fn l.width old l.b.toNat l.c.toNat with
          | some v => e.data.take (a % 64) ++ leBytes l.width v ++ e.data.drop (a % 64 + l.width)
          | none => e.data) ∧
    (∀ o b, p.typ = 0x0B → p.body = .mapWrite o b → o < 2 ^ 38 → o % 4 = 0 → b.length = p.len → b.length % 4 = 0 → mapReg o = 0 → mapOk u o p.len = true →
      s.saves = [] → inOrder → Completes (.mapWritePacket p) s fun t => acked t ∧
        ∀ a, tget 0 (t.core (mapCore o)).scratch a = lastOf (cellsAt (mapOfs o) b) a (tget 0 (s.core (mapCore o)).scratch a)) ∧
    (∀ chip e r cells bad, p.typ = 3 → p.body = .data cells bad → answerTo u p = some (chip, e) → dataFits e.pkt.body cells = true → e.behalf = none → e.redir = none →
      reqUser u chip e.pkt.seq = some r → r.acc ≠ .pref true → ∃ v, exec (.readResponsePacket p) s = .next (pump v r.core) ∧
        (v.conn chip).kept = (u.conn chip).kept.filter (fun f => !(f.pkt.seq == e.pkt.seq)) ∧
        ∃ d, findReq v r.id = some { filled r with stage := .respond, data := d, poison := r.poison ++ bad.map (· % 8) } ∧
          ∀ a, tget 0 d a = lastOf (cells.map (fun c => (c.1 % 256, c.2))) a (tget 0 r.data a)) ∧
    (∀ chip e r l c, p.typ = 5 → p.body = .olds l c → answerTo u p = some (chip, e) → e.behalf = none → e.redir = none → reqUser u chip e.pkt.seq = some r →
      r.acc.returns = true → badLanes r l = [] → findReq u r.id = some r → ∃ v, exec (.rmwResponsePacket p) s = .next (pump v r.core) ∧
        (v.conn chip).kept = (u.conn chip).kept.filter (fun f => !(f.pkt.seq == e.pkt.seq)) ∧ findReq v r.id = some { filled r with stage := .respond, olds := l }) ∧
    (∀ set e r, p.typ = 6 → p.body = .bitmap set → q.kept.filter (ackCovers p.seq set) = [e] → e.behalf = none → e.redir = none → reqUser u p.src e.pkt.seq = some r →
      ∃ v, exec (.ackPacket p) s = .next (pump v r.core) ∧ (∀ o ∈ v.reqs, o.id ≠ r.id) ∧
        (v.conn p.src).kept = q.kept.filter (fun f => !(f.pkt.seq == e.pkt.seq)) ∧
        ∀ i, tget 0 (v.conn p.src).bytes i = tget 0 q.bytes i + if i = e.pkt.path then w32 e.pkt.len else 0) ∧
    (∀ e, p.typ = 7 → p.body = .empty → findKept u p.src p.seq = some e → e.sent = true → e.refused = 0 → e.behalf = none → e.pkt.orig = none →
      (p.frame = 1 → e.pkt.rc = none → Completes (.refusalPacket p) s fun t => { e with refused := 1, at_ := s.ref } ∈ (t.conn p.src).kept ∧
        ocFind t e.pkt.gpn = none ∧ ∃ y ∈ t.queries, y.gpn = e.pkt.gpn ∧ y.asker = s.chipid ∧ y.answered = false) ∧
      (p.frame = 2 → Completes (.refusalPacket p) s fun t => t = { u with conns := t.conns } ∧ { e with refused := 2, at_ := s.ref } ∈ (t.conn p.src).kept) ∧
      (∀ c o, p.frame = 3 → opUser u p.src p.seq = some (c, o) → o ∈ (s.core c).copies → reqUser u p.src p.seq = none → o.kind = .bput → o.cause = 0 → (∀ b, o.bulk = some b → b.todo = []) →
        (s.core c).copyFrozen = false → Completes (.refusalPacket p) s fun t => (t.core c).copyFrozen = true ∧
          ∃ y ∈ (t.core c).copies, y.ticket = o.ticket ∧ y.cause = 0x11)) ∧
    (p.typ = 0x0D → p.body = .empty → q.kept = [] → q.waiting = [] → s.reqs = [] → s.lmoves = [] → s.pmoves = [] → (∀ e ∈ s.arrSrc, e.2 ≠ p.src) →
      let zero (t : State) : Prop := let c := t.conn p.src
        c.next = 0 ∧ c.recvAll = 0 ∧ c.recvSet = [] ∧ c.kept = [] ∧ c.held = [] ∧ c.lost = false ∧ c.resends = 0 ∧ c.bytes = []
      (p.tag = 0 → Completes (.connectionResetPacket p) s fun t => zero t ∧ ∃ v, t = emit v { typ := 0x0D, src := s.chipid, dst := p.src, reqKind := 5, tag := 1 }) ∧
      (∀ j, p.tag = 1 → resetJob u p.src = some j → Completes (.connectionResetPacket p) s fun t => zero t ∧ (∀ o ∈ t.jobs, o.id ≠ j.id) ∧
        ∀ r ∈ (s.crew j.core j.slot).results, r.id = j.res →
          { r with ready := true, wr := r.wr ++ giveWords j.d [0] } ∈ (t.crew j.core j.slot).results)) ∧
    (p.typ = 0 ∨ 0x0E ≤ p.typ → Completes (.unknownPacket p) s fun t => t = { u with ports := t.ports } ∧ ∀ i, t.port i =
      if p.src ≠ s.chipid ∧ arrivalPort s p = some i then { s.port i with drop := (s.port i).drop + 1 } else s.port i)) ∧
  (∀ (s : State) (chip seq : Nat) (p : Packet), (s.conn chip).held.find? (fun h => h.seq == seq) = some p → p.src = chip → p.typ = 1 → p.body = .empty →
    p.act = none → p.rc = none → p.orig = none → (s.conn chip).recvAll = seq → seq < 2 ^ 24 → (s.conn chip).recvSet = [] →
    Completes (.heldPacketPerform chip seq) s fun t => (t.conn chip).held = (s.conn chip).held.filter (fun h => !(h.seq == seq)) ∧
      (t.conn chip).recvAll = (seq + 1) % 2 ^ 24 ∧ ∃ v, t = emit v { typ := 0x06, src := s.chipid, dst := chip, seq := (seq + 1) % 2 ^ 24, reqKind := 5, len := 32, body := .bitmap [] }) ∧
  (∀ (s : State) (chip : Nat), let q := s.conn chip
    (∀ e, chip ≠ s.chipid → s.phase.lit = true → overdue s chip = some e →
      (∀ i, e.tries < s.retry → nextPath s chip e.pkt.path = some i → Completes (.retransmitTimeout chip) s fun t =>
        t = putOut (s.modConn chip (fun q => { q with resends := q.resends + 1, kept := q.kept.map (fun f => if f.pkt.seq = e.pkt.seq then
          { f with pkt := { f.pkt with path := i }, tries := f.tries + 1, at_ := s.ref } else f) })) { e.pkt with path := i }) ∧
      (∀ r, s.retry ≤ e.tries → q.kept = [e] → keptThrough e = false → s.reqs = [r] → r.stage = .remote chip e.pkt.seq → r.acc = .rld →
        opUser s chip e.pkt.seq = none → s.lmoves = [] → s.pmoves = [] → s.evq0.length < 4096 → Completes (.retransmitTimeout chip) s fun t =>
          (t.conn chip).lost = true ∧ (t.conn chip).kept = [] ∧ (∃ v ∈ t.evq0, v.typ = 0x0D ∧ v.value = w32 (2 ^ 30 + chip)) ∧
          ∀ p ∈ r.pieces, p.lane < 32 → canFault s r p.lane = true → (t.crew r.core r.slot).parkOf p.lane = .fault ∧
            ∃ f, tget? (t.crew r.core r.slot).faults p.lane = some f ∧ f.cause = 0x31)) ∧
    (∀ seq e, findKept s chip seq = some e → hasUser s chip seq = true →
      (e.refused = 2 → e.at_ + 100 * s.rto ≤ s.ref → Completes (.refusedPacketResend chip seq) s fun t =>
        t = { s with conns := t.conns } ∧ { e with refused := 0, sent := false } ∈ (t.conn chip).kept) ∧
      (∀ m f, e.refused = 1 → (q.kept.find? (fun x => x.refused = 1 && x.pkt.gpn == e.pkt.gpn)).map (·.pkt.seq) = some seq → tget? s.hostPages e.pkt.gpn = none →
        ocFind s e.pkt.gpn = some (.dram chip m f) → reachable s chip = true → e.pkt.rc = none → Completes (.refusedPacketResend chip seq) s fun t =>
          { e with pkt := { e.pkt with dst := chip, frame := m * 2 ^ 20 + f }, refused := 0, sent := false } ∈ (t.conn chip).kept)) ∧
    (∀ j since, resetJob s chip = some j → j.kind = .connReset chip since → since + 100 * s.rto * s.retry ≤ s.ref →
      Completes (.connResetTimeout chip) s fun t => (∀ o ∈ t.jobs, o.id ≠ j.id) ∧ ∀ r ∈ (s.crew j.core j.slot).results, r.id = j.res →
        { r with ready := true, wr := r.wr ++ giveWords j.d [2] } ∈ (t.crew j.core j.slot).results))

/-! ## Bank units (spec/16_bank.md) -/

/-- R462 to R467, R474 to R480: a bank word acts on the pseudo-channel of its address. BKMODE claims it, with zeroed state, or
says why not; BKMODE.off, BKBC, BKMAC, BKLUT, BKRDA and BKZ enter their commands in the queue of the stack, BKMAC and BKLUT
where each of the row's 16 frames may be read; with a full queue the crew leaves for the pending set. Without the claim they
trap with cause 0x41; an address or a frame that fails its checks raises that check's cause. The model's own choices here: log
entries 131 and 134. -/
def Obligations.BankWords : Prop :=
  ∀ (w : Op) (s : State) (x : Ctx) (b : BankSite), (∀ n, w.a ≠ .v n) →
    let k := s.at x
    let va := usrc64 s x w.a
    let claim := (s.pcSt b).claim
    let mine : Prop := claim = some (x.c, k.ts)
    let room : Prop := (s.stack b.stack).bankQ.length + addsAt s b.stack < 64
    let all : Prop := x.mask = BitVec.allOnes 32 ∧ x.on = BitVec.allOnes 32
    let q (id code : Nat) : BankCmd := { id, code, pc := b.pc, row := b.row, core := x.c, slot := x.k, uid := k.uid, ts := k.ts, lanes := x.on }
    let push (u : State) (c : BankCmd) : State := u.modStack b.stack (fun m => { m with bankQ := m.bankQ ++ [c] })
    let traps (i : Instr) (cause : Nat) (addr : W64) : Prop := k.trapent ≠ 0xFFFFFFFF → (∀ l ∈ lanesOf x.on, inTrap (tget 0 k.trapinfo l) = false) →
      Completes i s fun t => Traps s t x (lanesOf x.on) cause 0 (fun l => if l ∈ lanesOf x.path then x.next else k.pcOf l) addr
    let splits (i : Instr) (cause : Nat) : Prop := s.evq0.length < 4096 → s.evq1.length < 4096 →
      ∃ u t, exec i s = .next t ∧ Splits s u x (lanesOf x.on) cause (fun _ => w64 va) ∧ EndsAs u t x
    let bytes (n : Nat) (l : Nat) : List Byte := (rdRun s x w.b n l).flatMap (fun v => leBytes 4 v.toNat)
    let enters (i : Instr) (c : BankCmd) : Prop := room → Does i s (push s c) x w (NoneLeft s x)
    (bankSite s x va = (s, .at_ b) →
      (∀ r, w.d = .u r → Issues s w [] false x →
        (¬room → Retries (.bkmode w) s x ∧ Retries (.bkmodeOff w) s x) ∧
        (room → let n := claimCount s x.c k.ts
          (mine → Answers (.bkmode w) s s x w 2) ∧ (¬mine → claim ≠ none → Answers (.bkmode w) s s x w 1) ∧
          (claim = none → 16 ≤ n → Answers (.bkmode w) s s x w 3) ∧
          (claim = none → n < 16 → Does (.bkmode w) s (push (s.setPc b.stack b.pc { claim := some (x.c, k.ts) })
            { q (s.nextId + 1) 0xB0 with on := true, res := s.nextId, d := w.d }) x w (OpenLeft x s.nextId w.d 1)) ∧
          (¬mine → Answers (.bkmodeOff w) s s x w 1) ∧
          (mine → Does (.bkmodeOff w) s (push s { q (s.nextId + 1) 0xB0 with on := false, res := s.nextId, d := w.d }) x w (OpenLeft x s.nextId w.d 1)))) ∧
      (Issues s w [] false x →
        (all → (mine → enters (.bkbc w) { q s.nextId 0xB1 with bytes := (List.range (w.mf 3 5 + 1)).flatMap (bytes 4) }) ∧ (¬mine → traps (.bkbc w) 0x41 (w64 va))) ∧
        ((¬mine ∨ room) → ¬all → traps (.bkbc w) 0x03 0) ∧
        (mine → ¬room → ∀ i ∈ [Instr.bkbc w, .bklutLd w, .bkz w], Retries i s x) ∧
        ((∀ n, w.b ≠ .v n) → let v := usrc s x w.b
          (mine → enters (.bklutLd w) { q s.nextId 0xB4 with bytes := bytes 8 x.low } ∧ enters (.bkz w) { q s.nextId 0xB7 with sel := bf v 0 8 }) ∧
          (¬mine → ∀ i ∈ [Instr.bkmac w, .bklutLd w, .bklut w, .bkz w], traps i 0x41 (w64 va)) ∧
          (let frame (j : Nat) : Nat := ((b.row * 16 + j) * 384 + b.pc) / 64
           let entry (j : Nat) : Nat := frameEntry s b.stack (frame j)
           let readable : Prop := ∀ j, j < 16 → frame j < 2 ^ 20 ∧ stagingFrame (frame j) = false ∧ bit (entry j) 0 = true ∧ entCtx (entry j) = k.ctx ∧
             bit (entry j) 2 = true ∧ bit (entry j) 6 = false ∧ tget? s.stubs (b.stack * 2 ^ 20 + frame j) = none ∧
             tget? s.arriving (b.stack * 2 ^ 20 + frame j) = none
           let deferred : Prop := ∃ j, j < 16 ∧ bit (entry j) 4 = true
           mine →
             (readable → ¬deferred → keyOf s k.ctx = none →
               enters (.bkmac w) { q s.nextId 0xB2 with acc := bf v 0 3, sel := bf v 3 1 } ∧
               enters (.bklut w) { q s.nextId 0xB3 with acc := bf v 0 3, sel := bf v 3 3 } ∧
               (¬room → Retries (.bkmac w) s x ∧ Retries (.bklut w) s x)) ∧
             ∀ i ∈ [Instr.bkmac w, .bklut w], (¬readable → splits i 0x11) ∧ (readable → deferred → traps i 0x14 (w64 va)) ∧
               (readable → ¬deferred → keyOf s k.ctx ≠ none → traps i 0x40 (w64 va))))) ∧
      (∀ r, w.d = .v r → Issues s w (vdst w.d 4) false x →
        (mine → room → Does (.bkrda w) s (push s { q (s.nextId + 1) 0xB5 with res := s.nextId, d := w.d }) x w (OpenLeft x s.nextId w.d 4)) ∧
        (mine → ¬room → Retries (.bkrda w) s x) ∧ (¬mine → traps (.bkrda w) 0x41 (w64 va)))) ∧
    (∀ c, k.guest ≠ none ∧ c = 0x11 ∨ (bankSite s x va).2 = .bad c ∧ monitorFirst c = true →
      (Issues s w [] false x → (∀ i ∈ [Instr.bkmode w, .bkmodeOff w, .bkmac w, .bklutLd w, .bklut w, .bkz w], splits i c) ∧ (all → splits (.bkbc w) c)) ∧
      (Issues s w (vdst w.d 4) false x → splits (.bkrda w) c))

/-- R185, R479: BKADD asks, at its canonical address, for one add of D in each executing lane, held inside a heat; with a full
queue at a controller that a lane names the crew leaves for the pending set; a guest crew's faults. R461, R466 to R471, R476
to R480: a command, in its team's order, acts on the units of a pseudo-channel that the team still claims: BKSW completes a
switch and gives status 0, BCST and LUTL write all 16 broadcast registers and tables, MACB and LUTB add BankDot to an
accumulator or, with poison, set it to the canonical NaN, RDAC gives four accumulators to each lane, ZACC zeroes. ADDW adds to
the word at its row, or is held with its key. The model's own choices here: log entries 132 and 133. -/
def Obligations.BankEvents : Prop :=
  (∀ (w : Op) (s : State) (x : Ctx), Issues s w [] false x →
    (addsHeld s x w = true → Retries (.bkadd w) s x) ∧
    ((s.at x).guest = none → addsHeld s x w = false → (∀ l ∈ lanesOf x.on, addr64 s x w l + 4 ≤ 2 ^ 57) →
      Asks (.bkadd w) s x { acc := .bkadd (w.mb 3) (inHeat s (s.at x)), width := 4 }
        ((lanesOf x.on).map (fun l => { lane := l, addr := addr64 s x w l, n := 4, b := (rd s x 0 w.d l).setWidth 128 }))) ∧
    ((s.at x).guest ≠ none → s.evq0.length < 4096 → s.evq1.length < 4096 → Refuses (.bkadd w) s x 0x11)) ∧
  (∀ (s : State) (m id : Nat) (b : BankCmd), (s.stack m).bankQ.find? (fun c => c.id == id) = some b → bankTurn s m b = true →
    (s.team b.core b.ts).live = true → let v : PcSt := tget {} (s.stack m).pcs b.pc
    v.claim = some (b.core, b.ts) →
    let unit (s : State) (i : Nat) : BankUnit := tget {} (tget ({} : PcSt) (s.stack m).pcs b.pc).units i
    let bc (i : Nat) : List Byte := let u := unit s i; if u.bc = [] then List.replicate 512 0 else u.bc
    let does (i : Instr) (P : State → Prop) : Prop := Completes i s fun t => SameMemory s t ∧
      (t.stack m).bankQ = (s.stack m).bankQ.filter (fun c => !(c.id == id)) ∧ (∀ n, n ≠ b.pc → tget? (t.stack m).pcs n = tget? (s.stack m).pcs n) ∧ P t
    let gives (t : State) (wr : List Wr) : Prop := ∀ r ∈ (s.crew b.core b.slot).results, r.id = b.res →
      { r with ready := true, wr := r.wr ++ wr } ∈ (t.crew b.core b.slot).results
    let units (t : State) (f : Nat → BankUnit) : Prop := (tget ({} : PcSt) (t.stack m).pcs b.pc).claim = v.claim ∧ ∀ i, i < 16 → unit t i = f i
    let row (n i : Nat) : List Nat := (List.range (n / 32)).map ((rowAddr m b.pc i b.row + n * b.sel) / 32 + ·)
    let data (n i : Nat) : List Byte := (row n i).flatMap (granRead s (s.grid (s.team b.core b.ts).grid).lr.ctx)
    let dot (n : Nat) (terms : Nat → List Nat) (i : Nat) : BankUnit := let u := unit s i
      { u with acc := tset u.acc b.acc (if ∃ g ∈ row n i, tget false s.poison g = true then 0x7FC00000
                                        else bankDot (tget 0 u.acc b.acc) (terms i) (halves (bc i))) }
    (b.code = 0xB0 → does (.bksw m id) fun t => gives t (giveWords b.d [0]) ∧
      tget? (t.stack m).pcs b.pc = if b.on then some { v with on := true } else none) ∧
    (b.code = 0xB1 → does (.bcst m id) fun t => units t (fun i => { unit s i with bc := b.bytes ++ (bc i).drop b.bytes.length })) ∧
    (b.code = 0xB2 → does (.macb m id) fun t => units t (dot 512 (fun i => halves (data 512 i)))) ∧
    (b.code = 0xB3 → does (.lutb m id) fun t => units t (dot 128 (fun i => (data 128 i).flatMap (fun y =>
      [(tget 0 (unit s i).lut (y.toNat % 16)).toNat, (tget 0 (unit s i).lut (y.toNat / 16)).toNat])))) ∧
    (b.code = 0xB4 → b.bytes.length = 32 → does (.lutl m id) fun t => ∀ i, i < 16 → (unit t i).bc = (unit s i).bc ∧ (unit t i).acc = (unit s i).acc ∧
      ∀ j, j < 16 → (tget 0 (unit t i).lut j).toNat = (b.bytes.getD (2 * j) 0).toNat + 256 * (b.bytes.getD (2 * j + 1) 0).toNat) ∧
    (∀ n, b.code = 0xB5 → b.d = .v n → does (.rdac m id) fun t => gives t ((List.range 4).map (fun k => Wr.v (n.toNat + k)
      ((lanesOf b.lanes).map (fun l => (l, tget 0 (unit s ((4 * l + k) / 8)).acc ((4 * l + k) % 8)))))) ∧ tget? (t.stack m).pcs b.pc = tget? (s.stack m).pcs b.pc) ∧
    (b.code = 0xB7 → does (.zacc m id) fun t => ∀ i, i < 16 → (unit t i).bc = (unit s i).bc ∧ (unit t i).lut = (unit s i).lut ∧
      ∀ a, tget 0 (unit t i).acc a = if bit b.sel a then 0 else tget 0 (unit s i).acc a)) ∧
  (∀ (s : State) (m cmd : Nat) (r : Req) (p : Piece) (t : Trans) (c f : Nat) (float held : Bool), findReq s (cmd / 32) = some r → r.acc = .bkadd float held →
    r.owner = some (.dram c m f) → r.tr = some t → t.fw = false → r.pieces.find? (fun p => p.lane == cmd % 32) = some p → addTurn s r = true →
    let a := m * 2 ^ 36 + f * 2 ^ 16 + p.addr % 65536
    let left (u : State) : Prop := let l := r.pieces.filter (fun q => q.lane != p.lane)
      findReq u r.id = if l = [] then none else some { r with pieces := l }
    (held = true → ∃ u y, exec (.addw m cmd) s = .next (pump u r.core) ∧ left u ∧ u.dram = s.dram ∧ u.msc = s.msc ∧ (u.stack m).held = (s.stack m).held ++ [y] ∧
      y.addr = a ∧ y.fn = .t32 (if float then 10 else 0) ∧ y.value = p.b.setWidth 32 ∧ ∀ q, p.key = some q → y.key = q) ∧
    (held = false → m < 8 → f < 2 ^ 20 → p.addr % 4 = 0 → Memory.wf s.dram = true → (∀ i, i < 4 → tget? s.msc (a / 256 * 4 + i) = none) →
      tget false s.poison (a / 32) = false →
      let g := granRead s r.ctx (a / 32)
      let old := leNat ((g.drop (a % 32)).take 4)
      ∀ v, (v = if float then addF 0 old (p.b.toNat % 2 ^ 32) else (old + p.b.toNat) % 2 ^ 32) → ∃ u, exec (.addw m cmd) s = .next (pump u r.core) ∧ left u ∧
        u.msc = s.msc ∧ granRead u r.ctx (a / 32) = g.take (a % 32) ++ leBytes 4 v ++ g.drop (a % 32 + 4)))

/-! ## The whole machine -/

/-- R435, R440, R395, R262, R247: right after board reset the compute dies wait for their identity, no crew, grid, window or
context key exists, memory reads zero, no event is queued, registers hold their reset values, every connection is where it
starts, and memory has its canonical form. The model's own choices here: log entries 5, 9 and 10. -/
def Obligations.ResetState : Prop :=
  let s := State.reset
  s.phase = .waitIdentity ∧ (∀ c k, (s.crew c k).st = .free) ∧ (∀ g, (s.grid g).state = 0) ∧ (∀ c, tget? s.keys c = none) ∧
  (∀ a, Memory.get s.dram a = 0) ∧ s.msc = [] ∧ (∀ g, tget false s.poison g = false) ∧ s.reqs = [] ∧
  s.evq0 = [] ∧ s.evq1 = [] ∧ s.evWait = [] ∧ (∀ i, (tget {} s.wins i).en = false) ∧
  (s.cwtbase, s.savebase, s.holdbase, s.groupbase, s.hdmctl, s.homebase, s.hometab, s.connbase) = (0, 0, 0, 0, 0, 0, 0, 0) ∧
  s.savesize = 0 ∧ s.holdsize = 0 ∧ s.fabcfg = 0x714 ∧ s.stubcfg = 200 ∧ s.trkcfg = 0x110 ∧
  (∀ m, m < 8 → (s.stack m).migcore.toNat = 24 * 256 + (m / 4 * 96 + m % 4 * 24) ∧
    (s.stack m).itbase = 0 ∧ (s.stack m).anchorbase = 0 ∧ (s.stack m).stubbase = 0 ∧ (s.stack m).pgpool = 0) ∧
  (∀ c, (tget {} s.conns c).next = 0 ∧ (tget {} s.conns c).recvAll = 0) ∧
  Memory.wf s.dram = true ∧ Memory.wf s.hostMem = true ∧ ∀ c k l, ((s.crew c k).pcOf l).off % 4 = 0

/-- R20 to R22, R53: a path that has been chosen and still has its lanes runs, in one step, the word that its bytes, up to the end
of its 32-byte block, decode to: the step is exec of that word with the path as the current one. Bytes that are no word raise
the decoder's cause in every lane of the path, whatever its guard; an id that the slot does not hold raises 0x05; lanes whose
overlay is loading park; a path that has lost a lane runs nothing. The model's own choices here: log entries 2, 27 and 28. -/
def Obligations.StepRunsDecodedWord : Prop :=
  ∀ (s t : State) (i : Issue),
    (s.cur = some i ∧ t = { s with cur := none }) ∨ (s.cur = none ∧ s.second = some i ∧ t = { s with second := none }) →
    let p := pathPc t i
    let v := (t.core i.core).ov p.slot
    let bs := v.mem.read (32 - p.off % 32) p.off
    let held := v.loading = none ∧ v.id = p.id ∧ p.id ≠ 0xFFFF ∧ p.off < 65536
    let raised (cause : Nat) (len : Nat → Prop) : Prop :=
      let k := t.crew i.core i.slot
      k.trapent ≠ 0xFFFFFFFF → (∀ l ∈ lanesOf i.lanes, bit (tget 0 k.trapinfo l).toNat 31 = false) →
      ∃ u, step s = .next u ∧ u.cur = none ∧ ∀ l ∈ lanesOf i.lanes,
        let q := u.crew i.core i.slot
        tget 0 q.trappc l = p.addr ∧ tget 0 q.trapaddr l = 0 ∧ q.pcOf l = codeAt k.trapent ∧
        ∃ n, len n ∧ tget 0 q.trapinfo l = w32 (2 ^ 31 + n % 4 * 2 ^ 24 + cause)
    if pathStands t i = false then step s = .next t
    else
      (held → ∀ w, decodeBytes bs = .word w → step s = exec w.ins { t with cur := some { i with h := w.h } }) ∧
      (held → ∀ c, decodeBytes bs = .bad c → raised c (fun n => leNat (bs.take 1) % 4 ≠ 3 → n = leNat (bs.take 1) % 4)) ∧
      (v.loading = none → (v.id ≠ p.id ∨ p.id = 0xFFFF) → raised 0x05 (fun _ => True)) ∧
      (v.loading = none → v.id = p.id → p.id ≠ 0xFFFF → 65536 ≤ p.off → raised 0x02 (fun _ => True)) ∧
      (∀ d, v.loading = some d → d ≠ p.id → raised 0x05 (fun _ => True)) ∧
      (v.loading = some p.id → ∃ u, step s = .next u ∧ u.cur = none ∧
        (∀ l, (u.crew i.core i.slot).parkOf l = if l ∈ lanesOf i.lanes then .overlay else (t.crew i.core i.slot).parkOf l) ∧
        ∀ l, (u.crew i.core i.slot).pcOf l = (t.crew i.core i.slot).pcOf l)

/-- R23, R29, R33, R36: words written out from the encodings of the spec decode to the instructions that they stand for. -/
def Obligations.WordsDecode : Prop :=
  let dec (n v : Nat) (w : Word) : Prop := decodeBytes (leBytes n v) = .word w
  dec 8 0x0C2C000204040200 { h := { form := .w64 }, ins := .iadd { d := .v 2, a := .v 2, b := .im 1, md := 0xB0 } } ∧
  dec 8 0x0000000000000038 { h := { form := .w64 }, ins := .exit } ∧
  dec 8 0x000001FFF8000008 { h := { form := .w64 }, ins := .bra { a := .v 0xFC, b := .v 0xFF } } ∧
  dec 8 0x000000000C001008 { h := { form := .w64, gq := 1 }, ins := .bra { a := .v 6, b := .v 0 } } ∧
  dec 8 0x0D4440020E060340 { h := { form := .w64 }, ins := .shfl { d := .v 3, a := .v 7, b := .im 1, md := 0x511 } } ∧
  dec 8 0x5000000008100D04 { h := { form := .w64, sw := true }, ins := .launch { d := .u 8, a := .u 4 } } ∧
  dec 12 0x000000401044000828100A05
    { h := { form := .w96i, sw := true }, ins := .ld { d := .v 8, a := .u 20, b := .v 4, md := 0x110, imm := 0x40 } } ∧
  decodeBytes (leBytes 8 0x000C000204040200) = .bad 0x01 ∧ decodeBytes (leBytes 8 3) = .bad 0x02

/-- R20 to R39: the bytes of every well-formed word, whatever follows them, decode to that word: its head, its instruction, every
operand, with no bit dropped. -/
def Obligations.EncodeDecode : Prop :=
  ∀ (w : Word) (rest : List Byte), w.wf = true → decodeBytes (encode w ++ rest) = .word w

/-- R5, R24, R97, R252, R253: whatever the state, a word of chapter 4 or 5 that gives a next state, whether it completes, waits or
faults, keeps its lanes' byte offsets multiples of 4 and touches nothing outside its crew but the events and the freeze that a
fault causes: no memory, no other crew, no grid, no register of the chip; and of its crew only what an issue or a fault may
change; the counters that FCNTCLR clears (R159) change when its result is written. -/
def Obligations.ArithmeticKeepsToItsCrew : Prop :=
  ∀ (w : Op) (p : PairOp) (s t : State) (iss : Issue), s.cur = some iss →
    ∀ i ∈ ([.iadd w, .isub w, .imul w, .imulh w, .imad w, .imin w, .imax w, .iabs w, .ineg w, .andW w, .orW w, .xorW w, .notW w,
            .shl w, .shr w, .shra w, .rot w, .popc w, .clz w, .brev w, .bfx w, .bfi w, .prmb w, .sel w, .icmp w, .iset w, .lea w,
            .add64 w, .sub64 w, .mad64 w, .mov w, .movi w, .vbcast w, .v2s w, .pand w, .por w, .pxor w, .pnot w, .p2v w, .v2p w,
            .shfl w, .vote w, .redx w, .scanx w, .matchW w, .ffl w, .umov w, .uloop w, .ucmp w, .uand w] ++
           [.fadd w, .fsub w, .fmul w, .ffma w, .fmin w, .fmax w, .fminm w, .fmaxm w, .fabs w, .fneg w, .fcpys w, .fcmp w, .fset w,
            .frnd w, .ffrx w, .fscale w, .fclass w, .cvtf w, .cvti w, .cvtfi w, .sclx w, .packb w, .unpkb w, .exp2 w, .log2 w, .rcp w, .rsq w,
            .sqrt w, .sin w, .cos w, .tanh w, .sigm w, .erf w, .divf w, .divi w, .fdot2 w, .fdot4 w, .fmad2 w, .fsat w, .fmed3 w,
            .flrd w, .flclr w, .flset w, .fcntrd w, .fcntclr w, .fmode w, .fmodeGet w, .pair p] : List Instr),
      exec i s = .next t →
        t.cur = none ∧
        { t with cores := s.cores, cur := s.cur, free := s.free, nextId := s.nextId, evq0 := s.evq0, evq1 := s.evq1, evWait := s.evWait
                 phase := s.phase, msix := s.msix } = s ∧
        (∀ c k, (c, k) ≠ (iss.core, iss.slot) → t.crew c k = s.crew c k) ∧
        (∀ c, { t.core c with slots := (s.core c).slots, busy := (s.core c).busy } = s.core c) ∧
        (let a := s.crew iss.core iss.slot
         let b := t.crew iss.core iss.slot
         { b with pc := a.pc, since := a.since, latch := a.latch, vent := a.vent, rows := a.rows, pendRel := a.pendRel
                  results := a.results, park := a.park, faults := a.faults, trapinfo := a.trapinfo, trappc := a.trappc
                  trapaddr := a.trapaddr, frozen := a.frozen } = a ∧
         ((∀ l, (a.pcOf l).off % 4 = 0) → ∀ l, (b.pcOf l).off % 4 = 0))

end
end

