-- ==== Sys2Proof/Laws/State.lean ====
section
/-! SUPPORT. Laws/State.lean: what each named update of State leaves: one lemma for each field and update. -/

namespace Sys2Proof.Machine

@[simp] theorem State.setCore_free (s : State) (c : Nat) (x : Core) : (s.setCore c x).free = s.free := rfl
@[simp] theorem State.setCore_env (s : State) (c : Nat) (x : Core) : (s.setCore c x).env = s.env := rfl
@[simp] theorem State.setCore_cur (s : State) (c : Nat) (x : Core) : (s.setCore c x).cur = s.cur := rfl
@[simp] theorem State.setCore_second (s : State) (c : Nat) (x : Core) : (s.setCore c x).second = s.second := rfl
@[simp] theorem State.setCore_serial (s : State) (c : Nat) (x : Core) : (s.setCore c x).serial = s.serial := rfl
@[simp] theorem State.setCore_nextId (s : State) (c : Nat) (x : Core) : (s.setCore c x).nextId = s.nextId := rfl
@[simp] theorem State.setCore_wire (s : State) (c : Nat) (x : Core) : (s.setCore c x).wire = s.wire := rfl
@[simp] theorem State.setCore_loop (s : State) (c : Nat) (x : Core) : (s.setCore c x).loop = s.loop := rfl
@[simp] theorem State.setCore_msix (s : State) (c : Nat) (x : Core) : (s.setCore c x).msix = s.msix := rfl
@[simp] theorem State.setCore_hostReads (s : State) (c : Nat) (x : Core) : (s.setCore c x).hostReads = s.hostReads := rfl
@[simp] theorem State.setCore_reports (s : State) (c : Nat) (x : Core) : (s.setCore c x).reports = s.reports := rfl
@[simp] theorem State.setCore_phase (s : State) (c : Nat) (x : Core) : (s.setCore c x).phase = s.phase := rfl
@[simp] theorem State.setCore_chipid (s : State) (c : Nat) (x : Core) : (s.setCore c x).chipid = s.chipid := rfl
@[simp] theorem State.setCore_clk (s : State) (c : Nat) (x : Core) : (s.setCore c x).clk = s.clk := rfl
@[simp] theorem State.setCore_refAcc (s : State) (c : Nat) (x : Core) : (s.setCore c x).refAcc = s.refAcc := rfl
@[simp] theorem State.setCore_ref (s : State) (c : Nat) (x : Core) : (s.setCore c x).ref = s.ref := rfl
@[simp] theorem State.setCore_nsAcc (s : State) (c : Nat) (x : Core) : (s.setCore c x).nsAcc = s.nsAcc := rfl
@[simp] theorem State.setCore_podNs (s : State) (c : Nat) (x : Core) : (s.setCore c x).podNs = s.podNs := rfl
@[simp] theorem State.setCore_mhz (s : State) (c : Nat) (x : Core) : (s.setCore c x).mhz = s.mhz := rfl
@[simp] theorem State.setCore_gremen (s : State) (c : Nat) (x : Core) : (s.setCore c x).gremen = s.gremen := rfl
@[simp] theorem State.setCore_quads (s : State) (c : Nat) (x : Core) : (s.setCore c x).quads = s.quads := rfl
@[simp] theorem State.setCore_stks (s : State) (c : Nat) (x : Core) : (s.setCore c x).stks = s.stks := rfl
@[simp] theorem State.setCore_grids (s : State) (c : Nat) (x : Core) : (s.setCore c x).grids = s.grids := rfl
@[simp] theorem State.setCore_clusters (s : State) (c : Nat) (x : Core) : (s.setCore c x).clusters = s.clusters := rfl
@[simp] theorem State.setCore_commits (s : State) (c : Nat) (x : Core) : (s.setCore c x).commits = s.commits := rfl
@[simp] theorem State.setCore_tokens (s : State) (c : Nat) (x : Core) : (s.setCore c x).tokens = s.tokens := rfl
@[simp] theorem State.setCore_arrivals (s : State) (c : Nat) (x : Core) : (s.setCore c x).arrivals = s.arrivals := rfl
@[simp] theorem State.setCore_keysGone (s : State) (c : Nat) (x : Core) : (s.setCore c x).keysGone = s.keysGone := rfl
@[simp] theorem State.setCore_keys (s : State) (c : Nat) (x : Core) : (s.setCore c x).keys = s.keys := rfl
@[simp] theorem State.setCore_dram (s : State) (c : Nat) (x : Core) : (s.setCore c x).dram = s.dram := rfl
@[simp] theorem State.setCore_poison (s : State) (c : Nat) (x : Core) : (s.setCore c x).poison = s.poison := rfl
@[simp] theorem State.setCore_gkey (s : State) (c : Nat) (x : Core) : (s.setCore c x).gkey = s.gkey := rfl
@[simp] theorem State.setCore_msc (s : State) (c : Nat) (x : Core) : (s.setCore c x).msc = s.msc := rfl
@[simp] theorem State.setCore_hostMem (s : State) (c : Nat) (x : Core) : (s.setCore c x).hostMem = s.hostMem := rfl
@[simp] theorem State.setCore_hostPages (s : State) (c : Nat) (x : Core) : (s.setCore c x).hostPages = s.hostPages := rfl
@[simp] theorem State.setCore_reqs (s : State) (c : Nat) (x : Core) : (s.setCore c x).reqs = s.reqs := rfl
@[simp] theorem State.setCore_fills (s : State) (c : Nat) (x : Core) : (s.setCore c x).fills = s.fills := rfl
@[simp] theorem State.setCore_ghosts (s : State) (c : Nat) (x : Core) : (s.setCore c x).ghosts = s.ghosts := rfl
@[simp] theorem State.setCore_wins (s : State) (c : Nat) (x : Core) : (s.setCore c x).wins = s.wins := rfl
@[simp] theorem State.setCore_cwtbase (s : State) (c : Nat) (x : Core) : (s.setCore c x).cwtbase = s.cwtbase := rfl
@[simp] theorem State.setCore_savebase (s : State) (c : Nat) (x : Core) : (s.setCore c x).savebase = s.savebase := rfl
@[simp] theorem State.setCore_savesize (s : State) (c : Nat) (x : Core) : (s.setCore c x).savesize = s.savesize := rfl
@[simp] theorem State.setCore_holdbase (s : State) (c : Nat) (x : Core) : (s.setCore c x).holdbase = s.holdbase := rfl
@[simp] theorem State.setCore_holdsize (s : State) (c : Nat) (x : Core) : (s.setCore c x).holdsize = s.holdsize := rfl
@[simp] theorem State.setCore_groupbase (s : State) (c : Nat) (x : Core) : (s.setCore c x).groupbase = s.groupbase := rfl
@[simp] theorem State.setCore_hdmctl (s : State) (c : Nat) (x : Core) : (s.setCore c x).hdmctl = s.hdmctl := rfl
@[simp] theorem State.setCore_homebase (s : State) (c : Nat) (x : Core) : (s.setCore c x).homebase = s.homebase := rfl
@[simp] theorem State.setCore_hometab (s : State) (c : Nat) (x : Core) : (s.setCore c x).hometab = s.hometab := rfl
@[simp] theorem State.setCore_stubcfg (s : State) (c : Nat) (x : Core) : (s.setCore c x).stubcfg = s.stubcfg := rfl
@[simp] theorem State.setCore_trkcfg (s : State) (c : Nat) (x : Core) : (s.setCore c x).trkcfg = s.trkcfg := rfl
@[simp] theorem State.setCore_connbase (s : State) (c : Nat) (x : Core) : (s.setCore c x).connbase = s.connbase := rfl
@[simp] theorem State.setCore_fabcfg (s : State) (c : Nat) (x : Core) : (s.setCore c x).fabcfg = s.fabcfg := rfl
@[simp] theorem State.setCore_sysWrs (s : State) (c : Nat) (x : Core) : (s.setCore c x).sysWrs = s.sysWrs := rfl
@[simp] theorem State.setCore_evq0 (s : State) (c : Nat) (x : Core) : (s.setCore c x).evq0 = s.evq0 := rfl
@[simp] theorem State.setCore_evq1 (s : State) (c : Nat) (x : Core) : (s.setCore c x).evq1 = s.evq1 := rfl
@[simp] theorem State.setCore_evWait (s : State) (c : Nat) (x : Core) : (s.setCore c x).evWait = s.evWait := rfl
@[simp] theorem State.setCore_ownerCache (s : State) (c : Nat) (x : Core) : (s.setCore c x).ownerCache = s.ownerCache := rfl
@[simp] theorem State.setCore_queries (s : State) (c : Nat) (x : Core) : (s.setCore c x).queries = s.queries := rfl
@[simp] theorem State.setCore_pmoves (s : State) (c : Nat) (x : Core) : (s.setCore c x).pmoves = s.pmoves := rfl
@[simp] theorem State.setCore_stubs (s : State) (c : Nat) (x : Core) : (s.setCore c x).stubs = s.stubs := rfl
@[simp] theorem State.setCore_arriving (s : State) (c : Nat) (x : Core) : (s.setCore c x).arriving = s.arriving := rfl
@[simp] theorem State.setCore_arrSrc (s : State) (c : Nat) (x : Core) : (s.setCore c x).arrSrc = s.arrSrc := rfl
@[simp] theorem State.setCore_lmoves (s : State) (c : Nat) (x : Core) : (s.setCore c x).lmoves = s.lmoves := rfl
@[simp] theorem State.setCore_movedOn (s : State) (c : Nat) (x : Core) : (s.setCore c x).movedOn = s.movedOn := rfl
@[simp] theorem State.setCore_gcounts (s : State) (c : Nat) (x : Core) : (s.setCore c x).gcounts = s.gcounts := rfl
@[simp] theorem State.setCore_notes (s : State) (c : Nat) (x : Core) : (s.setCore c x).notes = s.notes := rfl
@[simp] theorem State.setCore_net (s : State) (c : Nat) (x : Core) : (s.setCore c x).net = s.net := rfl
@[simp] theorem State.setCore_conns (s : State) (c : Nat) (x : Core) : (s.setCore c x).conns = s.conns := rfl
@[simp] theorem State.setCore_ports (s : State) (c : Nat) (x : Core) : (s.setCore c x).ports = s.ports := rfl
@[simp] theorem State.setCore_rotor (s : State) (c : Nat) (x : Core) : (s.setCore c x).rotor = s.rotor := rfl
@[simp] theorem State.setCore_saves (s : State) (c : Nat) (x : Core) : (s.setCore c x).saves = s.saves := rfl
@[simp] theorem State.setCore_jobs (s : State) (c : Nat) (x : Core) : (s.setCore c x).jobs = s.jobs := rfl
@[simp] theorem State.setCore_rdJobs (s : State) (c : Nat) (x : Core) : (s.setCore c x).rdJobs = s.rdJobs := rfl
@[simp] theorem State.setCore_rcvd (s : State) (c : Nat) (x : Core) : (s.setCore c x).rcvd = s.rcvd := rfl
@[simp] theorem State.setCore_rnotes (s : State) (c : Nat) (x : Core) : (s.setCore c x).rnotes = s.rnotes := rfl
@[simp] theorem State.setCore_fwds (s : State) (c : Nat) (x : Core) : (s.setCore c x).fwds = s.fwds := rfl
@[simp] theorem State.setCore_lost (s : State) (c : Nat) (x : Core) : (s.setCore c x).lost = s.lost := rfl

@[simp] theorem State.modCore_free (s : State) (c : Nat) (f : Core → Core) : (s.modCore c f).free = s.free := rfl
@[simp] theorem State.modCore_env (s : State) (c : Nat) (f : Core → Core) : (s.modCore c f).env = s.env := rfl
@[simp] theorem State.modCore_cur (s : State) (c : Nat) (f : Core → Core) : (s.modCore c f).cur = s.cur := rfl
@[simp] theorem State.modCore_second (s : State) (c : Nat) (f : Core → Core) : (s.modCore c f).second = s.second := rfl
@[simp] theorem State.modCore_serial (s : State) (c : Nat) (f : Core → Core) : (s.modCore c f).serial = s.serial := rfl
@[simp] theorem State.modCore_nextId (s : State) (c : Nat) (f : Core → Core) : (s.modCore c f).nextId = s.nextId := rfl
@[simp] theorem State.modCore_wire (s : State) (c : Nat) (f : Core → Core) : (s.modCore c f).wire = s.wire := rfl
@[simp] theorem State.modCore_loop (s : State) (c : Nat) (f : Core → Core) : (s.modCore c f).loop = s.loop := rfl
@[simp] theorem State.modCore_msix (s : State) (c : Nat) (f : Core → Core) : (s.modCore c f).msix = s.msix := rfl
@[simp] theorem State.modCore_hostReads (s : State) (c : Nat) (f : Core → Core) : (s.modCore c f).hostReads = s.hostReads := rfl
@[simp] theorem State.modCore_reports (s : State) (c : Nat) (f : Core → Core) : (s.modCore c f).reports = s.reports := rfl
@[simp] theorem State.modCore_phase (s : State) (c : Nat) (f : Core → Core) : (s.modCore c f).phase = s.phase := rfl
@[simp] theorem State.modCore_chipid (s : State) (c : Nat) (f : Core → Core) : (s.modCore c f).chipid = s.chipid := rfl
@[simp] theorem State.modCore_clk (s : State) (c : Nat) (f : Core → Core) : (s.modCore c f).clk = s.clk := rfl
@[simp] theorem State.modCore_refAcc (s : State) (c : Nat) (f : Core → Core) : (s.modCore c f).refAcc = s.refAcc := rfl
@[simp] theorem State.modCore_ref (s : State) (c : Nat) (f : Core → Core) : (s.modCore c f).ref = s.ref := rfl
@[simp] theorem State.modCore_nsAcc (s : State) (c : Nat) (f : Core → Core) : (s.modCore c f).nsAcc = s.nsAcc := rfl
@[simp] theorem State.modCore_podNs (s : State) (c : Nat) (f : Core → Core) : (s.modCore c f).podNs = s.podNs := rfl
@[simp] theorem State.modCore_mhz (s : State) (c : Nat) (f : Core → Core) : (s.modCore c f).mhz = s.mhz := rfl
@[simp] theorem State.modCore_gremen (s : State) (c : Nat) (f : Core → Core) : (s.modCore c f).gremen = s.gremen := rfl
@[simp] theorem State.modCore_quads (s : State) (c : Nat) (f : Core → Core) : (s.modCore c f).quads = s.quads := rfl
@[simp] theorem State.modCore_stks (s : State) (c : Nat) (f : Core → Core) : (s.modCore c f).stks = s.stks := rfl
@[simp] theorem State.modCore_grids (s : State) (c : Nat) (f : Core → Core) : (s.modCore c f).grids = s.grids := rfl
@[simp] theorem State.modCore_clusters (s : State) (c : Nat) (f : Core → Core) : (s.modCore c f).clusters = s.clusters := rfl
@[simp] theorem State.modCore_commits (s : State) (c : Nat) (f : Core → Core) : (s.modCore c f).commits = s.commits := rfl
@[simp] theorem State.modCore_tokens (s : State) (c : Nat) (f : Core → Core) : (s.modCore c f).tokens = s.tokens := rfl
@[simp] theorem State.modCore_arrivals (s : State) (c : Nat) (f : Core → Core) : (s.modCore c f).arrivals = s.arrivals := rfl
@[simp] theorem State.modCore_keysGone (s : State) (c : Nat) (f : Core → Core) : (s.modCore c f).keysGone = s.keysGone := rfl
@[simp] theorem State.modCore_keys (s : State) (c : Nat) (f : Core → Core) : (s.modCore c f).keys = s.keys := rfl
@[simp] theorem State.modCore_dram (s : State) (c : Nat) (f : Core → Core) : (s.modCore c f).dram = s.dram := rfl
@[simp] theorem State.modCore_poison (s : State) (c : Nat) (f : Core → Core) : (s.modCore c f).poison = s.poison := rfl
@[simp] theorem State.modCore_gkey (s : State) (c : Nat) (f : Core → Core) : (s.modCore c f).gkey = s.gkey := rfl
@[simp] theorem State.modCore_msc (s : State) (c : Nat) (f : Core → Core) : (s.modCore c f).msc = s.msc := rfl
@[simp] theorem State.modCore_hostMem (s : State) (c : Nat) (f : Core → Core) : (s.modCore c f).hostMem = s.hostMem := rfl
@[simp] theorem State.modCore_hostPages (s : State) (c : Nat) (f : Core → Core) : (s.modCore c f).hostPages = s.hostPages := rfl
@[simp] theorem State.modCore_reqs (s : State) (c : Nat) (f : Core → Core) : (s.modCore c f).reqs = s.reqs := rfl
@[simp] theorem State.modCore_fills (s : State) (c : Nat) (f : Core → Core) : (s.modCore c f).fills = s.fills := rfl
@[simp] theorem State.modCore_ghosts (s : State) (c : Nat) (f : Core → Core) : (s.modCore c f).ghosts = s.ghosts := rfl
@[simp] theorem State.modCore_wins (s : State) (c : Nat) (f : Core → Core) : (s.modCore c f).wins = s.wins := rfl
@[simp] theorem State.modCore_cwtbase (s : State) (c : Nat) (f : Core → Core) : (s.modCore c f).cwtbase = s.cwtbase := rfl
@[simp] theorem State.modCore_savebase (s : State) (c : Nat) (f : Core → Core) : (s.modCore c f).savebase = s.savebase := rfl
@[simp] theorem State.modCore_savesize (s : State) (c : Nat) (f : Core → Core) : (s.modCore c f).savesize = s.savesize := rfl
@[simp] theorem State.modCore_holdbase (s : State) (c : Nat) (f : Core → Core) : (s.modCore c f).holdbase = s.holdbase := rfl
@[simp] theorem State.modCore_holdsize (s : State) (c : Nat) (f : Core → Core) : (s.modCore c f).holdsize = s.holdsize := rfl
@[simp] theorem State.modCore_groupbase (s : State) (c : Nat) (f : Core → Core) : (s.modCore c f).groupbase = s.groupbase := rfl
@[simp] theorem State.modCore_hdmctl (s : State) (c : Nat) (f : Core → Core) : (s.modCore c f).hdmctl = s.hdmctl := rfl
@[simp] theorem State.modCore_homebase (s : State) (c : Nat) (f : Core → Core) : (s.modCore c f).homebase = s.homebase := rfl
@[simp] theorem State.modCore_hometab (s : State) (c : Nat) (f : Core → Core) : (s.modCore c f).hometab = s.hometab := rfl
@[simp] theorem State.modCore_stubcfg (s : State) (c : Nat) (f : Core → Core) : (s.modCore c f).stubcfg = s.stubcfg := rfl
@[simp] theorem State.modCore_trkcfg (s : State) (c : Nat) (f : Core → Core) : (s.modCore c f).trkcfg = s.trkcfg := rfl
@[simp] theorem State.modCore_connbase (s : State) (c : Nat) (f : Core → Core) : (s.modCore c f).connbase = s.connbase := rfl
@[simp] theorem State.modCore_fabcfg (s : State) (c : Nat) (f : Core → Core) : (s.modCore c f).fabcfg = s.fabcfg := rfl
@[simp] theorem State.modCore_sysWrs (s : State) (c : Nat) (f : Core → Core) : (s.modCore c f).sysWrs = s.sysWrs := rfl
@[simp] theorem State.modCore_evq0 (s : State) (c : Nat) (f : Core → Core) : (s.modCore c f).evq0 = s.evq0 := rfl
@[simp] theorem State.modCore_evq1 (s : State) (c : Nat) (f : Core → Core) : (s.modCore c f).evq1 = s.evq1 := rfl
@[simp] theorem State.modCore_evWait (s : State) (c : Nat) (f : Core → Core) : (s.modCore c f).evWait = s.evWait := rfl
@[simp] theorem State.modCore_ownerCache (s : State) (c : Nat) (f : Core → Core) : (s.modCore c f).ownerCache = s.ownerCache := rfl
@[simp] theorem State.modCore_queries (s : State) (c : Nat) (f : Core → Core) : (s.modCore c f).queries = s.queries := rfl
@[simp] theorem State.modCore_pmoves (s : State) (c : Nat) (f : Core → Core) : (s.modCore c f).pmoves = s.pmoves := rfl
@[simp] theorem State.modCore_stubs (s : State) (c : Nat) (f : Core → Core) : (s.modCore c f).stubs = s.stubs := rfl
@[simp] theorem State.modCore_arriving (s : State) (c : Nat) (f : Core → Core) : (s.modCore c f).arriving = s.arriving := rfl
@[simp] theorem State.modCore_arrSrc (s : State) (c : Nat) (f : Core → Core) : (s.modCore c f).arrSrc = s.arrSrc := rfl
@[simp] theorem State.modCore_lmoves (s : State) (c : Nat) (f : Core → Core) : (s.modCore c f).lmoves = s.lmoves := rfl
@[simp] theorem State.modCore_movedOn (s : State) (c : Nat) (f : Core → Core) : (s.modCore c f).movedOn = s.movedOn := rfl
@[simp] theorem State.modCore_gcounts (s : State) (c : Nat) (f : Core → Core) : (s.modCore c f).gcounts = s.gcounts := rfl
@[simp] theorem State.modCore_notes (s : State) (c : Nat) (f : Core → Core) : (s.modCore c f).notes = s.notes := rfl
@[simp] theorem State.modCore_net (s : State) (c : Nat) (f : Core → Core) : (s.modCore c f).net = s.net := rfl
@[simp] theorem State.modCore_conns (s : State) (c : Nat) (f : Core → Core) : (s.modCore c f).conns = s.conns := rfl
@[simp] theorem State.modCore_ports (s : State) (c : Nat) (f : Core → Core) : (s.modCore c f).ports = s.ports := rfl
@[simp] theorem State.modCore_rotor (s : State) (c : Nat) (f : Core → Core) : (s.modCore c f).rotor = s.rotor := rfl
@[simp] theorem State.modCore_saves (s : State) (c : Nat) (f : Core → Core) : (s.modCore c f).saves = s.saves := rfl
@[simp] theorem State.modCore_jobs (s : State) (c : Nat) (f : Core → Core) : (s.modCore c f).jobs = s.jobs := rfl
@[simp] theorem State.modCore_rdJobs (s : State) (c : Nat) (f : Core → Core) : (s.modCore c f).rdJobs = s.rdJobs := rfl
@[simp] theorem State.modCore_rcvd (s : State) (c : Nat) (f : Core → Core) : (s.modCore c f).rcvd = s.rcvd := rfl
@[simp] theorem State.modCore_rnotes (s : State) (c : Nat) (f : Core → Core) : (s.modCore c f).rnotes = s.rnotes := rfl
@[simp] theorem State.modCore_fwds (s : State) (c : Nat) (f : Core → Core) : (s.modCore c f).fwds = s.fwds := rfl
@[simp] theorem State.modCore_lost (s : State) (c : Nat) (f : Core → Core) : (s.modCore c f).lost = s.lost := rfl

@[simp] theorem State.modCrew_free (s : State) (c k : Nat) (f : Crew → Crew) : (s.modCrew c k f).free = s.free := rfl
@[simp] theorem State.modCrew_env (s : State) (c k : Nat) (f : Crew → Crew) : (s.modCrew c k f).env = s.env := rfl
@[simp] theorem State.modCrew_cur (s : State) (c k : Nat) (f : Crew → Crew) : (s.modCrew c k f).cur = s.cur := rfl
@[simp] theorem State.modCrew_second (s : State) (c k : Nat) (f : Crew → Crew) : (s.modCrew c k f).second = s.second := rfl
@[simp] theorem State.modCrew_serial (s : State) (c k : Nat) (f : Crew → Crew) : (s.modCrew c k f).serial = s.serial := rfl
@[simp] theorem State.modCrew_nextId (s : State) (c k : Nat) (f : Crew → Crew) : (s.modCrew c k f).nextId = s.nextId := rfl
@[simp] theorem State.modCrew_wire (s : State) (c k : Nat) (f : Crew → Crew) : (s.modCrew c k f).wire = s.wire := rfl
@[simp] theorem State.modCrew_loop (s : State) (c k : Nat) (f : Crew → Crew) : (s.modCrew c k f).loop = s.loop := rfl
@[simp] theorem State.modCrew_msix (s : State) (c k : Nat) (f : Crew → Crew) : (s.modCrew c k f).msix = s.msix := rfl
@[simp] theorem State.modCrew_hostReads (s : State) (c k : Nat) (f : Crew → Crew) : (s.modCrew c k f).hostReads = s.hostReads := rfl
@[simp] theorem State.modCrew_reports (s : State) (c k : Nat) (f : Crew → Crew) : (s.modCrew c k f).reports = s.reports := rfl
@[simp] theorem State.modCrew_phase (s : State) (c k : Nat) (f : Crew → Crew) : (s.modCrew c k f).phase = s.phase := rfl
@[simp] theorem State.modCrew_chipid (s : State) (c k : Nat) (f : Crew → Crew) : (s.modCrew c k f).chipid = s.chipid := rfl
@[simp] theorem State.modCrew_clk (s : State) (c k : Nat) (f : Crew → Crew) : (s.modCrew c k f).clk = s.clk := rfl
@[simp] theorem State.modCrew_refAcc (s : State) (c k : Nat) (f : Crew → Crew) : (s.modCrew c k f).refAcc = s.refAcc := rfl
@[simp] theorem State.modCrew_ref (s : State) (c k : Nat) (f : Crew → Crew) : (s.modCrew c k f).ref = s.ref := rfl
@[simp] theorem State.modCrew_nsAcc (s : State) (c k : Nat) (f : Crew → Crew) : (s.modCrew c k f).nsAcc = s.nsAcc := rfl
@[simp] theorem State.modCrew_podNs (s : State) (c k : Nat) (f : Crew → Crew) : (s.modCrew c k f).podNs = s.podNs := rfl
@[simp] theorem State.modCrew_mhz (s : State) (c k : Nat) (f : Crew → Crew) : (s.modCrew c k f).mhz = s.mhz := rfl
@[simp] theorem State.modCrew_gremen (s : State) (c k : Nat) (f : Crew → Crew) : (s.modCrew c k f).gremen = s.gremen := rfl
@[simp] theorem State.modCrew_quads (s : State) (c k : Nat) (f : Crew → Crew) : (s.modCrew c k f).quads = s.quads := rfl
@[simp] theorem State.modCrew_stks (s : State) (c k : Nat) (f : Crew → Crew) : (s.modCrew c k f).stks = s.stks := rfl
@[simp] theorem State.modCrew_grids (s : State) (c k : Nat) (f : Crew → Crew) : (s.modCrew c k f).grids = s.grids := rfl
@[simp] theorem State.modCrew_clusters (s : State) (c k : Nat) (f : Crew → Crew) : (s.modCrew c k f).clusters = s.clusters := rfl
@[simp] theorem State.modCrew_commits (s : State) (c k : Nat) (f : Crew → Crew) : (s.modCrew c k f).commits = s.commits := rfl
@[simp] theorem State.modCrew_tokens (s : State) (c k : Nat) (f : Crew → Crew) : (s.modCrew c k f).tokens = s.tokens := rfl
@[simp] theorem State.modCrew_arrivals (s : State) (c k : Nat) (f : Crew → Crew) : (s.modCrew c k f).arrivals = s.arrivals := rfl
@[simp] theorem State.modCrew_keysGone (s : State) (c k : Nat) (f : Crew → Crew) : (s.modCrew c k f).keysGone = s.keysGone := rfl
@[simp] theorem State.modCrew_keys (s : State) (c k : Nat) (f : Crew → Crew) : (s.modCrew c k f).keys = s.keys := rfl
@[simp] theorem State.modCrew_dram (s : State) (c k : Nat) (f : Crew → Crew) : (s.modCrew c k f).dram = s.dram := rfl
@[simp] theorem State.modCrew_poison (s : State) (c k : Nat) (f : Crew → Crew) : (s.modCrew c k f).poison = s.poison := rfl
@[simp] theorem State.modCrew_gkey (s : State) (c k : Nat) (f : Crew → Crew) : (s.modCrew c k f).gkey = s.gkey := rfl
@[simp] theorem State.modCrew_msc (s : State) (c k : Nat) (f : Crew → Crew) : (s.modCrew c k f).msc = s.msc := rfl
@[simp] theorem State.modCrew_hostMem (s : State) (c k : Nat) (f : Crew → Crew) : (s.modCrew c k f).hostMem = s.hostMem := rfl
@[simp] theorem State.modCrew_hostPages (s : State) (c k : Nat) (f : Crew → Crew) : (s.modCrew c k f).hostPages = s.hostPages := rfl
@[simp] theorem State.modCrew_reqs (s : State) (c k : Nat) (f : Crew → Crew) : (s.modCrew c k f).reqs = s.reqs := rfl
@[simp] theorem State.modCrew_fills (s : State) (c k : Nat) (f : Crew → Crew) : (s.modCrew c k f).fills = s.fills := rfl
@[simp] theorem State.modCrew_ghosts (s : State) (c k : Nat) (f : Crew → Crew) : (s.modCrew c k f).ghosts = s.ghosts := rfl
@[simp] theorem State.modCrew_wins (s : State) (c k : Nat) (f : Crew → Crew) : (s.modCrew c k f).wins = s.wins := rfl
@[simp] theorem State.modCrew_cwtbase (s : State) (c k : Nat) (f : Crew → Crew) : (s.modCrew c k f).cwtbase = s.cwtbase := rfl
@[simp] theorem State.modCrew_savebase (s : State) (c k : Nat) (f : Crew → Crew) : (s.modCrew c k f).savebase = s.savebase := rfl
@[simp] theorem State.modCrew_savesize (s : State) (c k : Nat) (f : Crew → Crew) : (s.modCrew c k f).savesize = s.savesize := rfl
@[simp] theorem State.modCrew_holdbase (s : State) (c k : Nat) (f : Crew → Crew) : (s.modCrew c k f).holdbase = s.holdbase := rfl
@[simp] theorem State.modCrew_holdsize (s : State) (c k : Nat) (f : Crew → Crew) : (s.modCrew c k f).holdsize = s.holdsize := rfl
@[simp] theorem State.modCrew_groupbase (s : State) (c k : Nat) (f : Crew → Crew) : (s.modCrew c k f).groupbase = s.groupbase := rfl
@[simp] theorem State.modCrew_hdmctl (s : State) (c k : Nat) (f : Crew → Crew) : (s.modCrew c k f).hdmctl = s.hdmctl := rfl
@[simp] theorem State.modCrew_homebase (s : State) (c k : Nat) (f : Crew → Crew) : (s.modCrew c k f).homebase = s.homebase := rfl
@[simp] theorem State.modCrew_hometab (s : State) (c k : Nat) (f : Crew → Crew) : (s.modCrew c k f).hometab = s.hometab := rfl
@[simp] theorem State.modCrew_stubcfg (s : State) (c k : Nat) (f : Crew → Crew) : (s.modCrew c k f).stubcfg = s.stubcfg := rfl
@[simp] theorem State.modCrew_trkcfg (s : State) (c k : Nat) (f : Crew → Crew) : (s.modCrew c k f).trkcfg = s.trkcfg := rfl
@[simp] theorem State.modCrew_connbase (s : State) (c k : Nat) (f : Crew → Crew) : (s.modCrew c k f).connbase = s.connbase := rfl
@[simp] theorem State.modCrew_fabcfg (s : State) (c k : Nat) (f : Crew → Crew) : (s.modCrew c k f).fabcfg = s.fabcfg := rfl
@[simp] theorem State.modCrew_sysWrs (s : State) (c k : Nat) (f : Crew → Crew) : (s.modCrew c k f).sysWrs = s.sysWrs := rfl
@[simp] theorem State.modCrew_evq0 (s : State) (c k : Nat) (f : Crew → Crew) : (s.modCrew c k f).evq0 = s.evq0 := rfl
@[simp] theorem State.modCrew_evq1 (s : State) (c k : Nat) (f : Crew → Crew) : (s.modCrew c k f).evq1 = s.evq1 := rfl
@[simp] theorem State.modCrew_evWait (s : State) (c k : Nat) (f : Crew → Crew) : (s.modCrew c k f).evWait = s.evWait := rfl
@[simp] theorem State.modCrew_ownerCache (s : State) (c k : Nat) (f : Crew → Crew) : (s.modCrew c k f).ownerCache = s.ownerCache := rfl
@[simp] theorem State.modCrew_queries (s : State) (c k : Nat) (f : Crew → Crew) : (s.modCrew c k f).queries = s.queries := rfl
@[simp] theorem State.modCrew_pmoves (s : State) (c k : Nat) (f : Crew → Crew) : (s.modCrew c k f).pmoves = s.pmoves := rfl
@[simp] theorem State.modCrew_stubs (s : State) (c k : Nat) (f : Crew → Crew) : (s.modCrew c k f).stubs = s.stubs := rfl
@[simp] theorem State.modCrew_arriving (s : State) (c k : Nat) (f : Crew → Crew) : (s.modCrew c k f).arriving = s.arriving := rfl
@[simp] theorem State.modCrew_arrSrc (s : State) (c k : Nat) (f : Crew → Crew) : (s.modCrew c k f).arrSrc = s.arrSrc := rfl
@[simp] theorem State.modCrew_lmoves (s : State) (c k : Nat) (f : Crew → Crew) : (s.modCrew c k f).lmoves = s.lmoves := rfl
@[simp] theorem State.modCrew_movedOn (s : State) (c k : Nat) (f : Crew → Crew) : (s.modCrew c k f).movedOn = s.movedOn := rfl
@[simp] theorem State.modCrew_gcounts (s : State) (c k : Nat) (f : Crew → Crew) : (s.modCrew c k f).gcounts = s.gcounts := rfl
@[simp] theorem State.modCrew_notes (s : State) (c k : Nat) (f : Crew → Crew) : (s.modCrew c k f).notes = s.notes := rfl
@[simp] theorem State.modCrew_net (s : State) (c k : Nat) (f : Crew → Crew) : (s.modCrew c k f).net = s.net := rfl
@[simp] theorem State.modCrew_conns (s : State) (c k : Nat) (f : Crew → Crew) : (s.modCrew c k f).conns = s.conns := rfl
@[simp] theorem State.modCrew_ports (s : State) (c k : Nat) (f : Crew → Crew) : (s.modCrew c k f).ports = s.ports := rfl
@[simp] theorem State.modCrew_rotor (s : State) (c k : Nat) (f : Crew → Crew) : (s.modCrew c k f).rotor = s.rotor := rfl
@[simp] theorem State.modCrew_saves (s : State) (c k : Nat) (f : Crew → Crew) : (s.modCrew c k f).saves = s.saves := rfl
@[simp] theorem State.modCrew_jobs (s : State) (c k : Nat) (f : Crew → Crew) : (s.modCrew c k f).jobs = s.jobs := rfl
@[simp] theorem State.modCrew_rdJobs (s : State) (c k : Nat) (f : Crew → Crew) : (s.modCrew c k f).rdJobs = s.rdJobs := rfl
@[simp] theorem State.modCrew_rcvd (s : State) (c k : Nat) (f : Crew → Crew) : (s.modCrew c k f).rcvd = s.rcvd := rfl
@[simp] theorem State.modCrew_rnotes (s : State) (c k : Nat) (f : Crew → Crew) : (s.modCrew c k f).rnotes = s.rnotes := rfl
@[simp] theorem State.modCrew_fwds (s : State) (c k : Nat) (f : Crew → Crew) : (s.modCrew c k f).fwds = s.fwds := rfl
@[simp] theorem State.modCrew_lost (s : State) (c k : Nat) (f : Crew → Crew) : (s.modCrew c k f).lost = s.lost := rfl

@[simp] theorem State.modTeam_free (s : State) (c t : Nat) (f : Team → Team) : (s.modTeam c t f).free = s.free := rfl
@[simp] theorem State.modTeam_env (s : State) (c t : Nat) (f : Team → Team) : (s.modTeam c t f).env = s.env := rfl
@[simp] theorem State.modTeam_cur (s : State) (c t : Nat) (f : Team → Team) : (s.modTeam c t f).cur = s.cur := rfl
@[simp] theorem State.modTeam_second (s : State) (c t : Nat) (f : Team → Team) : (s.modTeam c t f).second = s.second := rfl
@[simp] theorem State.modTeam_serial (s : State) (c t : Nat) (f : Team → Team) : (s.modTeam c t f).serial = s.serial := rfl
@[simp] theorem State.modTeam_nextId (s : State) (c t : Nat) (f : Team → Team) : (s.modTeam c t f).nextId = s.nextId := rfl
@[simp] theorem State.modTeam_wire (s : State) (c t : Nat) (f : Team → Team) : (s.modTeam c t f).wire = s.wire := rfl
@[simp] theorem State.modTeam_loop (s : State) (c t : Nat) (f : Team → Team) : (s.modTeam c t f).loop = s.loop := rfl
@[simp] theorem State.modTeam_msix (s : State) (c t : Nat) (f : Team → Team) : (s.modTeam c t f).msix = s.msix := rfl
@[simp] theorem State.modTeam_hostReads (s : State) (c t : Nat) (f : Team → Team) : (s.modTeam c t f).hostReads = s.hostReads := rfl
@[simp] theorem State.modTeam_reports (s : State) (c t : Nat) (f : Team → Team) : (s.modTeam c t f).reports = s.reports := rfl
@[simp] theorem State.modTeam_phase (s : State) (c t : Nat) (f : Team → Team) : (s.modTeam c t f).phase = s.phase := rfl
@[simp] theorem State.modTeam_chipid (s : State) (c t : Nat) (f : Team → Team) : (s.modTeam c t f).chipid = s.chipid := rfl
@[simp] theorem State.modTeam_clk (s : State) (c t : Nat) (f : Team → Team) : (s.modTeam c t f).clk = s.clk := rfl
@[simp] theorem State.modTeam_refAcc (s : State) (c t : Nat) (f : Team → Team) : (s.modTeam c t f).refAcc = s.refAcc := rfl
@[simp] theorem State.modTeam_ref (s : State) (c t : Nat) (f : Team → Team) : (s.modTeam c t f).ref = s.ref := rfl
@[simp] theorem State.modTeam_nsAcc (s : State) (c t : Nat) (f : Team → Team) : (s.modTeam c t f).nsAcc = s.nsAcc := rfl
@[simp] theorem State.modTeam_podNs (s : State) (c t : Nat) (f : Team → Team) : (s.modTeam c t f).podNs = s.podNs := rfl
@[simp] theorem State.modTeam_mhz (s : State) (c t : Nat) (f : Team → Team) : (s.modTeam c t f).mhz = s.mhz := rfl
@[simp] theorem State.modTeam_gremen (s : State) (c t : Nat) (f : Team → Team) : (s.modTeam c t f).gremen = s.gremen := rfl
@[simp] theorem State.modTeam_quads (s : State) (c t : Nat) (f : Team → Team) : (s.modTeam c t f).quads = s.quads := rfl
@[simp] theorem State.modTeam_stks (s : State) (c t : Nat) (f : Team → Team) : (s.modTeam c t f).stks = s.stks := rfl
@[simp] theorem State.modTeam_grids (s : State) (c t : Nat) (f : Team → Team) : (s.modTeam c t f).grids = s.grids := rfl
@[simp] theorem State.modTeam_clusters (s : State) (c t : Nat) (f : Team → Team) : (s.modTeam c t f).clusters = s.clusters := rfl
@[simp] theorem State.modTeam_commits (s : State) (c t : Nat) (f : Team → Team) : (s.modTeam c t f).commits = s.commits := rfl
@[simp] theorem State.modTeam_tokens (s : State) (c t : Nat) (f : Team → Team) : (s.modTeam c t f).tokens = s.tokens := rfl
@[simp] theorem State.modTeam_arrivals (s : State) (c t : Nat) (f : Team → Team) : (s.modTeam c t f).arrivals = s.arrivals := rfl
@[simp] theorem State.modTeam_keysGone (s : State) (c t : Nat) (f : Team → Team) : (s.modTeam c t f).keysGone = s.keysGone := rfl
@[simp] theorem State.modTeam_keys (s : State) (c t : Nat) (f : Team → Team) : (s.modTeam c t f).keys = s.keys := rfl
@[simp] theorem State.modTeam_dram (s : State) (c t : Nat) (f : Team → Team) : (s.modTeam c t f).dram = s.dram := rfl
@[simp] theorem State.modTeam_poison (s : State) (c t : Nat) (f : Team → Team) : (s.modTeam c t f).poison = s.poison := rfl
@[simp] theorem State.modTeam_gkey (s : State) (c t : Nat) (f : Team → Team) : (s.modTeam c t f).gkey = s.gkey := rfl
@[simp] theorem State.modTeam_msc (s : State) (c t : Nat) (f : Team → Team) : (s.modTeam c t f).msc = s.msc := rfl
@[simp] theorem State.modTeam_hostMem (s : State) (c t : Nat) (f : Team → Team) : (s.modTeam c t f).hostMem = s.hostMem := rfl
@[simp] theorem State.modTeam_hostPages (s : State) (c t : Nat) (f : Team → Team) : (s.modTeam c t f).hostPages = s.hostPages := rfl
@[simp] theorem State.modTeam_reqs (s : State) (c t : Nat) (f : Team → Team) : (s.modTeam c t f).reqs = s.reqs := rfl
@[simp] theorem State.modTeam_fills (s : State) (c t : Nat) (f : Team → Team) : (s.modTeam c t f).fills = s.fills := rfl
@[simp] theorem State.modTeam_ghosts (s : State) (c t : Nat) (f : Team → Team) : (s.modTeam c t f).ghosts = s.ghosts := rfl
@[simp] theorem State.modTeam_wins (s : State) (c t : Nat) (f : Team → Team) : (s.modTeam c t f).wins = s.wins := rfl
@[simp] theorem State.modTeam_cwtbase (s : State) (c t : Nat) (f : Team → Team) : (s.modTeam c t f).cwtbase = s.cwtbase := rfl
@[simp] theorem State.modTeam_savebase (s : State) (c t : Nat) (f : Team → Team) : (s.modTeam c t f).savebase = s.savebase := rfl
@[simp] theorem State.modTeam_savesize (s : State) (c t : Nat) (f : Team → Team) : (s.modTeam c t f).savesize = s.savesize := rfl
@[simp] theorem State.modTeam_holdbase (s : State) (c t : Nat) (f : Team → Team) : (s.modTeam c t f).holdbase = s.holdbase := rfl
@[simp] theorem State.modTeam_holdsize (s : State) (c t : Nat) (f : Team → Team) : (s.modTeam c t f).holdsize = s.holdsize := rfl
@[simp] theorem State.modTeam_groupbase (s : State) (c t : Nat) (f : Team → Team) : (s.modTeam c t f).groupbase = s.groupbase := rfl
@[simp] theorem State.modTeam_hdmctl (s : State) (c t : Nat) (f : Team → Team) : (s.modTeam c t f).hdmctl = s.hdmctl := rfl
@[simp] theorem State.modTeam_homebase (s : State) (c t : Nat) (f : Team → Team) : (s.modTeam c t f).homebase = s.homebase := rfl
@[simp] theorem State.modTeam_hometab (s : State) (c t : Nat) (f : Team → Team) : (s.modTeam c t f).hometab = s.hometab := rfl
@[simp] theorem State.modTeam_stubcfg (s : State) (c t : Nat) (f : Team → Team) : (s.modTeam c t f).stubcfg = s.stubcfg := rfl
@[simp] theorem State.modTeam_trkcfg (s : State) (c t : Nat) (f : Team → Team) : (s.modTeam c t f).trkcfg = s.trkcfg := rfl
@[simp] theorem State.modTeam_connbase (s : State) (c t : Nat) (f : Team → Team) : (s.modTeam c t f).connbase = s.connbase := rfl
@[simp] theorem State.modTeam_fabcfg (s : State) (c t : Nat) (f : Team → Team) : (s.modTeam c t f).fabcfg = s.fabcfg := rfl
@[simp] theorem State.modTeam_sysWrs (s : State) (c t : Nat) (f : Team → Team) : (s.modTeam c t f).sysWrs = s.sysWrs := rfl
@[simp] theorem State.modTeam_evq0 (s : State) (c t : Nat) (f : Team → Team) : (s.modTeam c t f).evq0 = s.evq0 := rfl
@[simp] theorem State.modTeam_evq1 (s : State) (c t : Nat) (f : Team → Team) : (s.modTeam c t f).evq1 = s.evq1 := rfl
@[simp] theorem State.modTeam_evWait (s : State) (c t : Nat) (f : Team → Team) : (s.modTeam c t f).evWait = s.evWait := rfl
@[simp] theorem State.modTeam_ownerCache (s : State) (c t : Nat) (f : Team → Team) : (s.modTeam c t f).ownerCache = s.ownerCache := rfl
@[simp] theorem State.modTeam_queries (s : State) (c t : Nat) (f : Team → Team) : (s.modTeam c t f).queries = s.queries := rfl
@[simp] theorem State.modTeam_pmoves (s : State) (c t : Nat) (f : Team → Team) : (s.modTeam c t f).pmoves = s.pmoves := rfl
@[simp] theorem State.modTeam_stubs (s : State) (c t : Nat) (f : Team → Team) : (s.modTeam c t f).stubs = s.stubs := rfl
@[simp] theorem State.modTeam_arriving (s : State) (c t : Nat) (f : Team → Team) : (s.modTeam c t f).arriving = s.arriving := rfl
@[simp] theorem State.modTeam_arrSrc (s : State) (c t : Nat) (f : Team → Team) : (s.modTeam c t f).arrSrc = s.arrSrc := rfl
@[simp] theorem State.modTeam_lmoves (s : State) (c t : Nat) (f : Team → Team) : (s.modTeam c t f).lmoves = s.lmoves := rfl
@[simp] theorem State.modTeam_movedOn (s : State) (c t : Nat) (f : Team → Team) : (s.modTeam c t f).movedOn = s.movedOn := rfl
@[simp] theorem State.modTeam_gcounts (s : State) (c t : Nat) (f : Team → Team) : (s.modTeam c t f).gcounts = s.gcounts := rfl
@[simp] theorem State.modTeam_notes (s : State) (c t : Nat) (f : Team → Team) : (s.modTeam c t f).notes = s.notes := rfl
@[simp] theorem State.modTeam_net (s : State) (c t : Nat) (f : Team → Team) : (s.modTeam c t f).net = s.net := rfl
@[simp] theorem State.modTeam_conns (s : State) (c t : Nat) (f : Team → Team) : (s.modTeam c t f).conns = s.conns := rfl
@[simp] theorem State.modTeam_ports (s : State) (c t : Nat) (f : Team → Team) : (s.modTeam c t f).ports = s.ports := rfl
@[simp] theorem State.modTeam_rotor (s : State) (c t : Nat) (f : Team → Team) : (s.modTeam c t f).rotor = s.rotor := rfl
@[simp] theorem State.modTeam_saves (s : State) (c t : Nat) (f : Team → Team) : (s.modTeam c t f).saves = s.saves := rfl
@[simp] theorem State.modTeam_jobs (s : State) (c t : Nat) (f : Team → Team) : (s.modTeam c t f).jobs = s.jobs := rfl
@[simp] theorem State.modTeam_rdJobs (s : State) (c t : Nat) (f : Team → Team) : (s.modTeam c t f).rdJobs = s.rdJobs := rfl
@[simp] theorem State.modTeam_rcvd (s : State) (c t : Nat) (f : Team → Team) : (s.modTeam c t f).rcvd = s.rcvd := rfl
@[simp] theorem State.modTeam_rnotes (s : State) (c t : Nat) (f : Team → Team) : (s.modTeam c t f).rnotes = s.rnotes := rfl
@[simp] theorem State.modTeam_fwds (s : State) (c t : Nat) (f : Team → Team) : (s.modTeam c t f).fwds = s.fwds := rfl
@[simp] theorem State.modTeam_lost (s : State) (c t : Nat) (f : Team → Team) : (s.modTeam c t f).lost = s.lost := rfl

@[simp] theorem State.modGrid_free (s : State) (g : Nat) (f : Grid → Grid) : (s.modGrid g f).free = s.free := rfl
@[simp] theorem State.modGrid_env (s : State) (g : Nat) (f : Grid → Grid) : (s.modGrid g f).env = s.env := rfl
@[simp] theorem State.modGrid_cur (s : State) (g : Nat) (f : Grid → Grid) : (s.modGrid g f).cur = s.cur := rfl
@[simp] theorem State.modGrid_second (s : State) (g : Nat) (f : Grid → Grid) : (s.modGrid g f).second = s.second := rfl
@[simp] theorem State.modGrid_serial (s : State) (g : Nat) (f : Grid → Grid) : (s.modGrid g f).serial = s.serial := rfl
@[simp] theorem State.modGrid_nextId (s : State) (g : Nat) (f : Grid → Grid) : (s.modGrid g f).nextId = s.nextId := rfl
@[simp] theorem State.modGrid_wire (s : State) (g : Nat) (f : Grid → Grid) : (s.modGrid g f).wire = s.wire := rfl
@[simp] theorem State.modGrid_loop (s : State) (g : Nat) (f : Grid → Grid) : (s.modGrid g f).loop = s.loop := rfl
@[simp] theorem State.modGrid_msix (s : State) (g : Nat) (f : Grid → Grid) : (s.modGrid g f).msix = s.msix := rfl
@[simp] theorem State.modGrid_hostReads (s : State) (g : Nat) (f : Grid → Grid) : (s.modGrid g f).hostReads = s.hostReads := rfl
@[simp] theorem State.modGrid_reports (s : State) (g : Nat) (f : Grid → Grid) : (s.modGrid g f).reports = s.reports := rfl
@[simp] theorem State.modGrid_phase (s : State) (g : Nat) (f : Grid → Grid) : (s.modGrid g f).phase = s.phase := rfl
@[simp] theorem State.modGrid_chipid (s : State) (g : Nat) (f : Grid → Grid) : (s.modGrid g f).chipid = s.chipid := rfl
@[simp] theorem State.modGrid_clk (s : State) (g : Nat) (f : Grid → Grid) : (s.modGrid g f).clk = s.clk := rfl
@[simp] theorem State.modGrid_refAcc (s : State) (g : Nat) (f : Grid → Grid) : (s.modGrid g f).refAcc = s.refAcc := rfl
@[simp] theorem State.modGrid_ref (s : State) (g : Nat) (f : Grid → Grid) : (s.modGrid g f).ref = s.ref := rfl
@[simp] theorem State.modGrid_nsAcc (s : State) (g : Nat) (f : Grid → Grid) : (s.modGrid g f).nsAcc = s.nsAcc := rfl
@[simp] theorem State.modGrid_podNs (s : State) (g : Nat) (f : Grid → Grid) : (s.modGrid g f).podNs = s.podNs := rfl
@[simp] theorem State.modGrid_mhz (s : State) (g : Nat) (f : Grid → Grid) : (s.modGrid g f).mhz = s.mhz := rfl
@[simp] theorem State.modGrid_gremen (s : State) (g : Nat) (f : Grid → Grid) : (s.modGrid g f).gremen = s.gremen := rfl
@[simp] theorem State.modGrid_cores (s : State) (g : Nat) (f : Grid → Grid) : (s.modGrid g f).cores = s.cores := rfl
@[simp] theorem State.modGrid_quads (s : State) (g : Nat) (f : Grid → Grid) : (s.modGrid g f).quads = s.quads := rfl
@[simp] theorem State.modGrid_stks (s : State) (g : Nat) (f : Grid → Grid) : (s.modGrid g f).stks = s.stks := rfl
@[simp] theorem State.modGrid_clusters (s : State) (g : Nat) (f : Grid → Grid) : (s.modGrid g f).clusters = s.clusters := rfl
@[simp] theorem State.modGrid_commits (s : State) (g : Nat) (f : Grid → Grid) : (s.modGrid g f).commits = s.commits := rfl
@[simp] theorem State.modGrid_tokens (s : State) (g : Nat) (f : Grid → Grid) : (s.modGrid g f).tokens = s.tokens := rfl
@[simp] theorem State.modGrid_arrivals (s : State) (g : Nat) (f : Grid → Grid) : (s.modGrid g f).arrivals = s.arrivals := rfl
@[simp] theorem State.modGrid_keysGone (s : State) (g : Nat) (f : Grid → Grid) : (s.modGrid g f).keysGone = s.keysGone := rfl
@[simp] theorem State.modGrid_keys (s : State) (g : Nat) (f : Grid → Grid) : (s.modGrid g f).keys = s.keys := rfl
@[simp] theorem State.modGrid_dram (s : State) (g : Nat) (f : Grid → Grid) : (s.modGrid g f).dram = s.dram := rfl
@[simp] theorem State.modGrid_poison (s : State) (g : Nat) (f : Grid → Grid) : (s.modGrid g f).poison = s.poison := rfl
@[simp] theorem State.modGrid_gkey (s : State) (g : Nat) (f : Grid → Grid) : (s.modGrid g f).gkey = s.gkey := rfl
@[simp] theorem State.modGrid_msc (s : State) (g : Nat) (f : Grid → Grid) : (s.modGrid g f).msc = s.msc := rfl
@[simp] theorem State.modGrid_hostMem (s : State) (g : Nat) (f : Grid → Grid) : (s.modGrid g f).hostMem = s.hostMem := rfl
@[simp] theorem State.modGrid_hostPages (s : State) (g : Nat) (f : Grid → Grid) : (s.modGrid g f).hostPages = s.hostPages := rfl
@[simp] theorem State.modGrid_reqs (s : State) (g : Nat) (f : Grid → Grid) : (s.modGrid g f).reqs = s.reqs := rfl
@[simp] theorem State.modGrid_fills (s : State) (g : Nat) (f : Grid → Grid) : (s.modGrid g f).fills = s.fills := rfl
@[simp] theorem State.modGrid_ghosts (s : State) (g : Nat) (f : Grid → Grid) : (s.modGrid g f).ghosts = s.ghosts := rfl
@[simp] theorem State.modGrid_wins (s : State) (g : Nat) (f : Grid → Grid) : (s.modGrid g f).wins = s.wins := rfl
@[simp] theorem State.modGrid_cwtbase (s : State) (g : Nat) (f : Grid → Grid) : (s.modGrid g f).cwtbase = s.cwtbase := rfl
@[simp] theorem State.modGrid_savebase (s : State) (g : Nat) (f : Grid → Grid) : (s.modGrid g f).savebase = s.savebase := rfl
@[simp] theorem State.modGrid_savesize (s : State) (g : Nat) (f : Grid → Grid) : (s.modGrid g f).savesize = s.savesize := rfl
@[simp] theorem State.modGrid_holdbase (s : State) (g : Nat) (f : Grid → Grid) : (s.modGrid g f).holdbase = s.holdbase := rfl
@[simp] theorem State.modGrid_holdsize (s : State) (g : Nat) (f : Grid → Grid) : (s.modGrid g f).holdsize = s.holdsize := rfl
@[simp] theorem State.modGrid_groupbase (s : State) (g : Nat) (f : Grid → Grid) : (s.modGrid g f).groupbase = s.groupbase := rfl
@[simp] theorem State.modGrid_hdmctl (s : State) (g : Nat) (f : Grid → Grid) : (s.modGrid g f).hdmctl = s.hdmctl := rfl
@[simp] theorem State.modGrid_homebase (s : State) (g : Nat) (f : Grid → Grid) : (s.modGrid g f).homebase = s.homebase := rfl
@[simp] theorem State.modGrid_hometab (s : State) (g : Nat) (f : Grid → Grid) : (s.modGrid g f).hometab = s.hometab := rfl
@[simp] theorem State.modGrid_stubcfg (s : State) (g : Nat) (f : Grid → Grid) : (s.modGrid g f).stubcfg = s.stubcfg := rfl
@[simp] theorem State.modGrid_trkcfg (s : State) (g : Nat) (f : Grid → Grid) : (s.modGrid g f).trkcfg = s.trkcfg := rfl
@[simp] theorem State.modGrid_connbase (s : State) (g : Nat) (f : Grid → Grid) : (s.modGrid g f).connbase = s.connbase := rfl
@[simp] theorem State.modGrid_fabcfg (s : State) (g : Nat) (f : Grid → Grid) : (s.modGrid g f).fabcfg = s.fabcfg := rfl
@[simp] theorem State.modGrid_sysWrs (s : State) (g : Nat) (f : Grid → Grid) : (s.modGrid g f).sysWrs = s.sysWrs := rfl
@[simp] theorem State.modGrid_evq0 (s : State) (g : Nat) (f : Grid → Grid) : (s.modGrid g f).evq0 = s.evq0 := rfl
@[simp] theorem State.modGrid_evq1 (s : State) (g : Nat) (f : Grid → Grid) : (s.modGrid g f).evq1 = s.evq1 := rfl
@[simp] theorem State.modGrid_evWait (s : State) (g : Nat) (f : Grid → Grid) : (s.modGrid g f).evWait = s.evWait := rfl
@[simp] theorem State.modGrid_ownerCache (s : State) (g : Nat) (f : Grid → Grid) : (s.modGrid g f).ownerCache = s.ownerCache := rfl
@[simp] theorem State.modGrid_queries (s : State) (g : Nat) (f : Grid → Grid) : (s.modGrid g f).queries = s.queries := rfl
@[simp] theorem State.modGrid_pmoves (s : State) (g : Nat) (f : Grid → Grid) : (s.modGrid g f).pmoves = s.pmoves := rfl
@[simp] theorem State.modGrid_stubs (s : State) (g : Nat) (f : Grid → Grid) : (s.modGrid g f).stubs = s.stubs := rfl
@[simp] theorem State.modGrid_arriving (s : State) (g : Nat) (f : Grid → Grid) : (s.modGrid g f).arriving = s.arriving := rfl
@[simp] theorem State.modGrid_arrSrc (s : State) (g : Nat) (f : Grid → Grid) : (s.modGrid g f).arrSrc = s.arrSrc := rfl
@[simp] theorem State.modGrid_lmoves (s : State) (g : Nat) (f : Grid → Grid) : (s.modGrid g f).lmoves = s.lmoves := rfl
@[simp] theorem State.modGrid_movedOn (s : State) (g : Nat) (f : Grid → Grid) : (s.modGrid g f).movedOn = s.movedOn := rfl
@[simp] theorem State.modGrid_gcounts (s : State) (g : Nat) (f : Grid → Grid) : (s.modGrid g f).gcounts = s.gcounts := rfl
@[simp] theorem State.modGrid_notes (s : State) (g : Nat) (f : Grid → Grid) : (s.modGrid g f).notes = s.notes := rfl
@[simp] theorem State.modGrid_net (s : State) (g : Nat) (f : Grid → Grid) : (s.modGrid g f).net = s.net := rfl
@[simp] theorem State.modGrid_conns (s : State) (g : Nat) (f : Grid → Grid) : (s.modGrid g f).conns = s.conns := rfl
@[simp] theorem State.modGrid_ports (s : State) (g : Nat) (f : Grid → Grid) : (s.modGrid g f).ports = s.ports := rfl
@[simp] theorem State.modGrid_rotor (s : State) (g : Nat) (f : Grid → Grid) : (s.modGrid g f).rotor = s.rotor := rfl
@[simp] theorem State.modGrid_saves (s : State) (g : Nat) (f : Grid → Grid) : (s.modGrid g f).saves = s.saves := rfl
@[simp] theorem State.modGrid_jobs (s : State) (g : Nat) (f : Grid → Grid) : (s.modGrid g f).jobs = s.jobs := rfl
@[simp] theorem State.modGrid_rdJobs (s : State) (g : Nat) (f : Grid → Grid) : (s.modGrid g f).rdJobs = s.rdJobs := rfl
@[simp] theorem State.modGrid_rcvd (s : State) (g : Nat) (f : Grid → Grid) : (s.modGrid g f).rcvd = s.rcvd := rfl
@[simp] theorem State.modGrid_rnotes (s : State) (g : Nat) (f : Grid → Grid) : (s.modGrid g f).rnotes = s.rnotes := rfl
@[simp] theorem State.modGrid_fwds (s : State) (g : Nat) (f : Grid → Grid) : (s.modGrid g f).fwds = s.fwds := rfl
@[simp] theorem State.modGrid_lost (s : State) (g : Nat) (f : Grid → Grid) : (s.modGrid g f).lost = s.lost := rfl

@[simp] theorem State.modQuad_free (s : State) (q : Nat) (f : Quad → Quad) : (s.modQuad q f).free = s.free := rfl
@[simp] theorem State.modQuad_env (s : State) (q : Nat) (f : Quad → Quad) : (s.modQuad q f).env = s.env := rfl
@[simp] theorem State.modQuad_cur (s : State) (q : Nat) (f : Quad → Quad) : (s.modQuad q f).cur = s.cur := rfl
@[simp] theorem State.modQuad_second (s : State) (q : Nat) (f : Quad → Quad) : (s.modQuad q f).second = s.second := rfl
@[simp] theorem State.modQuad_serial (s : State) (q : Nat) (f : Quad → Quad) : (s.modQuad q f).serial = s.serial := rfl
@[simp] theorem State.modQuad_nextId (s : State) (q : Nat) (f : Quad → Quad) : (s.modQuad q f).nextId = s.nextId := rfl
@[simp] theorem State.modQuad_wire (s : State) (q : Nat) (f : Quad → Quad) : (s.modQuad q f).wire = s.wire := rfl
@[simp] theorem State.modQuad_loop (s : State) (q : Nat) (f : Quad → Quad) : (s.modQuad q f).loop = s.loop := rfl
@[simp] theorem State.modQuad_msix (s : State) (q : Nat) (f : Quad → Quad) : (s.modQuad q f).msix = s.msix := rfl
@[simp] theorem State.modQuad_hostReads (s : State) (q : Nat) (f : Quad → Quad) : (s.modQuad q f).hostReads = s.hostReads := rfl
@[simp] theorem State.modQuad_reports (s : State) (q : Nat) (f : Quad → Quad) : (s.modQuad q f).reports = s.reports := rfl
@[simp] theorem State.modQuad_phase (s : State) (q : Nat) (f : Quad → Quad) : (s.modQuad q f).phase = s.phase := rfl
@[simp] theorem State.modQuad_chipid (s : State) (q : Nat) (f : Quad → Quad) : (s.modQuad q f).chipid = s.chipid := rfl
@[simp] theorem State.modQuad_clk (s : State) (q : Nat) (f : Quad → Quad) : (s.modQuad q f).clk = s.clk := rfl
@[simp] theorem State.modQuad_refAcc (s : State) (q : Nat) (f : Quad → Quad) : (s.modQuad q f).refAcc = s.refAcc := rfl
@[simp] theorem State.modQuad_ref (s : State) (q : Nat) (f : Quad → Quad) : (s.modQuad q f).ref = s.ref := rfl
@[simp] theorem State.modQuad_nsAcc (s : State) (q : Nat) (f : Quad → Quad) : (s.modQuad q f).nsAcc = s.nsAcc := rfl
@[simp] theorem State.modQuad_podNs (s : State) (q : Nat) (f : Quad → Quad) : (s.modQuad q f).podNs = s.podNs := rfl
@[simp] theorem State.modQuad_mhz (s : State) (q : Nat) (f : Quad → Quad) : (s.modQuad q f).mhz = s.mhz := rfl
@[simp] theorem State.modQuad_gremen (s : State) (q : Nat) (f : Quad → Quad) : (s.modQuad q f).gremen = s.gremen := rfl
@[simp] theorem State.modQuad_cores (s : State) (q : Nat) (f : Quad → Quad) : (s.modQuad q f).cores = s.cores := rfl
@[simp] theorem State.modQuad_stks (s : State) (q : Nat) (f : Quad → Quad) : (s.modQuad q f).stks = s.stks := rfl
@[simp] theorem State.modQuad_grids (s : State) (q : Nat) (f : Quad → Quad) : (s.modQuad q f).grids = s.grids := rfl
@[simp] theorem State.modQuad_clusters (s : State) (q : Nat) (f : Quad → Quad) : (s.modQuad q f).clusters = s.clusters := rfl
@[simp] theorem State.modQuad_commits (s : State) (q : Nat) (f : Quad → Quad) : (s.modQuad q f).commits = s.commits := rfl
@[simp] theorem State.modQuad_tokens (s : State) (q : Nat) (f : Quad → Quad) : (s.modQuad q f).tokens = s.tokens := rfl
@[simp] theorem State.modQuad_arrivals (s : State) (q : Nat) (f : Quad → Quad) : (s.modQuad q f).arrivals = s.arrivals := rfl
@[simp] theorem State.modQuad_keysGone (s : State) (q : Nat) (f : Quad → Quad) : (s.modQuad q f).keysGone = s.keysGone := rfl
@[simp] theorem State.modQuad_keys (s : State) (q : Nat) (f : Quad → Quad) : (s.modQuad q f).keys = s.keys := rfl
@[simp] theorem State.modQuad_dram (s : State) (q : Nat) (f : Quad → Quad) : (s.modQuad q f).dram = s.dram := rfl
@[simp] theorem State.modQuad_poison (s : State) (q : Nat) (f : Quad → Quad) : (s.modQuad q f).poison = s.poison := rfl
@[simp] theorem State.modQuad_gkey (s : State) (q : Nat) (f : Quad → Quad) : (s.modQuad q f).gkey = s.gkey := rfl
@[simp] theorem State.modQuad_msc (s : State) (q : Nat) (f : Quad → Quad) : (s.modQuad q f).msc = s.msc := rfl
@[simp] theorem State.modQuad_hostMem (s : State) (q : Nat) (f : Quad → Quad) : (s.modQuad q f).hostMem = s.hostMem := rfl
@[simp] theorem State.modQuad_hostPages (s : State) (q : Nat) (f : Quad → Quad) : (s.modQuad q f).hostPages = s.hostPages := rfl
@[simp] theorem State.modQuad_reqs (s : State) (q : Nat) (f : Quad → Quad) : (s.modQuad q f).reqs = s.reqs := rfl
@[simp] theorem State.modQuad_fills (s : State) (q : Nat) (f : Quad → Quad) : (s.modQuad q f).fills = s.fills := rfl
@[simp] theorem State.modQuad_ghosts (s : State) (q : Nat) (f : Quad → Quad) : (s.modQuad q f).ghosts = s.ghosts := rfl
@[simp] theorem State.modQuad_wins (s : State) (q : Nat) (f : Quad → Quad) : (s.modQuad q f).wins = s.wins := rfl
@[simp] theorem State.modQuad_cwtbase (s : State) (q : Nat) (f : Quad → Quad) : (s.modQuad q f).cwtbase = s.cwtbase := rfl
@[simp] theorem State.modQuad_savebase (s : State) (q : Nat) (f : Quad → Quad) : (s.modQuad q f).savebase = s.savebase := rfl
@[simp] theorem State.modQuad_savesize (s : State) (q : Nat) (f : Quad → Quad) : (s.modQuad q f).savesize = s.savesize := rfl
@[simp] theorem State.modQuad_holdbase (s : State) (q : Nat) (f : Quad → Quad) : (s.modQuad q f).holdbase = s.holdbase := rfl
@[simp] theorem State.modQuad_holdsize (s : State) (q : Nat) (f : Quad → Quad) : (s.modQuad q f).holdsize = s.holdsize := rfl
@[simp] theorem State.modQuad_groupbase (s : State) (q : Nat) (f : Quad → Quad) : (s.modQuad q f).groupbase = s.groupbase := rfl
@[simp] theorem State.modQuad_hdmctl (s : State) (q : Nat) (f : Quad → Quad) : (s.modQuad q f).hdmctl = s.hdmctl := rfl
@[simp] theorem State.modQuad_homebase (s : State) (q : Nat) (f : Quad → Quad) : (s.modQuad q f).homebase = s.homebase := rfl
@[simp] theorem State.modQuad_hometab (s : State) (q : Nat) (f : Quad → Quad) : (s.modQuad q f).hometab = s.hometab := rfl
@[simp] theorem State.modQuad_stubcfg (s : State) (q : Nat) (f : Quad → Quad) : (s.modQuad q f).stubcfg = s.stubcfg := rfl
@[simp] theorem State.modQuad_trkcfg (s : State) (q : Nat) (f : Quad → Quad) : (s.modQuad q f).trkcfg = s.trkcfg := rfl
@[simp] theorem State.modQuad_connbase (s : State) (q : Nat) (f : Quad → Quad) : (s.modQuad q f).connbase = s.connbase := rfl
@[simp] theorem State.modQuad_fabcfg (s : State) (q : Nat) (f : Quad → Quad) : (s.modQuad q f).fabcfg = s.fabcfg := rfl
@[simp] theorem State.modQuad_sysWrs (s : State) (q : Nat) (f : Quad → Quad) : (s.modQuad q f).sysWrs = s.sysWrs := rfl
@[simp] theorem State.modQuad_evq0 (s : State) (q : Nat) (f : Quad → Quad) : (s.modQuad q f).evq0 = s.evq0 := rfl
@[simp] theorem State.modQuad_evq1 (s : State) (q : Nat) (f : Quad → Quad) : (s.modQuad q f).evq1 = s.evq1 := rfl
@[simp] theorem State.modQuad_evWait (s : State) (q : Nat) (f : Quad → Quad) : (s.modQuad q f).evWait = s.evWait := rfl
@[simp] theorem State.modQuad_ownerCache (s : State) (q : Nat) (f : Quad → Quad) : (s.modQuad q f).ownerCache = s.ownerCache := rfl
@[simp] theorem State.modQuad_queries (s : State) (q : Nat) (f : Quad → Quad) : (s.modQuad q f).queries = s.queries := rfl
@[simp] theorem State.modQuad_pmoves (s : State) (q : Nat) (f : Quad → Quad) : (s.modQuad q f).pmoves = s.pmoves := rfl
@[simp] theorem State.modQuad_stubs (s : State) (q : Nat) (f : Quad → Quad) : (s.modQuad q f).stubs = s.stubs := rfl
@[simp] theorem State.modQuad_arriving (s : State) (q : Nat) (f : Quad → Quad) : (s.modQuad q f).arriving = s.arriving := rfl
@[simp] theorem State.modQuad_arrSrc (s : State) (q : Nat) (f : Quad → Quad) : (s.modQuad q f).arrSrc = s.arrSrc := rfl
@[simp] theorem State.modQuad_lmoves (s : State) (q : Nat) (f : Quad → Quad) : (s.modQuad q f).lmoves = s.lmoves := rfl
@[simp] theorem State.modQuad_movedOn (s : State) (q : Nat) (f : Quad → Quad) : (s.modQuad q f).movedOn = s.movedOn := rfl
@[simp] theorem State.modQuad_gcounts (s : State) (q : Nat) (f : Quad → Quad) : (s.modQuad q f).gcounts = s.gcounts := rfl
@[simp] theorem State.modQuad_notes (s : State) (q : Nat) (f : Quad → Quad) : (s.modQuad q f).notes = s.notes := rfl
@[simp] theorem State.modQuad_net (s : State) (q : Nat) (f : Quad → Quad) : (s.modQuad q f).net = s.net := rfl
@[simp] theorem State.modQuad_conns (s : State) (q : Nat) (f : Quad → Quad) : (s.modQuad q f).conns = s.conns := rfl
@[simp] theorem State.modQuad_ports (s : State) (q : Nat) (f : Quad → Quad) : (s.modQuad q f).ports = s.ports := rfl
@[simp] theorem State.modQuad_rotor (s : State) (q : Nat) (f : Quad → Quad) : (s.modQuad q f).rotor = s.rotor := rfl
@[simp] theorem State.modQuad_saves (s : State) (q : Nat) (f : Quad → Quad) : (s.modQuad q f).saves = s.saves := rfl
@[simp] theorem State.modQuad_jobs (s : State) (q : Nat) (f : Quad → Quad) : (s.modQuad q f).jobs = s.jobs := rfl
@[simp] theorem State.modQuad_rdJobs (s : State) (q : Nat) (f : Quad → Quad) : (s.modQuad q f).rdJobs = s.rdJobs := rfl
@[simp] theorem State.modQuad_rcvd (s : State) (q : Nat) (f : Quad → Quad) : (s.modQuad q f).rcvd = s.rcvd := rfl
@[simp] theorem State.modQuad_rnotes (s : State) (q : Nat) (f : Quad → Quad) : (s.modQuad q f).rnotes = s.rnotes := rfl
@[simp] theorem State.modQuad_fwds (s : State) (q : Nat) (f : Quad → Quad) : (s.modQuad q f).fwds = s.fwds := rfl
@[simp] theorem State.modQuad_lost (s : State) (q : Nat) (f : Quad → Quad) : (s.modQuad q f).lost = s.lost := rfl

@[simp] theorem State.modStack_free (s : State) (m : Nat) (f : Stack → Stack) : (s.modStack m f).free = s.free := rfl
@[simp] theorem State.modStack_env (s : State) (m : Nat) (f : Stack → Stack) : (s.modStack m f).env = s.env := rfl
@[simp] theorem State.modStack_cur (s : State) (m : Nat) (f : Stack → Stack) : (s.modStack m f).cur = s.cur := rfl
@[simp] theorem State.modStack_second (s : State) (m : Nat) (f : Stack → Stack) : (s.modStack m f).second = s.second := rfl
@[simp] theorem State.modStack_serial (s : State) (m : Nat) (f : Stack → Stack) : (s.modStack m f).serial = s.serial := rfl
@[simp] theorem State.modStack_nextId (s : State) (m : Nat) (f : Stack → Stack) : (s.modStack m f).nextId = s.nextId := rfl
@[simp] theorem State.modStack_wire (s : State) (m : Nat) (f : Stack → Stack) : (s.modStack m f).wire = s.wire := rfl
@[simp] theorem State.modStack_loop (s : State) (m : Nat) (f : Stack → Stack) : (s.modStack m f).loop = s.loop := rfl
@[simp] theorem State.modStack_msix (s : State) (m : Nat) (f : Stack → Stack) : (s.modStack m f).msix = s.msix := rfl
@[simp] theorem State.modStack_hostReads (s : State) (m : Nat) (f : Stack → Stack) : (s.modStack m f).hostReads = s.hostReads := rfl
@[simp] theorem State.modStack_reports (s : State) (m : Nat) (f : Stack → Stack) : (s.modStack m f).reports = s.reports := rfl
@[simp] theorem State.modStack_phase (s : State) (m : Nat) (f : Stack → Stack) : (s.modStack m f).phase = s.phase := rfl
@[simp] theorem State.modStack_chipid (s : State) (m : Nat) (f : Stack → Stack) : (s.modStack m f).chipid = s.chipid := rfl
@[simp] theorem State.modStack_clk (s : State) (m : Nat) (f : Stack → Stack) : (s.modStack m f).clk = s.clk := rfl
@[simp] theorem State.modStack_refAcc (s : State) (m : Nat) (f : Stack → Stack) : (s.modStack m f).refAcc = s.refAcc := rfl
@[simp] theorem State.modStack_ref (s : State) (m : Nat) (f : Stack → Stack) : (s.modStack m f).ref = s.ref := rfl
@[simp] theorem State.modStack_nsAcc (s : State) (m : Nat) (f : Stack → Stack) : (s.modStack m f).nsAcc = s.nsAcc := rfl
@[simp] theorem State.modStack_podNs (s : State) (m : Nat) (f : Stack → Stack) : (s.modStack m f).podNs = s.podNs := rfl
@[simp] theorem State.modStack_mhz (s : State) (m : Nat) (f : Stack → Stack) : (s.modStack m f).mhz = s.mhz := rfl
@[simp] theorem State.modStack_gremen (s : State) (m : Nat) (f : Stack → Stack) : (s.modStack m f).gremen = s.gremen := rfl
@[simp] theorem State.modStack_cores (s : State) (m : Nat) (f : Stack → Stack) : (s.modStack m f).cores = s.cores := rfl
@[simp] theorem State.modStack_quads (s : State) (m : Nat) (f : Stack → Stack) : (s.modStack m f).quads = s.quads := rfl
@[simp] theorem State.modStack_grids (s : State) (m : Nat) (f : Stack → Stack) : (s.modStack m f).grids = s.grids := rfl
@[simp] theorem State.modStack_clusters (s : State) (m : Nat) (f : Stack → Stack) : (s.modStack m f).clusters = s.clusters := rfl
@[simp] theorem State.modStack_commits (s : State) (m : Nat) (f : Stack → Stack) : (s.modStack m f).commits = s.commits := rfl
@[simp] theorem State.modStack_tokens (s : State) (m : Nat) (f : Stack → Stack) : (s.modStack m f).tokens = s.tokens := rfl
@[simp] theorem State.modStack_arrivals (s : State) (m : Nat) (f : Stack → Stack) : (s.modStack m f).arrivals = s.arrivals := rfl
@[simp] theorem State.modStack_keysGone (s : State) (m : Nat) (f : Stack → Stack) : (s.modStack m f).keysGone = s.keysGone := rfl
@[simp] theorem State.modStack_keys (s : State) (m : Nat) (f : Stack → Stack) : (s.modStack m f).keys = s.keys := rfl
@[simp] theorem State.modStack_dram (s : State) (m : Nat) (f : Stack → Stack) : (s.modStack m f).dram = s.dram := rfl
@[simp] theorem State.modStack_poison (s : State) (m : Nat) (f : Stack → Stack) : (s.modStack m f).poison = s.poison := rfl
@[simp] theorem State.modStack_gkey (s : State) (m : Nat) (f : Stack → Stack) : (s.modStack m f).gkey = s.gkey := rfl
@[simp] theorem State.modStack_msc (s : State) (m : Nat) (f : Stack → Stack) : (s.modStack m f).msc = s.msc := rfl
@[simp] theorem State.modStack_hostMem (s : State) (m : Nat) (f : Stack → Stack) : (s.modStack m f).hostMem = s.hostMem := rfl
@[simp] theorem State.modStack_hostPages (s : State) (m : Nat) (f : Stack → Stack) : (s.modStack m f).hostPages = s.hostPages := rfl
@[simp] theorem State.modStack_reqs (s : State) (m : Nat) (f : Stack → Stack) : (s.modStack m f).reqs = s.reqs := rfl
@[simp] theorem State.modStack_fills (s : State) (m : Nat) (f : Stack → Stack) : (s.modStack m f).fills = s.fills := rfl
@[simp] theorem State.modStack_ghosts (s : State) (m : Nat) (f : Stack → Stack) : (s.modStack m f).ghosts = s.ghosts := rfl
@[simp] theorem State.modStack_wins (s : State) (m : Nat) (f : Stack → Stack) : (s.modStack m f).wins = s.wins := rfl
@[simp] theorem State.modStack_cwtbase (s : State) (m : Nat) (f : Stack → Stack) : (s.modStack m f).cwtbase = s.cwtbase := rfl
@[simp] theorem State.modStack_savebase (s : State) (m : Nat) (f : Stack → Stack) : (s.modStack m f).savebase = s.savebase := rfl
@[simp] theorem State.modStack_savesize (s : State) (m : Nat) (f : Stack → Stack) : (s.modStack m f).savesize = s.savesize := rfl
@[simp] theorem State.modStack_holdbase (s : State) (m : Nat) (f : Stack → Stack) : (s.modStack m f).holdbase = s.holdbase := rfl
@[simp] theorem State.modStack_holdsize (s : State) (m : Nat) (f : Stack → Stack) : (s.modStack m f).holdsize = s.holdsize := rfl
@[simp] theorem State.modStack_groupbase (s : State) (m : Nat) (f : Stack → Stack) : (s.modStack m f).groupbase = s.groupbase := rfl
@[simp] theorem State.modStack_hdmctl (s : State) (m : Nat) (f : Stack → Stack) : (s.modStack m f).hdmctl = s.hdmctl := rfl
@[simp] theorem State.modStack_homebase (s : State) (m : Nat) (f : Stack → Stack) : (s.modStack m f).homebase = s.homebase := rfl
@[simp] theorem State.modStack_hometab (s : State) (m : Nat) (f : Stack → Stack) : (s.modStack m f).hometab = s.hometab := rfl
@[simp] theorem State.modStack_stubcfg (s : State) (m : Nat) (f : Stack → Stack) : (s.modStack m f).stubcfg = s.stubcfg := rfl
@[simp] theorem State.modStack_trkcfg (s : State) (m : Nat) (f : Stack → Stack) : (s.modStack m f).trkcfg = s.trkcfg := rfl
@[simp] theorem State.modStack_connbase (s : State) (m : Nat) (f : Stack → Stack) : (s.modStack m f).connbase = s.connbase := rfl
@[simp] theorem State.modStack_fabcfg (s : State) (m : Nat) (f : Stack → Stack) : (s.modStack m f).fabcfg = s.fabcfg := rfl
@[simp] theorem State.modStack_sysWrs (s : State) (m : Nat) (f : Stack → Stack) : (s.modStack m f).sysWrs = s.sysWrs := rfl
@[simp] theorem State.modStack_evq0 (s : State) (m : Nat) (f : Stack → Stack) : (s.modStack m f).evq0 = s.evq0 := rfl
@[simp] theorem State.modStack_evq1 (s : State) (m : Nat) (f : Stack → Stack) : (s.modStack m f).evq1 = s.evq1 := rfl
@[simp] theorem State.modStack_evWait (s : State) (m : Nat) (f : Stack → Stack) : (s.modStack m f).evWait = s.evWait := rfl
@[simp] theorem State.modStack_ownerCache (s : State) (m : Nat) (f : Stack → Stack) : (s.modStack m f).ownerCache = s.ownerCache := rfl
@[simp] theorem State.modStack_queries (s : State) (m : Nat) (f : Stack → Stack) : (s.modStack m f).queries = s.queries := rfl
@[simp] theorem State.modStack_pmoves (s : State) (m : Nat) (f : Stack → Stack) : (s.modStack m f).pmoves = s.pmoves := rfl
@[simp] theorem State.modStack_stubs (s : State) (m : Nat) (f : Stack → Stack) : (s.modStack m f).stubs = s.stubs := rfl
@[simp] theorem State.modStack_arriving (s : State) (m : Nat) (f : Stack → Stack) : (s.modStack m f).arriving = s.arriving := rfl
@[simp] theorem State.modStack_arrSrc (s : State) (m : Nat) (f : Stack → Stack) : (s.modStack m f).arrSrc = s.arrSrc := rfl
@[simp] theorem State.modStack_lmoves (s : State) (m : Nat) (f : Stack → Stack) : (s.modStack m f).lmoves = s.lmoves := rfl
@[simp] theorem State.modStack_movedOn (s : State) (m : Nat) (f : Stack → Stack) : (s.modStack m f).movedOn = s.movedOn := rfl
@[simp] theorem State.modStack_gcounts (s : State) (m : Nat) (f : Stack → Stack) : (s.modStack m f).gcounts = s.gcounts := rfl
@[simp] theorem State.modStack_notes (s : State) (m : Nat) (f : Stack → Stack) : (s.modStack m f).notes = s.notes := rfl
@[simp] theorem State.modStack_net (s : State) (m : Nat) (f : Stack → Stack) : (s.modStack m f).net = s.net := rfl
@[simp] theorem State.modStack_conns (s : State) (m : Nat) (f : Stack → Stack) : (s.modStack m f).conns = s.conns := rfl
@[simp] theorem State.modStack_ports (s : State) (m : Nat) (f : Stack → Stack) : (s.modStack m f).ports = s.ports := rfl
@[simp] theorem State.modStack_rotor (s : State) (m : Nat) (f : Stack → Stack) : (s.modStack m f).rotor = s.rotor := rfl
@[simp] theorem State.modStack_saves (s : State) (m : Nat) (f : Stack → Stack) : (s.modStack m f).saves = s.saves := rfl
@[simp] theorem State.modStack_jobs (s : State) (m : Nat) (f : Stack → Stack) : (s.modStack m f).jobs = s.jobs := rfl
@[simp] theorem State.modStack_rdJobs (s : State) (m : Nat) (f : Stack → Stack) : (s.modStack m f).rdJobs = s.rdJobs := rfl
@[simp] theorem State.modStack_rcvd (s : State) (m : Nat) (f : Stack → Stack) : (s.modStack m f).rcvd = s.rcvd := rfl
@[simp] theorem State.modStack_rnotes (s : State) (m : Nat) (f : Stack → Stack) : (s.modStack m f).rnotes = s.rnotes := rfl
@[simp] theorem State.modStack_fwds (s : State) (m : Nat) (f : Stack → Stack) : (s.modStack m f).fwds = s.fwds := rfl
@[simp] theorem State.modStack_lost (s : State) (m : Nat) (f : Stack → Stack) : (s.modStack m f).lost = s.lost := rfl

@[simp] theorem State.done_free (s : State) : (s.done).free = s.free := rfl
@[simp] theorem State.done_env (s : State) : (s.done).env = s.env := rfl
@[simp] theorem State.done_second (s : State) : (s.done).second = s.second := rfl
@[simp] theorem State.done_serial (s : State) : (s.done).serial = s.serial := rfl
@[simp] theorem State.done_nextId (s : State) : (s.done).nextId = s.nextId := rfl
@[simp] theorem State.done_wire (s : State) : (s.done).wire = s.wire := rfl
@[simp] theorem State.done_loop (s : State) : (s.done).loop = s.loop := rfl
@[simp] theorem State.done_msix (s : State) : (s.done).msix = s.msix := rfl
@[simp] theorem State.done_hostReads (s : State) : (s.done).hostReads = s.hostReads := rfl
@[simp] theorem State.done_reports (s : State) : (s.done).reports = s.reports := rfl
@[simp] theorem State.done_phase (s : State) : (s.done).phase = s.phase := rfl
@[simp] theorem State.done_chipid (s : State) : (s.done).chipid = s.chipid := rfl
@[simp] theorem State.done_clk (s : State) : (s.done).clk = s.clk := rfl
@[simp] theorem State.done_refAcc (s : State) : (s.done).refAcc = s.refAcc := rfl
@[simp] theorem State.done_ref (s : State) : (s.done).ref = s.ref := rfl
@[simp] theorem State.done_nsAcc (s : State) : (s.done).nsAcc = s.nsAcc := rfl
@[simp] theorem State.done_podNs (s : State) : (s.done).podNs = s.podNs := rfl
@[simp] theorem State.done_mhz (s : State) : (s.done).mhz = s.mhz := rfl
@[simp] theorem State.done_gremen (s : State) : (s.done).gremen = s.gremen := rfl
@[simp] theorem State.done_cores (s : State) : (s.done).cores = s.cores := rfl
@[simp] theorem State.done_quads (s : State) : (s.done).quads = s.quads := rfl
@[simp] theorem State.done_stks (s : State) : (s.done).stks = s.stks := rfl
@[simp] theorem State.done_grids (s : State) : (s.done).grids = s.grids := rfl
@[simp] theorem State.done_clusters (s : State) : (s.done).clusters = s.clusters := rfl
@[simp] theorem State.done_commits (s : State) : (s.done).commits = s.commits := rfl
@[simp] theorem State.done_tokens (s : State) : (s.done).tokens = s.tokens := rfl
@[simp] theorem State.done_arrivals (s : State) : (s.done).arrivals = s.arrivals := rfl
@[simp] theorem State.done_keysGone (s : State) : (s.done).keysGone = s.keysGone := rfl
@[simp] theorem State.done_keys (s : State) : (s.done).keys = s.keys := rfl
@[simp] theorem State.done_dram (s : State) : (s.done).dram = s.dram := rfl
@[simp] theorem State.done_poison (s : State) : (s.done).poison = s.poison := rfl
@[simp] theorem State.done_gkey (s : State) : (s.done).gkey = s.gkey := rfl
@[simp] theorem State.done_msc (s : State) : (s.done).msc = s.msc := rfl
@[simp] theorem State.done_hostMem (s : State) : (s.done).hostMem = s.hostMem := rfl
@[simp] theorem State.done_hostPages (s : State) : (s.done).hostPages = s.hostPages := rfl
@[simp] theorem State.done_reqs (s : State) : (s.done).reqs = s.reqs := rfl
@[simp] theorem State.done_fills (s : State) : (s.done).fills = s.fills := rfl
@[simp] theorem State.done_ghosts (s : State) : (s.done).ghosts = s.ghosts := rfl
@[simp] theorem State.done_wins (s : State) : (s.done).wins = s.wins := rfl
@[simp] theorem State.done_cwtbase (s : State) : (s.done).cwtbase = s.cwtbase := rfl
@[simp] theorem State.done_savebase (s : State) : (s.done).savebase = s.savebase := rfl
@[simp] theorem State.done_savesize (s : State) : (s.done).savesize = s.savesize := rfl
@[simp] theorem State.done_holdbase (s : State) : (s.done).holdbase = s.holdbase := rfl
@[simp] theorem State.done_holdsize (s : State) : (s.done).holdsize = s.holdsize := rfl
@[simp] theorem State.done_groupbase (s : State) : (s.done).groupbase = s.groupbase := rfl
@[simp] theorem State.done_hdmctl (s : State) : (s.done).hdmctl = s.hdmctl := rfl
@[simp] theorem State.done_homebase (s : State) : (s.done).homebase = s.homebase := rfl
@[simp] theorem State.done_hometab (s : State) : (s.done).hometab = s.hometab := rfl
@[simp] theorem State.done_stubcfg (s : State) : (s.done).stubcfg = s.stubcfg := rfl
@[simp] theorem State.done_trkcfg (s : State) : (s.done).trkcfg = s.trkcfg := rfl
@[simp] theorem State.done_connbase (s : State) : (s.done).connbase = s.connbase := rfl
@[simp] theorem State.done_fabcfg (s : State) : (s.done).fabcfg = s.fabcfg := rfl
@[simp] theorem State.done_sysWrs (s : State) : (s.done).sysWrs = s.sysWrs := rfl
@[simp] theorem State.done_evq0 (s : State) : (s.done).evq0 = s.evq0 := rfl
@[simp] theorem State.done_evq1 (s : State) : (s.done).evq1 = s.evq1 := rfl
@[simp] theorem State.done_evWait (s : State) : (s.done).evWait = s.evWait := rfl
@[simp] theorem State.done_ownerCache (s : State) : (s.done).ownerCache = s.ownerCache := rfl
@[simp] theorem State.done_queries (s : State) : (s.done).queries = s.queries := rfl
@[simp] theorem State.done_pmoves (s : State) : (s.done).pmoves = s.pmoves := rfl
@[simp] theorem State.done_stubs (s : State) : (s.done).stubs = s.stubs := rfl
@[simp] theorem State.done_arriving (s : State) : (s.done).arriving = s.arriving := rfl
@[simp] theorem State.done_arrSrc (s : State) : (s.done).arrSrc = s.arrSrc := rfl
@[simp] theorem State.done_lmoves (s : State) : (s.done).lmoves = s.lmoves := rfl
@[simp] theorem State.done_movedOn (s : State) : (s.done).movedOn = s.movedOn := rfl
@[simp] theorem State.done_gcounts (s : State) : (s.done).gcounts = s.gcounts := rfl
@[simp] theorem State.done_notes (s : State) : (s.done).notes = s.notes := rfl
@[simp] theorem State.done_net (s : State) : (s.done).net = s.net := rfl
@[simp] theorem State.done_conns (s : State) : (s.done).conns = s.conns := rfl
@[simp] theorem State.done_ports (s : State) : (s.done).ports = s.ports := rfl
@[simp] theorem State.done_rotor (s : State) : (s.done).rotor = s.rotor := rfl
@[simp] theorem State.done_saves (s : State) : (s.done).saves = s.saves := rfl
@[simp] theorem State.done_jobs (s : State) : (s.done).jobs = s.jobs := rfl
@[simp] theorem State.done_rdJobs (s : State) : (s.done).rdJobs = s.rdJobs := rfl
@[simp] theorem State.done_rcvd (s : State) : (s.done).rcvd = s.rcvd := rfl
@[simp] theorem State.done_rnotes (s : State) : (s.done).rnotes = s.rnotes := rfl
@[simp] theorem State.done_fwds (s : State) : (s.done).fwds = s.fwds := rfl
@[simp] theorem State.done_lost (s : State) : (s.done).lost = s.lost := rfl

@[simp] theorem State.fresh_free (s : State) : s.fresh.2.free = s.free := rfl
@[simp] theorem State.fresh_env (s : State) : s.fresh.2.env = s.env := rfl
@[simp] theorem State.fresh_cur (s : State) : s.fresh.2.cur = s.cur := rfl
@[simp] theorem State.fresh_second (s : State) : s.fresh.2.second = s.second := rfl
@[simp] theorem State.fresh_serial (s : State) : s.fresh.2.serial = s.serial := rfl
@[simp] theorem State.fresh_wire (s : State) : s.fresh.2.wire = s.wire := rfl
@[simp] theorem State.fresh_loop (s : State) : s.fresh.2.loop = s.loop := rfl
@[simp] theorem State.fresh_msix (s : State) : s.fresh.2.msix = s.msix := rfl
@[simp] theorem State.fresh_hostReads (s : State) : s.fresh.2.hostReads = s.hostReads := rfl
@[simp] theorem State.fresh_reports (s : State) : s.fresh.2.reports = s.reports := rfl
@[simp] theorem State.fresh_phase (s : State) : s.fresh.2.phase = s.phase := rfl
@[simp] theorem State.fresh_chipid (s : State) : s.fresh.2.chipid = s.chipid := rfl
@[simp] theorem State.fresh_clk (s : State) : s.fresh.2.clk = s.clk := rfl
@[simp] theorem State.fresh_refAcc (s : State) : s.fresh.2.refAcc = s.refAcc := rfl
@[simp] theorem State.fresh_ref (s : State) : s.fresh.2.ref = s.ref := rfl
@[simp] theorem State.fresh_nsAcc (s : State) : s.fresh.2.nsAcc = s.nsAcc := rfl
@[simp] theorem State.fresh_podNs (s : State) : s.fresh.2.podNs = s.podNs := rfl
@[simp] theorem State.fresh_mhz (s : State) : s.fresh.2.mhz = s.mhz := rfl
@[simp] theorem State.fresh_gremen (s : State) : s.fresh.2.gremen = s.gremen := rfl
@[simp] theorem State.fresh_cores (s : State) : s.fresh.2.cores = s.cores := rfl
@[simp] theorem State.fresh_quads (s : State) : s.fresh.2.quads = s.quads := rfl
@[simp] theorem State.fresh_stks (s : State) : s.fresh.2.stks = s.stks := rfl
@[simp] theorem State.fresh_grids (s : State) : s.fresh.2.grids = s.grids := rfl
@[simp] theorem State.fresh_clusters (s : State) : s.fresh.2.clusters = s.clusters := rfl
@[simp] theorem State.fresh_commits (s : State) : s.fresh.2.commits = s.commits := rfl
@[simp] theorem State.fresh_tokens (s : State) : s.fresh.2.tokens = s.tokens := rfl
@[simp] theorem State.fresh_arrivals (s : State) : s.fresh.2.arrivals = s.arrivals := rfl
@[simp] theorem State.fresh_keysGone (s : State) : s.fresh.2.keysGone = s.keysGone := rfl
@[simp] theorem State.fresh_keys (s : State) : s.fresh.2.keys = s.keys := rfl
@[simp] theorem State.fresh_dram (s : State) : s.fresh.2.dram = s.dram := rfl
@[simp] theorem State.fresh_poison (s : State) : s.fresh.2.poison = s.poison := rfl
@[simp] theorem State.fresh_gkey (s : State) : s.fresh.2.gkey = s.gkey := rfl
@[simp] theorem State.fresh_msc (s : State) : s.fresh.2.msc = s.msc := rfl
@[simp] theorem State.fresh_hostMem (s : State) : s.fresh.2.hostMem = s.hostMem := rfl
@[simp] theorem State.fresh_hostPages (s : State) : s.fresh.2.hostPages = s.hostPages := rfl
@[simp] theorem State.fresh_reqs (s : State) : s.fresh.2.reqs = s.reqs := rfl
@[simp] theorem State.fresh_fills (s : State) : s.fresh.2.fills = s.fills := rfl
@[simp] theorem State.fresh_ghosts (s : State) : s.fresh.2.ghosts = s.ghosts := rfl
@[simp] theorem State.fresh_wins (s : State) : s.fresh.2.wins = s.wins := rfl
@[simp] theorem State.fresh_cwtbase (s : State) : s.fresh.2.cwtbase = s.cwtbase := rfl
@[simp] theorem State.fresh_savebase (s : State) : s.fresh.2.savebase = s.savebase := rfl
@[simp] theorem State.fresh_savesize (s : State) : s.fresh.2.savesize = s.savesize := rfl
@[simp] theorem State.fresh_holdbase (s : State) : s.fresh.2.holdbase = s.holdbase := rfl
@[simp] theorem State.fresh_holdsize (s : State) : s.fresh.2.holdsize = s.holdsize := rfl
@[simp] theorem State.fresh_groupbase (s : State) : s.fresh.2.groupbase = s.groupbase := rfl
@[simp] theorem State.fresh_hdmctl (s : State) : s.fresh.2.hdmctl = s.hdmctl := rfl
@[simp] theorem State.fresh_homebase (s : State) : s.fresh.2.homebase = s.homebase := rfl
@[simp] theorem State.fresh_hometab (s : State) : s.fresh.2.hometab = s.hometab := rfl
@[simp] theorem State.fresh_stubcfg (s : State) : s.fresh.2.stubcfg = s.stubcfg := rfl
@[simp] theorem State.fresh_trkcfg (s : State) : s.fresh.2.trkcfg = s.trkcfg := rfl
@[simp] theorem State.fresh_connbase (s : State) : s.fresh.2.connbase = s.connbase := rfl
@[simp] theorem State.fresh_fabcfg (s : State) : s.fresh.2.fabcfg = s.fabcfg := rfl
@[simp] theorem State.fresh_sysWrs (s : State) : s.fresh.2.sysWrs = s.sysWrs := rfl
@[simp] theorem State.fresh_evq0 (s : State) : s.fresh.2.evq0 = s.evq0 := rfl
@[simp] theorem State.fresh_evq1 (s : State) : s.fresh.2.evq1 = s.evq1 := rfl
@[simp] theorem State.fresh_evWait (s : State) : s.fresh.2.evWait = s.evWait := rfl
@[simp] theorem State.fresh_ownerCache (s : State) : s.fresh.2.ownerCache = s.ownerCache := rfl
@[simp] theorem State.fresh_queries (s : State) : s.fresh.2.queries = s.queries := rfl
@[simp] theorem State.fresh_pmoves (s : State) : s.fresh.2.pmoves = s.pmoves := rfl
@[simp] theorem State.fresh_stubs (s : State) : s.fresh.2.stubs = s.stubs := rfl
@[simp] theorem State.fresh_arriving (s : State) : s.fresh.2.arriving = s.arriving := rfl
@[simp] theorem State.fresh_arrSrc (s : State) : s.fresh.2.arrSrc = s.arrSrc := rfl
@[simp] theorem State.fresh_lmoves (s : State) : s.fresh.2.lmoves = s.lmoves := rfl
@[simp] theorem State.fresh_movedOn (s : State) : s.fresh.2.movedOn = s.movedOn := rfl
@[simp] theorem State.fresh_gcounts (s : State) : s.fresh.2.gcounts = s.gcounts := rfl
@[simp] theorem State.fresh_notes (s : State) : s.fresh.2.notes = s.notes := rfl
@[simp] theorem State.fresh_net (s : State) : s.fresh.2.net = s.net := rfl
@[simp] theorem State.fresh_conns (s : State) : s.fresh.2.conns = s.conns := rfl
@[simp] theorem State.fresh_ports (s : State) : s.fresh.2.ports = s.ports := rfl
@[simp] theorem State.fresh_rotor (s : State) : s.fresh.2.rotor = s.rotor := rfl
@[simp] theorem State.fresh_saves (s : State) : s.fresh.2.saves = s.saves := rfl
@[simp] theorem State.fresh_jobs (s : State) : s.fresh.2.jobs = s.jobs := rfl
@[simp] theorem State.fresh_rdJobs (s : State) : s.fresh.2.rdJobs = s.rdJobs := rfl
@[simp] theorem State.fresh_rcvd (s : State) : s.fresh.2.rcvd = s.rcvd := rfl
@[simp] theorem State.fresh_rnotes (s : State) : s.fresh.2.rnotes = s.rnotes := rfl
@[simp] theorem State.fresh_fwds (s : State) : s.fresh.2.fwds = s.fwds := rfl
@[simp] theorem State.fresh_lost (s : State) : s.fresh.2.lost = s.lost := rfl
@[simp] theorem State.done_cur (s : State) : s.done.cur = none := rfl
@[simp] theorem State.fresh_nextId (s : State) : s.fresh.2.nextId = s.nextId + 1 := rfl
@[simp] theorem State.fresh_id (s : State) : s.fresh.1 = s.nextId := rfl

end Sys2Proof.Machine
end

