-- ==== Sys2Proof/Laws/Tab.lean ====
section
/-! SUPPORT. Laws/Tab.lean: sparse tables, masks, byte order and byte memory: reading after writing, and the canonical form
that every memory operation keeps. -/

namespace Sys2Proof

/-! ## Tables -/

@[simp] theorem tget_nil {α : Type} (d : α) (k : Nat) : tget d [] k = d := rfl
@[simp] theorem tget?_nil {α : Type} (k : Nat) : tget? ([] : Tab α) k = none := rfl

@[simp] theorem tget_tset_same {α : Type} (d v : α) (t : Tab α) (k : Nat) : tget d (tset t k v) k = v := by
  induction t with
  | nil => simp [tset, tget]
  | cons e t ih =>
    obtain ⟨j, w⟩ := e
    simp only [tset]
    split
    · simp [tget]
    · split
      · simp [tget]
      · simp [tget, *]

@[simp] theorem tget_tset_ne {α : Type} (d v : α) (t : Tab α) {j k : Nat} (h : k ≠ j) :
    tget d (tset t j v) k = tget d t k := by
  induction t with
  | nil => simp [tset, tget, Ne.symm h]
  | cons e t ih =>
    obtain ⟨i, w⟩ := e
    simp only [tset]
    split
    · simp [tget, Ne.symm h]
    · split
      · subst_vars; simp [tget, Ne.symm h]
      · simp [tget, ih]

theorem tget_tset {α : Type} (d v : α) (t : Tab α) (j k : Nat) :
    tget d (tset t j v) k = if k = j then v else tget d t k := by
  by_cases h : k = j
  · subst h; simp
  · simp [h]

@[simp] theorem tget?_tset_same {α : Type} (v : α) (t : Tab α) (k : Nat) : tget? (tset t k v) k = some v := by
  induction t with
  | nil => simp [tset, tget?]
  | cons e t ih =>
    obtain ⟨j, w⟩ := e
    simp only [tset]
    split
    · simp [tget?]
    · split
      · simp [tget?]
      · simp [tget?, *]

@[simp] theorem tget?_tset_ne {α : Type} (v : α) (t : Tab α) {j k : Nat} (h : k ≠ j) :
    tget? (tset t j v) k = tget? t k := by
  induction t with
  | nil => simp [tset, tget?, Ne.symm h]
  | cons e t ih =>
    obtain ⟨i, w⟩ := e
    simp only [tset]
    split
    · simp [tget?, Ne.symm h]
    · split
      · subst_vars; simp [tget?, Ne.symm h]
      · simp [tget?, ih]

theorem tget_eq_getD {α : Type} (d : α) (t : Tab α) (k : Nat) : tget d t k = (tget? t k).getD d := by
  induction t with
  | nil => rfl
  | cons e t ih =>
    obtain ⟨j, w⟩ := e
    simp only [tget, tget?]
    split <;> simp_all

@[simp] theorem tget?_tdel_same {α : Type} (t : Tab α) (k : Nat) : tget? (tdel t k) k = none := by
  induction t with
  | nil => rfl
  | cons e t ih =>
    obtain ⟨j, w⟩ := e
    by_cases h : j = k
    · simpa [tdel, h] using ih
    · simpa [tdel, h, tget?] using ih

@[simp] theorem tget?_tdel_ne {α : Type} (t : Tab α) {j k : Nat} (h : k ≠ j) : tget? (tdel t j) k = tget? t k := by
  induction t with
  | nil => rfl
  | cons e t ih =>
    obtain ⟨i, w⟩ := e
    by_cases hi : i = j
    · subst hi; simpa [tdel, tget?, Ne.symm h] using ih
    · simp only [tdel, List.filter_cons, Bool.not_eq_true', beq_eq_false_iff_ne, ne_eq, hi, not_false_iff, if_true, tget?]
      split
      · rfl
      · simpa [tdel] using ih

@[simp] theorem tget_tdel_same {α : Type} (d : α) (t : Tab α) (k : Nat) : tget d (tdel t k) k = d := by
  simp [tget_eq_getD]

@[simp] theorem tget_tdel_ne {α : Type} (d : α) (t : Tab α) {j k : Nat} (h : k ≠ j) : tget d (tdel t j) k = tget d t k := by
  simp [tget_eq_getD, h]

/-! ## Masks -/

theorem mem_lanesOf {m : Mask} {l : Nat} : l ∈ lanesOf m ↔ l < 32 ∧ m.getLsbD l = true := by simp [lanesOf]

theorem lanesOf_nodup (m : Mask) : (lanesOf m).Nodup := List.Nodup.filter _ List.nodup_range

@[simp] theorem maskOf_nil : maskOf [] = 0 := rfl

theorem getLsbD_foldl_laneBit (l : List Nat) (m : Mask) (i : Nat) (h : i < 32) :
    (l.foldl (fun m i => m ||| laneBit i) m).getLsbD i = (m.getLsbD i || l.contains i) := by
  induction l generalizing m with
  | nil => simp
  | cons a t ih =>
    rw [List.foldl_cons, ih]
    have e : (laneBit a).getLsbD i = (i == a) := by
      simp only [laneBit, BitVec.getLsbD_ofNat, Nat.testBit_two_pow, h, decide_true, Bool.true_and]
      by_cases q : a = i
      · simp [q]
      · simp [q, Ne.symm q]
    rw [BitVec.getLsbD_or, e, List.contains_cons, Bool.or_assoc]

theorem getLsbD_maskOf (l : List Nat) (i : Nat) (h : i < 32) : (maskOf l).getLsbD i = l.contains i := by
  rw [maskOf, getLsbD_foldl_laneBit l 0 i h]; simp

theorem maskOf_lanesOf (m : Mask) : maskOf (lanesOf m) = m := by
  apply BitVec.eq_of_getLsbD_eq
  intro i h
  rw [getLsbD_maskOf _ _ h]
  have := @mem_lanesOf m i
  cases hb : m.getLsbD i <;> simp_all

/-! ## Byte order (R1) -/

namespace Machine

@[simp] theorem length_leBytes (k n : Nat) : (leBytes k n).length = k := by
  induction k generalizing n with
  | zero => rfl
  | succ k ih => simp [leBytes, ih]

theorem leNat_leBytes (k n : Nat) : leNat (leBytes k n) = n % 256 ^ k := by
  induction k generalizing n with
  | zero => simp [leBytes, leNat, Nat.mod_one]
  | succ k ih =>
    have e : (BitVec.ofNat 8 n).toNat = n % 256 := by simp
    rw [leBytes, leNat, ih, e, Nat.pow_succ, Nat.mul_comm (256 ^ k), Nat.mod_mul]

theorem leNat_lt (l : List Byte) : leNat l < 256 ^ l.length := by
  induction l with
  | nil => simp [leNat]
  | cons b t ih =>
    have hb := b.isLt
    simp only [leNat, List.length_cons, Nat.pow_succ]
    omega

theorem leBytes_leNat (l : List Byte) : leBytes l.length (leNat l) = l := by
  induction l with
  | nil => rfl
  | cons b t ih =>
    have hb := b.isLt
    simp only [List.length_cons, leBytes, leNat]
    congr 1
    · apply BitVec.eq_of_toNat_eq
      simp only [BitVec.toNat_ofNat]
      omega
    · have : (b.toNat + 256 * leNat t) / 256 = leNat t := by omega
      rw [this, ih]

end Machine

/-! ## Byte memory -/

/-- Addresses rise from a bound and no zero byte is listed. -/
def Memory.above : Nat → Memory → Prop
  | _, [] => True
  | n, (a, v) :: t => n ≤ a ∧ v ≠ 0 ∧ Memory.above (a + 1) t

theorem Memory.wf_iff (m : Memory) : Memory.wf m = true ↔ Memory.above 0 m := by
  have key : ∀ (t : Memory) (a : Nat) (v : Byte), Memory.wf ((a, v) :: t) = true ↔ v ≠ 0 ∧ Memory.above (a + 1) t := by
    intro t
    induction t with
    | nil => intro a v; simp [Memory.wf, Memory.above]
    | cons e t ih =>
      intro a v
      obtain ⟨b, w⟩ := e
      simp only [Memory.wf, Bool.and_eq_true, decide_eq_true_eq, Bool.not_eq_true', decide_eq_false_iff_not, ih, Memory.above]
      constructor
      · rintro ⟨⟨h1, h2⟩, h3, h4⟩; exact ⟨h2, h1, h3, h4⟩
      · rintro ⟨h2, h1, h3, h4⟩; exact ⟨⟨h1, h2⟩, h3, h4⟩
  cases m with
  | nil => simp [Memory.wf, Memory.above]
  | cons e t => obtain ⟨a, v⟩ := e; rw [key]; simp [Memory.above]

theorem Memory.above_mono {n k : Nat} {m : Memory} (h : Memory.above n m) (hk : k ≤ n) : Memory.above k m := by
  cases m with
  | nil => trivial
  | cons e t => obtain ⟨a, v⟩ := e; exact ⟨hk.trans h.1, h.2⟩

theorem Memory.get_above {n a : Nat} {m : Memory} (h : Memory.above n m) (ha : a < n) : Memory.get m a = 0 := by
  cases m with
  | nil => rfl
  | cons e t =>
    obtain ⟨b, v⟩ := e
    have h1 : b ≠ a := by have := h.1; omega
    have h2 : a < b := by have := h.1; omega
    simp [Memory.get, h1, h2]

theorem Memory.above_set {n a : Nat} {m : Memory} (v : Byte) (h : Memory.above n m) (ha : n ≤ a) :
    Memory.above n (Memory.set m a v) := by
  induction m generalizing n with
  | nil => simp only [Memory.set]; split <;> simp_all [Memory.above]
  | cons e t ih =>
    obtain ⟨b, w⟩ := e
    obtain ⟨h1, h2, h3⟩ := h
    simp only [Memory.set]
    split
    · split
      · exact ⟨h1, h2, h3⟩
      · exact ⟨ha, by assumption, by omega, h2, h3⟩
    · split
      · split
        · exact Memory.above_mono h3 (by omega)
        · subst_vars; exact ⟨ha, by assumption, h3⟩
      · exact ⟨h1, h2, ih h3 (by omega)⟩

/-- A write keeps the canonical form. -/
theorem Memory.wf_set {m : Memory} (a : Nat) (v : Byte) (h : Memory.wf m = true) : Memory.wf (Memory.set m a v) = true :=
  (Memory.wf_iff _).2 (Memory.above_set v ((Memory.wf_iff _).1 h) (Nat.zero_le a))

/-- A write of bytes keeps the canonical form. -/
theorem Memory.wf_write {m : Memory} (a : Nat) (l : List Byte) (h : Memory.wf m = true) : Memory.wf (Memory.write m a l) = true := by
  induction l generalizing m a with
  | nil => exact h
  | cons b t ih => exact ih (a + 1) (Memory.wf_set a b h)

theorem Memory.get_set_above {n : Nat} {m : Memory} (h : Memory.above n m) (a b : Nat) (v : Byte) :
    Memory.get (Memory.set m a v) b = if b = a then v else Memory.get m b := by
  induction m generalizing n with
  | nil =>
    simp only [Memory.set]
    split
    · simp_all [Memory.get]
    · by_cases hb : b = a
      · simp [Memory.get, hb]
      · simp [Memory.get, hb, Ne.symm hb]
  | cons e t ih =>
    obtain ⟨j, w⟩ := e
    obtain ⟨h1, h2, h3⟩ := h
    simp only [Memory.set]
    split
    · rename_i hj
      split
      · by_cases hb : b = a
        · have : j ≠ a := by omega
          simp_all [Memory.get]
        · simp [hb]
      · by_cases hb : b = a
        · simp [Memory.get, hb]
        · rw [if_neg hb, Memory.get, if_neg (Ne.symm hb)]
          by_cases hba : b < a
          · have : j ≠ b := by omega
            have : b < j := by omega
            simp_all [Memory.get]
          · rw [if_neg hba]
    · rename_i hj
      split
      · rename_i hja
        subst hja
        split
        · rename_i hv
          by_cases hb : b = a
          · subst hb; simp [hv, Memory.get_above h3 (Nat.lt_succ_self b)]
          · by_cases hlt : b < a
            · rw [if_neg hb, Memory.get, if_neg (Ne.symm hb), if_pos hlt, Memory.get_above h3 (by omega)]
            · rw [if_neg hb, Memory.get, if_neg (Ne.symm hb), if_neg hlt]
        · by_cases hb : b = a
          · simp [Memory.get, hb]
          · simp [Memory.get, hb, Ne.symm hb]
      · rename_i hja
        by_cases hb : b = a
        · subst hb
          have : j ≠ b := Ne.symm hja
          simp [Memory.get, Ne.symm hja, hj, ih h3]
        · rw [if_neg hb, Memory.get, Memory.get, ih h3, if_neg hb]

/-- Reading a byte after a write. -/
theorem Memory.get_set {m : Memory} (h : Memory.wf m = true) (a b : Nat) (v : Byte) :
    Memory.get (Memory.set m a v) b = if b = a then v else Memory.get m b :=
  Memory.get_set_above ((Memory.wf_iff m).1 h) a b v

/-- A write of bytes leaves every byte outside them. -/
theorem Memory.get_write_out {m : Memory} (h : Memory.wf m = true) (a b : Nat) (l : List Byte) (hb : b < a ∨ a + l.length ≤ b) :
    Memory.get (Memory.write m a l) b = Memory.get m b := by
  induction l generalizing m a with
  | nil => rfl
  | cons x t ih =>
    simp only [List.length_cons] at hb
    rw [Memory.write, ih (Memory.wf_set a x h) _ (by omega), Memory.get_set h]
    have : b ≠ a := by omega
    simp [this]

/-- Bytes read where they were written. -/
theorem Memory.read_write {m : Memory} (h : Memory.wf m = true) (a : Nat) (l : List Byte) :
    Memory.read (Memory.write m a l) l.length a = l := by
  induction l generalizing m a with
  | nil => rfl
  | cons x t ih =>
    simp only [List.length_cons, Memory.read, Memory.write]
    rw [Memory.get_write_out (Memory.wf_set a x h) _ _ _ (by omega), Memory.get_set h, if_pos rfl, ih (Memory.wf_set a x h)]

end Sys2Proof
end

