-- ==== Sys2Proof/Laws/Ops.lean ====
section
/-! SUPPORT. Laws/Ops.lean: reaching a unit after an update of it or of another. -/

namespace Sys2Proof.Machine

@[simp] theorem core_setCore_same (s : State) (c : Nat) (x : Core) : (s.setCore c x).core c = x := by
  simp [State.core, State.setCore]
@[simp] theorem core_setCore_ne (s : State) {c d : Nat} (x : Core) (h : d ≠ c) : (s.setCore c x).core d = s.core d := by
  simp [State.core, State.setCore, h]
@[simp] theorem core_modCore_same (s : State) (c : Nat) (f : Core → Core) : (s.modCore c f).core c = f (s.core c) := by
  simp [State.modCore]
@[simp] theorem core_modCore_ne (s : State) {c d : Nat} (f : Core → Core) (h : d ≠ c) : (s.modCore c f).core d = s.core d := by
  simp [State.modCore, h]

@[simp] theorem crew_setCrew_same (o : Core) (k : Nat) (x : Crew) : (o.setCrew k x).crew k = x := by
  simp [Core.crew, Core.setCrew]
@[simp] theorem crew_setCrew_ne (o : Core) {j k : Nat} (x : Crew) (h : j ≠ k) : (o.setCrew k x).crew j = o.crew j := by
  simp [Core.crew, Core.setCrew, h]

@[simp] theorem crew_modCrew_same (s : State) (c k : Nat) (f : Crew → Crew) : (s.modCrew c k f).crew c k = f (s.crew c k) := by
  simp [State.modCrew, State.crew, Core.modCrew]
@[simp] theorem crew_modCrew_core (s : State) {c d : Nat} (k j : Nat) (f : Crew → Crew) (h : d ≠ c) :
    (s.modCrew c k f).crew d j = s.crew d j := by
  simp [State.modCrew, State.crew, h]
@[simp] theorem crew_modCrew_slot (s : State) (c : Nat) {k j : Nat} (f : Crew → Crew) (h : j ≠ k) :
    (s.modCrew c k f).crew c j = s.crew c j := by
  simp [State.modCrew, State.crew, Core.modCrew, h]
@[simp] theorem core_modCrew_ne (s : State) {c d : Nat} (k : Nat) (f : Crew → Crew) (h : d ≠ c) :
    (s.modCrew c k f).core d = s.core d := by
  simp [State.modCrew, h]
@[simp] theorem core_modCrew_same (s : State) (c k : Nat) (f : Crew → Crew) :
    (s.modCrew c k f).core c = (s.core c).modCrew k f := by
  simp [State.modCrew]

@[simp] theorem crew_modCore_holdSeat (s : State) (c seat t d k : Nat) : (s.modCore c (holdSeat seat t)).crew d k = s.crew d k := by
  by_cases h : d = c
  · subst h; simp [State.crew, holdSeat, Core.crew]
  · simp [State.crew, h]

@[simp] theorem team_modTeam_same (s : State) (c t : Nat) (f : Team → Team) : (s.modTeam c t f).team c t = f (s.team c t) := by
  simp [State.modTeam, State.team, Core.modTeam, Core.team]
@[simp] theorem grid_modGrid_same (s : State) (g : Nat) (f : Grid → Grid) : (s.modGrid g f).grid g = f (s.grid g) := by
  simp [State.modGrid, State.grid]
@[simp] theorem grid_modGrid_ne (s : State) {g h : Nat} (f : Grid → Grid) (e : h ≠ g) : (s.modGrid g f).grid h = s.grid h := by
  simp [State.modGrid, State.grid, e]
@[simp] theorem quad_modQuad_same (s : State) (q : Nat) (f : Quad → Quad) : (s.modQuad q f).quad q = f (s.quad q) := by
  simp [State.modQuad, State.quad]
@[simp] theorem stack_modStack_same (s : State) (m : Nat) (f : Stack → Stack) : (s.modStack m f).stack m = f (s.stack m) := by
  simp [State.modStack, State.stack]

@[simp] theorem pcOf_setPc_same (k : Crew) (l : Nat) (p : Pc) : (k.setPc l p).pcOf l = p := by simp [Crew.setPc, Crew.pcOf]
@[simp] theorem pcOf_setPc_ne (k : Crew) {l j : Nat} (p : Pc) (h : j ≠ l) : (k.setPc l p).pcOf j = k.pcOf j := by
  simp [Crew.setPc, Crew.pcOf, h]
@[simp] theorem parkOf_setPark_same (k : Crew) (l : Nat) (p : Park) : (k.setPark l p).parkOf l = p := by
  simp [Crew.setPark, Crew.parkOf]
@[simp] theorem parkOf_setPark_ne (k : Crew) {l j : Nat} (p : Park) (h : j ≠ l) : (k.setPark l p).parkOf j = k.parkOf j := by
  simp [Crew.setPark, Crew.parkOf, h]

/-- A word without faulting lanes takes no fault. -/
@[simp] theorem takeFaults_nil (s : State) (c k : Nat) (pc : Pc) (len : Nat) : takeFaults s c k pc len [] = s := rfl

/-- What setting the PCs of some lanes leaves. -/
theorem pcOf_forLanes (m : Mask) (p : Pc) (k : Crew) (l : Nat) :
    (forLanes m (fun l k => k.setPc l p) k).pcOf l = if l ∈ lanesOf m then p else k.pcOf l := by
  have key : ∀ (ls : List Nat) (k : Crew), (ls.foldl (fun k l => k.setPc l p) k).pcOf l = if l ∈ ls then p else k.pcOf l := by
    intro ls
    induction ls with
    | nil => simp
    | cons a t ih =>
      intro k
      rw [List.foldl_cons, ih]
      by_cases h1 : l ∈ t
      · simp [h1]
      · by_cases h2 : l = a
        · subst h2; simp [h1]
        · simp [h1, h2]
  exact key _ k

theorem forLanes_setPc (m : Mask) (p : Pc) (k : Crew) :
    ∃ t, forLanes m (fun l k => k.setPc l p) k = { k with pc := t } := by
  have key : ∀ (ls : List Nat) (k : Crew), ∃ t, ls.foldl (fun k l => k.setPc l p) k = { k with pc := t } := by
    intro ls
    induction ls with
    | nil => exact fun k => ⟨k.pc, rfl⟩
    | cons a t ih =>
      intro k
      obtain ⟨q, h⟩ := ih (k.setPc a p)
      exact ⟨q, by rw [List.foldl_cons, h]; rfl⟩
  exact key _ k

end Sys2Proof.Machine
end

