-- ==== Sys2Proof/Laws/Issue.lean ====
section
/-! SUPPORT. Laws/Issue.lean: what a word that issues does (R24 to R28, R99 to R101): the word acts between `begun` and
`ended`; what these two change; the result it leaves. -/

namespace Sys2Proof.Machine

/-! ## Issue -/

theorem Ctx.on_all (x : Ctx) : { x with on := x.on &&& ~~~(maskOf []) } = x := by
  have h : x.on &&& ~~~(maskOf []) = x.on := by
    rw [maskOf_nil, show (~~~(0 : Mask)) = BitVec.allOnes 32 from by decide, BitVec.and_allOnes]
  rw [h]

theorem latchBad_nil {s : State} {p : Pre} {x : Ctx}
    (h : ∀ l ∈ lanesOf x.on, latchOk (s.crew x.c x.k) (latchesOf p.w) p.dst l = true) : latchBad s p x = [] := by
  have e : (lanesOf x.on).filter (fun l => !(latchOk (s.crew x.c x.k) (latchesOf p.w) p.dst l)) = [] := by
    rw [List.filter_eq_nil_iff]; intro l hl; simp [h l hl]
  simp [latchBad, e]

/-- A word that issues acts between `begun` and `ended`, whatever it does. -/
theorem issue_next {s : State} {p : Pre} {x : Ctx} (h : Issues s p.w p.dst p.comp x) (body : Ctx → State → State) :
    issue s p body = .next (ended p x (s.at x) (body x (begun s p x []))) := by
  obtain ⟨⟨i, hi, rfl⟩, hr, hon, hm, hl, hrow⟩ := h
  have hb := latchBad_nil hl
  have hw : rowWait s p (ctxOf s i) = false := by
    rcases hrow with h3 | h3 <;> simp [rowWait, h3]
  simp only [issue, hi, hr, bne_self_eq_false, Bool.false_eq_true, if_false, hm, hb, Ctx.on_all, hw]
  rfl

/-! ## One crew alone changes -/

theorem OnlyCrew.refl (s : State) (x : Ctx) : OnlyCrew s s x := ⟨rfl, fun _ _ => rfl, rfl, fun _ _ => rfl⟩

theorem OnlyCrew.trans {s t u : State} {x : Ctx} (h : OnlyCrew s t x) (g : OnlyCrew t u x) : OnlyCrew s u x := by
  refine ⟨?_, fun c hc => (g.cores c hc).trans (h.cores c hc), ?_, fun k hk => (g.slots k hk).trans (h.slots k hk)⟩
  · have h1 := h.rest
    rw [← g.rest] at h1
    exact h1
  · have h1 := h.core
    rw [← g.core] at h1
    exact h1

theorem OnlyCrew.modCrew (s : State) (x : Ctx) (f : Crew → Crew) : OnlyCrew s (s.modCrew x.c x.k f) x := by
  refine ⟨rfl, fun c hc => by simp [hc], ?_, fun k hk => by simp [hk]⟩
  simp [Core.modCrew, Core.setCrew]

theorem OnlyCrew.holdSeat (s : State) (x : Ctx) (seat n : Nat) :
    OnlyCrew s (s.modCore x.c (Machine.holdSeat seat n)) x := by
  refine ⟨rfl, fun c hc => by simp [hc], ?_, fun k _ => by simp⟩
  simp [Machine.holdSeat]

theorem OnlyCrew.fresh (s : State) (x : Ctx) : OnlyCrew s s.fresh.2 x := ⟨rfl, fun _ _ => rfl, rfl, fun _ _ => rfl⟩

theorem OnlyCrew.begun (s : State) (p : Pre) (x : Ctx) : OnlyCrew s (Machine.begun s p x []) x :=
  (OnlyCrew.modCrew s x _).trans (OnlyCrew.holdSeat _ x _ _)

theorem OnlyCrew.ended (s : State) (p : Pre) (x : Ctx) (k : Crew) : OnlyCrew s (Machine.ended p x k s) x :=
  (OnlyCrew.modCrew s x (settleRows x p k)).trans ⟨rfl, fun _ _ => rfl, rfl, fun _ _ => rfl⟩

theorem OnlyCrew.addResult (s : State) (x : Ctx) (r : Result) : OnlyCrew s (Machine.addResult s x r) x :=
  OnlyCrew.modCrew s x _

theorem OnlyCrew.fixedResult (s : State) (x : Ctx) (lat : Nat) (wr : List Wr) (cs : List Nat) :
    OnlyCrew s (Machine.fixedResult s x lat wr cs) x := by
  unfold Machine.fixedResult
  split
  · exact OnlyCrew.refl s x
  · exact (OnlyCrew.fresh s x).trans (OnlyCrew.addResult _ x _)

theorem OnlyCrew.boundedResult (s : State) (x : Ctx) (lo hi : Nat) (wr : List Wr) (cs : List Nat) :
    OnlyCrew s (Machine.boundedResult s x lo hi wr cs) x := by
  unfold Machine.boundedResult
  split
  · exact OnlyCrew.refl s x
  · exact (OnlyCrew.fresh s x).trans (OnlyCrew.addResult _ x _)

theorem OnlyCrew.longResult (s : State) (x : Ctx) (wr : List Wr) : OnlyCrew s (Machine.longResult s x wr) x := by
  unfold Machine.longResult
  split
  · exact OnlyCrew.refl s x
  · exact (OnlyCrew.fresh s x).trans (OnlyCrew.addResult _ x _)

/-! ## The state in which a word acts -/

@[simp] theorem begun_free (s : State) (p : Pre) (x : Ctx) : (begun s p x []).free = s.free := rfl
@[simp] theorem begun_clk (s : State) (p : Pre) (x : Ctx) : (begun s p x []).clk = s.clk := rfl
@[simp] theorem begun_chipid (s : State) (p : Pre) (x : Ctx) : (begun s p x []).chipid = s.chipid := rfl
@[simp] theorem begun_nextId (s : State) (p : Pre) (x : Ctx) : (begun s p x []).nextId = s.nextId := rfl
@[simp] theorem begun_grids (s : State) (p : Pre) (x : Ctx) : (begun s p x []).grids = s.grids := rfl
@[simp] theorem begun_clusters (s : State) (p : Pre) (x : Ctx) : (begun s p x []).clusters = s.clusters := rfl

theorem at_begun (s : State) (p : Pre) (x : Ctx) :
    ∃ t, (begun s p x []).at x = { s.at x with pc := t, since := s.clk + 1 } ∧
      ∀ l, ({ s.at x with pc := t, since := s.clk + 1 } : Crew).pcOf l = if l ∈ lanesOf x.path then x.next else (s.at x).pcOf l := by
  obtain ⟨t, ht⟩ := forLanes_setPc x.path x.next (s.at x)
  refine ⟨t, ?_, fun l => ?_⟩
  · have ha : advance x (s.crew x.c x.k) = { s.crew x.c x.k with pc := t } := ht
    show (begun s p x []).crew x.c x.k = _
    simp only [begun, List.map_nil, takeFaults_nil, crew_modCore_holdSeat, crew_modCrew_same, ha]
    rfl
  · have h := pcOf_forLanes x.path x.next (s.at x) l
    rw [ht] at h
    exact h

/-- What reading an operand depends on. -/
structure ReadsAs (s s' : State) (x : Ctx) : Prop where
  free : s'.free = s.free
  clk : s'.clk = s.clk
  chip : s'.chipid = s.chipid
  crew : ∃ t n, s'.at x = { s.at x with pc := t, since := n }

theorem readsAs_begun (s : State) (p : Pre) (x : Ctx) : ReadsAs s (begun s p x []) x :=
  ⟨rfl, rfl, rfl, let ⟨t, h, _⟩ := at_begun s p x; ⟨t, _, h⟩⟩

theorem ReadsAs.readV {s s' : State} {x : Ctx} (h : ReadsAs s s' x) (n l : Nat) : readV s' x n l = Machine.readV s x n l := by
  obtain ⟨h1, h2, h3, t, m, h4⟩ := h
  simp only [State.at] at h4
  simp only [Machine.readV, h1, h4]
  rfl

theorem ReadsAs.readU {s s' : State} {x : Ctx} (h : ReadsAs s s' x) (n : Nat) : readU s' x n = Machine.readU s x n := by
  obtain ⟨h1, h2, h3, t, m, h4⟩ := h
  simp only [State.at] at h4
  simp only [Machine.readU, h1, h4]
  rfl

theorem ReadsAs.readQ {s s' : State} {x : Ctx} (h : ReadsAs s s' x) (n l : Nat) : readQ s' x n l = Machine.readQ s x n l := by
  obtain ⟨h1, h2, h3, t, m, h4⟩ := h
  simp only [State.at] at h4
  simp only [Machine.readQ, h1, h4]
  rfl

theorem ReadsAs.readFl {s s' : State} {x : Ctx} (h : ReadsAs s s' x) (l : Nat) : readFl s' x l = Machine.readFl s x l := by
  obtain ⟨h1, h2, h3, t, m, h4⟩ := h
  simp only [State.at] at h4
  simp only [Machine.readFl, h1, h4]
  rfl

theorem ReadsAs.readSp {s s' : State} {x : Ctx} (h : ReadsAs s s' x) (n l : Nat) : readSp s' x n l = Machine.readSp s x n l := by
  have hq := h.readQ
  have hv := h.readV
  have hf := h.readFl
  obtain ⟨h1, h2, h3, t, m, h4⟩ := h
  simp only [State.at] at h4
  simp only [Machine.readSp, h2, h3, h4, hq, hv, hf, latchReg]

/-- A word reads its operands as the state before it has them. -/
theorem ReadsAs.rd {s s' : State} {x : Ctx} (h : ReadsAs s s' x) (imm : W64) (o : Opd) (l : Nat) :
    rd s' x imm o l = Machine.rd s x imm o l := by
  cases o <;> simp only [Machine.rd, h.readV, h.readU, h.readSp]

theorem ReadsAs.rd64 {s s' : State} {x : Ctx} (h : ReadsAs s s' x) (f : Form) (sg : Bool) (imm : W64) (o : Opd) (l : Nat) :
    rd64 s' x f sg imm o l = Machine.rd64 s x f sg imm o l := by
  have hv := h.readV
  have hu := h.readU
  have hs := h.readSp
  obtain ⟨h1, h2, h3, t, m, h4⟩ := h
  simp only [State.at] at h4
  cases o <;> simp only [Machine.rd64, hv, hu, hs, h2, h4, latchReg]

theorem ReadsAs.rdRun {s s' : State} {x : Ctx} (h : ReadsAs s s' x) (o : Opd) (n l : Nat) :
    rdRun s' x o n l = Machine.rdRun s x o n l := by
  cases o <;> simp only [Machine.rdRun, h.readV, h.readU, h.rd]

/-! ## What ending a word leaves -/

theorem ageLatches_rest (hold reg : Nat) (k : Crew) (l : Nat) : ∃ t, ageLatches hold reg k l = { k with latch := t } := by
  simp only [ageLatches]
  (repeat' split) <;> exact ⟨_, rfl⟩

theorem foldl_ageLatches (hold reg : Nat) (ls : List Nat) (k : Crew) : ∃ t, ls.foldl (ageLatches hold reg) k = { k with latch := t } := by
  induction ls generalizing k with
  | nil => exact ⟨k.latch, rfl⟩
  | cons a t ih =>
    obtain ⟨q, hq⟩ := ageLatches_rest hold reg k a
    obtain ⟨r, hr⟩ := ih (ageLatches hold reg k a)
    exact ⟨r, by rw [List.foldl_cons, hr, hq]⟩

theorem releaseLast_rest (k : Crew) (n : Nat) : ∃ v r p, releaseLast k n = { k with vent := v, rows := r, pendRel := p } := by
  simp only [releaseLast]
  split
  · exact ⟨_, _, k.pendRel, rfl⟩
  · exact ⟨k.vent, k.rows, _, rfl⟩

theorem foldl_releaseLast (ls : List Nat) (k : Crew) :
    ∃ v r p, ls.foldl releaseLast k = { k with vent := v, rows := r, pendRel := p } := by
  induction ls generalizing k with
  | nil => exact ⟨k.vent, k.rows, k.pendRel, rfl⟩
  | cons a t ih =>
    obtain ⟨v, r, p, hq⟩ := releaseLast_rest k a
    obtain ⟨v', r', p', hr⟩ := ih (releaseLast k a)
    exact ⟨v', r', p', by rw [List.foldl_cons, hr, hq]⟩

theorem takeRows_rest (k : Crew) (ls : List Nat) : ∃ v r, takeRows k ls = { k with vent := v, rows := r } := by
  unfold takeRows
  induction ls generalizing k with
  | nil => exact ⟨k.vent, k.rows, rfl⟩
  | cons a t ih =>
    rw [List.foldl_cons]
    split
    · exact ih k
    · obtain ⟨v, r, h⟩ := ih { k with vent := tset k.vent a (k.ent a).expand, rows := k.rows + 1 }
      exact ⟨v, r, h⟩

/-- Ending a word changes latches, rows, entries and pending releases, and nothing else of its crew. -/
theorem settleRows_rest (x : Ctx) (p : Pre) (old k : Crew) :
    ∃ a v r q, settleRows x p old k = { k with latch := a, vent := v, rows := r, pendRel := q } := by
  obtain ⟨a, ha⟩ : ∃ a, ageAll x p.w.a old (faulted old k x.on) k = { k with latch := a } := by
    unfold ageAll
    split
    · exact foldl_ageLatches _ _ _ _
    · exact ⟨_, rfl⟩
  obtain ⟨v, r, q, hl⟩ : ∃ v r q, lastAll x p (faulted old k x.on) { k with latch := a } =
      { k with latch := a, vent := v, rows := r, pendRel := q } := by
    unfold lastAll
    split
    · exact foldl_releaseLast _ _
    · exact ⟨_, _, _, rfl⟩
  simp only [settleRows, ha, hl]
  split
  · exact ⟨_, _, _, _, rfl⟩
  · obtain ⟨v', r', h⟩ := takeRows_rest { k with latch := a, vent := v, rows := r, pendRel := q } p.dst
    exact ⟨_, _, _, _, h⟩

@[simp] theorem at_ended (s : State) (p : Pre) (x : Ctx) (old : Crew) : (ended p x old s).at x = settleRows x p old (s.at x) := by
  simp only [State.at, ended]
  show (s.modCrew x.c x.k (settleRows x p old)).crew x.c x.k = _
  simp

@[simp] theorem results_ended (s : State) (p : Pre) (x : Ctx) (old : Crew) : ((ended p x old s).at x).results = (s.at x).results := by
  rw [at_ended]; obtain ⟨a, v, r, q, h⟩ := settleRows_rest x p old (s.at x); rw [h]

@[simp] theorem pcOf_ended (s : State) (p : Pre) (x : Ctx) (old : Crew) (l : Nat) :
    ((ended p x old s).at x).pcOf l = (s.at x).pcOf l := by
  rw [at_ended]; obtain ⟨a, v, r, q, h⟩ := settleRows_rest x p old (s.at x); rw [h]; rfl

/-! ## Results left -/

theorem at_addResult (s : State) (x : Ctx) (r : Result) :
    ∃ l, (addResult s x r).at x = { s.at x with results := l ++ [{ r with serial := x.serial }] } := by
  simp only [addResult, State.at, crew_modCrew_same]
  exact ⟨_, rfl⟩

@[simp] theorem pcOf_fixedResult (s : State) (x : Ctx) (lat : Nat) (wr : List Wr) (cs : List Nat) (l : Nat) :
    ((fixedResult s x lat wr cs).at x).pcOf l = (s.at x).pcOf l := by
  unfold fixedResult
  split
  · rfl
  · obtain ⟨q, h⟩ := at_addResult s.fresh.2 x { id := s.fresh.1, serial := x.serial, lo := s.fresh.2.clk + lat, hi := some (s.fresh.2.clk + lat), ready := true, wr, vs := wr.flatMap wrVreg, us := wr.flatMap wrUreg, counts := cs }
    simp only [h]; rfl

theorem addResult_mem (s : State) (x : Ctx) (r : Result) : { r with serial := x.serial } ∈ ((addResult s x r).at x).results := by
  obtain ⟨q, h⟩ := at_addResult s x r
  rw [h]
  simp

/-- A fixed-latency result with writes is among the crew's outstanding results. -/
theorem fixedResult_mem (s : State) (x : Ctx) (lat : Nat) (wr : List Wr) (cs : List Nat) (hw : wr ≠ []) :
    Leaves s (fixedResult s x lat wr cs) x lat wr cs := by
  have he : (wr.isEmpty && cs.isEmpty) = false := by cases wr <;> simp_all
  simp only [fixedResult, he, Bool.false_eq_true, if_false]
  exact ⟨_, addResult_mem _ _ _, rfl, rfl, rfl, rfl, rfl, rfl, rfl⟩

/-- A result with bounds and writes is among the crew's outstanding results. -/
theorem boundedResult_mem (s : State) (x : Ctx) (lo hi : Nat) (wr : List Wr) (cs : List Nat) (hw : wr ≠ []) :
    LeavesLong s (boundedResult s x lo hi wr cs) x lo hi wr cs := by
  have he : (wr.isEmpty && cs.isEmpty) = false := by cases wr <;> simp_all
  simp only [boundedResult, he, Bool.false_eq_true, if_false]
  exact ⟨_, addResult_mem _ _ _, rfl, rfl, rfl, rfl, rfl, rfl, rfl⟩

end Sys2Proof.Machine
end

