-- ==== Sys2Proof/Laws/Alu.lean ====
section
/-! SUPPORT. Laws/Alu.lean: what a word that only leaves a result does: its value, its frame. -/

namespace Sys2Proof.Machine

/-! ## Reading of the integer words -/

theorem ReadsAs.rdE {s s' : State} {x : Ctx} (h : ReadsAs s s' x) (imm : W64) (t : Nat) (o : Opd) (l : Nat) :
    rdE s' x imm t o l = Machine.rdE s x imm t o l := by
  cases o <;> simp only [Machine.rdE, h.rd]

theorem ReadsAs.rdN {s s' : State} {x : Ctx} (h : ReadsAs s s' x) (w : Op) (n : Nat) (o : Opd) (l : Nat) :
    rdN s' x w n o l = Machine.rdN s x w n o l := by
  simp only [Machine.rdN, h.rd64, h.rdE]

theorem ReadsAs.rdF {s s' : State} {x : Ctx} (h : ReadsAs s s' x) (imm : W64) (t : Nat) (o : Opd) (l : Nat) :
    rdF s' x imm t o l = Machine.rdF s x imm t o l := by
  cases o <;> simp only [Machine.rdF, h.rd]

/-! ## Writes -/

theorem wrOf_ne_nil {x : Ctx} (hx : x.on ≠ 0) (comp : Bool) {d : Opd} (hd : Opd.writes d = true) (val : Nat → W32) :
    wrOf x comp d val ≠ [] := by
  have h0 : (x.on == 0) = false := by simpa using hx
  cases d <;> simp_all [wrOf, Opd.writes]
  split <;> simp

theorem wrN_ne_nil {x : Ctx} (hx : x.on ≠ 0) (comp : Bool) {d : Opd} (hd : Opd.writes d = true) (n : Nat) (val : Nat → Nat) :
    wrN x comp d n val ≠ [] := by
  unfold wrN
  split
  · have hd' : Opd.writes (nextReg d 0) = true := by cases d <;> simp_all [nextReg, Opd.writes]
    intro h
    simp only [wr64, wrRun, List.range_succ, List.range_zero, List.nil_append, List.flatMap_append, List.flatMap_cons, List.flatMap_nil,
      List.append_nil, List.append_eq_nil_iff] at h
    exact wrOf_ne_nil hx comp hd' _ h.1
  · exact wrOf_ne_nil hx comp hd _

/-! ## What ending a word keeps -/

theorem val_expand (e : VEntry) {l : Nat} (hl : l < 32) : e.expand.val l = e.val l := by
  cases e with
  | no => rfl
  | row t => rfl
  | comp v =>
    simp only [VEntry.expand, VEntry.val]
    have key : ∀ (a n : Nat), a ≤ l → l < a + n → tget (0 : W32) ((List.range' a n).map (fun i => (i, v))) l = v := by
      intro a n
      induction n generalizing a with
      | zero => intro h1 h2; omega
      | succ n ih =>
        intro h1 h2
        simp only [List.range'_succ, List.map_cons, tget]
        split
        · rfl
        · exact ih (a + 1) (by omega) (by omega)
    rw [List.range_eq_range']
    exact key 0 32 (Nat.zero_le _) (by omega)

theorem ent_vent (k : Crew) (v : Tab VEntry) (n : Nat) : ({ k with vent := v } : Crew).ent n = tget .no v n := rfl

theorem val_takeRows (k : Crew) (regs : List Nat) (n : Nat) {l : Nat} (hl : l < 32) :
    ((takeRows k regs).ent n).val l = (k.ent n).val l := by
  unfold takeRows
  induction regs generalizing k with
  | nil => rfl
  | cons a t ih =>
    rw [List.foldl_cons, ih]
    split
    · rfl
    · by_cases h : n = a
      · subst h
        simp only [Crew.ent, tget_tset_same]
        exact val_expand _ hl
      · simp [Crew.ent, h]

theorem val_releaseLast (k : Crew) (m n : Nat) (h : n ≠ m) (l : Nat) : ((releaseLast k m).ent n).val l = (k.ent n).val l := by
  simp only [releaseLast]
  split
  · simp [dropEnt, Crew.ent, h]
  · rfl

theorem val_foldl_releaseLast (regs : List Nat) (k : Crew) (n : Nat) (h : n ∉ regs) (l : Nat) :
    ((regs.foldl releaseLast k).ent n).val l = (k.ent n).val l := by
  induction regs generalizing k with
  | nil => rfl
  | cons a t ih =>
    simp only [List.mem_cons, not_or] at h
    rw [List.foldl_cons, ih _ h.2, val_releaseLast _ _ _ h.1]

/-- Ending a word keeps every register but those it releases. -/
theorem keeps_settleRows (x : Ctx) (p : Pre) (old k : Crew) :
    KeepsCrew k (settleRows x p old k) (lastRegs x.h p.w p.ra p.rb p.rc ++ p.last) := by
  constructor
  · intro n hn l hl
    obtain ⟨a, ha⟩ : ∃ a, ageAll x p.w.a old (faulted old k x.on) k = { k with latch := a } := by
      unfold ageAll
      split
      · exact foldl_ageLatches _ _ _ _
      · exact ⟨_, rfl⟩
    have hv : ((lastAll x p (faulted old k x.on) { k with latch := a }).ent n).val l = (k.ent n).val l := by
      unfold lastAll
      split
      · exact val_foldl_releaseLast _ { k with latch := a } n hn l
      · rfl
    simp only [settleRows, ha]
    split
    · exact hv
    · rw [val_takeRows _ _ _ hl]; exact hv
  · obtain ⟨a, v, r, q, h⟩ := settleRows_rest x p old k
    rw [h]

theorem KeepsCrew.refl (k : Crew) (last : List Nat) : KeepsCrew k k last := ⟨fun _ _ _ _ => rfl, rfl⟩

theorem KeepsCrew.trans {k k' k'' : Crew} {last : List Nat} (h : KeepsCrew k k' last) (g : KeepsCrew k' k'' last) :
    KeepsCrew k k'' last := by
  refine ⟨fun n hn l hl => (g.v n hn l hl).trans (h.v n hn l hl), ?_⟩
  have h1 := h.rest
  rw [← g.rest] at h1
  exact h1

theorem keeps_begun (s : State) (p : Pre) (x : Ctx) (last : List Nat) : KeepsCrew (s.at x) ((begun s p x []).at x) last := by
  obtain ⟨t, h, _⟩ := at_begun s p x
  rw [h]
  exact ⟨fun _ _ _ _ => rfl, rfl⟩

theorem keeps_addResult (s : State) (x : Ctx) (r : Result) (last : List Nat) : KeepsCrew (s.at x) ((addResult s x r).at x) last := by
  obtain ⟨q, h⟩ := at_addResult s x r
  rw [h]
  exact ⟨fun _ _ _ _ => rfl, rfl⟩

theorem keeps_fixedResult (s : State) (x : Ctx) (lat : Nat) (wr : List Wr) (cs : List Nat) (last : List Nat) :
    KeepsCrew (s.at x) ((fixedResult s x lat wr cs).at x) last := by
  unfold fixedResult
  split
  · exact KeepsCrew.refl _ _
  · exact keeps_addResult s.fresh.2 x _ last

theorem keeps_boundedResult (s : State) (x : Ctx) (lo hi : Nat) (wr : List Wr) (cs : List Nat) (last : List Nat) :
    KeepsCrew (s.at x) ((boundedResult s x lo hi wr cs).at x) last := by
  unfold boundedResult
  split
  · exact KeepsCrew.refl _ _
  · exact keeps_addResult s.fresh.2 x _ last

theorem pcOf_boundedResult (s : State) (x : Ctx) (lo hi : Nat) (wr : List Wr) (cs : List Nat) (l : Nat) :
    ((boundedResult s x lo hi wr cs).at x).pcOf l = (s.at x).pcOf l := by
  have h := (keeps_boundedResult s x lo hi wr cs []).rest
  unfold boundedResult
  split
  · rfl
  · obtain ⟨q, e⟩ := at_addResult s.fresh.2 x { id := s.fresh.1, serial := x.serial, lo := s.fresh.2.clk + lo, hi := some (s.fresh.2.clk + hi), ready := true, wr, vs := wr.flatMap wrVreg, us := wr.flatMap wrUreg, counts := cs }
    simp only [e]; rfl

theorem OnlyResult.ended {s t : State} {p : Pre} {x : Ctx}
    (h1 : OnlyCrew (begun s p x []) t x) (h2 : KeepsCrew ((begun s p x []).at x) (t.at x) (lastRegs x.h p.w p.ra p.rb p.rc ++ p.last))
    (h3 : ∀ l, (t.at x).pcOf l = ((begun s p x []).at x).pcOf l) :
    OnlyResult s (ended p x (s.at x) t) x (lastRegs x.h p.w p.ra p.rb p.rc ++ p.last) := by
  refine ⟨((OnlyCrew.begun s p x).trans h1).trans (OnlyCrew.ended _ p x _), ?_, ?_⟩
  · rw [at_ended]
    exact ((keeps_begun s p x _).trans h2).trans (keeps_settleRows x p _ _)
  · intro l
    rw [pcOf_ended, h3]
    obtain ⟨q, h, hp⟩ := at_begun s p x
    rw [h]
    exact hp l

theorem leaves_ended {s t : State} {p : Pre} {x : Ctx} {lat : Nat} {wr : List Wr} {cs : List Nat} {old : Crew}
    (h : Leaves (begun s p x []) t x lat wr cs) : Leaves s (ended p x old t) x lat wr cs := by
  obtain ⟨r, hr, h'⟩ := h
  exact ⟨r, by rwa [results_ended], h'⟩

theorem leavesLong_ended {s t : State} {p : Pre} {x : Ctx} {lo hi : Nat} {wr : List Wr} {cs : List Nat} {old : Crew}
    (h : LeavesLong (begun s p x []) t x lo hi wr cs) : LeavesLong s (ended p x old t) x lo hi wr cs := by
  obtain ⟨r, hr, h'⟩ := h
  exact ⟨r, by rwa [results_ended], h'⟩

/-- A word whose whole effect is a fixed-latency result. -/
theorem issue_fixedResult {s : State} {p : Pre} {x : Ctx} (h : Issues s p.w p.dst p.comp x) (lat : Nat) (wr : State → List Wr)
    (cs : State → List Nat) (hne : wr (begun s p x []) ≠ []) {body : Ctx → State → State}
    (hb : body x (begun s p x []) = fixedResult (begun s p x []) x lat (wr (begun s p x [])) (cs (begun s p x []))) :
    ∃ t, issue s p body = .next t ∧ Leaves s t x lat (wr (begun s p x [])) (cs (begun s p x [])) ∧
      OnlyResult s t x (lastRegs x.h p.w p.ra p.rb p.rc ++ p.last) := by
  refine ⟨_, issue_next h body, ?_, ?_⟩
  · rw [hb]; exact leaves_ended (fixedResult_mem _ x lat _ _ hne)
  · rw [hb]
    exact OnlyResult.ended (OnlyCrew.fixedResult _ x lat _ _) (keeps_fixedResult _ x lat _ _ _) (pcOf_fixedResult _ x lat _ _)

/-- A word whose whole effect is a result with bounds. -/
theorem issue_boundedResult {s : State} {p : Pre} {x : Ctx} (h : Issues s p.w p.dst p.comp x) (lo hi : Nat) (wr : State → List Wr)
    (cs : State → List Nat) (hne : wr (begun s p x []) ≠ []) {body : Ctx → State → State}
    (hb : body x (begun s p x []) = boundedResult (begun s p x []) x lo hi (wr (begun s p x [])) (cs (begun s p x []))) :
    ∃ t, issue s p body = .next t ∧ LeavesLong s t x lo hi (wr (begun s p x [])) (cs (begun s p x [])) ∧
      OnlyResult s t x (lastRegs x.h p.w p.ra p.rb p.rc ++ p.last) := by
  refine ⟨_, issue_next h body, ?_, ?_⟩
  · rw [hb]; exact leavesLong_ended (boundedResult_mem _ x lo hi _ _ hne)
  · rw [hb]
    exact OnlyResult.ended (OnlyCrew.boundedResult _ x lo hi _ _) (keeps_boundedResult _ x lo hi _ _ _) (pcOf_boundedResult _ x lo hi _ _)

/-- A word that computes each lane's value from its sources. -/
theorem laneWord_next {w : Op} {n : Widths} {lat : Nat} {f : Ctx → State → Nat → Nat → Nat → Nat → Nat} {s : State} {comp : Bool} {x : Ctx}
    (h : Issues s w (vdst w.d n.d) comp x) (hd : Opd.writes w.d = true)
    (hf : ∀ s', ReadsAs s s' x → ∀ l a b c, f x s' l a b c = f x s l a b c) :
    ∃ t, laneWord w n lat f s comp = .next t ∧
      Leaves s t x lat (wrN x comp w.d n.d (fun l => f x s l (rdN s x w n.a w.a l) (rdN s x w n.b w.b l) (rdN s x w n.c w.c l))) ∧
      OnlyResult s t x (lastRegs x.h w n.a n.b n.c) := by
  let p : Pre := { w, ra := n.a, rb := n.b, rc := n.c, dst := vdst w.d n.d, comp }
  have hr := readsAs_begun s p x
  obtain ⟨t, h1, h2, h3⟩ := issue_fixedResult (p := p) h lat
    (fun s => wrN x comp w.d n.d (fun l => f x s l (rdN s x w n.a w.a l) (rdN s x w n.b w.b l) (rdN s x w n.c w.c l)))
    (fun _ => []) (wrN_ne_nil h.on comp hd _ _)
    (body := fun x s => fixedResult s x lat (wrN x comp w.d n.d (fun l =>
      f x s l (rdN s x w n.a w.a l) (rdN s x w n.b w.b l) (rdN s x w n.c w.c l)))) rfl
  refine ⟨t, h1, ?_, ?_⟩
  · simpa only [hr.rdN, hf _ hr] using h2
  · simpa only [List.append_nil, p] using h3

/-- A word whose value is a function of TYPE, M and its sources. -/
theorem fnWord_next {w : Op} {n : Widths} {lat : Nat} {f : LaneFn} {s : State} {x : Ctx}
    (h : Issues s w (vdst w.d n.d) (uniformProducing w) x) (hd : Opd.writes w.d = true) :
    ∃ t, fnWord w n lat f s = .next t ∧
      Leaves s t x lat (wrN x (uniformProducing w) w.d n.d (fun l =>
        f w.ty w.m false (rdN s x w n.a w.a l) (rdN s x w n.b w.b l) (rdN s x w n.c w.c l))) ∧
      OnlyResult s t x (lastRegs x.h w n.a n.b n.c) :=
  laneWord_next h hd (fun _ _ _ _ _ _ => rfl)

/-- A word of `laneWord` gives its value. -/
theorem gives_lane {i : Instr} {w : Op} {n : Widths} {lat : Nat} {f : Ctx → State → Nat → Nat → Nat → Nat → Nat} {s : State} {comp : Bool}
    {x : Ctx} {value : Nat → Nat → Nat → Nat → Nat → Prop} (h : Ready s x w n comp) (hi : exec i s = laneWord w n lat f s comp)
    (hf : ∀ s', ReadsAs s s' x → ∀ l a b c, f x s' l a b c = f x s l a b c)
    (hv : ∀ l ∈ lanesOf x.on, value l (rdN s x w n.a w.a l) (rdN s x w n.b w.b l) (rdN s x w n.c w.c l)
      (f x s l (rdN s x w n.a w.a l) (rdN s x w n.b w.b l) (rdN s x w n.c w.c l))) : Gives i s x w n lat comp value := by
  obtain ⟨t, h1, h2, h3⟩ := laneWord_next (lat := lat) (f := f) h.2 h.1 hf
  exact ⟨t, _, hi.trans h1, h2, hv, h3⟩

/-- A word of `fnWord` gives its value. -/
theorem gives_fn {i : Instr} {w : Op} {n : Widths} {lat : Nat} {f : LaneFn} {s : State} {x : Ctx}
    {value : Nat → Nat → Nat → Nat → Nat → Prop} (h : Ready s x w n (uniformProducing w)) (hi : exec i s = fnWord w n lat f s)
    (hv : ∀ l ∈ lanesOf x.on, value l (rdN s x w n.a w.a l) (rdN s x w n.b w.b l) (rdN s x w n.c w.c l)
      (f w.ty w.m false (rdN s x w n.a w.a l) (rdN s x w n.b w.b l) (rdN s x w n.c w.c l))) :
    Gives i s x w n lat (uniformProducing w) value :=
  gives_lane h hi (fun _ _ _ _ _ _ => rfl) hv

end Sys2Proof.Machine
end

