-- ==== Sys2Proof/Laws/Float.lean ====
section
/-! SUPPORT. Laws/Float.lean: what a floating-point word does: its values, its flags, its frame. -/

namespace Sys2Proof.Machine

theorem tget_map {α : Type} (d : α) (ls : List Nat) (f : Nat → α) {l : Nat} (h : l ∈ ls) : tget d (ls.map (fun l => (l, f l))) l = f l := by
  induction ls with
  | nil => cases h
  | cons a t ih =>
    simp only [List.map_cons, tget]
    split
    · subst_vars; rfl
    · rename_i hne
      exact ih (by rcases List.mem_cons.1 h with rfl | h; exact absurd rfl hne; exact h)

theorem lanesOf_ne_nil {m : Mask} (h : m ≠ 0) : lanesOf m ≠ [] := by
  intro e
  apply h
  rw [← maskOf_lanesOf m, e, maskOf_nil]

theorem low_mem {x : Ctx} (h : x.on ≠ 0) : x.low ∈ lanesOf x.on := by
  unfold Ctx.low
  have := lanesOf_ne_nil h
  cases he : lanesOf x.on with
  | nil => exact absurd he this
  | cons a t => simp

/-- The writes depend on the values of the executing lanes alone. -/
theorem wrOf_congr {x : Ctx} (hx : x.on ≠ 0) (comp : Bool) (d : Opd) {f g : Nat → W32} (h : ∀ l ∈ lanesOf x.on, f l = g l) :
    wrOf x comp d f = wrOf x comp d g := by
  have h0 : (x.on == 0) = false := by simpa using hx
  have hl := h _ (low_mem hx)
  cases d with
  | v n =>
    simp only [wrOf, h0, Bool.false_eq_true, if_false, hl]
    split
    · rfl
    · rw [List.map_congr_left (fun l hl' => by rw [h l hl'])]
  | sp n =>
    simp only [wrOf, h0, Bool.false_eq_true, if_false]
    rw [List.filter_congr (fun l hl' => by rw [h l hl'])]
  | u n => simp only [wrOf, h0, Bool.false_eq_true, if_false, hl]
  | no => rfl
  | im n => rfl
  | ext => rfl

theorem wrN_congr {x : Ctx} (hx : x.on ≠ 0) (comp : Bool) (d : Opd) (n : Nat) {f g : Nat → Nat} (h : ∀ l ∈ lanesOf x.on, f l = g l) :
    wrN x comp d n f = wrN x comp d n g := by
  unfold wrN
  split
  · unfold wr64 wrRun
    congr 1
    funext i
    exact wrOf_congr hx comp _ (fun l hl => by simp only [h l hl])
  · exact wrOf_congr hx comp d (fun l hl => by simp only [h l hl])

/-- A uniform destination takes the value of the lowest executing lane. -/
theorem wrN_uniform {x : Ctx} (comp : Bool) {d : Opd} (hd : isU d = true) (n : Nat) {f g : Nat → Nat} (h : f x.low = g x.low) :
    wrN x comp d n f = wrN x comp d n g := by
  cases d <;> simp_all [isU]
  unfold wrN
  split
  · simp only [wr64, wrRun, nextReg, wrOf, h]
  · simp only [wrOf, h]

theorem env_begun (s : State) (p : Pre) (x : Ctx) : ((begun s p x []).at x).env = (s.at x).env ∧
    ((begun s p x []).at x).flOn = (s.at x).flOn ∧ ((begun s p x []).at x).cntOn = (s.at x).cntOn := by
  obtain ⟨t, h, _⟩ := at_begun s p x
  rw [h]
  exact ⟨rfl, rfl, rfl⟩

/-- A float word leaves its values and flags, with a fixed latency or within bounds. -/
theorem floatWord_next {w : Op} {base wd wa : Nat} {lat : FLat} {comp : Bool} {val : Ctx → State → FpEnv → Nat → FRes} {s : State} {x : Ctx}
    (h : Issues s w (vdst w.d wd) comp x) (hd : Opd.writes w.d = true)
    (hv : ∀ s', ReadsAs s s' x → ∀ v l, val x s' v l = val x s v l) :
    ∃ t, floatWord w base lat wd wa comp val s = .next t ∧
      (match lat with
        | .fixed n => Leaves s t x n (floatWrites x comp w.d wd (s.at x).flOn (fun l => val x s (s.at x).env l))
            (floatCounts x w.d (s.at x).cntOn (fun l => val x s (s.at x).env l))
        | .long lo hi => LeavesLong s t x lo hi (floatWrites x comp w.d wd (s.at x).flOn (fun l => val x s (s.at x).env l))
            (floatCounts x w.d (s.at x).cntOn (fun l => val x s (s.at x).env l))) ∧
      OnlyResult s t x (lastRegs x.h w wa 1 1) := by
  let p : Pre := { w, ra := wa, dst := vdst w.d wd, comp, base }
  have hr := readsAs_begun s p x
  obtain ⟨he, hf, hc⟩ := env_begun s p x
  have h0 : (x.on == 0) = false := by simpa using h.on
  have hwr : ∀ (v : Nat → FRes) (on : Bool),
      wrN x comp w.d wd (fun l => (tget ({ val := 0 } : FRes) ((if isU w.d then [x.low] else lanesOf x.on).map (fun l => (l, v l))) l).val) ++
        flWr on ((lanesOf x.on).map (fun l => (l, (tget ({ val := 0 } : FRes) ((if isU w.d then [x.low] else lanesOf x.on).map (fun l => (l, v l)))
          (if isU w.d then x.low else l)).fl))) = floatWrites x comp w.d wd on v := by
    intro v on
    unfold floatWrites
    cases hu : isU w.d with
    | true =>
      simp only [if_true]
      rw [wrN_uniform comp hu wd (g := fun l => (v l).val) (by simp [tget])]
      simp [tget]
    | false =>
      simp only [Bool.false_eq_true, if_false]
      rw [wrN_congr h.on comp w.d wd (g := fun l => (v l).val) (fun l hl => by rw [tget_map _ _ _ hl])]
      rw [List.map_congr_left (fun l hl => by rw [tget_map _ _ _ hl])]
  have hne : floatWrites x comp w.d wd (s.at x).flOn (fun l => val x s (s.at x).env l) ≠ [] := by
    unfold floatWrites
    intro e
    exact wrN_ne_nil h.on comp hd _ _ (List.append_eq_nil_iff.1 e).1
  have hs : ∀ l, val x (begun s p x []) ((begun s p x []).at x).env l = val x s (s.at x).env l := fun l => by rw [hv _ hr, he]
  simp only [State.at] at hs hf he hc
  cases lat with
  | fixed n =>
    refine issue_fixedResult (p := p) h n (fun _ => floatWrites x comp w.d wd (s.at x).flOn (fun l => val x s (s.at x).env l))
      (fun _ => floatCounts x w.d (s.at x).cntOn (fun l => val x s (s.at x).env l))
      hne ?_ |>.imp fun t ht => ⟨ht.1, ht.2.1, by simpa only [List.append_nil, p] using ht.2.2⟩
    simp only [h0, Bool.false_eq_true, if_false, hs, hf, hc]
    rw [hwr, floatCounts, List.flatMap_map]
    rfl
  | long lo hi =>
    refine issue_boundedResult (p := p) h lo hi (fun _ => floatWrites x comp w.d wd (s.at x).flOn (fun l => val x s (s.at x).env l))
      (fun _ => floatCounts x w.d (s.at x).cntOn (fun l => val x s (s.at x).env l))
      hne ?_ |>.imp fun t ht => ⟨ht.1, ht.2.1, by simpa only [List.append_nil, p] using ht.2.2⟩
    simp only [h0, Bool.false_eq_true, if_false, hs, hf, hc]
    rw [hwr, floatCounts, List.flatMap_map]
    rfl

end Sys2Proof.Machine
end

