-- ==== Sys2Proof/Laws/Mem.lean ====
section
/-! SUPPORT. Laws/Mem.lean: what a memory word that starts does (R169, R184): the requests it makes, the result it opens,
the order it adds. -/

namespace Sys2Proof.Machine

/-! ## Requests -/

/-- What a request has from its word. -/
def Req.like (base q : Req) : Prop := q = { base with id := q.id, line := q.line, pieces := q.pieces, absent := q.absent }

theorem addReqs_fold (base : Req) (g : List (Nat × List Piece)) (ids : List Nat) (s : State) :
    ∃ new, g.foldl (fun (acc : List Nat × State) e =>
        (acc.1 ++ [acc.2.nextId], { acc.2 with reqs := acc.2.reqs ++ [lineReq acc.2 base e], nextId := acc.2.nextId + 1 })) (ids, s) =
      (ids ++ new.map (·.id), { s with reqs := s.reqs ++ new, nextId := s.nextId + g.length }) ∧
      new.map (fun q => (q.space, q.tgt, q.line, q.pieces)) = g.map (fun e => (base.space, base.tgt, e.1, e.2)) ∧
      (∀ q ∈ new, Req.like base q ∧ s.nextId ≤ q.id) := by
  induction g generalizing ids s with
  | nil => exact ⟨[], by simp, rfl, by simp⟩
  | cons e t ih =>
    obtain ⟨new, h1, h2, h3⟩ := ih (ids ++ [s.nextId]) { s with reqs := s.reqs ++ [lineReq s base e], nextId := s.nextId + 1 }
    refine ⟨lineReq s base e :: new, ?_, ?_, ?_⟩
    · rw [List.foldl_cons, h1]
      simp [lineReq, Nat.add_assoc, Nat.add_comm 1]
    · simp [h2, lineReq]
    · intro q hq
      rcases List.mem_cons.1 hq with rfl | hq
      · exact ⟨rfl, Nat.le_refl _⟩
      · exact ⟨(h3 q hq).1, Nat.le_of_succ_le (h3 q hq).2⟩

/-- The requests that a list of lines makes. -/
theorem addReqs_eq (s : State) (base : Req) (g : List (Nat × List Piece)) :
    ∃ new, addReqs s base g = (new.map (·.id), { s with reqs := s.reqs ++ new, nextId := s.nextId + g.length }) ∧
      new.map (fun q => (q.space, q.tgt, q.line, q.pieces)) = g.map (fun e => (base.space, base.tgt, e.1, e.2)) ∧
      (∀ q ∈ new, Req.like base q ∧ s.nextId ≤ q.id) := by
  obtain ⟨new, h1, h2, h3⟩ := addReqs_fold base g [] s
  exact ⟨new, by simpa [addReqs] using h1, h2, h3⟩

theorem wordReqs_fold (m : MemWord) (base : Req) (l : List LaneAcc) (gs : List (Nat × Nat)) (ids : List Nat) (s : State) :
    ∃ new n, gs.foldl (fun (acc : List Nat × State) t =>
        let r := addReqs acc.2 { base with space := t.1, tgt := t.2, stage := m.stage t.1 }
          (lineGroups m.each (l.filter (fun y => y.space == t.1 && y.tgt == t.2)))
        (acc.1 ++ r.1, r.2)) (ids, s) = (ids ++ new.map (·.id), { s with reqs := s.reqs ++ new, nextId := n }) ∧
      new.map (fun q => (q.space, q.tgt, q.line, q.pieces)) = gs.flatMap (fun g =>
        (lineGroups m.each (l.filter (fun y => y.space == g.1 && y.tgt == g.2))).map (fun e => (g.1, g.2, e.1, e.2))) ∧
      s.nextId ≤ n ∧ (∀ q ∈ new, Req.like { base with space := q.space, tgt := q.tgt, stage := m.stage q.space } q ∧ s.nextId ≤ q.id) := by
  induction gs generalizing ids s with
  | nil => exact ⟨[], s.nextId, by simp, rfl, Nat.le_refl _, by simp⟩
  | cons g t ih =>
    obtain ⟨n1, h1, h2, h3⟩ := addReqs_eq s { base with space := g.1, tgt := g.2, stage := m.stage g.1 }
      (lineGroups m.each (l.filter (fun y => y.space == g.1 && y.tgt == g.2)))
    obtain ⟨n2, k, h4, h5, h6, h7⟩ := ih (ids ++ n1.map (·.id))
      { s with reqs := s.reqs ++ n1, nextId := s.nextId + (lineGroups m.each (l.filter (fun y => y.space == g.1 && y.tgt == g.2))).length }
    refine ⟨n1 ++ n2, k, ?_, ?_, ?_, ?_⟩
    · rw [List.foldl_cons, h1, h4]
      simp
    · simp [h2, h5]
    · exact Nat.le_trans (Nat.le_add_right _ _) h6
    · intro q hq
      rcases List.mem_append.1 hq with hq | hq
      · obtain ⟨a, b⟩ := h3 q hq
        refine ⟨?_, b⟩
        have e1 : q.space = g.1 := by rw [a]
        have e2 : q.tgt = g.2 := by rw [a]
        rw [e1, e2]
        exact a
      · exact ⟨(h7 q hq).1, Nat.le_trans (Nat.le_add_right _ _) (h7 q hq).2⟩

/-- The requests of a word's accesses. -/
theorem wordReqs_eq (s : State) (m : MemWord) (base : Req) (l : List LaneAcc) :
    ∃ new n, wordReqs s m base l = (new.map (·.id), { s with reqs := s.reqs ++ new, nextId := n }) ∧
      new.map (fun q => (q.space, q.tgt, q.line, q.pieces)) = wordLines m.each l ∧
      s.nextId ≤ n ∧ (∀ q ∈ new, Req.like { base with space := q.space, tgt := q.tgt, stage := m.stage q.space } q ∧ s.nextId ≤ q.id) := by
  obtain ⟨new, n, h1, h2⟩ := wordReqs_fold m base l ((l.map (fun y => (y.space, y.tgt))).eraseDups) [] s
  exact ⟨new, n, by simpa [wordReqs] using h1, h2⟩

/-! ## Starting a word -/

theorem holdLast_eq (s : State) (x : Ctx) (p : Pre) (word : Nat) (clean : Bool) :
    ∃ f : Crew → Crew, (∀ k, ∃ t, f k = { k with lasts := t }) ∧ (holdLast s x p word clean = s ∨ holdLast s x p word clean = s.modCrew x.c x.k f) := by
  simp only [holdLast]
  split
  · exact ⟨_, fun k => ⟨_, rfl⟩, .inr rfl⟩
  · exact ⟨id, fun k => ⟨k.lasts, rfl⟩, .inl rfl⟩

theorem forLanes_zero (f : Nat → Crew → Crew) (k : Crew) : forLanes 0 f k = k := rfl

/-- What of a core decides whether a line is absent. -/
theorem absentLines_modCrew (s : State) (c k : Nat) (f : Crew → Crew) (t a n : Nat) :
    absentLines ((s.modCrew c k f).core t) a n = absentLines (s.core t) a n := by
  by_cases h : t = c
  · subst h; simp [absentLines, Core.modCrew, Core.setCrew, Core.present]
  · simp [h]

theorem absentLines_begun (s : State) (p : Pre) (x : Ctx) (t a n : Nat) :
    absentLines ((begun s p x []).core t) a n = absentLines (s.core t) a n := by
  by_cases h : t = x.c
  · subst h; simp [begun, absentLines, Core.modCrew, Core.setCrew, Core.present, holdSeat]
  · simp [begun, h]

/-- The state after a word's result has been opened. -/
theorem openFill_eq (s : State) (x : Ctx) (m : MemWord) (lanes : Mask) (c : Bool) (hl : m.long = true → lanes ≠ 0) :
    OnlyCrew s { (openFill s x m lanes c).2 with fills := s.fills } x ∧ (openFill s x m lanes c).2.reqs = s.reqs ∧
    s.nextId ≤ (openFill s x m lanes c).2.nextId ∧
    (∃ l, (openFill s x m lanes c).2.at x = { s.at x with results := l }) ∧
    (∀ t a n, absentLines ((openFill s x m lanes c).2.core t) a n = absentLines (s.core t) a n) ∧
    (m.long = true → (∃ r ∈ ((openFill s x m lanes c).2.at x).results, r.id = (openFill s x m lanes c).1 ∧ r.serial = x.serial ∧
        r.ready = false ∧ r.vs = vdst m.dst m.kind.regCount ∧ r.us = udst m.dst m.kind.regCount) ∧
      (openFill s x m lanes c).2.fills = s.fills ++
        [{ res := (openFill s x m lanes c).1, core := x.c, slot := x.k, uid := (s.at x).uid, kind := m.kind, dst := m.dst, lanes, comp := if c && x.whole && lanes == x.on then some lanes else none }]) ∧
    (m.long = false → openFill s x m lanes c = (0, s)) := by
  by_cases h : m.long = true
  · let r : Result := { id := s.nextId, serial := x.serial, lo := s.clk + 2, hi := none, ready := false, wr := []
                        vs := vdst m.dst m.kind.regCount, us := udst m.dst m.kind.regCount }
    let g : Fill := { res := s.nextId, core := x.c, slot := x.k, uid := (s.at x).uid, kind := m.kind, dst := m.dst, lanes, comp := if c && x.whole && lanes == x.on then some lanes else none }
    have hc : (m.long && lanes != 0) = true := by rw [h]; simpa using hl h
    have e : openFill s x m lanes c = (s.nextId, { addResult s.fresh.2 x r with fills := s.fills ++ [g] }) := by
      unfold openFill
      rw [if_pos hc]
      rfl
    rw [e]
    refine ⟨?_, rfl, ?_, ?_, ?_, ?_, ?_⟩
    · exact (OnlyCrew.fresh s x).trans (OnlyCrew.addResult s.fresh.2 x r)
    · exact Nat.le_succ _
    · obtain ⟨l, hl⟩ := at_addResult s.fresh.2 x r
      exact ⟨_, hl⟩
    · intro t a n
      exact absentLines_modCrew s.fresh.2 x.c x.k _ t a n
    · intro _
      exact ⟨⟨_, addResult_mem s.fresh.2 x r, rfl, rfl, rfl, rfl, rfl⟩, rfl⟩
    · intro h'; simp [h] at h'
  · have h' : m.long = false := by simpa using h
    have e : openFill s x m lanes c = (0, s) := by simp [openFill, h']
    rw [e]
    exact ⟨OnlyCrew.refl s x, rfl, Nat.le_refl _, ⟨_, rfl⟩, fun _ _ _ => rfl, fun h2 => absurd h2 h, fun _ => rfl⟩

theorem OnlyCrew.reqs {s t : State} {x : Ctx} (h : OnlyCrew s t x) (r : List Req) (f : List Fill) :
    OnlyCrew { s with reqs := r, fills := f } { t with reqs := r, fills := f } x := by
  obtain ⟨h1, h2, h3, h4⟩ := h
  refine ⟨?_, h2, h3, h4⟩
  have := congrArg (fun u : State => { u with reqs := r, fills := f }) h1
  exact this

/-- The order that a word adds. -/
theorem wordOrder_eq (s : State) (x : Ctx) (m : MemWord) (lanes : Mask) (before : Nat) (ids : List Nat) :
    OnlyCrew s (wordOrder s x m lanes before ids) x ∧ (wordOrder s x m lanes before ids).reqs = s.reqs ∧
    (wordOrder s x m lanes before ids).fills = s.fills ∧
    (wordOrder s x m lanes before ids).at x = { s.at x with ords := (s.at x).ords ++ if (m.rel || m.acq) && !ids.isEmpty then
      [{ rel := m.rel, acq := m.acq, scope := m.scope, lanes, before, after := .reqs ids, pc := x.pc, len := x.lenCode }] else [] } := by
  unfold wordOrder
  split
  · refine ⟨OnlyCrew.modCrew s x _, rfl, rfl, ?_⟩
    simp only [State.at, crew_modCrew_same]
  · refine ⟨OnlyCrew.refl s x, rfl, rfl, ?_⟩
    simp

/-- State `s0` is `s` with a word begun in it: its crew's PCs have moved on. -/
structure Begins (s s0 : State) (x : Ctx) : Prop where
  only : OnlyCrew s s0 x
  crew : ∃ t n, s0.at x = { s.at x with pc := t, since := n }
  moves : MovesOn s s0 x
  same : s0.reqs = s.reqs ∧ s0.fills = s.fills ∧ s0.nextId = s.nextId
  absent : ∀ t a n, absentLines (s0.core t) a n = absentLines (s.core t) a n

theorem begins_begun (s : State) (p : Pre) (x : Ctx) : Begins s (begun s p x []) x := by
  obtain ⟨t, k, h⟩ := at_begun s p x
  refine ⟨OnlyCrew.begun s p x, ⟨t, _, k⟩, ?_, ⟨rfl, rfl, rfl⟩, absentLines_begun s p x⟩
  intro l
  rw [k]
  exact h l

/-- A word whose accesses have passed their checks starts (R169, R184). -/
theorem startWord_asked {s s0 : State} {x : Ctx} {p : Pre} {m : MemWord} {l : List LaneAcc} (hx : x.on ≠ 0) (hs : Begins s s0 x)
    (hl : m.long = true → maskOf (l.map (·.lane)) ||| m.zero ≠ 0)
    (ha : ∀ y ∈ l, y.space = 1 → absentLines (s.core y.tgt) y.addr y.n = []) (clean : Bool) :
    ∃ u res, startWord s0 x p m clean l = closeFill (pump u x.c) res ∧ Asked s u x m res l p.comp := by
  obtain ⟨f, hf, hh⟩ := holdLast_eq s0.fresh.2 x p s0.nextId clean
  generalize hs1 : holdLast s0.fresh.2 x p s0.nextId clean = s1 at hh
  -- the state with the last reads held back
  have k1 : ∃ t, s1.at x = { s0.at x with lasts := t } := by
    rcases hh with e | e
    · exact ⟨_, by rw [e]; rfl⟩
    · obtain ⟨t, ht⟩ := hf (s0.fresh.2.crew x.c x.k)
      exact ⟨t, by rw [e]; simp only [State.at, crew_modCrew_same, ht]; rfl⟩
  have o1 : OnlyCrew s0 s1 x := by
    rcases hh with e | e
    · rw [e]; exact OnlyCrew.fresh _ x
    · rw [e]; exact (OnlyCrew.fresh _ x).trans (OnlyCrew.modCrew _ x f)
  have r1 : s1.reqs = s.reqs ∧ s1.fills = s.fills ∧ s1.nextId = s.nextId + 1 := by
    obtain ⟨b1, b2, b3⟩ := hs.same
    rcases hh with e | e <;> rw [e] <;> exact ⟨b1, b2, congrArg (· + 1) b3⟩
  have a1 : ∀ t a n, absentLines (s1.core t) a n = absentLines (s.core t) a n := by
    intro t a n
    rcases hh with e | e
    · rw [e]; exact hs.absent t a n
    · rw [e, absentLines_modCrew]; exact hs.absent t a n
  obtain ⟨o2, q2, n2, ⟨res2, k2⟩, a2, L, P⟩ := openFill_eq s1 x m _ p.comp hl
  generalize ho : openFill s1 x m (maskOf (l.map (·.lane)) ||| m.zero) p.comp = o at o2 q2 n2 k2 a2 L P
  have hw : ∀ y ∈ l, accWaits o.2 y = false := by
    intro y hy
    unfold accWaits
    by_cases h1 : y.space = 1
    · rw [a2, a1, ha y hy h1]; simp
    · simp [h1]
  have hstop : l.filter (accWaits o.2) = [] := by
    rw [List.filter_eq_nil_iff]; intro y hy; simp [hw y hy]
  have hgo : l.filter (fun y => !(accWaits o.2 y)) = l := by
    rw [List.filter_eq_self]; intro y hy; simp [hw y hy]
  obtain ⟨new, n, w1, w2, w3, w4⟩ := wordReqs_eq o.2 m (wordBase o.2 x m s0.nextId o.1) l
  let v : State := { o.2 with reqs := o.2.reqs ++ new, nextId := n }
  let v' : State := v.modCrew x.c x.k (fun k => k)
  refine ⟨wordOrder v' x m (maskOf (l.map (·.lane)) ||| m.zero) o.2.nextId (new.map (·.id)), o.1, ?_, ?_⟩
  · have h0 : (x.on == 0) = false := by simpa using hx
    unfold startWord
    simp only [h0, Bool.false_eq_true, if_false, hs1, ho, hstop, hgo, w1, absentReqs, List.foldl_nil, List.append_nil, List.isEmpty_nil,
      if_true]
    rfl
  · have hv : v'.at x = o.2.at x := by simp only [State.at, v', crew_modCrew_same]; rfl
    have ov : OnlyCrew o.2 { v' with reqs := o.2.reqs } x :=
      (OnlyCrew.modCrew o.2 x (fun k => k)).trans ⟨rfl, fun _ _ => rfl, rfl, fun _ _ => rfl⟩
    obtain ⟨y1, y2, y3, y4⟩ := wordOrder_eq v' x m (maskOf (l.map (·.lane)) ||| m.zero) o.2.nextId (new.map (·.id))
    generalize wordOrder v' x m (maskOf (l.map (·.lane)) ||| m.zero) o.2.nextId (new.map (·.id)) = u at y1 y2 y3 y4
    obtain ⟨t1, k1⟩ := k1
    obtain ⟨t0, n0, k0⟩ := hs.crew
    have ku : u.at x = { s.at x with
        pc := t0, since := n0, lasts := t1, results := res2, ords := (u.at x).ords } := by
      rw [y4, hv, k2, k1, k0]
    have hords : (u.at x).ords = (s.at x).ords ++ (if (m.rel || m.acq) && !(new.map (·.id)).isEmpty then
        [{ rel := m.rel, acq := m.acq, scope := m.scope, lanes := maskOf (l.map (·.lane)) ||| m.zero, before := o.2.nextId
           after := .reqs (new.map (·.id)), pc := x.pc, len := x.lenCode }] else []) := by
      rw [y4, hv, k2, k1, k0]
    have hu : (o.2.at x).results = (u.at x).results := by rw [ku, k2]
    have hr : u.reqs = s.reqs ++ new := by rw [y2]; show o.2.reqs ++ new = _; rw [q2, r1.1]
    have hf : u.fills = o.2.fills := y3
    constructor
    · have c2 := ((hs.only.reqs s.reqs s.fills).trans (o1.reqs s.reqs s.fills)).trans (o2.reqs s.reqs s.fills)
      have c3 := (ov.reqs s.reqs s.fills).trans (y1.reqs s.reqs s.fills)
      exact c2.trans c3
    · constructor
      · intro n _ l _; rw [ku]; rfl
      · rw [ku]
    · intro j
      have e : (u.at x).pcOf j = ({ s.at x with pc := t0, since := n0 } : Crew).pcOf j := by rw [ku]; rfl
      rw [e, ← hs.moves j, k0]
    · refine ⟨new, o.2.nextId, hr, w2, ?_, ?_, ?_⟩
      · have := r1.2.2; omega
      · intro z hz
        obtain ⟨e, hb⟩ := w4 z hz
        refine ⟨?_, hb⟩
        have kc : ∀ F : Crew → Nat, (∀ k a b c d e, F { k with pc := a, since := b, lasts := c, results := d, ords := e } = F k) → F (o.2.crew x.c x.k) = F (s.at x) := by
          intro F hF
          have e1 : F (o.2.at x) = F (s1.at x) := by
            rw [k2]; exact (hF (s1.at x) _ _ _ _ _)
          have e2 : F (s1.at x) = F (s0.at x) := by
            rw [k1]; exact (hF (s0.at x) _ _ _ _ _)
          have e3 : F (s0.at x) = F (s.at x) := by
            rw [k0]; exact (hF (s.at x) _ _ _ _ _)
          exact (e1.trans e2).trans e3
        constructor
        · refine ⟨by rw [e]; rfl, by rw [e]; rfl, ?_, ?_, ?_⟩
          · rw [e]; exact kc (·.uid) (fun _ _ _ _ _ _ => rfl)
          · rw [e]; exact kc (·.ctx) (fun _ _ _ _ _ _ => rfl)
          · rw [e]; exact kc (·.ts) (fun _ _ _ _ _ _ => rfl)
        · rw [e]; exact ⟨hs.same.2.2, rfl, rfl⟩
        · rw [e]; exact ⟨rfl, rfl, rfl, rfl, rfl⟩
        · rw [e]; exact ⟨rfl, rfl, rfl, rfl, rfl, rfl⟩
        · rw [e]; rfl
      · rw [hords]; simp
    · intro hlong
      obtain ⟨⟨r, z1, z2⟩, z3⟩ := L hlong
      refine ⟨⟨r, hu ▸ z1, z2⟩, ?_⟩
      rw [hf, z3, r1.2.1, k1, k0]
    · intro hlong
      have e := P hlong
      refine ⟨by rw [e], by rw [hf, e, r1.2.1], ?_⟩
      rw [← hu, e, k1, k0]

/-- A word whose last reads wait, or release nothing here, ends with latches and rows alone. -/
theorem endsAs_late {p : Pre} (h : p.late = true) (x : Ctx) (old : Crew) (u : State) : EndsAs u (ended p x old u) x := by
  refine ⟨OnlyCrew.ended u p x old, ?_, pcOf_ended u p x old, results_ended u p x old⟩
  rw [at_ended]
  have ha : ∀ bad k, ∃ a, ageAll x p.w.a old bad k = { k with latch := a } := by
    intro bad k
    unfold ageAll
    split
    · exact foldl_ageLatches _ _ _ _
    · exact ⟨_, rfl⟩
  constructor
  · intro n _ l hl
    obtain ⟨a, e⟩ := ha (faulted old (u.at x) x.on) (u.at x)
    simp only [settleRows, lastAll, h, e, Bool.not_true, Bool.false_and, Bool.false_eq_true, if_false]
    split
    · rfl
    · rw [val_takeRows _ _ _ hl]; rfl
  · obtain ⟨a, v, r, q, e⟩ := settleRows_rest x p old (u.at x)
    rw [e]

/-- A word that starts with accesses that have passed their checks. -/
theorem asks_start {i : Instr} {s : State} {p : Pre} {x : Ctx} {m : MemWord} {l : List LaneAcc} {clean : Bool} {body : Ctx → State → State}
    (h : Issues s p.w p.dst p.comp x) (hp : p.late = true) (hi : exec i s = issue s p body)
    (hb : body x (begun s p x []) = startWord (begun s p x []) x p m clean l) (hl : m.long = true → maskOf (l.map (·.lane)) ||| m.zero ≠ 0)
    (ha : ∀ y ∈ l, y.space = 1 → absentLines (s.core y.tgt) y.addr y.n = []) : Asks i s x m l p.comp := by
  obtain ⟨u, res, e, hu⟩ := startWord_asked (p := p) h.on (begins_begun s p x) hl ha clean
  exact ⟨u, res, _, by rw [hi, issue_next h body, hb, e], hu, endsAs_late hp x _ _⟩

theorem startChecked_ok (s : State) (x : Ctx) (p : Pre) (m : MemWord) (l : List LaneAcc) :
    startChecked s x p m (l.map .ok) = startWord s x p m true l := by
  have h1 : (l.map Step2.ok).filterMap Step2.fault = [] := by
    rw [List.filterMap_eq_nil_iff]; intro a ha; obtain ⟨y, _, rfl⟩ := List.mem_map.1 ha; rfl
  have h2 : (l.map Step2.ok).filterMap Step2.acc = l := by
    rw [List.filterMap_map]; exact List.filterMap_some
  unfold startChecked
  simp only [h1, h2, faultLanes, takeFaults_nil, List.isEmpty_nil]

end Sys2Proof.Machine
end

