-- ==== Sys2Proof/Laws/Notes.lean ====
section
/-! SUPPORT. Laws/Notes.lean: what queueing a note, a message or a request does, each said once. -/

namespace Sys2Proof.Machine

/-- A note takes a number and stands last; nothing else changes. -/
theorem sendNote_eq (s : State) (chip : Nat) (b : Body) :
    sendNote s chip b = { s with nextId := s.nextId + 1, notes := s.notes ++ [{ id := s.nextId, dst := chip, chip := s.chipid, body := b }] } := rfl

/-- A message of the mesh likewise. -/
theorem sendMsg_eq (s : State) (dst chip : Nat) (b : Body) (pkt : Bool) :
    sendMsg s dst chip b pkt = { s with nextId := s.nextId + 1, net := s.net ++ [{ id := s.nextId, dst, chip, body := b, pkt }] } := rfl

/-- Notes to several chips stand in their order, and only the notes and the numbers change. -/
theorem sendNotes_eq (f : Nat → Body) (l : List Nat) (s : State) :
    let t := l.foldl (fun s c => sendNote s c (f c)) s
    t = { s with nextId := s.nextId + l.length, notes := t.notes } ∧
      t.notes.map (fun m => (m.dst, m.chip, m.body)) = s.notes.map (fun m => (m.dst, m.chip, m.body)) ++ l.map (fun c => (c, s.chipid, f c)) := by
  induction l generalizing s with
  | nil => simp
  | cons c l ih =>
    obtain ⟨h, g⟩ := ih (sendNote s c (f c))
    refine ⟨?_, ?_⟩
    · rw [List.foldl_cons, h]
      simp [sendNote_eq, Nat.add_comm, Nat.add_left_comm]
    · rw [List.foldl_cons, g]
      simp [sendNote_eq]

/-- A changed request is the one that its number finds. -/
theorem findReq_setReq (s : State) (r : Req) : findReq (setReq s r) r.id = (findReq s r.id).map (fun _ => r) := by
  simp only [findReq, setReq]
  induction s.reqs with
  | nil => rfl
  | cons q l ih => by_cases h : q.id = r.id <;> simp_all

/-- The others stay as they were. -/
theorem findReq_setReq_ne (s : State) (r : Req) {id : Nat} (h : id ≠ r.id) : findReq (setReq s r) id = findReq s id := by
  simp only [findReq, setReq]
  induction s.reqs with
  | nil => rfl
  | cons q l ih =>
    rw [List.map_cons, List.find?_cons, List.find?_cons, ih]
    by_cases hq : q.id = r.id <;> simp [hq, beq_eq_false_iff_ne.2 (Ne.symm h)]

/-- Bytes that have come early are kept with their request; of the rest only the count of free values changes. -/
theorem setEarly_eq (s : State) (r : Req) (l : List (Nat × Byte)) (p : List Nat) :
    setEarly s r l p = { setReq s { r with early := l.foldl (fun t e => tset t e.1 e.2) r.early, poison := r.poison ++ p } with free := s.free + 1 } := rfl

end Sys2Proof.Machine
end

