-- ==== Sys2Proof/Laws/PerInstr.lean ====
section
/-! SUPPORT. Laws/PerInstr.lean: for each constructor of Instr, that an instruction of the opcode map has an opcode of
9 bits that is not PAIR's (R23, R36). -/

namespace Sys2Proof.Laws.Opcode

/-- The opcode of an instruction, where it has one, fits its field and is not that of a PAIR word. -/
def Statement (i : Instr) : Prop := ∀ o op, i.opcOp = some (o, op) → o < 512 ∧ o ≠ 0x1FE

theorem of_none {i : Instr} (h : i.opcOp = none) : Statement i := fun o op e => by rw [h] at e; cases e

theorem of_some {i : Instr} {o : Nat} {op : Op} (h : i.opcOp = some (o, op)) (b : o < 512 ∧ o ≠ 0x1FE) : Statement i := fun o' op' e => by
  rw [h] at e; cases e; exact b

theorem bra (w : Op) : Statement (.bra w) := of_some rfl (by decide)
theorem braFar (w : Op) : Statement (.braFar w) := of_some rfl (by decide)
theorem brc (w : Op) : Statement (.brc w) := of_some rfl (by decide)
theorem bru (w : Op) : Statement (.bru w) := of_some rfl (by decide)
theorem brx (w : Op) : Statement (.brx w) := of_some rfl (by decide)
theorem call (w : Op) : Statement (.call w) := of_some rfl (by decide)
theorem callFar (w : Op) : Statement (.callFar w) := of_some rfl (by decide)
theorem ret (w : Op) : Statement (.ret w) := of_some rfl (by decide)
theorem enrol (w : Op) : Statement (.enrol w) := of_some rfl (by decide)
theorem rejoin (w : Op) : Statement (.rejoin w) := of_some rfl (by decide)
theorem leave (w : Op) : Statement (.leave w) := of_some rfl (by decide)
theorem rollrd (w : Op) : Statement (.rollrd w) := of_some rfl (by decide)
theorem bart (w : Op) : Statement (.bart w) := of_some rfl (by decide)
theorem barc (w : Op) : Statement (.barc w) := of_some rfl (by decide)
theorem bara (w : Op) : Statement (.bara w) := of_some rfl (by decide)
theorem barw (w : Op) : Statement (.barw w) := of_some rfl (by decide)
theorem yield (w : Op) : Statement (.yield w) := of_some rfl (by decide)
theorem waitw (w : Op) : Statement (.waitw w) := of_some rfl (by decide)
theorem settile (w : Op) : Statement (.settile w) := of_some rfl (by decide)
theorem loopu (w : Op) : Statement (.loopu w) := of_some rfl (by decide)
theorem trapc (w : Op) : Statement (.trapc w) := of_some rfl (by decide)
theorem pair (w : PairOp) : Statement (.pair w) := of_none rfl
theorem iadd (w : Op) : Statement (.iadd w) := of_some rfl (by decide)
theorem isub (w : Op) : Statement (.isub w) := of_some rfl (by decide)
theorem imul (w : Op) : Statement (.imul w) := of_some rfl (by decide)
theorem imulh (w : Op) : Statement (.imulh w) := of_some rfl (by decide)
theorem imad (w : Op) : Statement (.imad w) := of_some rfl (by decide)
theorem imin (w : Op) : Statement (.imin w) := of_some rfl (by decide)
theorem imax (w : Op) : Statement (.imax w) := of_some rfl (by decide)
theorem iabs (w : Op) : Statement (.iabs w) := of_some rfl (by decide)
theorem ineg (w : Op) : Statement (.ineg w) := of_some rfl (by decide)
theorem andW (w : Op) : Statement (.andW w) := of_some rfl (by decide)
theorem orW (w : Op) : Statement (.orW w) := of_some rfl (by decide)
theorem xorW (w : Op) : Statement (.xorW w) := of_some rfl (by decide)
theorem notW (w : Op) : Statement (.notW w) := of_some rfl (by decide)
theorem shl (w : Op) : Statement (.shl w) := of_some rfl (by decide)
theorem shr (w : Op) : Statement (.shr w) := of_some rfl (by decide)
theorem shra (w : Op) : Statement (.shra w) := of_some rfl (by decide)
theorem rot (w : Op) : Statement (.rot w) := of_some rfl (by decide)
theorem popc (w : Op) : Statement (.popc w) := of_some rfl (by decide)
theorem clz (w : Op) : Statement (.clz w) := of_some rfl (by decide)
theorem brev (w : Op) : Statement (.brev w) := of_some rfl (by decide)
theorem bfx (w : Op) : Statement (.bfx w) := of_some rfl (by decide)
theorem bfi (w : Op) : Statement (.bfi w) := of_some rfl (by decide)
theorem prmb (w : Op) : Statement (.prmb w) := of_some rfl (by decide)
theorem sel (w : Op) : Statement (.sel w) := of_some rfl (by decide)
theorem icmp (w : Op) : Statement (.icmp w) := of_some rfl (by decide)
theorem iset (w : Op) : Statement (.iset w) := of_some rfl (by decide)
theorem lea (w : Op) : Statement (.lea w) := of_some rfl (by decide)
theorem add64 (w : Op) : Statement (.add64 w) := of_some rfl (by decide)
theorem sub64 (w : Op) : Statement (.sub64 w) := of_some rfl (by decide)
theorem mad64 (w : Op) : Statement (.mad64 w) := of_some rfl (by decide)
theorem mov (w : Op) : Statement (.mov w) := of_some rfl (by decide)
theorem movi (w : Op) : Statement (.movi w) := of_some rfl (by decide)
theorem vbcast (w : Op) : Statement (.vbcast w) := of_some rfl (by decide)
theorem v2s (w : Op) : Statement (.v2s w) := of_some rfl (by decide)
theorem pand (w : Op) : Statement (.pand w) := of_some rfl (by decide)
theorem por (w : Op) : Statement (.por w) := of_some rfl (by decide)
theorem pxor (w : Op) : Statement (.pxor w) := of_some rfl (by decide)
theorem pnot (w : Op) : Statement (.pnot w) := of_some rfl (by decide)
theorem p2v (w : Op) : Statement (.p2v w) := of_some rfl (by decide)
theorem v2p (w : Op) : Statement (.v2p w) := of_some rfl (by decide)
theorem shfl (w : Op) : Statement (.shfl w) := of_some rfl (by decide)
theorem vote (w : Op) : Statement (.vote w) := of_some rfl (by decide)
theorem redx (w : Op) : Statement (.redx w) := of_some rfl (by decide)
theorem scanx (w : Op) : Statement (.scanx w) := of_some rfl (by decide)
theorem matchW (w : Op) : Statement (.matchW w) := of_some rfl (by decide)
theorem ffl (w : Op) : Statement (.ffl w) := of_some rfl (by decide)
theorem umov (w : Op) : Statement (.umov w) := of_some rfl (by decide)
theorem uloop (w : Op) : Statement (.uloop w) := of_some rfl (by decide)
theorem ucmp (w : Op) : Statement (.ucmp w) := of_some rfl (by decide)
theorem uand (w : Op) : Statement (.uand w) := of_some rfl (by decide)
theorem fadd (w : Op) : Statement (.fadd w) := of_some rfl (by decide)
theorem fsub (w : Op) : Statement (.fsub w) := of_some rfl (by decide)
theorem fmul (w : Op) : Statement (.fmul w) := of_some rfl (by decide)
theorem ffma (w : Op) : Statement (.ffma w) := of_some rfl (by decide)
theorem fmin (w : Op) : Statement (.fmin w) := of_some rfl (by decide)
theorem fmax (w : Op) : Statement (.fmax w) := of_some rfl (by decide)
theorem fminm (w : Op) : Statement (.fminm w) := of_some rfl (by decide)
theorem fmaxm (w : Op) : Statement (.fmaxm w) := of_some rfl (by decide)
theorem fabs (w : Op) : Statement (.fabs w) := of_some rfl (by decide)
theorem fneg (w : Op) : Statement (.fneg w) := of_some rfl (by decide)
theorem fcpys (w : Op) : Statement (.fcpys w) := of_some rfl (by decide)
theorem fcmp (w : Op) : Statement (.fcmp w) := of_some rfl (by decide)
theorem fclass (w : Op) : Statement (.fclass w) := of_some rfl (by decide)
theorem frnd (w : Op) : Statement (.frnd w) := of_some rfl (by decide)
theorem fscale (w : Op) : Statement (.fscale w) := of_some rfl (by decide)
theorem ffrx (w : Op) : Statement (.ffrx w) := of_some rfl (by decide)
theorem cvtf (w : Op) : Statement (.cvtf w) := of_some rfl (by decide)
theorem cvti (w : Op) : Statement (.cvti w) := of_some rfl (by decide)
theorem cvtfi (w : Op) : Statement (.cvtfi w) := of_some rfl (by decide)
theorem packb (w : Op) : Statement (.packb w) := of_some rfl (by decide)
theorem unpkb (w : Op) : Statement (.unpkb w) := of_some rfl (by decide)
theorem sclx (w : Op) : Statement (.sclx w) := of_some rfl (by decide)
theorem exp2 (w : Op) : Statement (.exp2 w) := of_some rfl (by decide)
theorem log2 (w : Op) : Statement (.log2 w) := of_some rfl (by decide)
theorem rcp (w : Op) : Statement (.rcp w) := of_some rfl (by decide)
theorem rsq (w : Op) : Statement (.rsq w) := of_some rfl (by decide)
theorem sqrt (w : Op) : Statement (.sqrt w) := of_some rfl (by decide)
theorem sin (w : Op) : Statement (.sin w) := of_some rfl (by decide)
theorem cos (w : Op) : Statement (.cos w) := of_some rfl (by decide)
theorem tanh (w : Op) : Statement (.tanh w) := of_some rfl (by decide)
theorem sigm (w : Op) : Statement (.sigm w) := of_some rfl (by decide)
theorem erf (w : Op) : Statement (.erf w) := of_some rfl (by decide)
theorem divf (w : Op) : Statement (.divf w) := of_some rfl (by decide)
theorem divi (w : Op) : Statement (.divi w) := of_some rfl (by decide)
theorem flrd (w : Op) : Statement (.flrd w) := of_some rfl (by decide)
theorem flclr (w : Op) : Statement (.flclr w) := of_some rfl (by decide)
theorem flset (w : Op) : Statement (.flset w) := of_some rfl (by decide)
theorem fcntrd (w : Op) : Statement (.fcntrd w) := of_some rfl (by decide)
theorem fcntclr (w : Op) : Statement (.fcntclr w) := of_some rfl (by decide)
theorem fmode (w : Op) : Statement (.fmode w) := of_some rfl (by decide)
theorem fmodeGet (w : Op) : Statement (.fmodeGet w) := of_some rfl (by decide)
theorem fdot2 (w : Op) : Statement (.fdot2 w) := of_some rfl (by decide)
theorem fdot4 (w : Op) : Statement (.fdot4 w) := of_some rfl (by decide)
theorem fmad2 (w : Op) : Statement (.fmad2 w) := of_some rfl (by decide)
theorem fsat (w : Op) : Statement (.fsat w) := of_some rfl (by decide)
theorem fmed3 (w : Op) : Statement (.fmed3 w) := of_some rfl (by decide)
theorem fset (w : Op) : Statement (.fset w) := of_some rfl (by decide)
theorem ld (w : Op) : Statement (.ld w) := of_some rfl (by decide)
theorem st (w : Op) : Statement (.st w) := of_some rfl (by decide)
theorem lds (w : Op) : Statement (.lds w) := of_some rfl (by decide)
theorem sts (w : Op) : Statement (.sts w) := of_some rfl (by decide)
theorem ldb (w : Op) : Statement (.ldb w) := of_some rfl (by decide)
theorem stb (w : Op) : Statement (.stb w) := of_some rfl (by decide)
theorem ldw (w : Op) : Statement (.ldw w) := of_some rfl (by decide)
theorem stw (w : Op) : Statement (.stw w) := of_some rfl (by decide)
theorem ldnt (w : Op) : Statement (.ldnt w) := of_some rfl (by decide)
theorem stnt (w : Op) : Statement (.stnt w) := of_some rfl (by decide)
theorem pref (w : Op) : Statement (.pref w) := of_some rfl (by decide)
theorem cctlInv (w : Op) : Statement (.cctlInv w) := of_some rfl (by decide)
theorem cctlClean (w : Op) : Statement (.cctlClean w) := of_some rfl (by decide)
theorem cctlFlush (w : Op) : Statement (.cctlFlush w) := of_some rfl (by decide)
theorem probe (w : Op) : Statement (.probe w) := of_some rfl (by decide)
theorem ldq (w : Op) : Statement (.ldq w) := of_some rfl (by decide)
theorem stq (w : Op) : Statement (.stq w) := of_some rfl (by decide)
theorem spill (w : Op) : Statement (.spill w) := of_some rfl (by decide)
theorem fill (w : Op) : Statement (.fill w) := of_some rfl (by decide)
theorem addrx (w : Op) : Statement (.addrx w) := of_some rfl (by decide)
theorem atom (w : Op) : Statement (.atom w) := of_some rfl (by decide)
theorem atoms (w : Op) : Statement (.atoms w) := of_some rfl (by decide)
theorem cas (w : Op) : Statement (.cas w) := of_some rfl (by decide)
theorem cass (w : Op) : Statement (.cass w) := of_some rfl (by decide)
theorem red (w : Op) : Statement (.red w) := of_some rfl (by decide)
theorem reds (w : Op) : Statement (.reds w) := of_some rfl (by decide)
theorem ldacq (w : Op) : Statement (.ldacq w) := of_some rfl (by decide)
theorem strel (w : Op) : Statement (.strel w) := of_some rfl (by decide)
theorem fence (w : Op) : Statement (.fence w) := of_some rfl (by decide)
theorem fencex (w : Op) : Statement (.fencex w) := of_some rfl (by decide)
theorem atom64 (w : Op) : Statement (.atom64 w) := of_some rfl (by decide)
theorem cas128 (w : Op) : Statement (.cas128 w) := of_some rfl (by decide)
theorem redf (w : Op) : Statement (.redf w) := of_some rfl (by decide)
theorem waitv (w : Op) : Statement (.waitv w) := of_some rfl (by decide)
theorem arrv (w : Op) : Statement (.arrv w) := of_some rfl (by decide)
theorem xchg (w : Op) : Statement (.xchg w) := of_some rfl (by decide)
theorem launch (w : Op) : Statement (.launch w) := of_some rfl (by decide)
theorem launchw (w : Op) : Statement (.launchw w) := of_some rfl (by decide)
theorem trap (w : Op) : Statement (.trap w) := of_some rfl (by decide)
theorem eret (w : Op) : Statement (.eret w) := of_some rfl (by decide)
theorem sread (w : Op) : Statement (.sread w) := of_some rfl (by decide)
theorem swrite (w : Op) : Statement (.swrite w) := of_some rfl (by decide)
theorem ctxsave (w : Op) : Statement (.ctxsave w) := of_some rfl (by decide)
theorem ctxload (w : Op) : Statement (.ctxload w) := of_some rfl (by decide)
theorem preempt (w : Op) : Statement (.preempt w) := of_some rfl (by decide)
theorem freeze (w : Op) : Statement (.freeze w) := of_some rfl (by decide)
theorem thawResume (w : Op) : Statement (.thawResume w) := of_some rfl (by decide)
theorem thawRetry (w : Op) : Statement (.thawRetry w) := of_some rfl (by decide)
theorem thawTrap (w : Op) : Statement (.thawTrap w) := of_some rfl (by decide)
theorem thawEnd (w : Op) : Statement (.thawEnd w) := of_some rfl (by decide)
theorem keyset (w : Op) : Statement (.keyset w) := of_some rfl (by decide)
theorem keydrop (w : Op) : Statement (.keydrop w) := of_some rfl (by decide)
theorem watch (w : Op) : Statement (.watch w) := of_some rfl (by decide)
theorem watchWait (w : Op) : Statement (.watchWait w) := of_some rfl (by decide)
theorem monevWait (w : Op) : Statement (.monevWait w) := of_some rfl (by decide)
theorem monevPost (w : Op) : Statement (.monevPost w) := of_some rfl (by decide)
theorem monevIrq (w : Op) : Statement (.monevIrq w) := of_some rfl (by decide)
theorem getid (w : Op) : Statement (.getid w) := of_some rfl (by decide)
theorem clkrd (w : Op) : Statement (.clkrd w) := of_some rfl (by decide)
theorem invtlb (w : Op) : Statement (.invtlb w) := of_some rfl (by decide)
theorem pgattr (w : Op) : Statement (.pgattr w) := of_some rfl (by decide)
theorem dst (w : Op) : Statement (.dst w) := of_some rfl (by decide)
theorem dred (w : Op) : Statement (.dred w) := of_some rfl (by decide)
theorem dred64 (w : Op) : Statement (.dred64 w) := of_some rfl (by decide)
theorem commit (w : Op) : Statement (.commit w) := of_some rfl (by decide)
theorem commitNw (w : Op) : Statement (.commitNw w) := of_some rfl (by decide)
theorem cpoll (w : Op) : Statement (.cpoll w) := of_some rfl (by decide)
theorem dcount (w : Op) : Statement (.dcount w) := of_some rfl (by decide)
theorem dmode (w : Op) : Statement (.dmode w) := of_some rfl (by decide)
theorem dmodeGet (w : Op) : Statement (.dmodeGet w) := of_some rfl (by decide)
theorem dbind (w : Op) : Statement (.dbind w) := of_some rfl (by decide)
theorem dbindRel (w : Op) : Statement (.dbindRel w) := of_some rfl (by decide)
theorem cpy (w : Op) : Statement (.cpy w) := of_some rfl (by decide)
theorem cpyg (w : Op) : Statement (.cpyg w) := of_some rfl (by decide)
theorem cpyx (w : Op) : Statement (.cpyx w) := of_some rfl (by decide)
theorem feed (w : Op) : Statement (.feed w) := of_some rfl (by decide)
theorem drain (w : Op) : Statement (.drain w) := of_some rfl (by decide)
theorem ovld (w : Op) : Statement (.ovld w) := of_some rfl (by decide)
theorem winw (w : Op) : Statement (.winw w) := of_some rfl (by decide)
theorem cwait (w : Op) : Statement (.cwait w) := of_some rfl (by decide)
theorem cfill (w : Op) : Statement (.cfill w) := of_some rfl (by decide)
theorem cstat (w : Op) : Statement (.cstat w) := of_some rfl (by decide)
theorem cqry (w : Op) : Statement (.cqry w) := of_some rfl (by decide)
theorem mma (w : Op) : Statement (.mma w) := of_some rfl (by decide)
theorem mmaz (w : Op) : Statement (.mmaz w) := of_some rfl (by decide)
theorem macrd (w : Op) : Statement (.macrd w) := of_some rfl (by decide)
theorem macz (w : Op) : Statement (.macz w) := of_some rfl (by decide)
theorem mres (w : Op) : Statement (.mres w) := of_some rfl (by decide)
theorem mrel (w : Op) : Statement (.mrel w) := of_some rfl (by decide)
theorem selk (w : Op) : Statement (.selk w) := of_some rfl (by decide)
theorem selkx (w : Op) : Statement (.selkx w) := of_some rfl (by decide)
theorem sample (w : Op) : Statement (.sample w) := of_some rfl (by decide)
theorem mstat (w : Op) : Statement (.mstat w) := of_some rfl (by decide)
theorem migr (w : Op) : Statement (.migr w) := of_some rfl (by decide)
theorem migra (w : Op) : Statement (.migra w) := of_some rfl (by decide)
theorem pmove (w : Op) : Statement (.pmove w) := of_some rfl (by decide)
theorem pqry (w : Op) : Statement (.pqry w) := of_some rfl (by decide)
theorem owninv (w : Op) : Statement (.owninv w) := of_some rfl (by decide)
theorem pstubRd (w : Op) : Statement (.pstubRd w) := of_some rfl (by decide)
theorem pstubReclaim (w : Op) : Statement (.pstubReclaim w) := of_some rfl (by decide)
theorem pstubKeep (w : Op) : Statement (.pstubKeep w) := of_some rfl (by decide)
theorem bput (w : Op) : Statement (.bput w) := of_some rfl (by decide)
theorem bget (w : Op) : Statement (.bget w) := of_some rfl (by decide)
theorem rst (w : Op) : Statement (.rst w) := of_some rfl (by decide)
theorem rld (w : Op) : Statement (.rld w) := of_some rfl (by decide)
theorem ratom (w : Op) : Statement (.ratom w) := of_some rfl (by decide)
theorem acnt (w : Op) : Statement (.acnt w) := of_some rfl (by decide)
theorem acntRel (w : Op) : Statement (.acntRel w) := of_some rfl (by decide)
theorem await (w : Op) : Statement (.await w) := of_some rfl (by decide)
theorem connRd (w : Op) : Statement (.connRd w) := of_some rfl (by decide)
theorem connOpen (w : Op) : Statement (.connOpen w) := of_some rfl (by decide)
theorem connReset (w : Op) : Statement (.connReset w) := of_some rfl (by decide)
theorem bkmode (w : Op) : Statement (.bkmode w) := of_some rfl (by decide)
theorem bkmodeOff (w : Op) : Statement (.bkmodeOff w) := of_some rfl (by decide)
theorem bkbc (w : Op) : Statement (.bkbc w) := of_some rfl (by decide)
theorem bkmac (w : Op) : Statement (.bkmac w) := of_some rfl (by decide)
theorem bklutLd (w : Op) : Statement (.bklutLd w) := of_some rfl (by decide)
theorem bklut (w : Op) : Statement (.bklut w) := of_some rfl (by decide)
theorem bkrda (w : Op) : Statement (.bkrda w) := of_some rfl (by decide)
theorem bkadd (w : Op) : Statement (.bkadd w) := of_some rfl (by decide)
theorem bkz (w : Op) : Statement (.bkz w) := of_some rfl (by decide)
theorem nop : Statement (.nop) := of_some rfl (by decide)
theorem exit : Statement (.exit) := of_some rfl (by decide)
theorem pause : Statement (.pause) := of_some rfl (by decide)
theorem cctlInvall : Statement (.cctlInvall) := of_some rfl (by decide)
theorem heatend : Statement (.heatend) := of_some rfl (by decide)
theorem dflush : Statement (.dflush) := of_some rfl (by decide)
theorem mret : Statement (.mret) := of_some rfl (by decide)
theorem fack : Statement (.fack) := of_some rfl (by decide)
theorem clusterBarrierResume (core : Nat) (cl : Nat) (bar : Nat) : Statement (.clusterBarrierResume core cl bar) := of_none rfl
theorem yieldHoldEnd (core : Nat) (slot : Nat) : Statement (.yieldHoldEnd core slot) := of_none rfl
theorem waitwRecheck (core : Nat) (slot : Nat) (wait : Nat) : Statement (.waitwRecheck core slot wait) := of_none rfl
theorem crewPromotion (core : Nat) (seat : Nat) : Statement (.crewPromotion core seat) := of_none rfl
theorem laneStarvationPath (core : Nat) (slot : Nat) : Statement (.laneStarvationPath core slot) := of_none rfl
theorem resultWriteback (core : Nat) (slot : Nat) (res : Nat) : Statement (.resultWriteback core slot res) := of_none rfl
theorem coalescerResume (core : Nat) : Statement (.coalescerResume core) := of_none rfl
theorem tableWalkDone (req : Nat) : Statement (.tableWalkDone req) := of_none rfl
theorem memoryReadAtOwner (req : Nat) : Statement (.memoryReadAtOwner req) := of_none rfl
theorem memoryWriteAtOwner (req : Nat) : Statement (.memoryWriteAtOwner req) := of_none rfl
theorem atomicAtOwner (req : Nat) : Statement (.atomicAtOwner req) := of_none rfl
theorem loadResponse (req : Nat) : Statement (.loadResponse req) := of_none rfl
theorem orderingComplete (core : Nat) (slot : Nat) : Statement (.orderingComplete core slot) := of_none rfl
theorem redfAtSlice (req : Nat) : Statement (.redfAtSlice req) := of_none rfl
theorem watermarkBroadcast (grid : Nat) : Statement (.watermarkBroadcast grid) := of_none rfl
theorem fwctlEnable (wr : Nat) : Statement (.fwctlEnable wr) := of_none rfl
theorem fwctlDisable (wr : Nat) : Statement (.fwctlDisable wr) := of_none rfl
theorem fwctlDisableDone (win : Nat) : Statement (.fwctlDisableDone win) := of_none rfl
theorem hdmctlClose (wr : Nat) : Statement (.hdmctlClose wr) := of_none rfl
theorem gridstatFree (wr : Nat) : Statement (.gridstatFree wr) := of_none rfl
theorem fcntstatClear (wr : Nat) : Statement (.fcntstatClear wr) := of_none rfl
theorem portstatClear (wr : Nat) : Statement (.portstatClear wr) := of_none rfl
theorem preemptHalt (core : Nat) (grid : Nat) : Statement (.preemptHalt core grid) := of_none rfl
theorem hostLineRecall (line : Nat) : Statement (.hostLineRecall line) := of_none rfl
theorem hostCxlMemAccess (a : HostAccess) : Statement (.hostCxlMemAccess a) := of_none rfl
theorem heatEnd (grid : Nat) : Statement (.heatEnd grid) := of_none rfl
theorem heatWatchdog (grid : Nat) : Statement (.heatWatchdog grid) := of_none rfl
theorem eventQueueRetry (die : Nat) : Statement (.eventQueueRetry die) := of_none rfl
theorem dependencePoll : Statement (.dependencePoll) := of_none rfl
theorem schedulerPlace : Statement (.schedulerPlace) := of_none rfl
theorem gridComplete (grid : Nat) : Statement (.gridComplete grid) := of_none rfl
theorem boardReset : Statement (.boardReset) := of_none rfl
theorem identityRecord (rec : W16) : Statement (.identityRecord rec) := of_none rfl
theorem monitorStart : Statement (.monitorStart) := of_none rfl
theorem firmwareUpdate (fw : Firmware) : Statement (.firmwareUpdate fw) := of_none rfl
theorem attestationReport : Statement (.attestationReport) := of_none rfl
theorem powerEvaluation (p : PowerReading) : Statement (.powerEvaluation p) := of_none rfl
theorem clockStepComplete : Statement (.clockStepComplete) := of_none rfl
theorem thermalHold (celsius : Nat) : Statement (.thermalHold celsius) := of_none rfl
theorem thermalHoldEnd (t : ThermalReading) : Statement (.thermalHoldEnd t) := of_none rfl
theorem thermalTrip (t : ThermalReading) : Statement (.thermalTrip t) := of_none rfl
theorem patrolScrub (granule : Nat) (found : EccFinding) : Statement (.patrolScrub granule found) := of_none rfl
theorem linkCalibration (port : Nat) (farChip : Nat) (farPort : Nat) : Statement (.linkCalibration port farChip farPort) := of_none rfl
theorem laserWearLevelling (engine : Nat) (bias : Nat) : Statement (.laserWearLevelling engine bias) := of_none rfl
theorem telemetry : Statement (.telemetry) := of_none rfl
theorem logSpillDone (core : Nat) : Statement (.logSpillDone core) := of_none rfl
theorem binRecordAdd (core : Nat) : Statement (.binRecordAdd core) := of_none rfl
theorem binAgeExpiry (quad : Nat) (bin : Nat) : Statement (.binAgeExpiry quad bin) := of_none rfl
theorem binAccept (msg : Nat) : Statement (.binAccept msg) := of_none rfl
theorem releaseNotice (msg : Nat) : Statement (.releaseNotice msg) := of_none rfl
theorem recordApply (engine : Nat) : Statement (.recordApply engine) := of_none rfl
theorem weightAck (msg : Nat) : Statement (.weightAck msg) := of_none rfl
theorem commitToken (chip : Nat) (group : Nat) (number : Nat) : Statement (.commitToken chip group number) := of_none rfl
theorem activationAlert (stack : Nat) (pc : Nat) : Statement (.activationAlert stack pc) := of_none rfl
theorem copyOpStart (core : Nat) : Statement (.copyOpStart core) := of_none rfl
theorem copyLineWrite (core : Nat) (ticket : Nat) : Statement (.copyLineWrite core ticket) := of_none rfl
theorem copyComplete (core : Nat) (ticket : Nat) : Statement (.copyComplete core ticket) := of_none rfl
theorem matrixGrant (quad : Nat) : Statement (.matrixGrant quad) := of_none rfl
theorem matrixGroup (quad : Nat) : Statement (.matrixGroup quad) := of_none rfl
theorem matrixComplete (quad : Nat) : Statement (.matrixComplete quad) := of_none rfl
theorem selectStart (quad : Nat) : Statement (.selectStart quad) := of_none rfl
theorem selectComplete (quad : Nat) : Statement (.selectComplete quad) := of_none rfl
theorem ownerQuery (q : Nat) : Statement (.ownerQuery q) := of_none rfl
theorem ownerAnswer (q : Nat) : Statement (.ownerAnswer q) := of_none rfl
theorem negativeAck (req : Nat) : Statement (.negativeAck req) := of_none rfl
theorem pmoveHomeUpdate (mv : Nat) : Statement (.pmoveHomeUpdate mv) := of_none rfl
theorem pmoveCopyComplete (mv : Nat) : Statement (.pmoveCopyComplete mv) := of_none rfl
theorem stubForward (req : Nat) : Statement (.stubForward req) := of_none rfl
theorem redirect (gpn : Nat) (stub : Nat) (owner : Nat) : Statement (.redirect gpn stub owner) := of_none rfl
theorem stubQuietExpiry (stub : Nat) : Statement (.stubQuietExpiry stub) := of_none rfl
theorem stubReclaimRequest (stub : Nat) : Statement (.stubReclaimRequest stub) := of_none rfl
theorem stubReclaimGrant (stub : Nat) : Statement (.stubReclaimGrant stub) := of_none rfl
theorem trackerPeriodEnd (stack : Nat) : Statement (.trackerPeriodEnd stack) := of_none rfl
theorem migrationGrantRequest (mv : Nat) : Statement (.migrationGrantRequest mv) := of_none rfl
theorem migrationGrantReply (mv : Nat) : Statement (.migrationGrantReply mv) := of_none rfl
theorem continuationArrival (mv : Nat) : Statement (.continuationArrival mv) := of_none rfl
theorem migrationAck (mv : Nat) : Statement (.migrationAck mv) := of_none rfl
theorem guestIssueWindowEnd (core : Nat) (slot : Nat) : Statement (.guestIssueWindowEnd core slot) := of_none rfl
theorem locationNotice (note : Nat) : Statement (.locationNotice note) := of_none rfl
theorem exitNotice (note : Nat) : Statement (.exitNotice note) := of_none rfl
theorem returnContinuation (mv : Nat) : Statement (.returnContinuation mv) := of_none rfl
theorem guestHalt (note : Nat) : Statement (.guestHalt note) := of_none rfl
theorem guestResume (note : Nat) : Statement (.guestResume note) := of_none rfl
theorem guestRemove (note : Nat) : Statement (.guestRemove note) := of_none rfl
theorem packetSend (chip : Nat) : Statement (.packetSend chip) := of_none rfl
theorem flitCrcError (port : Nat) (lasting : Bool) : Statement (.flitCrcError port lasting) := of_none rfl
theorem writePacket (p : Packet) : Statement (.writePacket p) := of_none rfl
theorem readRequestPacket (p : Packet) : Statement (.readRequestPacket p) := of_none rfl
theorem readResponsePacket (p : Packet) : Statement (.readResponsePacket p) := of_none rfl
theorem rmwRequestPacket (p : Packet) : Statement (.rmwRequestPacket p) := of_none rfl
theorem rmwResponsePacket (p : Packet) : Statement (.rmwResponsePacket p) := of_none rfl
theorem ackPacket (p : Packet) : Statement (.ackPacket p) := of_none rfl
theorem refusalPacket (p : Packet) : Statement (.refusalPacket p) := of_none rfl
theorem mapWritePacket (p : Packet) : Statement (.mapWritePacket p) := of_none rfl
theorem connectionResetPacket (p : Packet) : Statement (.connectionResetPacket p) := of_none rfl
theorem unknownPacket (p : Packet) : Statement (.unknownPacket p) := of_none rfl
theorem heldPacketPerform (chip : Nat) (seq : Nat) : Statement (.heldPacketPerform chip seq) := of_none rfl
theorem retransmitTimeout (chip : Nat) : Statement (.retransmitTimeout chip) := of_none rfl
theorem bksw (stack : Nat) (cmd : Nat) : Statement (.bksw stack cmd) := of_none rfl
theorem bcst (stack : Nat) (cmd : Nat) : Statement (.bcst stack cmd) := of_none rfl
theorem macb (stack : Nat) (cmd : Nat) : Statement (.macb stack cmd) := of_none rfl
theorem lutb (stack : Nat) (cmd : Nat) : Statement (.lutb stack cmd) := of_none rfl
theorem lutl (stack : Nat) (cmd : Nat) : Statement (.lutl stack cmd) := of_none rfl
theorem rdac (stack : Nat) (cmd : Nat) : Statement (.rdac stack cmd) := of_none rfl
theorem addw (stack : Nat) (cmd : Nat) : Statement (.addw stack cmd) := of_none rfl
theorem zacc (stack : Nat) (cmd : Nat) : Statement (.zacc stack cmd) := of_none rfl
theorem rowWaitRetry (core : Nat) (slot : Nat) : Statement (.rowWaitRetry core slot) := of_none rfl
theorem refusedPacketResend (chip : Nat) (seq : Nat) : Statement (.refusedPacketResend chip seq) := of_none rfl
theorem connResetTimeout (chip : Nat) : Statement (.connResetTimeout chip) := of_none rfl

end Sys2Proof.Laws.Opcode
end

