-- ==== Sys2Proof/Tests/Slice0.lean ====
section
/-! SUPPORT. Tests/Slice0.lean: ill-formed words that the checks refuse, words written out from the spec's encodings, small runs
of one step, and for each statement states and operands that meet its hypotheses. -/

namespace Sys2Proof.Tests
open Machine
set_option Elab.async false

/-! ## Small states -/

/-- A privileged crew of 32 lanes at offset 0 of slot 0, with a handler at offset 256. -/
def crew0 : Crew :=
  { st := .resident, uid := 1, grid := 1, live := BitVec.allOnes 32, priv := true, active := true, trapent := 256, floor := 8 }

/-- It stands in slot 0 of core 1; a path of these lanes has been chosen, with this head. -/
def lone (k : Crew) (lanes : Mask) (h : Head) : State :=
  { phase := .running, cur := some { core := 1, slot := 0, lanes, h }, serial := 1, nextId := 10, clk := 1000
    cores := [(1, { slots := [(0, k)], ov0 := { id := 0 } })]
    grids := [(1, { state := 2, teamsLeft := 1, nextTeam := 1, ready := true })] }

/-- The context of the chosen path. -/
def ctx (s : State) : Ctx := ctxOf s (s.cur.getD { core := 0, slot := 0, lanes := 0 })

/-- The conditions of Issues, as a check. -/
def issuesNow (s : State) (w : Op) (dst : List Nat) (comp : Bool) : Bool :=
  let x := ctx s
  s.cur.isSome && s.phase == .running && x.on != 0 && !((s.crew x.c x.k).atMarker x.h x.second) &&
  (lanesOf x.on).all (fun l => latchOk (s.crew x.c x.k) (latchesOf w) dst l) &&
  ((comp && x.whole) || rowsFree (s.core x.c) (s.crew x.c x.k) (rowsNeeded (s.crew x.c x.k) dst))

theorem issues_of {s : State} {w : Op} {dst : List Nat} {comp : Bool} (h : issuesNow s w dst comp = true) :
    Issues s w dst comp (ctx s) := by
  simp only [issuesNow, Bool.and_eq_true, List.all_eq_true, bne_iff_ne, beq_iff_eq, Bool.or_eq_true, Bool.not_eq_true'] at h
  obtain ⟨⟨⟨⟨⟨h1, h2⟩, h3⟩, h4⟩, h5⟩, h6⟩ := h
  obtain ⟨i, hi⟩ := Option.isSome_iff_exists.1 h1
  exact ⟨⟨i, hi, by simp [ctx, hi]⟩, h2, h3, h4, h5, by simpa using h6⟩

theorem ready_of {s : State} {w : Op} {n : Widths} {comp : Bool} (hd : Opd.writes w.d = true)
    (h : issuesNow s w (vdst w.d n.d) comp = true) : Ready s (ctx s) w n comp := ⟨hd, issues_of h⟩

/-- All lanes, 64-bit words. -/
def s0 : State := lone crew0 (BitVec.allOnes 32) {}
/-- Lane 0 alone. -/
def s1 : State := lone crew0 1 {}

/-! ## Words that the checks refuse -/

def wfOf (h : Head) (i : Instr) : Bool := Word.wf { h, ins := i }

/-- A half with this opcode, D, A, B and TYPE. -/
def half (opc : BitVec 9) (d a b : BitVec 8) (ty : BitVec 5) : Half :=
  { opc, d, a, b, c := 0, la := false, lb := false, lc := false, ty, m := 0 }

/-- R22: an event is no word; a length that the entry does not define; an operand kind; a pair that starts at an odd register; a
type that the entry does not have; M past its range; a uniform D with a vector source; q8 as a guard's number would be;
LAST on an operand that is no vector register; a reserved MOD bit; each beside a word that is well formed. -/
theorem test_wf_iadd : wfOf {} (.iadd { d := .v 2, a := .v 2, b := .im 1, md := 0xB0 }) = true := by decide +kernel
theorem test_wf_event : wfOf {} (.crewPromotion 0 0) = false := by decide +kernel
theorem test_wf_length : wfOf { form := .w128i } (.iadd { d := .v 2, a := .v 2, b := .ext, md := 0xB0 }) = false := by decide +kernel
theorem test_wf_kind : wfOf {} (.iadd { d := .im 2, a := .v 2, b := .im 1, md := 0xB0 }) = false := by decide +kernel
theorem test_wf_pair : wfOf {} (.andW { d := .v 3, a := .v 2, b := .v 4, md := 0x120 }) = false := by decide +kernel
theorem test_wf_type : wfOf {} (.iadd { d := .v 2, a := .v 2, b := .im 1, md := 0 }) = false := by decide +kernel
theorem test_wf_mod : wfOf {} (.iadd { d := .v 2, a := .v 2, b := .im 1, md := 0xB2 }) = false := by decide +kernel
theorem test_wf_uniform : wfOf {} (.iadd { d := .u 2, a := .v 2, b := .im 1, md := 0xB0 }) = false := by decide +kernel
theorem test_wf_last : wfOf { la := true } (.iadd { d := .v 2, a := .u 2, b := .im 1, md := 0xB0 }) = false := by decide +kernel
theorem test_wf_high : wfOf {} (.iadd { d := .u 300, a := .u 2, b := .im 1, md := 0xB0 }) = false := by decide +kernel
theorem test_wf_unused : wfOf {} (.exit) = true ∧ wfOf {} (.yield { md := 0 }) = false := by decide +kernel
theorem test_wf_imm : wfOf { form := .w96i } (.braFar { imm := 2 }) = false := by decide +kernel
theorem test_wf_half :
    wfOf { form := .w128i } (.pair { x := half 0x40 1 3 4 11, y := half 0xC0 2 5 6 0 }) = true ∧
    wfOf { form := .w128i } (.pair { x := half 0x40 1 3 4 11, y := half 0xC0 1 5 6 0 }) = false ∧
    wfOf { form := .w128i } (.pair { x := half 0x40 1 3 4 11, y := half 0xC0 2 5 7 0 }) = false := by decide +kernel

/-! ## Words written out from the spec's encodings -/

def decodes (n v : Nat) (w : Word) : Prop := decodeBytes (leBytes n v) = .word w

/-- From 03_control.md and 15_fabric.md. -/
theorem test_decode_control :
    decodes 8 0x000001FFF8000008 { h := {}, ins := .bra { a := .v 0xFC, b := .v 0xFF } } ∧
    decodes 8 0x000000000C001008 { h := { gq := 1 }, ins := .bra { a := .v 6, b := .v 0 } } ∧
    decodes 8 0x0000C00000000044 { h := { sw := true }, ins := .enrol { md := 3 } } ∧
    decodes 8 0x0000000000000048 { h := {}, ins := .rejoin {} } ∧
    decodes 8 0x0000000000000038 { h := {}, ins := .exit } ∧
    decodes 8 0x1C10000204000094 { h := { sw := true }, ins := .waitw { a := .u 2, b := .im 1, md := 0x40 } } := by
  unfold decodes; decide +kernel

/-- From 02_instruction_words.md, 03_control.md and 04_integer.md; the third and the fourth are put together from R23, R33, R34 and R104: a
uniform register above 255, C, a latch held; an immediate of 64 bits. -/
theorem test_decode_integer :
    decodes 8 0x002C00120C0A0204 { h := { sw := true }, ins := .iadd { d := .v 5, a := .v 6, b := .v 9, md := 0xB0 } } ∧
    decodes 8 0x0C2C000204040200 { h := {}, ins := .iadd { d := .v 2, a := .v 2, b := .im 1, md := 0xB0 } } ∧
    decodes 12 0x20000004062c425804020221 { h := { form := .w96x, hold := 1 }, ins := .imad { d := .v 1, a := .v 2, b := .u 300, c := .v 4, md := 0xB1 } } ∧
    decodes 16 0x800000000000000140480000000c02fa { h := { form := .w128i }, ins := .movi { d := .u 6, md := 0x120, imm := 0x8000000000000001 } } ∧
    decodes 8 0x0D4440020E060340 { h := {}, ins := .shfl { d := .v 3, a := .v 7, b := .im 1, md := 0x511 } } ∧
    decodes 8 0x0000000008140350 { h := {}, ins := .redx { d := .v 10, a := .v 4 } } := by
  unfold decodes; decide +kernel

/-- From 02_instruction_words.md and 05_float.md; the PAIR word is put together from R36. -/
theorem test_decode_float :
    decodes 8 0x010C40000E060680 { h := {}, ins := .cvtf { d := .v 3, a := .v 7, b := .v 0, md := 0x431 } } ∧
    decodes 12 0x0000000E0200141A1811361D { h := { form := .w96x, gq := 3, gn := true, sw := true, hold := 2, lb := true }, ins := .ffma { d := .v 8, a := .v 12, b := .v 13, c := .v 14 } } ∧
    decodes 16 0x605026002c8002018090001ff6 { h := { form := .w128i, sw := true, gq := 1 }, ins := .pair { x := { half 0x40 1 3 4 11 with la := true }, y := half 0xC0 2 5 6 0 } } := by
  unfold decodes; decide +kernel

/-- From 06_memory.md and 07_ordering.md. -/
theorem test_decode_memory :
    decodes 12 0x000000401044000828100A05 { h := { form := .w96i, sw := true }, ins := .ld { d := .v 8, a := .u 20, b := .v 4, md := 0x110, imm := 0x40 } } ∧
    decodes 8 0x0CF0000208060C04 { h := { sw := true }, ins := .atom { d := .v 3, a := .v 4, b := .im 1, md := 0x3C0 } } ∧
    decodes 8 0x0160000000000C40 { h := {}, ins := .fence { md := 0x580 } } := by
  unfold decodes; decide +kernel

/-- From 08_system.md and 09_deferred.md. -/
theorem test_decode_system :
    decodes 8 0x5000000008100D04 { h := { sw := true }, ins := .launch { d := .u 8, a := .u 4 } } ∧
    decodes 12 0x003500404000400000140D21 { h := { form := .w96i }, ins := .sread { d := .u 10, md := 1, imm := 0x350040 } } ∧
    decodes 8 0x0C01C00008161E08 { h := { gq := 1 }, ins := .dred { d := .v 11, a := .v 4, b := .im 0, md := 7 } } := by
  unfold decodes; decide +kernel

/-- From 11_copy.md, 12_matrix.md and 13_migration.md. -/
theorem test_decode_engines :
    decodes 12 0x000001005420001810040E81 { h := { form := .w96i }, ins := .cpy { d := .u 2, a := .u 8, b := .u 12, md := 0x80, imm := 0x100 } } ∧
    decodes 12 0x18C7FFE01080C00010000F05 { h := { form := .w96i, sw := true }, ins := .mma { a := .u 8, md := 0x203, imm := 0x18C7FFE0 } } ∧
    decodes 8 0x1000000020000F34 { h := { sw := true }, ins := .selk { a := .u 16 } } ∧
    decodes 8 0x8C00400009062F6C { h := { gq := 2, sw := true }, ins := .migra { d := .sp 0x83, a := .v 4, b := .im 0, md := 1 } } ∧
    decodes 8 0x0000000000000F74 { h := { sw := true }, ins := .mret } ∧
    decodes 8 0x5400001814100F7C { h := { sw := true }, ins := .pmove { d := .u 8, a := .u 10, b := .u 12 } } := by
  unfold decodes; decide +kernel

/-- From 15_fabric.md and 16_bank.md. -/
theorem test_decode_fabric_and_bank :
    decodes 8 0x5D440000282C0FB0 { h := {}, ins := .rst { d := .u 22, a := .u 20, b := .im 0, md := 0x510 } } ∧
    decodes 12 0x000000005000000010200FA1 { h := { form := .w96i }, ins := .bput { d := .u 16, a := .u 8 } } ∧
    decodes 8 0x103E400808000FE0 { h := {}, ins := .bkbc { a := .u 4, b := .v 4, md := 0xF9 } } ∧
    decodes 8 0x5000000008220FE4 { h := { sw := true }, ins := .bkmode { d := .u 17, a := .u 4 } } ∧
    decodes 8 0x1C00801608000FE4 { h := { sw := true }, ins := .bkmac { a := .u 4, b := .im 11, md := 2 } } ∧
    decodes 8 0x1000000008100FE8 { h := {}, ins := .bkrda { d := .v 8, a := .u 4 } } := by
  unfold decodes; decide +kernel

/-- R22: LEN 0b11; OPC 0x1FF; GN with q0; a reserved bit; a PAIR word of which both halves read one bank. -/
theorem test_decode_refused :
    decodeBytes (leBytes 8 3) = .bad 0x02 ∧ decodeBytes (leBytes 4 0) = .bad 0x02 ∧ decodeBytes (leBytes 8 0xFF8) = .bad 0x01 ∧
    decodeBytes (leBytes 8 0x10038) = .bad 0x01 ∧ decodeBytes (leBytes 8 0x20038) = .bad 0x01 ∧
    decodeBytes (leBytes 16 0x607026002C8002018090001FF6) = .bad 0x04 := by decide +kernel

/-! ## States and operands that meet the hypotheses of the statements -/

/-! ### Integer, cross-lane and float words -/

/-- Words that can issue in a state, with the widths of their operands, and whether they may be stored compressed. -/
theorem ready_all {s : State} {l : List (Op × Widths × Bool)}
    (h : l.all (fun e => Opd.writes e.1.d && issuesNow s e.1 (vdst e.1.d e.2.1.d) e.2.2) = true) :
    ∀ e ∈ l, Ready s (ctx s) e.1 e.2.1 e.2.2 := by
  intro e he
  have := List.all_eq_true.1 h e he
  rw [Bool.and_eq_true] at this
  exact ready_of this.1 this.2

/-- Vector operands, uniform operands, predicates, with a TYPE, M and OPT. -/
def vw (ty m : Nat) (opt : Nat := 0) : Op := { d := .v 2, a := .v 4, b := .v 6, c := .v 8, md := BitVec.ofNat 11 (opt * 512 + ty * 16 + m) }
def uw (ty m : Nat) (opt : Nat := 0) : Op := { d := .u 2, a := .u 4, b := .u 6, c := .u 8, md := BitVec.ofNat 11 (opt * 512 + ty * 16 + m) }
def qw (md : Nat) : Op := { d := .sp 0x81, a := .sp 0x82, b := .sp 0x83, md := BitVec.ofNat 11 md }

/-- A word with widths, stored compressed where it is uniform-producing. -/
def up (w : Op) (n : Widths) : Op × Widths × Bool := (w, n, uniformProducing w)

theorem witness_ElementArithmetic :
    (∀ e ∈ [up (vw 9 1) {}, up (vw 11 0) {}, up (uw 15 1) {}, up (vw 14 0) {}], Ready s0 (ctx s0) e.1 e.2.1 e.2.2) ∧
    (∀ w ∈ [vw 9 1, vw 11 0, uw 15 1, vw 14 0], w.ty ∈ [9, 10, 11, 13, 14, 15]) :=
  ⟨ready_all (by decide +kernel), by decide +kernel⟩

theorem witness_PairArithmetic :
    (∀ e ∈ [up (vw 12 1) { d := 2, a := 2, b := 2, c := 2 }, up (uw 16 0) { d := 2, a := 2, b := 2, c := 2 },
            up (vw 11 0) { d := 2, c := 2 }, up (uw 15 0) { d := 2, c := 2 }], Ready s0 (ctx s0) e.1 e.2.1 e.2.2) ∧
    (∀ w ∈ [vw 12 1, uw 16 0], w.ty ∈ [12, 16]) ∧ ∀ w ∈ [vw 11 0, uw 15 0], w.ty ∈ [11, 15] :=
  ⟨ready_all (by decide +kernel), by decide +kernel⟩

theorem witness_LogicAndShifts :
    ∀ e ∈ [up (vw 17 1) (same (vw 17 1)), up (uw 18 0) (same (uw 18 0)), up (vw 18 0) (sameAD (vw 18 0)), up (uw 11 0) (sameAD (uw 11 0)),
           up (vw 18 0) (sameA (vw 18 0)), up (uw 17 0) (sameA (uw 17 0)), up (vw 17 1) {}], Ready s1 (ctx s1) e.1 e.2.1 e.2.2 :=
  ready_all (by decide +kernel)

theorem witness_FieldsAndSelection :
    (∀ e ∈ [up (vw 11 0) {}, up (uw 15 0) {}, (vw 18 15, same (vw 18 15), false), (uw 17 0, same (uw 17 0), false)], Ready s0 (ctx s0) e.1 e.2.1 e.2.2) ∧
    (∀ w ∈ [vw 11 0, uw 15 0], w.ty ∈ [11, 15]) := ⟨ready_all (by decide +kernel), by decide +kernel⟩

theorem witness_Comparisons :
    (∀ e ∈ [up { vw 12 5 3 with d := .sp 0x8F, c := .sp 0x81 } { same (vw 12 5) with d := 1, c := 1 }, up (vw 15 0 1) (same (vw 15 0))],
      Ready s0 (ctx s0) e.1 e.2.1 e.2.2) ∧
    (∀ w ∈ [vw 12 5 3, vw 15 0 1], w.ty ∈ [11, 12, 15, 16] ∧ w.m < 6) := ⟨ready_all (by decide +kernel), by decide +kernel⟩

theorem witness_MovesAndLea :
    ∀ e ∈ [up (vw 16 15) (sameAD (vw 16 15)), up (uw 15 0) (sameAD (uw 15 0)), up (vw 18 0) (same (vw 18 0)), up (uw 17 0) (same (uw 17 0)),
           (vw 18 0, same (vw 18 0), true), (vw 17 0, { same (vw 17 0) with b := 1 }, true),
           up { vw 18 1 with d := .u 2 } { same (vw 18 0) with b := 1 }], Ready s0 (ctx s0) e.1 e.2.1 e.2.2 := ready_all (by decide +kernel)

theorem witness_PredicatesAndUniform :
    ((∀ e ∈ [up (qw 3) {}, up (qw 0) {}, up { qw 0 with d := .u 511, b := .no } {}, up (uw 11 5) {}, up { vw 0 1 with d := .sp 0x8F } {}],
      Ready s1 (ctx s1) e.1 e.2.1 e.2.2) ∧ (uw 11 5).ty ∈ [11, 15] ∧ (uw 11 5).m < 6) ∧
    (let w : Op := { d := .u 508, a := .u 0, md := BitVec.ofNat 11 (512 + 18 * 16) }
     Issues s0 w [] false (ctx s0) ∧ 2 ^ w.opt * (if w.w64 then 2 else 1) = 4 ∧ (508 : BitVec 9).toNat + 4 ≤ 512) :=
  ⟨⟨ready_all (by decide +kernel), by decide +kernel⟩, issues_of (by decide +kernel), by decide +kernel, by decide +kernel⟩

/-- A crew with tiles of this size. -/
def tiled (t : Nat) : State := lone { crew0 with tile := t } (BitVec.allOnes 32) {}

theorem witness_Shuffle :
    (∀ e ∈ [up (vw 18 1 3) { d := 2 }], Ready (tiled 1) (ctx (tiled 1)) e.1 e.2.1 e.2.2) ∧
    (∀ e ∈ [up { vw 17 0 0 with d2 := .sp 0x81 } { d := 1 }, up { uw 17 1 2 with d := .v 2 } { d := 1 }],
      Ready (tiled 32) (ctx (tiled 32)) e.1 e.2.1 e.2.2) ∧
    (∀ t ∈ [1, 32], (ctx (tiled t)).tile = t) :=
  ⟨ready_all (by decide +kernel), ready_all (by decide +kernel), by decide +kernel⟩

theorem witness_VotesAndMatches :
    (∀ e ∈ [(vw 18 0, {}, false), ({ vw 0 0 2 with d := .sp 0x81 }, {}, false)], Ready (tiled 1) (ctx (tiled 1)) e.1 e.2.1 e.2.2) ∧
    (∀ e ∈ [up { vw 0 0 3 with d := .u 2 } {}, up (uw 0 0 1) {}], Ready (tiled 32) (ctx (tiled 32)) e.1 e.2.1 e.2.2) ∧
    (∀ t ∈ [1, 32], (ctx (tiled t)).tile = t ∧ notConverged (ctx (tiled t)) t = false) :=
  ⟨ready_all (by decide +kernel), ready_all (by decide +kernel), by decide +kernel⟩

theorem witness_Reductions :
    (∀ e ∈ [(vw 11 0 1, {}, false), (vw 17 5 2, {}, false), (vw 0 2 0, {}, false)], Ready (tiled 4) (ctx (tiled 4)) e.1 e.2.1 e.2.2) ∧
    (∀ e ∈ [({ vw 15 2 0 with d := .u 2 }, {}, false)], Ready (tiled 32) (ctx (tiled 32)) e.1 e.2.1 e.2.2) ∧
    (∀ t ∈ [4, 32], (ctx (tiled t)).tile = t ∧ notConverged (ctx (tiled t)) t = false) ∧
    (∀ w ∈ [vw 11 0 1, vw 15 2 0], w.m ≤ 2 ∧ w.ty ∈ [11, 15] ∧ (w.m = 0 ∨ bit w.opt 0 = false)) ∧
    ((vw 17 5 2).m ∈ [3, 4, 5] ∧ (vw 17 5 2).ty = 17 ∧ bit (vw 17 5 2).opt 0 = false) ∧ (vw 0 2 0).m ≤ 2 ∧ (vw 0 2 0).ty = 0 :=
  ⟨ready_all (by decide +kernel), ready_all (by decide +kernel), by decide +kernel⟩

theorem witness_FloatWords :
    (∀ e ∈ [up (vw 0 1) {}, up (vw 20 2) {}, up (uw 2 4) {}, up (vw 1 0) {}, up (vw 21 11) {}], Ready s0 (ctx s0) e.1 e.2.1 e.2.2) ∧
    (∀ w ∈ [vw 0 1, vw 20 2, uw 2 4, vw 1 0, vw 21 11], w.ty ∈ [0, 1, 2, 20, 21]) ∧ (∀ w ∈ [vw 0 1, uw 2 4, vw 1 0], w.ty ∈ [0, 1, 2]) :=
  ⟨ready_all (by decide +kernel), by decide +kernel, by decide +kernel⟩

theorem witness_SignOperations :
    (∀ e ∈ [up (vw 0 0) {}, up (vw 21 0) {}, up (uw 1 0) {}, up (vw 3 0 3) {}], Ready s0 (ctx s0) e.1 e.2.1 e.2.2) ∧
    (∀ w ∈ [vw 0 0, vw 21 0, uw 1 0], w.ty ∈ [0, 1, 2, 20, 21]) ∧ (vw 0 0).opt = 0 := ⟨ready_all (by decide +kernel), by decide +kernel⟩

theorem witness_FloatComparisons :
    (∀ e ∈ [up { vw 0 13 3 with d := .sp 0x81, c := .sp 0x8F } {}, up (vw 2 0 1) {}], Ready s0 (ctx s0) e.1 e.2.1 e.2.2) ∧
    (∀ w ∈ [vw 0 13 3, vw 2 0 1], w.ty ∈ [0, 1, 2] ∧ w.m < 14) := ⟨ready_all (by decide +kernel), by decide +kernel⟩

theorem witness_ScalingAndConversions :
    ∀ e ∈ [up (vw 0 0) {}, up { vw 12 0 with b := .no } { d := 2 }, up { uw 1 0 with b := .no } {}], Ready s0 (ctx s0) e.1 e.2.1 e.2.2 :=
  ready_all (by decide +kernel)

theorem witness_IntegerDivision :
    (∀ e ∈ [up (vw 11 0 1) {}, up (uw 15 0) {}], Ready s0 (ctx s0) e.1 e.2.1 e.2.2) ∧ (∀ w ∈ [vw 11 0 1, uw 15 0], w.ty ∈ [11, 15]) :=
  ⟨ready_all (by decide +kernel), by decide +kernel⟩

/-- A crew with one outstanding result. -/
def withResult (r : Result) (k : Crew := crew0) : State := lone { k with results := [r] } (BitVec.allOnes 32) {}
def res (wr : Wr) : Result := { id := 5, serial := 0, lo := 990, hi := some 1000, ready := true, wr := [wr], vs := [], us := [] }

theorem witness_FlagWords :
    (∀ e ∈ [(vw 0 0 1, {}, false), (uw 0 0, {}, false)], Ready s1 (ctx s1) e.1 e.2.1 e.2.2) ∧
    (let w : Op := { a := .im 4, b := .im 7 }
     Issues s0 w [] false (ctx s0) ∧ foreign s0 (s0.at (ctx s0)) = false ∧
     bf ((modeNow (s0.at (ctx s0)) &&& ~~~(rd s0 (ctx s0) 0 w.b 0 &&& 0xF7)) ||| (rd s0 (ctx s0) 0 w.a 0 &&& (rd s0 (ctx s0) 0 w.b 0 &&& 0xF7))).toNat 0 3 = 4) ∧
    (∀ l ∈ [[35], List.range 36], let s := withResult (res (.cnt l))
      (s.crew 1 0).results.find? (fun q => q.id == 5) = some (res (.cnt l)) ∧ (res (.cnt l)).lo ≤ s.clk ∧ foreign s (s.crew 1 0) = false) :=
  ⟨ready_all (by decide +kernel), ⟨issues_of (by decide +kernel), by decide +kernel, by decide +kernel⟩, by decide +kernel⟩

theorem witness_BlockRecords :
    (∀ e ∈ [(vw 3 0, {}, false), (vw 7 0 1, {}, false), (vw 5 0 2, {}, false)], Ready s0 (ctx s0) e.1 e.2.1 e.2.2) ∧
    (s0.at (ctx s0)).tile = 32 ∧ notConverged (ctx s0) 32 = false ∧ (∀ w ∈ [vw 3 0, vw 7 0 1, vw 5 0 2], w.ty ∈ [3, 4, 5, 6, 7]) ∧
    (vw 3 0).opt = 0 ∧ (vw 7 0 1).opt = 1 ∧ (vw 5 0 2).opt = 2 := ⟨ready_all (by decide +kernel), by decide +kernel⟩

theorem witness_PairAndWriteback :
    Issues s0 {} [1, 255] false (ctx s0) ∧
    (∀ w ∈ [Wr.v 3 [(0, 1), (31, 2)], .comp 3 7, .u 4 9, .q 0 1 1, .fl [(0, 1)]],
      ∀ k ∈ [crew0, { crew0 with pendRel := [(3, [5])] }], let s := withResult (res w) k
      (s.crew 1 0).results.find? (fun q => q.id == 5) = some (res w) ∧ (res w).ready = true ∧ (res w).lo ≤ s.clk) ∧
    ((halfOp (half 0x40 1 3 4 11)).ty = 11 ∧ Issues s0 (halfOp (half 0x40 1 3 4 11)) [1] false (ctx s0)) ∧
    ([(0, 1), (31, 2)].map (·.1)).Nodup :=
  ⟨issues_of (by decide +kernel), by decide +kernel, ⟨by decide +kernel, issues_of (by decide +kernel)⟩, by decide +kernel⟩

/-! ### Control -/

/-- A branch of OFF16 = n. -/
def bw (n : BitVec 16) (d : Opd := .no) (md : BitVec 11 := 0) : Op := { d, a := .v (n.setWidth 8), b := .v ((n >>> 8).setWidth 8), md }
/-- A crew whose lanes stand at an offset, with these uniform registers. -/
def standing (off : Nat) (u : Tab W32 := []) : State := lone { crew0 with pc := (List.range 32).map (fun l => (l, { off })), u } (BitVec.allOnes 32) {}

theorem witness_Branches :
    (∀ e ∈ [(standing 0, bw 16383), (standing 0, bw 0), (standing 65528, bw 0), (standing 65528, bw 1)],
      Issues e.1 e.2 [] false (ctx e.1) ∧ 0 ≤ (ctx e.1).near e.2 ∧ (ctx e.1).near e.2 ≤ 65532) ∧
    (∀ e ∈ [(standing 0, ({ imm := 0xFFFFFFFD } : Op))], Issues e.1 e.2 [] false (ctx e.1) ∧ bit e.2.imm.toNat 1 = false) ∧
    (∀ m ∈ [0, 1, 2], ∀ q ∈ [(0x80 : BitVec 8), 0x8F], let w := bw 5 (.sp q) m
      Issues s0 w [] false (ctx s0) ∧ w.mn < 3) ∧
    (∀ m ∈ [0, 1, 2, 3, 4, 5], Issues s0 (bw 5 (.u 4) m) [] false (ctx s0)) ∧
    (∀ w ∈ [({ a := .u 4 } : Op), { a := .v 4 }], Issues s0 w [] false (ctx s0) ∧ ∀ l ∈ lanesOf (ctx s0).on, bit (rd s0 (ctx s0) 0 w.a l).toNat 1 = false) ∧
    (∀ w ∈ [bw 5 (.v 255), { bw 5 (.v 0) with imm := 0x10000 }], Issues s0 w (vdst w.d 1) false (ctx s0) ∧ Opd.writes w.d = true ∧
      (ctx s0).next.off ≠ 65536 ∧ bit w.imm.toNat 1 = false) ∧
    (∀ v ∈ [(1 : W32), 2], let s := standing 8 [(3, v)]
      Issues s (bw 0xFFFF (.u 3)) [] false (ctx s) ∧ rd s (ctx s) 0 (.u 3) 0 - 1 = v - 1 ∧ 0 ≤ (ctx s).near (bw 0xFFFF) ∧ (ctx s).near (bw 0xFFFF) ≤ 65532) := by
  refine ⟨?_, ?_, ?_, ?_, ?_, ?_, ?_⟩ <;> simp only [List.forall_mem_cons, List.not_mem_nil, false_imp_iff, implies_true, and_true] <;>
    repeat' apply And.intro
  all_goals first | exact issues_of (by decide +kernel) | decide +kernel

/-- A crew whose lanes are in their handlers. -/
def inHandler : State := lone { crew0 with trapinfo := (List.range 32).map (fun l => (l, 0x82000060)) } (BitVec.allOnes 32) {}
/-- A crew without a handler. -/
def noHandler : State := lone { crew0 with trapent := 0xFFFFFFFF } 1 {}
/-- A crew with members and arrivals of rolls. -/
def rolls (r a : Mask) (lanes : Mask := BitVec.allOnes 32) : State := lone { crew0 with rolls := [(0, r), (7, r)], arrivals := [(0, a), (7, a)] } lanes {}

theorem witness_TrapsAreTaken :
    (∀ s ∈ [standing 8, rolls 1 1], Issues s (bw 0x8000) [] false (ctx s) ∧ (s.at (ctx s)).trapent ≠ 0xFFFFFFFF ∧
      (∀ l ∈ lanesOf (ctx s).on, bit (tget 0 (s.at (ctx s)).trapinfo l).toNat 31 = false) ∧ ¬(0 ≤ (ctx s).near (bw 0x8000))) ∧
    tget 0 ((rolls 1 1).at (ctx (rolls 1 1))).arrivals ((bw 0 .no 7).mf 0 3) ≠ 0 := by
  refine ⟨?_, by decide +kernel⟩
  simp only [List.forall_mem_cons, List.not_mem_nil, false_imp_iff, implies_true, and_true]
  repeat' apply And.intro
  all_goals first | exact issues_of (by decide +kernel) | decide +kernel

theorem witness_ReturnAndFreeze :
    (Issues inHandler {} [] false (ctx inHandler) ∧
      ∀ l ∈ lanesOf (ctx inHandler).on, bit (tget 0 (inHandler.at (ctx inHandler)).trapinfo l).toNat 31 = true) ∧
    (Issues noHandler {} [] false (ctx noHandler) ∧ (noHandler.at (ctx noHandler)).trapent = 0xFFFFFFFF) ∧
    (∀ s ∈ [inHandler, noHandler], (s.at (ctx s)).frozen = false ∧ (s.grid (s.at (ctx s)).grid).monitor = false ∧
      s.evq0.length < Config.eventQueue ∧ s.evq1.length < Config.eventQueue) :=
  ⟨⟨issues_of (by decide +kernel), by decide +kernel⟩, ⟨issues_of (by decide +kernel), by decide +kernel⟩, by decide +kernel⟩

theorem witness_Rolls :
    (∀ s ∈ [rolls 0 0, rolls 0xFFFFFFFF 0, rolls 3 2 1], ∀ n ∈ [(0 : BitVec 11), 7, 8], Issues s { md := n } [] false (ctx s)) ∧
    tget 0 ((rolls 0 0).at (ctx (rolls 0 0))).arrivals 7 = 0 ∧
    (∀ s ∈ [rolls 0xFFFFFFFF 0, rolls 3 2 1], (ctx s).on &&& ~~~(tget 0 (s.at (ctx s)).rolls 0) = 0 ∧
      (∀ j, j < 8 → (ctx s).on &&& tget 0 (s.at (ctx s)).arrivals j = 0)) ∧
    Ready (rolls 3 2 1) (ctx (rolls 3 2 1)) { d := .v 255, md := 7 } {} false := by
  refine ⟨?_, by decide +kernel, ?_, ready_of (by decide +kernel) (by decide +kernel)⟩
  · simp only [List.forall_mem_cons, List.not_mem_nil, false_imp_iff, implies_true, and_true]
    repeat' apply And.intro
    all_goals exact issues_of (by decide +kernel)
  · decide +kernel

/-- A team and a cluster whose barriers expect so many arrivals. -/
def barred (n : Nat) : State :=
  let s := lone crew0 1 {}
  { s.modTeam 1 0 (fun t => { t with uid := 1, grid := 1, crews := 1, bars := newBars 0 16 n }) with
    clusters := [{ grid := 1, index := 0, origin := 1, bars := newBars 0 4 n }] }

theorem witness_Barriers :
    (∀ s ∈ [barred 1, barred 32], ∀ n ∈ [(0 : BitVec 11), 15, 16, 19], Issues s { a := .im 0, md := n } [] false (ctx s)) ∧
    (∀ s ∈ [barred 1, barred 32], ∀ e ∈ [(false, 0), (false, 15), (true, 0), (true, 3)],
      let x := ctx s
      let k := s.at x
      k.guest = none ∧ k.st = .resident ∧ k.lostWrite = false ∧ writesOpen s x.c x.k x.on s.nextId = false ∧
      (∀ l ∈ lanesOf x.on, hasArrived k e.1 e.2 l = false) ∧ s.clusters.any (fun q => q.grid == k.grid && q.index == k.cluster) = true ∧
      (barOf s x.c x.k e.1 e.2).arrivals + (lanesOf x.on).length ≤ (barOf s x.c x.k e.1 e.2).expected) ∧
    (∀ s ∈ [barred 1, barred 32], Issues s { d := .v 255, md := 19 } [255] false (ctx s)) := by
  refine ⟨?_, by decide +kernel, ?_⟩ <;>
  · simp only [List.forall_mem_cons, List.not_mem_nil, false_imp_iff, implies_true, and_true]
    repeat' apply And.intro
    all_goals exact issues_of (by decide +kernel)

theorem witness_SeatWords :
    (∀ s ∈ [s0, s1], Issues s {} [] false (ctx s) ∧ (ctx s).on &&& ~~~(s.at (ctx s)).live = 0 ∧ (s.at (ctx s)).st = .resident) ∧
    (s1.at (ctx s1)).live ≠ (ctx s1).on ∧ (s0.at (ctx s0)).live = (ctx s0).on ∧ (s0.at (ctx s0)).guest = none ∧
    Issues s0 { md := 255 } [] false (ctx s0) ∧ notConverged (ctx s0) 32 = false := by
  refine ⟨?_, by decide +kernel, by decide +kernel, by decide +kernel, issues_of (by decide +kernel), by decide +kernel⟩
  simp only [List.forall_mem_cons, List.not_mem_nil, false_imp_iff, implies_true, and_true]
  repeat' apply And.intro
  all_goals first | exact issues_of (by decide +kernel) | decide +kernel

/-- Seats at their events: a hold that has ended, a lane let pass 64 times, a row wait, a completed cluster barrier, a crew to
promote. -/
def seat : State :=
  let k : Crew := { crew0 with yieldTo := 999, starve := [(31, 64)], park := [(0, .row)], active := false }
  let j : Crew := { crew0 with park := [(0, .barrier true 3 0)] }
  let s := lone k 1 {}
  { s with cores := [(1, { slots := [(0, k), (4, j)], ov0 := { id := 0 } })], cur := none
           clusters := [{ grid := 1, index := 0, origin := 1, bars := [(3, { phase := 1 })] }] }

theorem witness_SeatEvents :
    let k := seat.crew 1 0
    (k.yieldTo ≠ 0 ∧ k.yieldTo < seat.clk) ∧
    (31 ∈ lanesOf (k.ready seat.clk) ∧ 64 ≤ tget 0 k.starve 31 ∧ (∀ j ∈ lanesOf (k.ready seat.clk), j < 31 → tget 0 k.starve j < 64) ∧ k.starved = none) ∧
    (k.st = .resident ∧ k.park.any (fun e => e.2 == .row) = true ∧ rowsFree (seat.core 1) k 1 = true) ∧
    (∃ q, seat.clusters[0]? = some q ∧ (seat.crew 1 4).st = .resident ∧ inCluster q.grid q.index (seat.crew 1 4) = true ∧
      ∃ l, barOver true 3 (tget {} q.bars 3).phase ((seat.crew 1 4).parkOf l) = true) ∧
    ∃ j out, promotion seat 1 0 = some (j, out) :=
  ⟨by decide +kernel, by decide +kernel, by decide +kernel, ⟨_, rfl, rfl, by decide +kernel, 0, by decide +kernel⟩, 0, none, by decide +kernel⟩

/-! ### Memory and ordering -/

theorem issues_all {l : List (State × Op × List Nat × Bool)} (h : l.all (fun e => issuesNow e.1 e.2.1 e.2.2.1 e.2.2.2) = true) :
    ∀ e ∈ l, Issues e.1 e.2.1 e.2.2.1 e.2.2.2 (ctx e.1) := fun e he => issues_of (List.all_eq_true.1 h e he)

/-- A crew with these uniform registers, whose team has 256 bytes of scratchpad. -/
def mem (u : Tab W32) (k : Crew := crew0) : State :=
  (lone { k with u } 3 {}).modTeam 1 0 (fun t => { t with uid := 1, grid := 1, crews := 1, scratch := 256 })

/-- A word at the address in u4 and u5. -/
def at4 (d b : Opd) (md : BitVec 11) : Op := { d, a := .u 4, b, md }
def w32at : BitVec 11 := 0x110
def w64at : BitVec 11 := 0x120

/-- The last bytes of the address space, and of the scratchpad. -/
def top (n : Nat) : State := mem [(4, BitVec.ofNat 32 (2 ^ 32 - n)), (5, 0x01FFFFFF)]
def edge (n : Nat) : State := mem [(4, BitVec.ofNat 32 (256 - n))]

/-- A word that loads, and the registers it writes. -/
def loading (s : State) (w : Op) (dst : List Nat) : State × Op × List Nat × Bool := (s, w, dst, uniformProducing w)

theorem witness_GlobalWords :
    (∀ e ∈ [loading (top 4) (at4 (.v 2) (.im 0) w32at) [2], loading (top 8) (at4 (.v 2) (.v 4) w64at) [2, 3],
            loading (top 16) (at4 (.v 4) (.im 0) w32at) [4, 5, 6, 7], loading (top 4) (at4 (.u 2) (.im 0) w32at) [], (top 4, at4 (.v 2) (.im 0) w32at, [], false)],
      Issues e.1 e.2.1 e.2.2.1 e.2.2.2 (ctx e.1)) ∧
    (∀ e ∈ [(top 4, at4 (.v 2) (.im 0) w32at, 4), (top 8, at4 (.v 2) (.v 4) w64at, 8), (top 16, at4 (.v 4) (.im 0) w32at, 16),
            (top 4, at4 (.u 2) (.im 0) w32at, 4)], ∀ l ∈ acting (ctx e.1) e.2.1.d, addr64 e.1 (ctx e.1) e.2.1 l + e.2.2 ≤ 2 ^ 57) :=
  ⟨issues_all (by decide +kernel), by decide +kernel⟩

/-- The map offset of the last word of core 191's scratchpad, and of its last known region. -/
def mapped (a : Nat) : State := mem [(4, BitVec.ofNat 32 a), (5, BitVec.ofNat 32 (a / 2 ^ 32))]
def lastScratch : Nat := 191 * 2 ^ 30 + 262140

theorem witness_LocalWords :
    (∀ e ∈ [loading (edge 4) (at4 (.v 2) (.im 0) w32at) [2], loading (edge 8) (at4 (.v 2) (.im 0) w64at) [2, 3], (edge 4, at4 (.v 2) (.im 0) w32at, [], false),
            loading (mapped lastScratch) (at4 (.v 2) (.im 0) 0x111) [2], (mapped (4 * 2 ^ 27), at4 (.v 2) (.im 0) 0x111, [], false)],
      Issues e.1 e.2.1 e.2.2.1 e.2.2.2 (ctx e.1)) ∧
    (∀ e ∈ [(edge 4, at4 (.v 2) (.im 0) w32at), (edge 8, at4 (.v 2) (.im 0) w64at)], let x := ctx e.1
      (e.1.at x).guest = none ∧ e.2.mb 0 = false ∧ ∀ l ∈ acting x e.2.d, let o := addr32 e.1 x e.2 l
        (o + widthOf e.2.ty ≤ (e.1.team x.c (e.1.at x).ts).scratch ∧ absentLines (e.1.core x.c) ((e.1.team x.c (e.1.at x).ts).scrBase + o) (widthOf e.2.ty) = []) ∧
        rankTeam e.1 x.c x.k (o / 2 ^ 24) = some (1, 0)) ∧
    (∀ e ∈ [(mapped lastScratch, at4 (.v 2) (.im 0) 0x111), (mapped (4 * 2 ^ 27), at4 (.v 2) (.im 0) 0x111)], let x := ctx e.1
      e.2.mb 0 = true ∧ (e.1.at x).priv = true ∧ ∀ l ∈ acting x e.2.d, let a := addr64 e.1 x e.2 l
        a < 2 ^ 38 ∧ mapOk e.1 a 4 = true ∧ (mapReg a = 0 → absentLines (e.1.core (mapCore a)) (mapOfs a) 4 = [])) :=
  ⟨issues_all (by decide +kernel), by decide +kernel, by decide +kernel⟩

/-- A buffer record of one element at the top of the address space, in u8 to u11. -/
def buf : State := mem [(4, 252), (8, 0xFFFFFFFC), (9, 0x01FFFFFF), (10, 0x00010000)]
def bufw (d : Opd) : Op := { d, a := .u 8, b := .im 0, md := w32at }

theorem witness_BufferAndPrivate :
    (∀ e ∈ [(buf, bufw (.v 2), [2, 3], false), (buf, bufw (.u 2), [], true), loading buf (bufw (.v 2)) [2], (buf, bufw (.v 2), [], false),
            (buf, at4 (.v 2) .no w32at, [2], false), (buf, at4 (.v 2) .no w32at, [], false)], Issues e.1 e.2.1 e.2.2.1 e.2.2.2 (ctx e.1)) ∧
    (let x := ctx buf
     (rd buf x 0 (.im 0) 0).toNat < 1 ∧ ((2 ^ 57 - 4 + 0 : Int) % 2 ^ 64).toNat + 4 ≤ 2 ^ 57 ∧
     (rd buf x 0 (.u 4) 0).toNat % 4 = 0 ∧ (rd buf x 0 (.u 4) 0).toNat + 4 ≤ 256 * 2 ^ (buf.at x).pshift ∧
     ∀ l ∈ lanesOf x.on, (buf.at x).privBase.toNat + 252 / 4 * 128 + l * 4 + 4 ≤ 2 ^ 57) :=
  ⟨issues_all (by decide +kernel), by decide +kernel⟩

theorem witness_CacheWords :
    (∀ e ∈ [(top 1, at4 (.v 2) (.im 0) 1, [], false), loading (top 1) (at4 (.v 2) (.im 0) 0) [2], loading (edge 1) (at4 (.v 2) (.im 0) 1) [2],
            (s0, ({} : Op), [], false)], Issues e.1 e.2.1 e.2.2.1 e.2.2.2 (ctx e.1)) ∧
    (∀ l ∈ lanesOf (ctx (top 1)).on, addr64 (top 1) (ctx (top 1)) (at4 (.v 2) (.im 0) 0) l + 1 ≤ 2 ^ 57) :=
  ⟨issues_all (by decide +kernel), by decide +kernel⟩

theorem witness_AddressFaults :
    (∀ e ∈ [(top 3, at4 (.v 2) (.im 0) w32at, [2], false), (top 15, at4 (.v 4) (.im 0) w32at, [4, 5, 6, 7], false), (edge 3, at4 (.v 2) (.im 0) w32at, [], false)],
      Issues e.1 e.2.1 e.2.2.1 e.2.2.2 (ctx e.1) ) ∧
    (∀ s ∈ [top 3, top 15, edge 3], s.evq0.length < Config.eventQueue ∧ s.evq1.length < Config.eventQueue) ∧
    (∀ e ∈ [(top 3, 4), (top 15, 16)], ∀ l ∈ lanesOf (ctx e.1).on, 2 ^ 57 < addr64 e.1 (ctx e.1) (at4 (.v 2) (.im 0) w32at) l + e.2) ∧
    (∀ l ∈ lanesOf (ctx (edge 3)).on, ((edge 3).team 1 0).scratch < addr32 (edge 3) (ctx (edge 3)) (at4 (.v 2) (.im 0) w32at) l + 4) :=
  ⟨issues_all (by decide +kernel), by decide +kernel, by decide +kernel, by decide +kernel⟩

theorem witness_Atomics :
    (∀ e ∈ [(top 4, at4 (.v 2) (.v 4) 0, [2], false), (top 8, at4 (.v 2) (.v 4) 2, [2, 3], false), (top 16, at4 (.v 4) (.v 8) 0, [4, 5, 6, 7], false),
            (edge 4, at4 (.v 2) (.v 4) 0, [2], false), (edge 8, at4 (.v 2) (.v 4) 3, [2, 3], false), (top 4, at4 .no (.v 4) 0x14, [], false)],
      Issues e.1 e.2.1 e.2.2.1 e.2.2.2 (ctx e.1)) ∧
    (∀ e ∈ [(top 4, 4), (top 8, 8), (top 16, 16)], inHeat e.1 (e.1.at (ctx e.1)) = false ∧ ∃ acc, AtomAt e.1 (ctx e.1) (at4 (.v 4) (.v 8) 0) e.2 .global acc) ∧
    (∃ acc, AtomAt (edge 8) (ctx (edge 8)) (at4 (.v 2) (.v 4) 3) 8 .scratch acc) ∧
    (∃ acc, AtomAt (edge 4) (ctx (edge 4)) (at4 (.v 2) (.v 4) 1) 4 .cluster acc) := by
  refine ⟨issues_all (by decide +kernel), ?_, ⟨_, .scratch (by decide +kernel) ?_⟩, ⟨_, .cluster (fun _ => (1, 0)) (by decide +kernel) ?_⟩⟩
  · simp only [List.forall_mem_cons, List.not_mem_nil, false_imp_iff, implies_true, and_true]
    exact ⟨⟨by decide +kernel, _, .global (by decide +kernel)⟩, ⟨by decide +kernel, _, .global (by decide +kernel)⟩,
      ⟨by decide +kernel, _, .global (by decide +kernel)⟩⟩
  · simp only [inRun]; decide +kernel
  · simp only [inRun]; decide +kernel

/-- A request of lane 0 of the crew. -/
def req (acc : Acc) (stage : Stage) (line : Nat := 0) : Req :=
  { id := 3, core := 1, slot := 0, uid := 1, ctx := 0, ts := 0, word := 2, pc := {}, len := 0, acc, line, width := 4, stage
    pieces := [{ lane := 0, addr := line, at_ := 0, base := 0, len := 4 }] }

/-- A store of lane 0 is on its way. -/
def storing : State := { mem [] with reqs := [req .store .look] }

theorem witness_SyncWords :
    (∀ e ∈ [loading (top 4) (at4 (.v 2) (.v 4) 0) [2], loading (edge 8) (at4 (.v 2) (.v 4) 3) [2, 3], (top 4, at4 .no (.v 4) 0x20, [], false),
            (top 4, at4 (.v 2) (.v 4) 0, [2], false), (edge 8, at4 (.v 2) (.v 4) 3, [2, 3], false), (mem [], ({ md := 0x40 } : Op), [], false), (storing, { md := 0x82 }, [], false), (edge 4, at4 .no (.im 1) 1, [], false)],
      Issues e.1 e.2.1 e.2.2.1 e.2.2.2 (ctx e.1)) ∧
    (∃ acc, AtomAt (top 4) (ctx (top 4)) (at4 (.v 2) (.v 4) 0) 4 .global acc) ∧
    (writesOpen storing 1 0 (ctx storing).on storing.nextId = true ∧ writesOpen (mem []) 1 0 3 10 = false ∧ readsOpen (mem []) 1 0 3 10 = false) ∧
    (∀ l ∈ lanesOf (ctx (top 4)).on, atom64At (top 4) (ctx (top 4)) (at4 .no (.im 1) 0) l / 4 * 4 + 4 ≤ 2 ^ 57) ∧
    (∀ l ∈ lanesOf (ctx (edge 4)).on, inRun (edge 4) 1 0 (atom32At (edge 4) (ctx (edge 4)) (at4 .no (.im 1) 1) l / 4 * 4) 4) := by
  refine ⟨issues_all (by decide +kernel), ⟨_, .global (by decide +kernel)⟩, by decide +kernel, by decide +kernel, ?_⟩
  simp only [inRun]; decide +kernel

/-! ### System words -/

/-- A word with uniform operands and an immediate that names a register. -/
def sysw (imm : W64) (md : BitVec 11 := 0) (d : Opd := .u 2) : Op := { d, a := .u 4, b := .u 6, c := .u 8, md, imm }
/-- An unprivileged crew of grid 1. -/
def user : State := mem [] { crew0 with priv := false }

theorem witness_RegisterReads :
    (∀ e ∈ ([1, 2, 3, 0x10, 0x11, 0x12, 0x20, 0x25, 0xFF0040, 0x70066, 0x71] : List Nat), Issues s0 (sysw (BitVec.ofNat 64 e) 1 (.v 254)) [254, 255] false (ctx s0)) ∧
    Issues user (sysw 0x20010) [] false (ctx user) ∧ Opd.writes (.v 254) = true ∧
    (s0.at (ctx s0)).priv = true ∧ (user.at (ctx user)).priv = false ∧ (user.at (ctx user)).grid ≠ bf (0x20010 : W64).toNat 16 8 :=
  ⟨fun e he => issues_of ((by decide +kernel : ∀ e ∈ ([1, 2, 3, 0x10, 0x11, 0x12, 0x20, 0x25, 0xFF0040, 0x70066, 0x71] : List Nat),
    issuesNow s0 (sysw (BitVec.ofNat 64 e) 1 (.v 254)) [254, 255] false = true) e he), issues_of (by decide +kernel), by decide +kernel⟩

/-- A crew that writes 0x2000_0000_A000_0000; grid 3 is done; the writes of the registers with effects are on their way. -/
def writing : State :=
  let s := mem [(2, 0xA0000000), (3, 0x20000000)]
  let r (i n : Nat) (d : W64 := 0) : SysWr := { id := i, core := 1, slot := 0, reg := n, inst := 3, data := d, priv := true, grid := 1 }
  { s with grids := tset s.grids 3 { state := 4 }, sysWrs := [r 20 0x10, r 21 0x12, r 22 0x72, r 23 0x50, r 24 0x40 (2 ^ 63), r 25 0x40]
           wins := [(3, { closing := true })] }
/-- One whose word is zero. -/
def writing0 : State := { writing with cores := (mem []).cores }

theorem witness_RegisterWrites :
    (∀ s ∈ [writing, writing0, user], ∀ e ∈ ([0x20, 0x10, 0x30012, 0x30072, 2, 0x50, 0x070066] : List W64), ∀ m ∈ [0, 1],
      Issues s (sysw e (BitVec.ofNat 11 m)) [] false (ctx s)) ∧
    (let v (s : State) : Nat := usrc s (ctx s) (.u 2)
     bf (v writing0) 29 3 = 0 ∧ (writing0.grid 3).state = 4 ∧ bit (v writing) 31 = true ∧ bit (v writing) 29 = true ∧
     (writing.at (ctx writing)).priv = true ∧ (user.at (ctx user)).priv = false) ∧
    (∀ e ∈ [(20, 0x10), (21, 0x12), (22, 0x72), (23, 0x50), (24, 0x40), (25, 0x40)], (findWr writing e.1 e.2).isSome = true) ∧
    ((findWr writing 24 0x40).any (fun r => bit r.data.toNat 63) = true ∧ (findWr writing 25 0x40).any (fun r => bit r.data.toNat 63) = false) ∧
    ((tget ({} : Win) writing.wins 3).closing = true ∧ winBusy writing (tget {} writing.wins 3) = false) := by
  refine ⟨?_, by decide +kernel, by decide +kernel, by decide +kernel, by decide +kernel⟩
  have h : ∀ s ∈ [writing, writing0, user], ∀ m ∈ [0, 1], issuesNow s (sysw 0 (BitVec.ofNat 11 m)) [] false = true := by decide +kernel
  exact fun s hs e _ m hm => issues_of (h s hs m hm)

/-- A page table that maps page 0 of context 0 to frame 7 of stack 0: the anchors stand at 0x100000, the entry at 0. -/
def paged (s : State) (flags : Nat) : State :=
  { s with stks := [(0, { anchorbase := 0x100000 })], dram := Memory.write [] 0 (leBytes 32 (1 + flags + 7 * 2 ^ 128 + nilLink * 2 ^ 224)) }
/-- A crew whose A, B are these. -/
def ab (a b : W32) : State := mem [(4, a), (6, b)]
def full : State := { ab 1 1 with evq0 := List.replicate 4096 { typ := 1 } }

theorem witness_SystemWords :
    (∀ w ∈ [sysw 0, sysw 0 10], (∀ n, w.a ≠ .v n) ∧ (∀ n, w.b ≠ .v n) ∧ (∀ n, w.c ≠ .v n)) ∧
    (∀ m ∈ [0, 10], Issues s0 (sysw 0 (BitVec.ofNat 11 m)) (vdst (sysw 0).d 1) true (ctx s0)) ∧
    (Issues s0 (sysw 0 0 (.v 254)) [254, 255] true (ctx s0) ∧ Issues s0 (sysw 0 2 (.v 255)) [255] true (ctx s0)) ∧
    (∀ s ∈ [ab 0 0, ab 4095 0, ab 4096 0, { ab 1 15 with keys := [(1, 5)] }, ab 63 1, full, { ab 0 0 with cores := (mem [(6, 0), (7, 0x02000000)]).cores },
            paged (ab 0 0) 0xC], Issues s (sysw 0x10) [] false (ctx s) ∧ (s.at (ctx s)).priv = true) ∧
    (keyOf (ab 4095 0) 4095 = none ∧ (keyOf { ab 1 15 with keys := [(1, 5)] } 1).isSome = true) ∧
    ((walkReport (ab 0 0) 0 0 0).2 = none ∧ ((walk (paged (ab 0 0) 0xC) 0 0).1).isSome = true) ∧
    4096 ≤ full.evq0.length := by
  refine ⟨by simp [sysw], fun m hm => issues_of ?_, ⟨issues_of (by decide +kernel), issues_of (by decide +kernel)⟩, fun s hs => ?_, by decide +kernel,
    by decide +kernel, by decide +kernel⟩
  · exact (by decide +kernel : ∀ m ∈ [0, 10], issuesNow s0 (sysw 0 (BitVec.ofNat 11 m)) (vdst (sysw 0).d 1) true = true) m hm
  · have h : ∀ s ∈ [ab 0 0, ab 4095 0, ab 4096 0, { ab 1 15 with keys := [(1, 5)] }, ab 63 1, full,
        { ab 0 0 with cores := (mem [(6, 0), (7, 0x02000000)]).cores }, paged (ab 0 0) 0xC],
        issuesNow s (sysw 0x10) [] false = true ∧ (s.at (ctx s)).priv = true := by decide +kernel
    exact ⟨issues_of (h s hs).1, (h s hs).2⟩

/-- A crew in a heat; grid 1 has one team, halted where `halted`. -/
def gridded (u : Tab W32) (heats : Nat := 0) (halted : Bool := false) (halting : List Nat := []) : State :=
  let s := mem u { crew0 with halted }
  { s with grids := [(1, { lr := { teams := 1, crews := 1, heats, flags := 1 }, state := 2, teamsLeft := 1, nextTeam := 1, halting })] }

theorem witness_GridWords :
    (∀ s ∈ [user, gridded [], gridded [] 1, gridded [(4, 1), (6, 0x01000000)], gridded [(4, 1), (6, 0x01000000)] 0 true, gridded [(4, 0), (6, 0)]],
      Issues s (sysw 0) [] false (ctx s)) ∧
    ((user.at (ctx user)).priv = false ∧ user.evq0.length < 4096 ∧ user.evq1.length < 4096) ∧
    (let s (h : Nat) : State := lone crew0 (BitVec.allOnes 32) {} |> fun s => { s with grids := (gridded [] h).grids }
     Issues (s 1) {} [] false (ctx (s 1)) ∧ notConverged (ctx (s 1)) 32 = false ∧ inHeat (s 1) ((s 1).at (ctx (s 1))) = true ∧
     Issues (s 0) {} [] false (ctx (s 0)) ∧ inHeat (s 0) ((s 0).at (ctx (s 0))) = false ∧ ((s 0).at (ctx (s 0))).trapent ≠ 0xFFFFFFFF) ∧
    (let s := gridded [(4, 1), (6, 0x01000000)]
     (s.at (ctx s)).priv = true ∧ usrc s (ctx s) (.u 6) / 2 ^ 24 = 1 ∧ (s.grid 1).state = 2 ∧ unitHalted s (unitOf s 1 0) = false ∧
     usrc s (ctx s) (.u 4) = 1 ∧ (s.grid 1).monitor = false ∧ (s.grid 1).halting = []) ∧
    (let s := gridded [(4, 1), (6, 0x01000000)] 0 true
     unitHalted s (unitOf s 1 0) = true) ∧
    ((gridded [] 0 false [1, 2]).grid 1).halting = [1, 2] ∧ ((gridded []).grid 0).state = 0 := by
  refine ⟨fun s hs => issues_of ?_, by decide +kernel, ⟨issues_of (by decide +kernel), by decide +kernel, by decide +kernel, issues_of (by decide +kernel), by decide +kernel⟩,
    by decide +kernel, by decide +kernel, by decide +kernel⟩
  exact (by decide +kernel : ∀ s ∈ [user, gridded [], gridded [] 1, gridded [(4, 1), (6, 0x01000000)], gridded [(4, 1), (6, 0x01000000)] 0 true, gridded [(4, 0), (6, 0)]],
    issuesNow s (sysw 0) [] false = true) s hs

/-- What FREEZE and THAW name: a crew in slot 4 of core 1 with a parked lane, a copy engine, a port, an apply engine. -/
def frozen (a : W32) (k : Crew) : State :=
  let s := mem [(4, a), (6, 0xFFFFFFFF)]
  { (s.modCore 1 (fun o => { o.setCrew 4 k with copyFrozen := true })) with
    ports := [(46, { frozen := true })], stks := [(7, { engines := [(23, { frozen := true })] })] }
def parked : Crew := { crew0 with uid := 2, park := [(5, .fault)], faults := [(5, { cause := 0x11 })] }

theorem witness_FreezeAndThaw :
    (∀ e ∈ [(frozen 0x00440000 parked, 0), (frozen 0x00440000 { crew0 with frozen := true }, 0), (frozen 0x00440000 { parked with trapent := 0xFFFFFFFF }, 0),
            (frozen 0x00450000 parked, 1), (frozen 0x40440000 parked, 1), (frozen 0x8000002E parked, 2), (frozen 0xC00000BF parked, 3),
            (frozen 0x00440100 parked, 4), (frozen 0xC00000C0 parked, 4)],
      issuesNow e.1 (sysw 0) [] false = true ∧ (e.1.at (ctx e.1)).priv = true) ∧
    (let s := frozen 0x00440000 parked
     bf (usrc s (ctx s) (.u 4)) 30 2 = 0 ∧ bf (usrc s (ctx s) (.u 4)) 22 8 = 1 ∧ bf (usrc s (ctx s) (.u 4)) 16 6 = 4 ∧ (s.crew 1 4).st = .resident ∧
     faultLanesOf (s.crew 1 4) 0xFFFFFFFF = [5] ∧ (s.crew 1 4).trapent ≠ 0xFFFFFFFF ∧ inTrap (tget 0 (s.crew 1 4).trapinfo 5) = false ∧
     (s.crew 1 5).st ≠ .resident ∧ (s.core 1).copyFrozen = true ∧ (s.port 46).frozen = true ∧ (s.engine 191).frozen = true ∧
     (∀ e ∈ (s.core 1).slots, ∀ p ∈ e.2.park, p.2 ≠ .log) ∧ s.reqs = []) ∧
    (∀ s ∈ [gridded [(4, 1)], gridded [(4, 0)]], issuesNow s (sysw 0 4) [] false = true) ∧ ((gridded [(4, 1)]).grid 1).ended = false :=
  ⟨by decide +kernel, by decide +kernel, by decide +kernel, by decide +kernel⟩

/-- A watched line, a waiting event, a grid in its heat, one that is ready to be placed, one that has ended. -/
def busy (hosted : List Nat := []) : State :=
  let one : LaunchRec := { teams := 1, crews := 1, floor := 1, sz0 := 1 }
  let d : Grid := { lr := one, state := 2, nextTeam := 1 }
  let k : Crew := { crew0 with watches := [(15, { line := 64, armed := true, fired := false })] }
  { lone k 1 {} with
    evWait := [(1, { typ := 2 })], msc := [(0, { data := List.replicate 64 0, dirty := false, poison := 0, first := false, ctx := 0 })]
    grids := [(2, { d with lr := { one with heats := 2 }, watermark := 1, retired := [0], hosted }), (3, { d with lr := { one with heats := 1 }, timetable := [65536], teamsLeft := 1 }),
              (4, { d with state := 1, nextTeam := 0, teamsLeft := 1 }), (5, { d with lr := { one with flags := 12 }, state := 1, nextTeam := 0, ready := true, accepted := 1 }),
              (6, d), (7, { d with closing := true })]
    podNs := 2000000, hdmctl := 2 ^ 63 + 1 }

theorem witness_SystemEvents :
    ((busy []).phase = .running ∧ (tget? ((busy []).crew 1 0).watches 15).any (fun e => e.armed && e.line == 64) = true) ∧
    (bit (busy []).hdmctl.toNat 63 = true ∧ 2097088 + 64 ≤ bf (busy []).hdmctl.toNat 0 19 * 2 ^ 21 ∧ bf (busy []).hdmctl.toNat 0 19 * 2 ^ 21 < 2097152 + 1 ∧
      2097088 % 64 + 64 ≤ 64) ∧
    ((busy []).evWait.find? (fun e => e.1 == 1) = some (1, { typ := 2 }) ∧ (busy []).evq1.length < 4096) ∧
    (let d := (busy []).grid 2
     d.state = 2 ∧ d.heat < d.lr.heats ∧ d.saved = [] ∧ d.watermark = d.lr.teams ∧ watermarkOf (busy []) 2 = d.lr.teams ∧
     (∀ m ∈ (busy []).stks, ∀ h ∈ m.2.held, h.grid ≠ 2) ∧ bit d.entryNow 0 = false ∧ d.heat + 1 < d.lr.heats ∧ d.asked = false ∧
     d.waitFor = [] ∧ d.hosted = [] ∧ ((busy [3]).grid 2).hosted = [3] ∧ watermarkOf (busy [3]) 2 = d.lr.teams) ∧
    (let d := (busy []).grid 3
     d.state = 2 ∧ d.heat < d.lr.heats ∧ bf d.entryNow 16 16 ≠ 0 ∧ d.dogPosted = false ∧ d.heatStart + bf d.entryNow 16 16 * 1000000 < (busy []).podNs) ∧
    (((busy []).grid 4).state = 1 ∧ ((busy []).grid 4).ready = false ∧ depsMet (busy []) ((busy []).grid 4).lr = true) ∧
    ((∀ q, q < 4 → 3 < q → schedule (busy []) q = none) ∧ savedTurn (busy []) 3 = none ∧ waitingGrids (busy []) 3 = [5] ∧ ((busy []).grid 5).lr.heats = 0 ∧
      (placeUnit (busy []) 5).isSome = true) ∧
    (let d := (busy []).grid 6
     d.state = 2 ∧ d.teamsLeft = 0 ∧ d.monitor = false ∧ d.closing = false) ∧
    (let d := (busy []).grid 7
     d.state = 2 ∧ d.teamsLeft = 0 ∧ d.monitor = false ∧ d.closing = true ∧ gridQuiet (busy []) 7 = true ∧ d.hosted = [] ∧ d.waitFor = [] ∧ (busy []).commits = [] ∧ (busy []).jobs = [] ∧
     (busy []).cwtbase.toNat % 4096 = 0 ∧ keyOf (busy []) 0 = none ∧
     (tget? (busy []).msc (((busy []).cwtbase.toNat + 8 * d.lr.done) / 64)).any (fun e => e.poison == 0 && e.data.length == 64 && e.ctx == 0) = true) := by
  refine ⟨by decide +kernel, by decide +kernel, by decide +kernel, by decide +kernel, by decide +kernel, by decide +kernel,
    ⟨fun q h g => absurd h (by omega), by decide +kernel, by decide +kernel, by decide +kernel, by decide +kernel⟩, by decide +kernel, by decide +kernel⟩

/-- A launch record's bytes: one team of one crew, an overlay of one block. -/
def record : List Byte :=
  leBytes 4 0 ++ leBytes 4 0xFFFFFFFF ++ leBytes 16 0 ++ leBytes 2 0 ++ leBytes 2 1 ++ leBytes 2 0xFFFF ++ leBytes 2 0 ++ leBytes 4 1 ++
  [1, 1, 1, 1] ++ leBytes 2 1 ++ leBytes 2 0 ++ leBytes 4 0 ++ leBytes 16 0 ++ leBytes 64 0
/-- A chip that has started, hot and over its power, with a step under way or not. -/
def warm (g : Gremen) (mhz : Nat) : State := { State.reset with phase := .started, ref := 2000000, mhz, gremen := g }
def image : Firmware := { record, image0 := [], image1 := [], key := [], signature := [], monitor := true }

theorem witness_BoardEvents :
    (State.reset.phase = .waitIdentity ∧ (0x8000 : W16).getLsbD 15 = true ∧ namesChip 0 = true) ∧
    ((warm { monitor := some image } 1200).gremen.monitor = some image ∧ recordOk image.record = true ∧ (warm {} 1200).cores = []) ∧
    (warm { identity := some 3 } 1200).gremen.identity = some 3 ∧
    (∀ e ∈ [(warm {} 1225, 2400001), (warm { throttleMatrix := true } 1200, 2400001), (warm { throttleBank := true } 1200, 2400000),
            (warm { throttleMatrix := true } 1200, 0), (warm {} 2975, 0)], 1000 * e.1.gremen.evals ≤ e.1.ref ∧ e.1.gremen.step = none) ∧
    (let p : PowerReading := { milliwatts := 2400001, limit := 2400000 }
     p.limit ≤ 2400000 ∧ p.limit < p.milliwatts ∧ 1200 < (warm {} 1225).mhz ∧ (warm {} 2975).mhz < 3000) ∧
    (warm { step := some 1300 } 1200).gremen.step = some 1300 ∧
    ((warm {} 3000).gremen.hold = false ∧ (100 : Nat) ≤ 100 ∧
      ∀ r ∈ [({ celsius := 95, ticks := 1000000 } : ThermalReading), { celsius := 110, ticks := 100000 }], let s := warm { hold := true, holdFrom := 1000000 } 1200
        s.gremen.hold = true ∧ s.gremen.holdFrom + r.ticks ≤ s.ref) ∧
    ((2 ^ 34 - 1 : Nat) < 2 ^ 34 ∧ (46 : Nat) < 47 ∧ (({ warm {} 1200 with ports := [(46, { up := true })] } : State).port 46).up = true) := by
  and_intros <;> decide +kernel

/-! ### Memory, ordering and deferred operations, from the events -/

/-- A request alone at the chip, with the page table of page 0, which frame 0 of stack 0 holds, and sector 16 in the cache. -/
def asking (r : Req) : State :=
  { paged (mem []) 0xC with
    reqs := [r], ownerCache := [(7, .dram 0 0 0)], fills := [{ res := 5, core := 1, slot := 0, uid := 1, kind := .regs 1, dst := .v 2, lanes := 1 }]
    msc := [(16, { data := List.replicate 64 7, dirty := false, poison := 0, first := false, ctx := 0 })] }
def plain : Trans := { gpn := 7, fw := false, nc := false, dfr := false, w := true, rd := true, big := false }
def there (r : Req) (o : Owner) : Req := { r with tr := some plain, owner := some o, res := 5, stage := .atOwner }
def near (r : Req) : Req := { r with space := 1, tgt := 1, stage := .scratch, res := 5 }
def dram0 : Owner := .dram 0 0 0

theorem witness_MemoryEvents :
    (∀ r ∈ [req .load .walk, req .load .stalled, there (req .load .atOwner 1024) dram0, there (req .load .atOwner 1024) (.host 3),
            there (req .store .atOwner 1024) dram0, there (req .store .atOwner 1024) (.host 3), near (req .store .look), near (req (.rmw .xchg true) .look),
            there (req (.rmw .cas false) .atOwner 1024) dram0, near (req .load .look), { there (req .load .look) dram0 with stage := .respond }],
      findReq (asking r) 3 = some r ∧ r.keepOld = false ∧ earlyPlaces (asking r) r = []) ∧
    ((walk { asking (req .load .walk 65536) with dram := [] } 0 65536).1 = none ∧ canFault (asking (req .load .walk)) (req .load .walk) 0 = true) ∧
    ((walk (asking (req .load .walk)) 0 0).1 = some (0, plain) ∧ ocFind (asking (req .load .walk)) 7 = some dram0 ∧ reachable (asking (req .load .walk)) 0 = true ∧
      0 < Config.firstStagingFrame) ∧
    (∀ r ∈ [there (req .load .atOwner 1024) dram0, there (req .load .atOwner 1024) (.host 3), there (req .store .atOwner 1024) dram0,
            there (req (.rmw .cas false) .atOwner 1024) dram0], served (asking r) r = true ∧ r.line % 256 = 0 ∧
        (∀ p ∈ r.pieces, p.addr / 256 = r.line / 256 ∧ p.len ∈ [4, 8, 16] ∧ p.addr % p.len = 0)) ∧
    (∀ r ∈ [near (req .store .look), near (req (.rmw .xchg true) .look), near (req .load .look)], scratchTurn (asking r) r = true) ∧
    (let r := { there (req .load .look) dram0 with stage := .respond }
     respondTurn (asking r) r = true ∧ r.poison = [] ∧ r.olds = [] ∧ r.res ≠ 0 ∧ ((asking r).fills.find? (fun f => f.res == 5)).isSome = true) ∧
    (Memory.wf (asking (req .load .look)).dram = true ∧ Memory.wf (asking (req .load .look)).hostMem = true ∧ (tget? (asking (req .load .look)).msc 16).isSome = true) := by
  and_intros <;> decide +kernel

/-- A crew with one order, and one with one wait. -/
def ordering (a : After) (scope : Nat) : State := mem [] { crew0 with ords := [{ rel := true, acq := true, scope, lanes := 1, before := 1, after := a }] }
def waiting : State :=
  mem [] { crew0 with waits := [{ id := 4, kind := 0, lanes := 1, addrs := [(0, 8)], cmp := [(0, 1)], mask := [], cond := 0, scope := 0, w64 := false, sp := false
                                  dst := .no, pc := {}, len := 0, res := 5 }] }
def key0 : Key := { heat := 0, team := 0, lane := 0, seq := 0 }

/-- The crew of `ordering` has asked for its clean requests, of a chip that is lost. -/
def cleaned (s : State) : State :=
  { s.modCrew 1 0 (fun k => { k with ords := k.ords.map (fun o => { o with asked := true, waitFor := [3] }) }) with conns := [(3, { lost := true })] }

theorem witness_OrderEvents :
    (((waiting.crew 1 0).waits.find? (fun w => w.id == 4)).isSome = true ∧ (waiting.crew 1 0).halted = false ∧ (waiting.crew 1 0).frozen = false ∧ waiting.reqs = []) ∧
    (∀ o ∈ ((ordering .fence 5).crew 1 0).ords, o.rel = true ∧ o.scope = 5 ∧ o.asked = false ∧ o.after ≠ .fack) ∧
    (∀ o ∈ ((ordering .heat 3).crew 1 0).ords, o.engines = 0) ∧
    (∀ s ∈ [cleaned (ordering .fence 5), ordering .heat 3, cleaned (ordering (.irq 63) 5), ordering (.launch (.u 2) 0 true 5) 3], ∀ o ∈ (s.crew 1 0).ords,
      (o.scope = 5 → o.asked = true) ∧ (∀ chip ∈ o.waitFor, (s.conn chip).lost = true) ∧ (s.crew 1 0).st = .resident ∧ (s.crew 1 0).ords = [o] ∧ enginesOpen s 1 0 o = false ∧ (s.crew 1 0).lostWrite = false ∧
      writesOpen s 1 0 o.lanes o.before = false ∧ readsOpen s 1 0 o.lanes o.before = false) ∧
    (let r := there (req (.redf (.t32 0) true) .atOwner 1024) dram0
     findReq (asking r) 3 = some r ∧ served (asking r) r = true) ∧
    (let d := (busy []).grid 2
     let s : State := (busy []).modGrid 2 (fun d => { d with watermark := 0 })
     d.state = 2 ∧ (s.grid 2).watermark < watermarkOf s 2) := by
  and_intros <;> decide +kernel

/-- Crews that commit, with a commit that is complete or not. -/
def committing (nw : Bool) (scope : Nat) : State :=
  { mem [] { crew0 with commit := some { id := 9, nw, res := 5 } } with commits := [{ id := 9, scope, grid := 1, unit := 0, released := scope == 1 }] }
/-- A quad whose bins are pinned to chips. -/
def pinned (n : Nat) : State :=
  { mem [(6, 3)] with quads := [(0, { bins := (List.range n).map (fun i => (192 + i, { chip := some (3 + i), pin := some (1, 0) })) })] }

theorem witness_DeferredWords :
    (∀ e ∈ [(top 4, at4 (.v 2) (.im 0) w32at, [], false), (top 8, at4 (.v 2) (.im 0) w64at, [], false), (top 5, at4 (.v 2) (.im 0) w32at, [], false),
            (s0, ({ md := 1 } : Op), [], false),
            (mem [], { d := .v 2 }, [2], false), (mem [], { d := .u 2 }, [], true), (mem [], { a := .u 4, b := .u 6 }, [], false)],
      Issues e.1 e.2.1 e.2.2.1 e.2.2.2 (ctx e.1)) ∧
    (∀ e ∈ [(top 4, 4), (top 8, 8), (top 5, 4)], ∀ l ∈ lanesOf (ctx e.1).on, addr64 e.1 (ctx e.1) (at4 (.v 2) (.im 0) w32at) l + e.2 ≤ 2 ^ 57) ∧
    (notConverged (ctx s0) 32 = false ∧ (s0.at (ctx s0)).guest = none ∧ inHeat s0 (s0.at (ctx s0)) = false ∧
      inHeat (gridded [] 1) ((gridded [] 1).at (ctx (gridded [] 1))) = true) ∧
    ((s0.at (ctx s0)).commit = none ∧ (findCommit (committing true 1) 9).any (fun m => commitDone (committing true 1) m) = true ∧
      (findCommit (committing false 4) 9).any (fun m => commitDone (committing false 4) m) = false) ∧
    (namesChip 3 = true ∧ namesChip 32767 = false ∧ (s0.core 1).slots.all (fun e => e.2.park.isEmpty) = true) ∧
    (∀ n ∈ [0, 1, 16], issuesNow (pinned n) (sysw 0) [] false = true ∧ ((pinned n).quad 0).bins.length = n) :=
  ⟨issues_all (by decide +kernel), by decide +kernel, by decide +kernel, by decide +kernel, by decide +kernel, by decide +kernel⟩

/-- A record in a log, in a bin, at an engine; messages on the mesh. -/
def recs : State :=
  let b : BinRec := { ciq := 1, ts := 0, wt := 1, op := 1, mw := 0, wi := 128, value := 5 }
  let m (id : Nat) (body : Body) : Msg := { id, dst := 3, chip := 0, body }
  { (mem []).modTeam 1 0 (fun t => { t with dcfg := 1 }) with
    quads := [(0, { bins := [(7, { recs := [(1, b)] })] })], net := [m 1 (.bin 0 [b]), m 2 (.wack 0 1 0 1), m 4 (.token 1 0)]
    stks := [(0, { engines := [(5, { staged := [{ rcd := b, org := { chip := 0, quad := 0, ciq := 1, ts := 0 }, released := true }] })] })] }
def logged : State := recs.modCore 1 (fun o => { o with log := [{ rcd := { op := 1, mw := 0, chip := 0, wi := 128, value := 5, gpn := 3 }, ts := 0 }] })
def spilled : State := recs.modCore 1 (fun o => { o with spill := [{ no := 0, grid := 1, ts := 0, recs := [], writing := true }] })
def noticed : State := { recs with net := [{ id := 3, dst := 3, chip := 0, body := .notice { chip := 0, quad := 0, ciq := 1, ts := 0 } 1 }] }

theorem witness_DeferredEvents :
    ((spilled.core 1).spill.find? (·.writing)).isSome = true ∧
    ((logged.core 1).log.map (·.rcd.wi) = [128] ∧ (logged.core 1).spill = [] ∧ binSlotsOf [{ ciq := 1, ts := 0, wt := 1, op := 1, mw := 0, wi := 128, value := 5 }] < Config.binSlots) ∧
    (∃ e ∈ (recs.bin 0 7).recs, bf (recs.team (coreOfQuad 0 e.2.ciq) e.2.ts).dcfg.toNat 0 16 ≠ 0 ∧ e.1 + 256 * bf (recs.team (coreOfQuad 0 e.2.ciq) e.2.ts).dcfg.toNat 0 16 < recs.clk) ∧
    ((∀ v ∈ (logged.quad 0).bins, ∀ r ∈ v.2.recs, r.2.gpn ≠ 3) ∧ (logged.core 1).log.map (·.rcd.gpn) = [3]) ∧
    ((findMsg recs 1).any (fun m => msgTurn recs m && !m.pkt && m.dst < 192) = true ∧ (recs.engine 3).frozen = false ∧
      (recs.engine 3).staged.length + 1 ≤ Config.stagedRecords ∧ recs.rnotes = [] ∧ (recs.engine 3).staged = [] ∧
      ∀ e ∈ (recs.bin 0 7).recs, unitWaits recs 0 1 0 [e.2] = false ∧ recSt { recs with stks := [(0, { here := [(0, 0)] })] } e.2 = .serve ∧
        recSt { recs with arriving := [(0, 0)] } e.2 = .hold) ∧
    (findMsg noticed 3).any (fun m => msgTurn noticed m && !m.pkt) = true ∧
    (recs.keysGone = [] ∧ (nextApply recs 5).isSome = true ∧ tget? recs.msc 16 = none ∧ tget? recs.gkey 32 = keyOf recs 0) ∧
    ((findMsg recs 2).isSome = true ∧ (recs.team (coreOfQuad 0 1) 0).fwd = none) ∧
    (recs.net.find? (fun m => m.chip == 0 && m.body == .token 1 0)).isSome = true ∧ (383 : Nat) < 384 := by
  refine ⟨by decide +kernel, by decide +kernel, ?_, by decide +kernel, by decide +kernel, by decide +kernel, by decide +kernel, by decide +kernel, by decide⟩
  exact ⟨_, List.mem_cons_self, by decide +kernel⟩

/-! ### Copy engines -/

/-- The 128-bit record in u8 to u11 and the length in u4. -/
def copying (a : Nat) (n : Nat) (ops : List CopyOp := []) (k : Crew := crew0) : State :=
  let s := mem [(4, BitVec.ofNat 32 n), (8, BitVec.ofNat 32 a), (9, BitVec.ofNat 32 (a / 2 ^ 32)), (10, BitVec.ofNat 32 (a / 2 ^ 64)), (11, BitVec.ofNat 32 (a / 2 ^ 96))] k
  (s.modCore 1 (fun o => { o with copies := ops })).modTeam 1 0 (fun t => { t with tiles := [3] })
def copyw (ss ds p : Nat) (cw : Bool := false) : Op :=
  { d := .u 2, a := .u 8, b := .u 4, md := BitVec.ofNat 11 (ss * 512 + ds * 128 + p), imm := if cw then 252 else 2 ^ 31 }
def op0 : CopyOp :=
  { ticket := 0, kind := .cpy, slot := 0, ts := 0, grid := 1, ctx := 0, priv := true, ss := 1, ds := 1, src := 2 ^ 32, dst := 2 ^ 32 + 128, n := 64, cw := some 252, pc := 0 }

theorem witness_CopyWords :
    (∀ e ∈ [(copying 0 (2 ^ 24), copyw 0 0 0), (copying 192 64, copyw 1 1 0 true), (copying (2 ^ 80 + 64 * 2 ^ 64 + 192) 0, copyw 1 0 1),
            (copying (256 * 2 ^ 64 + 2 ^ 104) 0, copyw 0 1 0), (copying (2048 * 2 ^ 80 + 7 * 2 ^ 64) 0, copyw 0 0 1), (copying (2 ^ 66) 4096, copyw 0 0 0),
            (copying 0 (2 ^ 24 + 1), copyw 0 0 0), (copying 0 0 (List.replicate 32 op0), copyw 0 0 0), (copying 0 0 [] { crew0 with priv := false }, copyw 0 0 0),
            (copying 0 252, { copyw 0 0 0 with a := .u 4 })], issuesNow e.1 e.2 [] false = true ∧ issuesNow e.1 e.2 [] true = true) ∧
    (let s := copying 192 64
     let x := ctx s
     (s.core x.c).copies.length < 32 ∧ 192 + 64 ≤ (s.team x.c (s.at x).ts).scratch ∧ bf (copyw 1 1 0 true).imm.toNat 2 16 * 4 + 4 ≤ (s.team x.c (s.at x).ts).scratch ∧
     (s.at x).guest = none ∧ (s.team x.c (s.at x).ts).tiles[0]? = some 3 ∧ (s.at x).priv = true ∧ otherGrid s x.c (s.at x).grid = false) ∧
    (let d := 2 ^ 80 + 64 * 2 ^ 64 + 192
     1 ≤ bf d 80 16 ∧ 64 ≤ bf d 64 16 ∧ bf d 64 16 % 64 = 0 ∧ bf d 96 32 = 0 ∧ 192 + 64 ≤ 256) ∧
    (let d := 256 * 2 ^ 64 + 2 ^ 104
     bf d 112 16 = 0 ∧ 1 ≤ bf d 104 8 ∧ bf d 96 8 + bf d 104 8 ≤ 64 ∧ bf d 64 32 = 256) ∧
    (let d := 2048 * 2 ^ 80 + 7 * 2 ^ 64
     bf d 96 32 = 0 ∧ bf d 80 16 = 2048 ∧ bf d 64 16 = 7) ∧
    (bf (2 ^ 66) 117 11 = 0 ∧ bf (2 ^ 66) 64 38 % 4 = 0 ∧ 32 ≤ ((copying 0 0 (List.replicate 32 op0)).core 1).copies.length) := by
  and_intros <;> decide +kernel

/-- A FEED of 64 bytes for the team that the FIFOs belong to, and an operation whose bytes are all written. -/
def feed0 : CopyOp := { op0 with kind := .feed, active := true, n := 64, lanes := [(2 ^ 32, 0)] }
def ops (o : CopyOp) (team : Option Nat := some 0) : State := (copying 0 0 [o]).modCore 1 (fun q => { q with fifoTeam := team })

theorem witness_CopyEvents :
    (∀ o ∈ [{ op0 with active := true }, { op0 with active := true, kind := .cfill, aux := 7 }], hasTurn (ops o) 1 0 = true) ∧
    (∀ t ∈ [some 0, some 1], hasTurn (ops feed0 t) 1 0 = true) ∧
    (((ops op0).core 1).copyFrozen = false ∧ (((ops op0).core 1).copies.filter (·.active)).length < 4 ∧
      ((ops op0).core 1).copies.find? (fun o => !o.active) = some op0 ∧ forkReady (ops op0) 1 op0 = true) ∧
    (∀ o ∈ [{ op0 with active := true }, { op0 with active := true, kind := .cfill, aux := 7 }], findOp (ops o) 1 0 = some o ∧ o.active = true ∧ o.cause = 0 ∧
      o.ds ≠ 0 ∧ o.buf = none ∧ o.old = [] ∧ (o.left.head?).any (fun u => !(unitHeld (ops o) 1 o u) && !((rangeLines u.src u.n).any (lineWaits (ops o) o.grid o.before))) = true) ∧
    (∀ t ∈ [some 0, some 1], findOp (ops feed0 t) 1 0 = some feed0 ∧ feed0.left ≠ [] ∧ ((ops feed0 t).core 1).fifoTeam = t ∧
      ((ops feed0 t).core 1).fifoA.length + 64 ≤ Config.fifoBytes) ∧
    (let o := { op0 with active := true, pos := 1 }
     findOp (ops o) 1 0 = some o ∧ o.cause = 0 ∧ o.left = [] ∧ o.seqs = [] ∧ o.bulk = none ∧ o.kind ≠ .cont) := by
  and_intros <;> decide +kernel

/-! ### Matrix engines and select units -/

/-- An entry of the table, and an operation of the select unit. -/
def mreq (id tile : Nat) (mul : Bool) : MReq :=
  { id, core := 1, slot := 0, ts := 0, grid := 1, tile, zero := true, mul, lv := 1, aty := 9, bty := 9, sp := false, ka := false, kb := false, groups := 1, m := 64, n := 64
    bar := none, prio := 0, age := 255, flOn := true, cntOn := false, uid := 1 }
def sreq (kind : Nat) (args : List W32) (running : Bool) : SReq :=
  { id := 3, core := 1, slot := 0, ts := 0, kind, args, pairs := false, draw := 0, bar := none, res := 5, d := .u 2, d2 := .sp 0x81, lanes := 1, claims := [], running }
/-- A crew of 32 lanes or one, whose team has 256 bytes and these tiles, with a quad. -/
def engine (lanes : Mask) (tiles : List Nat) (q : Quad) (u : Tab W32 := []) : State :=
  { ((lone { crew0 with u } lanes {}).modTeam 1 0 (fun t => { t with uid := 1, grid := 1, crews := 1, scratch := 256, tiles })) with quads := [(0, q)] }
def allLanes : Mask := BitVec.allOnes 32
/-- An MMA word; a descriptor of SELK over one row and one column at 0, with its results at 248; one of SAMPLE. -/
def mmaw (t : Nat) : Op := { a := .u 8, md := BitVec.ofNat 11 (t * 256 + 16), imm := 0 }
def selw : Op := { d := .u 2, a := .u 8, b := .im 0, md := 16 }
def selDesc0 : Tab W32 := [(8, 0), (9, 248), (10, 0), (11, 0), (12, 0x00040004), (13, 0), (14, 0), (15, 0)]
def sampleDesc0 : Tab W32 := [(8, 0), (9, 255), (10, 1), (11, 0)]

theorem witness_MatrixWords :
    (∀ s ∈ [engine allLanes [3] {}, engine allLanes [3] { table := List.replicate 16 (mreq 1 2 true) }, engine allLanes [] {}, engine 1 [3] {}],
      issuesNow s (mmaw 0) [] false = true ∧ keepTooLarge (mmaw 0) s (ctx s) = false ∧ s.evq0.length < 4096 ∧ (s.at (ctx s)).trapent ≠ 0xFFFFFFFF) ∧
    ((ctx (engine allLanes [3] {})).mask = allLanes ∧ (ctx (engine allLanes [3] {})).on = allLanes ∧ (ctx (engine 1 [3] {})).on ≠ allLanes) ∧
    (∀ s ∈ [engine 1 [3] {}, engine 1 [3] { table := [mreq 1 3 true] }], issuesNow s { mmaw 0 with d := .v 255, b := .im 63 } [255] false = true ∧ (s.quad 0).reads = []) ∧
    (∀ e ∈ [(engine 1 [] {}, 0), (engine 1 [] {}, 8), (engine 1 [] {}, 9), (engine 1 [3] {}, 1), (engine 1 [3] { holders := [(3, (1, 0))] }, 1),
            (engine 1 [3] { holders := [(3, (1, 0))], table := [mreq 1 3 true] }, 1)], issuesNow e.1 { selw with b := .im (BitVec.ofNat 8 e.2) } [] false = true ∧ e.1.jobs = []) ∧
    (tilesBusy (engine 1 [3] { holders := [(3, (1, 0))] }) 1 0 = false ∧ tilesBusy (engine 1 [3] { holders := [(3, (1, 0))], table := [mreq 1 3 true] }) 1 0 = true) ∧
    (∀ w ∈ [selw, { selw with d := .v 2 }], issuesNow s0 w (vdst w.d 1) true = true) ∧
    (∀ s ∈ [engine allLanes [] {} selDesc0, engine allLanes [] { select := List.replicate 8 (sreq 0 [] false) } selDesc0, engine allLanes [] {} (tset selDesc0 9 4),
            engine allLanes [] {} sampleDesc0, engine allLanes [] {} (tset sampleDesc0 10 0)], issuesNow s selw [] false = true) ∧
    (let s := engine allLanes [] {} selDesc0
     let a := rdRun s (ctx s) (.u 8) 8 0
     let word (i : Nat) : Nat := (a.getD i 0).toNat
     word 0 % 4 = 0 ∧ word 1 % 8 = 0 ∧ bf (word 4) 16 16 % 4 = 0 ∧ bf (word 4) 0 16 % 4 = 0 ∧ bf (word 5) 28 4 = 0 ∧ bf (word 5) 8 8 = 0 ∧ bf (word 6) 6 26 = 0 ∧
     word 7 = 0 ∧ (s.at (ctx s)).guest = none ∧ word 0 + 4 ≤ 256 ∧ word 1 + 8 ≤ 256 ∧ word 2 + 1 ≤ 256) ∧
    (let s := engine allLanes [] {} sampleDesc0
     let a := rdRun s (ctx s) (.u 8) 4 0
     (a.getD 2 0).toNat = 1 ∧ (a.getD 0 0).toNat + 4 ≤ 256 ∧ (a.getD 1 0).toNat + 1 ≤ 256) := by
  and_intros <;> decide +kernel

/-- A quad whose arbiter can grant; one with a group to run; one whose request has no group left; select units. -/
def grants : State := engine 1 [3] { table := [mreq 1 3 true, { mreq 2 4 true with core := 2 }] }
def groups : State := (engine 1 [3] { table := [mreq 1 3 true], running := some 1 }).modCore 1 (fun o =>
  { o with fifoTeam := some 0, fifoA := List.replicate 2048 1, fifoB := List.replicate 2048 1 })
def ends (mul : Bool) : State := engine 1 [3] { table := [{ mreq 1 3 mul with lv := 0 }], running := some 1 }
def selects (kind : Nat) (running : Bool) (args : List W32) (mem : Tab Byte := []) : State :=
  (engine 1 [] { select := [sreq kind args running] }).modCore 1 (fun o => { o with scratch := mem })

theorem witness_MatrixEvents :
    (∃ e, (grants.quad 0).running = none ∧ e ∈ (grants.quad 0).table.filter (eligible grants 0) ∧
      (∀ o ∈ (grants.quad 0).table.filter (eligible grants 0), o ≠ e → ranksAbove e o = true) ∧ e.m ≤ 64 ∧ e.n ≤ 64) ∧
    (runningReq groups 0 = some (mreq 1 3 true) ∧ (mreq 1 3 true).nextGroup = some 0 ∧ (groups.core 1).fifoTeam = some 0 ∧
      64 * denseBytes 9 ≤ (groups.core 1).fifoA.length ∧ 64 * denseBytes 9 ≤ (groups.core 1).fifoB.length ∧
      64 * sparseBytes 9 ≤ (groups.core 1).fifoA.length ∧ ({ mreq 1 3 true with sp := true } : MReq).nextGroup = some 0) ∧
    (∀ m ∈ [false, true], runningReq (ends m) 0 = some { mreq 1 3 m with lv := 0 } ∧ ({ mreq 1 3 m with lv := 0 } : MReq).nextGroup = none) ∧
    (∀ k ∈ [0, 1, 2], (∀ s ∈ [selects k false [], selects k true [0, 248, 1, 0x3F800000, 0, 0, 0, 0]], (s.quad 0).select ≠ [] ∧
      s.reqs.any (Req.blocks 1 0 0 (BitVec.allOnes 32) 3) = false ∧ (sreq k [0, 248, 1, 0x3F800000, 0, 0, 0, 0] true).srcLines.any (lineWaits s 1 3) = false)) ∧
    (let s := selects 2 true [0, 248, 1, 0x3F800000] [(3, 0x3F), (248, 1)]
     let o := s.core 1
     (List.range 1).filter (fun i => (tget (0 : Byte) o.scratch (248 + i / 8)).getLsbD (i % 8)) = [0] ∧ leNat (o.scrRead 0 4) = 0x3F000000 ∧ (0x3F800000 : Nat) < 0x7F800000) := by
  refine ⟨⟨mreq 1 3 true, by decide +kernel, by decide +kernel, by decide +kernel, by decide +kernel⟩, by decide +kernel, by decide +kernel, by decide +kernel, by decide +kernel⟩

/-! ### Migration -/

/-- A continuation of lane 0 of a crew of core 2 of this chip, and what it makes a guest crew of. -/
def cont0 : Cont :=
  { originChip := 0, originCore := 2, originSlot := 5, mask := 1, pc := 0, trapent := 256, team := 0, crewid := 0, cluster := 0, grid := 1, heat := 0
    fpmode := 0x41, priv := true, ctx := 0, group := 0xFFFF, floor := 8, hops := 0, ret := false, tileLog := 5, groupNo := 0, groupCount := 1, imgsz := 0
    vregs := [3], uregs := [4], img := 0, privBase := 0, uvals := [9], lanes := [{ lane := 0, preds := 2, fl := 1, seq := 6, regs := [8] }] }
def guest0 : Guest := { chip := 0, core := 2, slot := 5, cont := cont0, formed := 900, open_ := false, incoming := 1 }

theorem witness_MigrationWords :
    (Issues (withResult (res (.v 3 []))) {} [] false (ctx (withResult (res (.v 3 [])))) ∧ ((withResult (res (.v 3 []))).at (ctx (withResult (res (.v 3 []))))).results ≠ []) ∧
    (let s : State := { withResult (res (.v 3 [])) with cur := some { core := 1, slot := 0, lanes := BitVec.allOnes 32, second := true } }
     Issues s {} [] false (ctx s) ∧ (ctx s).second = true ∧ (s.at (ctx s)).results ≠ []) ∧
    (Issues (top 1) (at4 .no (.im 0) 1) [] false (ctx (top 1)) ∧ ((top 1).at (ctx (top 1))).results = [] ∧
      ∀ l ∈ lanesOf (ctx (top 1)).on, addr64 (top 1) (ctx (top 1)) (at4 .no (.im 0) 1) l < 2 ^ 57) ∧
    (∀ k ∈ [crew0, { crew0 with guest := some guest0 }], Issues (mem [] k) {} [] false (ctx (mem [] k)) ∧ ((mem [] k).at (ctx (mem [] k))).results = []) ∧
    ((mem [] crew0).at (ctx (mem [] crew0))).guest = none ∧ ((mem [] { crew0 with guest := some guest0 }).at (ctx (mem [] { crew0 with guest := some guest0 }))).guest ≠ none := by
  refine ⟨⟨issues_of (by decide +kernel), by decide +kernel⟩, ⟨issues_of (by decide +kernel), by decide +kernel⟩,
    ⟨issues_of (by decide +kernel), by decide +kernel, by decide +kernel⟩, ?_, by decide +kernel, by decide +kernel⟩
  simp only [List.forall_mem_cons, List.not_mem_nil, false_imp_iff, implies_true, and_true]
  exact ⟨⟨issues_of (by decide +kernel), by decide +kernel⟩, issues_of (by decide +kernel), by decide +kernel⟩

/-- This chip is the home of page 7, with this entry; the home table names chip `h` for it. -/
def homed (s : State) (e : Nat) (h : Nat := 0) : State :=
  { s with homebase := 2 ^ 24, dram := Memory.write (Memory.write [] 14 (leBytes 2 h)) (2 ^ 24 + 2 ^ 22) (leBytes 32 (7 * 2 ^ 185 + 16 + e)) }
def ownerIn (c m f : Nat) : Nat := (c * 2 ^ 23 + m * 2 ^ 20 + f) * 2 ^ 147
/-- PMOVE of page `g` to the owner of these bits. -/
def pmoving (g n : Nat) : State := mem [(4, w32 g), (5, w32 (g / 2 ^ 32)), (6, w32 n), (7, w32 (n / 2 ^ 32))]
def linked (s : State) : State := { s with ports := [(2, { up := true })] }
def stubbed (n : Nat) (home : Nat := 0) : State :=
  { homed (ab 0xFF800007 0) 0 home with stubs := [(7, { gpn := 7, state := n, succ := .dram 3 7 9, keep := true })] }

theorem witness_PageWords :
    (issuesNow user (sysw 0 1) [] false = true ∧ (user.at (ctx user)).priv = false ∧ user.evq0.length < 4096 ∧ user.evq1.length < 4096 ∧ (sysw 0 1).mb 0 = true) ∧
    (∀ s ∈ [pmoving 7 0, pmoving (2 ^ 39) 0, pmoving 7 (2 ^ 46 + 9), pmoving 7 (5 + 7 * 2 ^ 20)], issuesNow s (sysw 0) [] false = true ∧ (s.at (ctx s)).priv = true ∧ s.pmoves = []) ∧
    ((tget? { pmoving 7 0 with hostPages := [(7, 3)] }.hostPages 7).isSome = true ∧
      (∀ s ∈ [pmoving 7 0, homed (pmoving 7 0) 0 32767], viewPage s 7 = false ∧ tget? s.hostPages 7 = none) ∧
      namesChip (homeOf (homed (pmoving 7 0) 0 32767) 7) = false) ∧
    (homeOf (linked (homed (pmoving 7 0) 0 3)) 7 = 3 ∧ homeOf (homed (pmoving 7 0) 0) 7 = 0 ∧ homeFind (homed (pmoving 6 0) 0) 6 = none) ∧
    (∀ c ∈ [0, 3], let s : State := { homed (pmoving 7 0) (ownerIn c 7 5) with stks := [(7, { here := [(5, 7)] })] }
      homeFind s 7 = some 0 ∧ homeOwner (homeRead s 0) = .dram c 7 5 ∧ frameSt s 7 5 7 = .serve) ∧
    (frameSt { homed (pmoving 7 0) (ownerIn 0 7 5) with stks := [(7, { frames := [(5, [7])] })] } 7 5 7 = .gone ∧
      (let s : State := { homed (pmoving 7 0) (ownerIn 0 7 5) with arriving := [(frameKey 7 5, 7)] }
       frameSt s 7 5 7 = .hold ∧ s.stubs = []) ∧ bf (2 ^ 23) 23 9 ≠ 0) ∧
    (∀ n ∈ [5 + 7 * 2 ^ 20, 2 ^ 20 - 1, 2 ^ 46 + 9, 3 * 2 ^ 32 + 9], let s := linked (homed (pmoving 7 n) (ownerIn 0 7 5))
      usrc64 s (ctx s) (.u 6) = n ∧ bf n 23 9 = 0 ∧ bf n 47 17 = 0) ∧
    (stagingFrame (2 ^ 20 - 1) = true ∧ stagingFrame 9 = false ∧ reachable (linked (homed (pmoving 7 0) 0)) 0 = true ∧ reachable (linked (homed (pmoving 7 0) 0)) 3 = true ∧
      reachable (homed (pmoving 7 0) 0) 3 = false) ∧
    (issuesNow (top 1) (at4 (.v 254) (.im 0) 1) [254, 255] false = true ∧ issuesNow (top 1) (at4 (.v 254) (.im 0) 1) [] false = true ∧
      ∀ l ∈ lanesOf (ctx (top 1)).on, addr64 (top 1) (ctx (top 1)) (at4 (.v 254) (.im 0) 1) l < 2 ^ 57) ∧
    (∀ s ∈ [stubbed 1, stubbed 2, stubbed 2 3, stubbed 3, ab 7 0], issuesNow s (sysw 0) [] false = true ∧ usrc s (ctx s) (.u 4) % 2 ^ 23 = 7) ∧
    (∀ n ∈ [1, 2, 3], (tget? (stubbed n).stubs 7).any (fun b => b.state == n) = true) ∧ homeOf (stubbed 2) 7 = 0 := by
  and_intros <;> decide +kernel

/-- Queries about page 7; a move of it from frame 5 of stack 7; what the tracker of stack 7 has counted. -/
def query7 (asker : Nat) (answered : Bool) (o : Option Owner) : Query := { id := 9, gpn := 7, asker, answered, owner := o }
def homing (e : Nat) (q : Query) (reqs : List Req := []) : State := { homed s0 e with queries := [q], reqs }
def move7 (stage : Nat) (new : Owner) (seqs : List (Nat × Nat) := []) : PMove :=
  { id := 4, gpn := 7, stack := 7, frame := 5, new, core := 1, slot := 0, res := 5, stage, tracker := false, seqs }
def moving (e : Nat) (m : PMove) : State := { homed s0 (ownerIn 0 7 5 + e) with pmoves := [m] }
def live7 (b : Stub) : State := { homed s0 (3 * 2 ^ 109 + 1) with stubs := [(7340037, b)], ref := 200000 }
def stub7 : Stub := { gpn := 7, state := 2, succ := .dram 3 7 9, quietFrom := 0 }
def counted (cfg : W32) (t : List TrkPage) : State :=
  { s0 with ref := 100000, trkcfg := cfg, stks := [(7, { track := t }), (3, { pgpool := 2 ^ 63 })] }
def hot (chips : Tab Nat) (other : Nat) : TrkPage := { gpn := 7, frame := 5, total := 4096, otherDie := other, chips }

theorem witness_PageEvents :
    (∀ a ∈ [0, 3], let s := homing 1 (query7 a false none)
      s.queries.find? (fun e => e.id == 9) = some (query7 a false none) ∧ homeOf s 7 = 0 ∧ s.chipid = 0) ∧
    (let r : Req := { req .load (.query 9) with tr := some plain }
     ∀ o ∈ [none, some dram0], ∀ l ∈ [[], [r]], let s := homing 1 (query7 0 true o) l
      (s.queries.find? (fun e => e.id == 9 && e.answered && e.asker == s.chipid)).isSome = true ∧ s.pmoves = [] ∧ s.reqs.filter (fun r => r.stage == .query 9) = l ∧
      (l ≠ [] → findReq s r.id = some r)) ∧
    (let r := there (req .load .atOwner 1024) dram0
     findReq (asking r) 3 = some r ∧
     (let s : State := { asking r with stks := [(0, { frames := [(0, [7])] })] }; ownerTurn s r = true ∧ frameSt s 0 0 7 = .gone) ∧
     (∀ o ∈ [Owner.dram 3 7 9, .dram 0 7 9, .host 3], let s : State := { asking r with stubs := [(0, { stub7 with succ := o })] }
       ownerTurn s r = true ∧ frameSt s 0 0 7 = .stub o)) ∧
    (∀ a ∈ [0, 2 ^ 38 - 1], let s : State := { asking (req .load .look) with net := [{ id := 3, dst := 0, chip := 0, body := .redirect 7 (ownerOfBits a) (ownerOfBits 9) }] }
      (s.net.find? (fun m => m.body == .redirect 7 (ownerOfBits a) (ownerOfBits 9) && (m.dst = 0 || pktDone s (m.chip, m.dst - 1)))).isSome = true ∧
      (ocFind s 7 = some (ownerOfBits a) ↔ a = 0)) ∧
    (∀ e ∈ [0, 1, 2, 8], let s := moving e (move7 1 (.dram 3 7 9))
      (findPmove s 4).isSome = true ∧ homeOf s 7 = 0 ∧ homeFind s 7 = some 0 ∧ bf (homeRead s 0) 0 2 = e % 4 ∧ bit (homeRead s 0) 3 = (e == 8)) ∧
    homeFind { homed s0 0 with homebase := 2 ^ 25 } 7 = none ∧
    (∀ m ∈ [move7 2 (.dram 0 7 1048575), move7 2 (.dram 3 7 9)], let s := moving 0 m
      findPmove s 4 = some m ∧ frameDrained s 7 (frameKey 7 5) = true ∧ bankReading s 7 5 = false ∧ (s.conn 3).lost = false ∧ s.msc = [] ∧ Memory.wf s.dram = true) ∧
    (let s : State := { moving 0 (move7 2 (.dram 3 7 9)) with conns := [(3, { lost := true })] }
     (s.conn 3).lost = true) ∧
    (let s := moving 0 (move7 3 (.dram 3 7 9) [(3, 0), (3, 16777215)])
     ∀ p ∈ [(3, 0), (3, 16777215)], pktDone s p = true) ∧
    (∀ b ∈ [stub7, { stub7 with state := 3 }, { stub7 with state := 3, granted := true }, { stub7 with state := 3, granted := true, moved := true }],
      tget? (live7 b).stubs 7340037 = some b ∧ b.keep = false ∧ b.quietFrom + max 10 (bf (live7 b).stubcfg.toNat 0 16) * 1000 ≤ (live7 b).ref ∧ (live7 b).jobs = [] ∧
      homeOf (live7 b) b.gpn = 0) ∧
    (∀ t ∈ [[], [hot [] 0], [hot [(3, 3072)] 0], [hot [] 3072]], let s := counted 0xC0000110 t
      (s.stack 7).trackFrom + max 1 (bf s.trkcfg.toNat 8 8) * 100000 ≤ s.ref ∧ (s.stack 7).track.filter (fun p => !(frameClaimed s 7 p.frame)) = t ∧
      bit s.trkcfg.toNat 30 = true ∧ bit s.trkcfg.toNat 31 = true ∧ dieOfStack 3 ≠ dieOfStack 7 ∧ bit (s.stack 3).pgpool.toNat 63 = true ∧
      ¬(4096 : Nat) < bf s.trkcfg.toNat 0 8 * 256) := by
  and_intros <;> decide +kernel

/-- A move of lane 0 of the crew of core 1, whose destination is core 191, with that core. -/
def lmove (stage : Nat) (h : Cont := cont0) (cause : Nat := 0) (fallback : Bool := false) : LMove :=
  { id := 4, cont := h, core := 1, slot := 0, lanes := 1, chip := 0, dcore := some 191, stack := 0, stage, gcore := 191, gslot := 63, cause, fallback, qd := .sp 0x8F, pc := {}, len := 0 }
def leaving (m : LMove) (o : Core) (k : Crew := crew0) : State := let s := lone k 1 {}; { s with lmoves := [m], cores := s.cores ++ [(191, o)] }
def guestCore (st : SlotSt) : Core := { slots := [(63, { crew0 with st, live := 0, guest := some guest0 })], ov0 := { id := 0 } }
def noted (b : Body) (l : List MovedOn := []) : State := { leaving (lmove 7) (guestCore .resident) with notes := [{ id := 6, dst := 0, chip := 0, body := b }], movedOn := l }
def wentOn : MovedOn := { chip := 0, core := 2, slot := 5, lanes := 1, fromCore := 190, fromSlot := 0, toChip := 3, toCore := 7, toSlot := 8 }

theorem witness_LaneMoveEvents_moves :
    ((lmove 2).chip = 0 ∧ cont0.originChip = s0.chipid ∧ portCore (leaving { lmove 2 with dcore := none } {}) 0 ≤ 191 ∧
      ({ cont0 with originChip := 3 } : Cont).group = 0xFFFF ∧ (lmove 2 { cont0 with originChip := 3 }).cont.originChip ≠ s0.chipid ∧ (191 : Nat) < 192) ∧
    (ofGroup cont0 guest0 = true ∧ nextCrewSlot ({ slots := (List.range 64).map (fun k => (k, crew0)) } : Core) = none) ∧
    (let s := leaving (lmove 5) { slots := [(63, crew0)] }
     findMove s 4 = some (lmove 5) ∧ (s.crew 191 63).guest.any (ofGroup cont0) = false) ∧
    (let h := { cont0 with ret := true, team := 7 }
     let s := leaving (lmove 5 h) {}
     findMove s 4 = some (lmove 5 h) ∧ findOrigin s 1 7 0 = none ∧ originSaved s 1 7 0 = false) ∧
    (∀ n ∈ [lmove 2, lmove 6], n.sent (leaving n {}) = (n.stage == 6)) ∧
    (let s := noted (.exitNote 1 7 0 1 [3])
     (findNote s 6).isSome = true ∧ originSaved s 1 7 0 = false ∧ findOrigin s 1 7 0 = none ∧ (s.grid 1).state ≠ 0 ∧ (s.grid 1).removing = [] ∧
     ∀ n ∈ s.lmoves, n.sent s = false) := by
  and_intros <;> decide +kernel

theorem witness_LaneMoveEvents :
    (∀ o ∈ [guestCore .reserved, guestCore .resident, { slots := (List.range 64).map (fun k => (k, crew0)) }, { slots := [(0, { crew0 with floor := 2044 })] }, {},
            { ov0 := { id := 0 } }], let s := leaving (lmove 2) o
      findMove s 4 = some (lmove 2) ∧ (s.core 191 = o)) ∧
    (joinSlot (leaving (lmove 2) (guestCore .reserved)) 191 cont0 = some 63 ∧ joinSlot (leaving (lmove 2) (guestCore .resident)) 191 cont0 = none ∧
      nextCrewSlot ({ slots := (List.range 64).map (fun k => (k, crew0)) } : Core) = none ∧ ({ slots := [(0, { crew0 with floor := 2044 })] } : Core).loanFree < 8 ∧
      nextCrewSlot ({} : Core) = some 0 ∧ freeTeamSlot (leaving (lmove 2) {}) 191 = some 0 ∧ slotHas ({} : Core) 0 0 = false ∧ slotHas ({ ov0 := { id := 0 } } : Core) 0 0 = true) ∧
    (findMove (leaving (lmove 3) (guestCore .reserved)) 4 = some (lmove 3) ∧ ((leaving (lmove 3) (guestCore .reserved)).core 1).copies.length < 32) ∧
    (∀ m ∈ [lmove 7 cont0 0x20, lmove 7 cont0 0x20 true], findMove (leaving m {}) 4 = some m ∧ m.cause ∈ [0x20, 0x21, 0x22, 0x23] ∧
      ((leaving m {}).crew 1 0).trapent ≠ 0xFFFFFFFF ∧ ∀ l ∈ lanesOf m.lanes, inTrap (tget 0 ((leaving m {}).crew 1 0).trapinfo l) = false) ∧
    (∀ st ∈ [SlotSt.reserved, .resident], let s := leaving (lmove 5) (guestCore st)
      findMove s 4 = some (lmove 5) ∧ (s.crew 191 63).guest = some guest0 ∧ guest0.open_ = false ∧ contRows s 191 63 cont0 = true ∧
      (cont0.lanes.map (·.lane)).Nodup ∧ (∀ r ∈ cont0.lanes, r.lane < 32) ∧ cont0.vregs.Nodup ∧ cont0.uregs.Nodup) ∧
    (let h := { cont0 with ret := true }
     let s := leaving (lmove 5 h) {} { crew0 with away := 1 }
     findMove s 4 = some (lmove 5 h) ∧ findOrigin s 1 0 0 = some (1, 0) ∧ contRows s 1 0 h = true) ∧
    (∀ k ∈ [crew0, { crew0 with guest := some guest0 }], let s := leaving (lmove 6) {} k
      findMove s 4 = some (lmove 6) ∧ (s.crew 1 0).halted = false ∧ (s.crew 1 0).live &&& ~~~(1 : Mask) ≠ 0) ∧
    (let s : State := { s0 with net := [{ id := 3, dst := 5, chip := 3, body := .grantReq cont0 (some 192) 0 }] }
     findMove s 3 = none ∧ (findMsg s 3).any (fun q => q.body == .grantReq cont0 (some 192) 0) = true ∧ (some 192).any (191 < ·) = true) ∧
    (let s := leaving (lmove 6) { slots := [(63, { crew0 with guest := some { guest0 with formed := 936 } })] }
     (s.crew 191 63).st = .resident ∧ 936 + 64 ≤ s.clk) ∧
    (∀ j ∈ [0, 1], (findNote (noted (.location 1 0 j 1 3 7 8)) 6).isSome = true ∧ originSaved (noted (.location 1 0 j 1 3 7 8)) 1 0 j = false ∧
      findOrigin (noted (.location 1 0 j 1 3 7 8)) 1 0 j = if j = 0 then some (1, 0) else none) ∧
    ((findNote (noted (.exitNote 1 0 0 1 [])) 6).isSome = true ∧ ((noted (.exitNote 1 0 0 1 [])).crew 1 0).live ≠ 0) ∧
    (∀ e ∈ [(191, 63), (190, 0)], ∀ b ∈ [Body.halt 0 2 5 e.1 e.2, .resume 0 2 5 9 9 e.1 e.2, .remove 0 2 5 e.1 e.2], let s := noted b [wentOn]
      (findNote s 6).isSome = true ∧ (isGuestOf s 0 2 5 e.1 e.2 = (e.1 == 191)) ∧ movedFrom s 0 2 5 e.1 e.2 = if e.1 = 190 then [wentOn] else []) := by
  and_intros <;> decide +kernel

/-! ### Fabric -/

/-- This chip holds page 0 of context 0, of which u4 names the last doubleword; u8 to u15 describe a transfer. -/
def farther (u : Tab W32) : State := { paged (mem ((4, 65528) :: u)) 0xC with ownerCache := [(7, dram0)] }
def bulkDesc (src dst n ctl : Nat) : Tab W32 :=
  [(8, w32 src), (9, w32 (src / 2 ^ 32)), (10, w32 dst), (11, w32 (dst / 2 ^ 32)), (12, w32 n), (13, w32 ctl), (14, 0), (15, 0)]
/-- A core with an arrival counter of team slot `t`, and its team's scratchpad. -/
def counting (t : Nat) (armed : Bool) : State :=
  (ab 252 9).modCore 1 (fun o => { o with arrCtrs := [(0, { ts := t, off := 252, threshold := 9, bar := if armed then some 15 else none, armed, sum := 0 })] })
/-- Connection words about chip `n`. -/
def asked (n : W32) (lost : Bool := false) (priv : Bool := true) : State :=
  { mem [(4, n)] { crew0 with priv } with conns := [(3, { lost })], ports := [(2, { up := true })] }

theorem witness_FabricWords :
    (∀ e ∈ [(top 4, at4 (.v 2) (.im 0) w32at, [], false), loading (top 8) (at4 (.v 2) (.im 0) w64at) [2, 3], loading (top 3) (at4 (.v 2) (.im 0) w32at) [2],
            (top 4, at4 (.v 2) (.v 4) 0, [2], false), (top 8, at4 (.v 2) (.v 4) 0x202, [2, 3], false), (gridded [] 1, at4 (.v 2) (.v 4) 0, [2], false), (s0, ({} : Op), [], false)],
      Issues e.1 e.2.1 e.2.2.1 e.2.2.2 (ctx e.1)) ∧
    (∀ e ∈ [(top 4, w32at, 4), (top 8, w64at, 8)], ∀ l ∈ acting (ctx e.1) (.v 2), addr64 e.1 (ctx e.1) (at4 (.v 2) (.im 0) e.2.1) l % e.2.2 = 0 ∧
      addr64 e.1 (ctx e.1) (at4 (.v 2) (.im 0) e.2.1) l + e.2.2 ≤ 2 ^ 57) ∧
    (∀ l ∈ acting (ctx (top 3)) (.v 2), addr64 (top 3) (ctx (top 3)) (at4 (.v 2) (.im 0) w32at) l % 4 ≠ 0) ∧
    (let s := farther []
     let w : Op := { at4 (.v 2) (.im 0) 0x310 with c := .u 4 }
     w.mb 9 = true ∧ usrc64 s (ctx s) w.c % 8 = 0 ∧ farOf s 1 0 65528 true = (s, .to 0 0 plain) ∧ plain.fw = false ∧ plain.dfr = false) ∧
    ((∃ acc, AtomAt (top 4) (ctx (top 4)) (at4 (.v 2) (.v 4) 0) 4 .global acc) ∧ (∃ acc, AtomAt (top 8) (ctx (top 8)) (at4 (.v 2) (.v 4) 0x202) 8 .global acc) ∧
      inHeat (top 4) ((top 4).at (ctx (top 4))) = false ∧ inHeat (gridded [] 1) ((gridded [] 1).at (ctx (gridded [] 1))) = true) := by
  refine ⟨issues_all (by decide +kernel), by decide +kernel, by decide +kernel, ⟨by decide +kernel, by decide +kernel, rfl, by decide +kernel, by decide +kernel⟩,
    ⟨_, .global (by decide +kernel)⟩, ⟨_, .global (by decide +kernel)⟩, by decide +kernel⟩

theorem witness_FabricWords_bulk :
    (∀ s ∈ [farther (bulkDesc 65528 65472 64 0), farther (bulkDesc 0 0 0 4), copying 0 0 (List.replicate 32 op0), farther (bulkDesc 0 0 (2 ^ 24 + 1) 0)],
      issuesNow s { bufw (.u 2) with md := 0, imm := 2 ^ 31 } [] false = true ∧ seqsOwed s 1 = false) ∧
    (let s := farther (bulkDesc 65528 65472 64 0)
     let d := leNat ((rdRun s (ctx s) (.u 8) 8 (ctx s).low).flatMap (fun v => leBytes 4 v.toNat))
     bf d 128 32 = 64 ∧ bf (bf d 160 32) 0 3 ≤ 4 ∧ bf (bf d 160 32) 3 10 = 0 ∧ bf (bf d 160 32) 16 3 = 0 ∧ bf d 192 64 = 0 ∧ Lies s (ctx s) 0 (bf d 0 64) 64 65528 ∧
     (s.conn 0).lost = false ∧ (s.conn 0).next < 2 ^ 24 ∧ bit (2 ^ 31 : W64).toNat 31 = true) ∧
    (let s := mem []
     Lies s (ctx s) 1 192 64 (2 ^ 32 + 192) ∧ Lies s (ctx s) 1 252 4 (2 ^ 32 + 252)) ∧
    farOf (farther (bulkDesc 65528 65472 64 0)) 1 0 65472 true = (farther (bulkDesc 65528 65472 64 0), .to 0 0 plain) ∧
    32 ≤ ((copying 0 0 (List.replicate 32 op0)).core 1).copies.length := by
  refine ⟨by decide +kernel, ⟨by decide +kernel, by decide +kernel, by decide +kernel, by decide +kernel, by decide +kernel, by unfold Lies; decide +kernel, by decide +kernel,
    by decide +kernel, by decide +kernel⟩, ⟨by unfold Lies; decide +kernel, by unfold Lies; decide +kernel⟩, rfl, by decide +kernel⟩

theorem witness_FabricWords_counters :
    (∀ e ∈ [(counting 0 true, sysw 0 0x20), (counting 0 false, sysw 0), (counting 5 false, sysw 0), (ab 252 9, sysw 0 0x3FF), (ab 253 9, sysw 0), (ab 256 9, sysw 0),
            (asked 3, sysw 0), (asked 3 true, sysw 0), (asked 16415, sysw 0), (asked 16416, sysw 0), (asked 3 true false, sysw 0)], issuesNow e.1 e.2 [] false = true ∧
      e.1.evq0.length < 4096 ∧ e.1.evq1.length < 4096) ∧
    (∀ n, sysw 0 ≠ { sysw 0 with a := .v n }) ∧
    (∀ s ∈ [counting 0 true, counting 0 false, ab 252 9], (s.at (ctx s)).guest = none ∧ usrc s (ctx s) (.u 4) % 4 = 0 ∧ usrc s (ctx s) (.u 4) + 4 ≤ (s.team 1 0).scratch) ∧
    (∀ t ∈ [0, 5], (tget? ((counting t true).core 1).arrCtrs 0).any (fun c => c.ts == t && c.armed && c.bar == some 15 && c.off + 4 ≤ 256) = true) ∧
    (namesChip 16415 = true ∧ namesChip 16416 = false ∧ ((asked 3 true).conn 3).lost = true ∧ ((asked 3).conn 3).lost = false ∧ ((asked 3).at (ctx (asked 3))).priv = true ∧
      ((asked 3 true false).at (ctx (asked 3 true false))).priv = false) :=
  ⟨by decide +kernel, by simp [sysw], by decide +kernel, by decide +kernel, by decide +kernel⟩

/-- Chip 0 with a link to chip 3, this state of the connection, and the requests of `asking`. -/
def joined (q : Conn) (reqs : List Req := []) : State :=
  { asking (req .load .look) with reqs, ports := [(2, { up := true })], conns := [(3, q)], ref := 200000, stks := [] }
def pkt (typ : Nat) (body : Body) (len : Nat := 0) (src : Nat := 3) : Packet := { typ, src, dst := 0, gpn := 7, len, body }
/-- The packet can come in, and nothing of its connection stands before it. -/
def comesIn (s : State) (p : Packet) : Bool :=
  s.phase.lit && packetFits s p && (if p.src = 0 then s.loop.contains p else namesChip p.src && p.dst == 0 && (arrivalPort s p).isSome) &&
  p.seq == (s.conn p.src).recvAll && (s.conn p.src).recvSet == [] && (s.conn p.src).held == [] && !(passedOn s p)
/-- A packet to chip 3 that is kept. -/
def keep (typ : Nat) (body : Body) (sent : Bool := true) (seq : Nat := 0) (refused : Nat := 0) (tries : Nat := 0) : Kept :=
  { pkt := { typ, src := 0, dst := 3, seq, gpn := 7, body, path := 0 }, sent, refused, tries }

theorem witness_FabricEvents :
    (∀ e ∈ [keep 1 .empty false, { keep 1 .empty false with pkt := { typ := 1, src := 0, dst := 3, seq := 0, pin := true, path := 0 } },
            { keep 1 .empty false 16777215 with pkt := { typ := 1, src := 0, dst := 3, seq := 16777215, pin := true, path := 3 } }],
      let q := (joined { kept := [e] }).conn 3
      q.kept.find? (fun e => !e.sent) = some e ∧ e.reserved = false ∧ e.refused = 0 ∧ seqDist e.pkt.seq q.oldest < 256 ∧ q.lost = false ∧
      livePaths (joined { kept := [e] }) 3 = [0] ∧ ∀ i ∈ livePaths (joined { kept := [e] }) 3, pathLoad q i ≤ pathLoad q 0) ∧
    (∀ src ∈ [0, 3], ∀ p ∈ [pkt 1 (.bytes [(1024, 9), (1087, 8)]) 2 src, { pkt 1 .empty 5 src with rc := some (7, 1080, 0) }, { pkt 1 .empty 5 src with act := some (1, 0) }, pkt 1 (.clean true) 0 src,
            pkt 2 (.ranges [(1024, 64)]) 0 src, pkt 4 (.rmw [{ lane := 31, off := 1072, width := 16, fn := .cas, b := 0, c := 1 }]) 32 src, pkt 0x0B (.mapWrite 0 [1, 2, 3, 4]) 4 src],
      comesIn { joined {} with loop := [p] } p = true) ∧
    (let s := (joined {}).modCore 1 (fun o => { o with arrCtrs := [(0, { ts := 0, off := 252, threshold := 9, bar := none, armed := false, sum := 0 })] })
     (tget? (s.core 1).arrCtrs 0).any (fun a => !a.armed && absentLines (s.core 1) ((s.team 1 a.ts).scrBase + a.off) 4 == []) = true) ∧
    (let s := joined {}
     frameSt s 0 0 7 = .serve ∧ stagingFrame 0 = false ∧ (tget? s.msc 16).any (fun e => e.poison == 0 && e.data.length == 64 && keyOf s e.ctx == keyOf s 0) = true ∧
     mapReg 0 = 0 ∧ mapOk s 0 4 = true ∧ s.saves = [] ∧ writesTo s.reqs 1024 = false ∧ savedAnswer s (3, 0) = none) ∧
    (∀ e ∈ [(keep 2 (.ranges [(1024, 4)]), req .load (.remote 3 0) 1024, pkt 3 (.data (cellsAt 1024 [1, 2, 3, 4]) [0])),
            (keep 4 (.rmw []), req (.rmw .cas true) (.remote 3 0) 1024, pkt 5 (.olds [(0, 6)] 0))],
      let s := joined { kept := [e.1] } [e.2.1]
      comesIn s e.2.2 = true ∧ answerTo s e.2.2 = some (3, e.1) ∧ reqUser s 3 0 = some e.2.1 ∧ findReq s 3 = some e.2.1 ∧ e.1.behalf = none ∧ e.1.redir = none) ∧
    (dataFits (.ranges [(1024, 4)]) (cellsAt 1024 [1, 2, 3, 4]) = true ∧ (Acc.rmw .cas true).returns = true ∧ badLanes (req (.rmw .cas true) (.remote 3 0)) [(0, 6)] = []) ∧
    (let s := joined { kept := [keep 1 .empty], next := 1 } [req .store (.remote 3 0)]
     let p := { pkt 6 (.bitmap [16777215]) 32 with seq := 1 }
     s.phase.lit = true ∧ packetFits s p = true ∧ (arrivalPort s p).isSome = true ∧ (s.conn 3).kept.filter (ackCovers 1 [16777215]) = [keep 1 .empty] ∧ (reqUser s 3 0).isSome = true ∧ (keep 1 .empty).redir = none) ∧
    (∀ r ∈ [1, 2, 3], let s := joined { kept := [keep 1 .empty], next := 1 }
      let p : Packet := { pkt 7 .empty with frame := r }
      packetFits s p = true ∧ (arrivalPort s p).isSome = true ∧ findKept s 3 0 = some (keep 1 .empty)) ∧
    (let o : CopyOp := { op0 with kind := .bput, active := true, bulk := some { peer := some 3, ord := false, act := none, pin := none, rc := 0, todo := [], out := [{ off := 0, n := 64, pkt := some (3, 0) }] } }
     let s := (joined { kept := [keep 1 .empty], next := 1 }).modCore 1 (fun q => { q with copies := [o] })
     opUser s 3 0 = some (1, o) ∧ o ∈ (s.core 1).copies ∧ reqUser s 3 0 = none ∧ o.cause = 0 ∧ (s.core 1).copyFrozen = false) ∧
    (∀ t ∈ [0, 1], let s : State := { joined { recvAll := 9 } with jobs := [{ id := 8, core := 1, slot := 0, uid := 1, res := 5, d := .u 2, kind := .connReset 3 0 }] }
      let p : Packet := { pkt 0x0D .empty with tag := t }
      packetFits s p = true ∧ (arrivalPort s p).isSome = true ∧ (resetJob s 3).any (fun j => j.id == 8) = true ∧ (s.conn 3).kept = [] ∧ (s.conn 3).waiting = [] ∧ s.reqs = [] ∧ s.arrSrc = []) ∧
    (∀ t ∈ [0, 0x0E, 0x1F], comesIn (joined {}) (pkt t .empty) = true) := by
  and_intros <;> decide +kernel

theorem witness_FabricEvents_timeouts :
    (∀ n ∈ [0, 16777215], let h : Packet := { pkt 1 .empty with seq := n }
      let q := (joined { recvAll := n, held := [h] }).conn 3
      q.held.find? (fun h => h.seq == n) = some h ∧ q.recvAll = n ∧ q.recvSet = [] ∧ n < 2 ^ 24) ∧
    (∀ e ∈ [keep 2 (.ranges [(0, 4)]), keep 2 (.ranges [(0, 4)]) true 0 0 7], let r := req .rld (.remote 3 0)
      let s := joined { kept := [e] } [r]
      s.phase.lit = true ∧ overdue s 3 = some e ∧ nextPath s 3 0 = some 0 ∧ s.retry = 7 ∧ keptThrough e = false ∧ opUser s 3 0 = none ∧ s.evq0.length < 4096 ∧
      ∀ p ∈ r.pieces, p.lane < 32 ∧ canFault s r p.lane = true) ∧
    (∀ n ∈ [1, 2], let e := keep 2 (.ranges [(0, 4)]) true 0 n
      let s : State := { joined { kept := [e] } [req .rld (.remote 3 0)] with ownerCache := [(7, .dram 3 0 0)] }
      findKept s 3 0 = some e ∧ hasUser s 3 0 = true ∧ e.at_ + 100 * s.rto ≤ s.ref ∧ tget? s.hostPages 7 = none ∧ ocFind s 7 = some (.dram 3 0 0) ∧ reachable s 3 = true ∧
      (s.conn 3).kept.find? (fun x => x.refused = n && x.pkt.gpn == 7) = some e) ∧
    (let s : State := { joined {} with jobs := [{ id := 8, core := 1, slot := 0, uid := 1, res := 5, d := .u 2, kind := .connReset 3 186000 }] }
     (resetJob s 3).any (fun j => j.kind == .connReset 3 186000) = true ∧ 186000 + 100 * s.rto * s.retry ≤ s.ref) :=
  ⟨by decide +kernel, by decide +kernel, by decide +kernel, by decide +kernel⟩

/-! ### Bank units -/

/-- The entries of the 16 frames of row 0 of pseudo-channel 0; page 0 of context 0 stands in frame 0. -/
def rowTable (flags : Nat) : Memory :=
  (List.range 16).flatMap (fun j => [(192 * j, BitVec.ofNat 8 (13 + flags)), (192 * j + 16, BitVec.ofNat 8 (7 + j)),
    (192 * j + 28, 255), (192 * j + 29, 255), (192 * j + 30, 255), (192 * j + 31, 255)])
/-- A crew whose u4 names row 0, with a claim on its pseudo-channel and its queue. -/
def banked (claim : Option (Nat × Nat)) (lanes : Mask := BitVec.allOnes 32) (q : List BankCmd := []) (flags : Nat := 0) (u : Tab W32 := []) : State :=
  let s := (lone { crew0 with u } lanes {}).modCore 1 (fun o => { o with tlb := [{ ctx := 0, vpn := 0, tr := plain }] })
  let s := s.modTeam 1 0 (fun t => { t with uid := 1, grid := 1, crews := 1 })
  { s with ownerCache := [(7, dram0)], dram := rowTable flags, stks := [(0, { bankQ := q, pcs := [(0, { claim })], here := [(0, 7)] })] }
def bcmd (code : Nat) : BankCmd := { id := 4, code, pc := 0, core := 1, slot := 0, uid := 1, ts := 0, lanes := 1, res := 5, d := .v 252, on := true, acc := 7, sel := 0xFF, bytes := List.replicate 32 1 }

theorem witness_BankWords :
    (∀ s ∈ [banked none, banked (some (1, 0)), banked (some (2, 63)), banked (some (1, 0)) 1, banked (some (1, 0)) 3 (List.replicate 64 (bcmd 0xB2)), banked (some (1, 0)) 3 [] 16],
      issuesNow s (sysw 0) [] false = true ∧ issuesNow s (sysw 0 0 (.v 252)) [252, 253, 254, 255] false = true ∧ s.evq0.length < 4096 ∧ s.evq1.length < 4096 ∧
      (s.at (ctx s)).trapent ≠ 0xFFFFFFFF ∧ ∀ l ∈ lanesOf (ctx s).on, inTrap (tget 0 (s.at (ctx s)).trapinfo l) = false) ∧
    (∀ e ∈ [(65528, 63), (0, 0)], let s : State := { banked (some (1, 0)) with dram := [] }
      bankSite s (ctx s) e.1 = (s, .at_ { stack := 0, pc := e.2, row := 0 })) ∧
    ((ctx (banked none)).mask = BitVec.allOnes 32 ∧ (ctx (banked none)).on = BitVec.allOnes 32 ∧ (ctx (banked none 1)).on ≠ BitVec.allOnes 32) ∧
    (claimCount { banked none with stks := [(0, { pcs := (List.range 16).map (fun i => (1 + i, { claim := some (1, 0) })) })] } 1 0 = 16 ∧ claimCount (banked none) 1 0 = 0) ∧
    (∀ f ∈ [0, 16], let s := banked (some (1, 0)) 1 [] f
      ∀ j, j < 16 → let n := (j * 384 + 0) / 64
        n < 2 ^ 20 ∧ stagingFrame n = false ∧ bit (frameEntry s 0 n) 0 = true ∧ entCtx (frameEntry s 0 n) = 0 ∧ bit (frameEntry s 0 n) 2 = true ∧ bit (frameEntry s 0 n) 6 = false ∧
        bit (frameEntry s 0 n) 4 = (f == 16)) ∧
    (keyOf (banked none) 0 = none ∧ keyOf { banked none with keys := [(5, 1)] } 5 ≠ none) ∧
    (let s := mem [] { crew0 with guest := some guest0 }
     Issues s (sysw 0) [] false (ctx s) ∧ (s.at (ctx s)).guest ≠ none) ∧
    (∀ va, 2 ^ 57 ≤ va → (bankSite s0 (ctx s0) va).2 = .bad 0x11) := by
  refine ⟨by decide +kernel, by decide +kernel, by decide +kernel, by decide +kernel, by decide +kernel, by decide +kernel, ⟨issues_of (by decide +kernel), by decide +kernel⟩, fun va h => ?_⟩
  simp only [bankSite, decide_eq_true h, Bool.or_true, if_true]

/-- A command that is at the head, and an add of lane 0. -/
def adding (float held : Bool) : State :=
  let p : Piece := { lane := 0, addr := 1024, at_ := 0, base := 1024, len := 4, b := 5 }
  let s := asking { there (req (.bkadd float held) .atOwner 1024) dram0 with pieces := [p] }
  { s with msc := [] }

theorem witness_BankEvents :
    (∀ e ∈ [(top 4, at4 (.v 2) (.im 0) 0, [], false)], Issues e.1 e.2.1 e.2.2.1 e.2.2.2 (ctx e.1)) ∧
    (∀ l ∈ lanesOf (ctx (top 4)).on, addr64 (top 4) (ctx (top 4)) (at4 (.v 2) (.im 0) 0) l + 4 ≤ 2 ^ 57) ∧
    (((top 4).at (ctx (top 4))).guest = none ∧ addsHeld (top 4) (ctx (top 4)) (at4 (.v 2) (.im 0) 0) = false) ∧
    (let s := banked none 3 (List.replicate 64 (bcmd 0xB2))
     Issues s (at4 (.v 2) (.im 0) 0) [] false (ctx s) ∧ addsHeld s (ctx s) (at4 (.v 2) (.im 0) 0) = true) ∧
    (let s := mem [] { crew0 with guest := some guest0 }
     Issues s (sysw 0) [] false (ctx s) ∧ (s.at (ctx s)).guest ≠ none ∧ s.evq0.length < 4096 ∧ s.evq1.length < 4096) ∧
    (∀ n ∈ [0xB0, 0xB1, 0xB2, 0xB3, 0xB4, 0xB5, 0xB7], let s := banked (some (1, 0)) 1 [bcmd n]
      (s.stack 0).bankQ.find? (fun c => c.id == 4) = some (bcmd n) ∧ bankTurn s 0 (bcmd n) = true ∧ (s.team 1 0).live = true ∧
      (tget ({} : PcSt) (s.stack 0).pcs 0).claim = some (1, 0)) ∧
    (bcmd 0xB4).bytes.length = 32 ∧
    (∀ float ∈ [false, true], ∀ held ∈ [false, true], let s := adding float held
      ∃ r t p, findReq s (96 / 32) = some r ∧ r.acc = .bkadd float held ∧ r.owner = some (.dram 0 0 0) ∧ r.tr = some t ∧ t.fw = false ∧
        r.pieces.find? (fun p => p.lane == 96 % 32) = some p ∧ addTurn s r = true ∧ p.addr % 4 = 0 ∧ Memory.wf s.dram = true ∧ s.msc = [] ∧
        tget false s.poison ((0 * 2 ^ 36 + 0 * 2 ^ 16 + p.addr % 65536) / 32) = false) := by
  refine ⟨issues_all (by decide +kernel), by decide +kernel, by decide +kernel, ⟨issues_of (by decide +kernel), by decide +kernel⟩,
    ⟨issues_of (by decide +kernel), by decide +kernel⟩, by decide +kernel, by decide +kernel, ?_⟩
  intro float hf held hh
  exact ⟨_, _, _, rfl, rfl, rfl, rfl, rfl, rfl, by revert float held; decide +kernel, rfl, by revert float held; decide +kernel, rfl, by revert float held; decide +kernel⟩

/-! ### The whole machine -/

/-- A state whose path stands at an offset of an overlay slot that holds these bytes there, or whose overlay is loading. -/
def fetching (n v off : Nat) (id : Nat := 0) (loading : Option Nat := none) : State :=
  let s := lone { crew0 with pc := (List.range 32).map (fun l => (l, { off })) } (BitVec.allOnes 32) {}
  s.modCore 1 (fun o => { o with ov0 := { id, loading, mem := Memory.write [] off (leBytes n v) } })
def path0 : Issue := { core := 1, slot := 0, lanes := BitVec.allOnes 32 }

theorem witness_StepRunsDecodedWord :
    (let s := fetching 8 0x0C2C000204040200 65528
     s.cur = some path0 ∧ pathStands { s with cur := none } path0 = true ∧ (pathPc { s with cur := none } path0).off = 65528 ∧
     decodeBytes ((((s.core 1).ov 0).mem).read (32 - 65528 % 32) 65528) = .word { h := { form := .w64 }, ins := .iadd { d := .v 2, a := .v 2, b := .im 1, md := 0xB0 } }) ∧
    (let s : State := { fetching 8 0x0C2C000204040200 0 with cur := none, second := some { path0 with second := true } }
     s.cur = none ∧ s.second = some { path0 with second := true } ∧ pathStands { s with second := none } { path0 with second := true } = true) ∧
    (let s := fetching 8 3 24
     decodeBytes ((((s.core 1).ov 0).mem).read (32 - 24 % 32) 24) = .bad 0x02 ∧ (s.crew 1 0).trapent ≠ 0xFFFFFFFF ∧
     ∀ l ∈ lanesOf path0.lanes, bit (tget 0 (s.crew 1 0).trapinfo l).toNat 31 = false) ∧
    (let v := ((fetching 8 0 0 5).core 1).ov 0
     v.loading = none ∧ v.id ≠ 0) ∧
    (pathPc { fetching 8 0 65536 with cur := none } path0).off = 65536 ∧
    (∀ d ∈ [0, 5], (((fetching 8 0 0 0xFFFF (some d)).core 1).ov 0).loading = some d) ∧
    (let s := lone { crew0 with live := 1 } (BitVec.allOnes 32) {}
     pathStands { s with cur := none } path0 = false) := by decide +kernel

theorem witness_EncodeDecode :
    (Word.mk {} (.iadd { d := .v 2, a := .v 2, b := .im 1, md := 0xB0 })).wf = true ∧ (Word.mk {} .exit).wf = true ∧
    (Word.mk { form := .w128i } (.pair { x := half 0x40 1 3 4 11, y := half 0xC0 2 5 6 0 })).wf = true := by decide +kernel

theorem witness_ArithmeticKeepsToItsCrew :
    s0.cur = some path0 ∧ (∃ t, exec (.iadd (vw 11 0)) s0 = .next t) ∧ (∃ t, exec (.exp2 (vw 0 0)) s0 = .next t) ∧
    ∃ t, exec (.pair { x := half 0x40 1 3 4 11, y := half 0xC0 2 5 6 0 }) (lone crew0 (BitVec.allOnes 32) { form := .w128i }) = .next t := by
  have h (o : Host.Outcome State Fault Refusal) (h : (match o with | .next _ => true | _ => false) = true) : ∃ t, o = .next t := by
    cases o <;> first | exact ⟨_, rfl⟩ | cases h
  exact ⟨by decide +kernel, h _ (by decide +kernel), h _ (by decide +kernel), h _ (by decide +kernel)⟩

/-! ## One step -/

/-- A word gives a next state of which this holds. -/
def after (i : Instr) (s : State) (P : State → Bool) : Bool := match exec i s with | .next t => P t | _ => false
/-- The value that is on its way to u2. -/
def u2Of (t : State) : Option W32 := (t.crew 1 0).results.findSome? (fun r => r.wr.findSome? (fun w => match w with | .u 2 v => some v | _ => none))
/-- A word of u4 and u6. -/
def given (f : Op → Instr) (a b : W32) (ty m : Nat) : Option W32 :=
  let t := exec (f { d := .u 2, a := .u 4, b := .u 6, md := BitVec.ofNat 11 (ty * 16 + m) }) (ab a b)
  match t with | .next t => u2Of t | _ => none

/-- R105, R108: a sum wraps, and with .sat stops at the largest value; .i8 elements do not carry into each other. -/
theorem test_iadd_wraps : given .iadd 0xFFFFFFFF 1 11 0 = some 0 ∧ given .iadd 0x7FFFFFFF 1 11 1 = some 0x7FFFFFFF := by decide +kernel
theorem test_iadd_elements : given .iadd 0x00FF00FF 0x00010001 9 0 = some 0 := by decide +kernel
/-- R110: a count of the width or more gives 0, or the sign. -/
theorem test_shl_full : given .shl 1 32 17 0 = some 0 ∧ given .shl 1 31 17 0 = some 0x80000000 := by decide +kernel
theorem test_shra_full : given .shra 0x80000000 32 11 0 = some 0xFFFFFFFF := by decide +kernel
/-- IEEE 754: 1.5 + 2.25 = 3.75; 2^24 + 1 lies half-way and goes to the even 2^24; 3 × -2 = -6. -/
theorem test_fadd : given .fadd 0x3FC00000 0x40100000 0 0 = some 0x40700000 ∧ given .fadd 0x4B800000 0x3F800000 0 0 = some 0x4B800000 := by decide +kernel
theorem test_fmul : given .fmul 0x40400000 0xC0000000 0 0 = some 0xC0C00000 := by decide +kernel
/-- R272, R250: TRAP saves the PC, enters the handler and says cause 0x60. -/
theorem test_trap : after (.trap { md := 7 * 8 }) (standing 8) (fun t =>
    (t.crew 1 0).pcOf 31 == codeAt 256 && tget 0 (t.crew 1 0).trappc 31 == 8 && (tget 0 (t.crew 1 0).trapinfo 31).toNat % 256 == 0x60) = true := by decide +kernel
/-- R272: ERET goes back to TRAPPC and leaves the handler. -/
theorem test_eret : after (.eret {}) (lone { crew0 with trapinfo := [(0, 0x80000060)], trappc := [(0, 24)] } 1 {}) (fun t =>
    (t.crew 1 0).pcOf 0 == codeAt 24 && !(inTrap (tget 0 (t.crew 1 0).trapinfo 0))) = true := by decide +kernel
/-- R82: BRA with OFF16 = -2 goes to the word 8 bytes before its own. -/
theorem test_bra : after (.bra (bw 0xFFFE)) (standing 40) (fun t => (t.crew 1 0).pcOf 31 == codeAt 32) = true := by decide +kernel
/-- R331: the two bin records that the rule writes out. -/
theorem test_bin_records :
    binBits { ciq := 1, ts := 0, wt := 2, op := 0, mw := 1, wi := 0x246001, value := 4 } = 0x20010800002460010000000000000004 ∧
    binBits { ciq := 1, ts := 1, wt := 1, op := 7, mw := 1, wi := 0x246001, value := 5 } = 0x208088E0002460010000000000000005 := by decide +kernel
/-- The step after reset runs a word that is placed: EXIT leaves no lane of the crew live. -/
theorem test_step_exit : (match step (State.reset.withFetchWord 64 0x38) with | .next t => t.cur.isNone && (t.crew 1 0).live == 0 | _ => false) = true := by decide +kernel

end Sys2Proof.Tests
end

/-! ## What a word does within its crew

The frame of a word that touches nothing but its own crew, whatever it does there: complete, wait or fault (R24, R97, R252,
R253). `StaysIn` is a preorder, and every operation of which the words of chapters 4 and 5 are made keeps to it. -/

namespace Sys2Proof.Machine

/-- Every lane stands at a byte offset that is a multiple of 4 (R5). -/
def Crew.aligned (k : Crew) : Prop := ∀ l, (k.pcOf l).off % 4 = 0

/-- What an issue at `pc` or a fault of its word may change of the crew, and that it leaves an aligned crew aligned. -/
structure CrewStays (pc : Pc) (a b : Crew) : Prop where
  rest : { b with pc := a.pc, since := a.since, latch := a.latch, vent := a.vent, rows := a.rows, pendRel := a.pendRel
                  results := a.results, park := a.park, faults := a.faults, trapinfo := a.trapinfo, trappc := a.trappc
                  trapaddr := a.trapaddr, frozen := a.frozen } = a
  pcs : pc.off % 4 = 0 → a.aligned → b.aligned

/-- Nothing differs but the crew of the word, its seat's slot, the numbers that the model gives out, and the events and the
stop of the monitor that a fault causes. -/
structure StaysIn (x : Ctx) (s t : State) : Prop where
  rest : { t with cores := s.cores, cur := s.cur, free := s.free, nextId := s.nextId, evq0 := s.evq0, evq1 := s.evq1, evWait := s.evWait
                  phase := s.phase, msix := s.msix } = s
  others : ∀ c k, (c, k) ≠ (x.c, x.k) → t.crew c k = s.crew c k
  core : ∀ c, { t.core c with slots := (s.core c).slots, busy := (s.core c).busy } = s.core c
  crew : CrewStays x.pc (s.at x) (t.at x)

/-! ### The crew -/

theorem CrewStays.refl (pc : Pc) (a : Crew) : CrewStays pc a a := ⟨rfl, fun _ h => h⟩

theorem CrewStays.trans {pc : Pc} {a b d : Crew} (h : CrewStays pc a b) (g : CrewStays pc b d) : CrewStays pc a d := by
  refine ⟨?_, fun hp ha => g.pcs hp (h.pcs hp ha)⟩
  have h1 := h.rest
  rw [← g.rest] at h1
  exact h1

/-- A change that leaves the PCs keeps them aligned. -/
theorem CrewStays.of_pc {pc : Pc} {a b : Crew} (hp : b.pc = a.pc)
    (h : { b with since := a.since, latch := a.latch, vent := a.vent, rows := a.rows, pendRel := a.pendRel
                  results := a.results, park := a.park, faults := a.faults, trapinfo := a.trapinfo, trappc := a.trappc
                  trapaddr := a.trapaddr, frozen := a.frozen } = a) : CrewStays pc a b := by
  refine ⟨by rw [← hp]; exact h, fun _ ha l => ?_⟩
  have e : b.pcOf l = a.pcOf l := by rw [Crew.pcOf, Crew.pcOf, hp]
  rw [e]
  exact ha l

theorem CrewStays.foldl {α : Type} {pc : Pc} {f : Crew → α → Crew} (h : ∀ k e, CrewStays pc k (f k e)) (l : List α) (k : Crew) :
    CrewStays pc k (l.foldl f k) :=
  l.foldlRecOn f (CrewStays.refl pc k) fun _ hb e _ => hb.trans (h _ e)

theorem Crew.aligned.setPc {k : Crew} (h : k.aligned) {p : Pc} (hp : p.off % 4 = 0) (l : Nat) : (k.setPc l p).aligned := by
  intro j
  by_cases hj : j = l
  · rw [hj, pcOf_setPc_same]; exact hp
  · rw [pcOf_setPc_ne _ _ hj]; exact h j

/-- A lane that is sent to an aligned PC, one at the word or derived from it. -/
theorem CrewStays.setPc {pc p : Pc} (hp : pc.off % 4 = 0 → p.off % 4 = 0) (k : Crew) (l : Nat) : CrewStays pc k (k.setPc l p) :=
  ⟨rfl, fun h ha => ha.setPc (hp h) l⟩

/-- A code address names an aligned PC (R79). -/
theorem pcOfAddr_aligned (a : W32) : (pcOfAddr a).off % 4 = 0 := Nat.mul_mod_right 4 _

/-- Words are whole numbers of 4 bytes (R20). -/
theorem bytes_aligned (f : Form) : f.bytes % 4 = 0 := by cases f <;> rfl

/-- The lanes of the path move past the word (R24). -/
theorem CrewStays.advance (x : Ctx) (k : Crew) : CrewStays x.pc k (Machine.advance x k) :=
  CrewStays.foldl (fun k l => CrewStays.setPc (fun h => (Nat.add_mod _ _ _).trans (by rw [h, bytes_aligned])) k l) _ k

theorem CrewStays.settleRows {pc : Pc} (x : Ctx) (p : Pre) (old k : Crew) : CrewStays pc k (Machine.settleRows x p old k) := by
  obtain ⟨a, v, r, q, h⟩ := settleRows_rest x p old k
  rw [h]
  exact .of_pc rfl rfl

/-! ### The state -/

theorem StaysIn.refl (x : Ctx) (s : State) : StaysIn x s s := ⟨rfl, fun _ _ _ => rfl, fun _ => rfl, .refl _ _⟩

theorem StaysIn.trans {x : Ctx} {s t u : State} (h : StaysIn x s t) (g : StaysIn x t u) : StaysIn x s u := by
  refine ⟨?_, fun c k hk => (g.others c k hk).trans (h.others c k hk), fun c => ?_, h.crew.trans g.crew⟩
  · have h1 := h.rest
    rw [← g.rest] at h1
    exact h1
  · have h1 := h.core c
    rw [← g.core c] at h1
    exact h1

theorem StaysIn.foldl {α : Type} {x : Ctx} {f : State → α → State} (h : ∀ s e, StaysIn x s (f s e)) (l : List α) (s : State) :
    StaysIn x s (l.foldl f s) :=
  l.foldlRecOn f (StaysIn.refl x s) fun _ hb e _ => hb.trans (h _ e)

/-- What keeps to one crew in the sense of the statements stays in it, if its crew does. -/
theorem StaysIn.of_onlyCrew {x : Ctx} {s t : State} (h : OnlyCrew s t x) (hk : CrewStays x.pc (s.at x) (t.at x)) : StaysIn x s t where
  rest := by
    have e := h.rest
    rw [← e]
  others c k hne := by
    by_cases hc : c = x.c
    · subst hc; exact h.slots k (fun hk => hne (by rw [hk]))
    · exact congrArg (fun o : Core => o.crew k) (h.cores c hc)
  core c := by
    by_cases hc : c = x.c
    · subst hc; exact h.core
    · rw [h.cores c hc]
  crew := hk

theorem StaysIn.modCrew {x : Ctx} {s : State} {f : Crew → Crew} (h : CrewStays x.pc (s.at x) (f (s.at x))) :
    StaysIn x s (s.modCrew x.c x.k f) :=
  .of_onlyCrew (OnlyCrew.modCrew s x f) (by rw [State.at, State.at, crew_modCrew_same]; exact h)

/-- An event goes to a queue or waits, and nothing else changes (R248). -/
theorem post_eq (s : State) (die : Nat) (e : Event) : ∃ a b q, s.post die e = { s with evq0 := a, evq1 := b, evWait := q } := by
  by_cases hd : die = 0
  · simp only [State.post, hd, if_true]
    split <;> exact ⟨_, _, _, rfl⟩
  · simp only [State.post, hd, if_false]
    split <;> exact ⟨_, _, _, rfl⟩

theorem StaysIn.post (x : Ctx) (s : State) (die : Nat) (e : Event) : StaysIn x s (s.post die e) := by
  obtain ⟨a, b, q, h⟩ := post_eq s die e
  rw [h]
  exact ⟨rfl, fun _ _ _ => rfl, fun _ => rfl, .refl _ _⟩

theorem StaysIn.done (x : Ctx) (s : State) : StaysIn x s s.done := ⟨rfl, fun _ _ _ => rfl, fun _ => rfl, .refl _ _⟩

/-! ### Faults and traps (R252, R253) -/

theorem StaysIn.freezeCrew (x : Ctx) (s : State) (cause : Nat) (m : Mask) (pc : W32) :
    StaysIn x s (Machine.freezeCrew s x.c x.k cause m pc) := by
  have down (u : State) : StaysIn x u (monitorDown u x.c x.k) := by
    unfold monitorDown
    simp only
    split
    · exact ⟨rfl, fun _ _ _ => rfl, fun _ => rfl, .refl _ _⟩
    · exact .refl x u
  unfold Machine.freezeCrew
  split
  · exact .refl x s
  · exact ((StaysIn.modCrew (.of_pc rfl rfl)).trans (.post x _ _ _)).trans (down _)

/-- A lane that traps goes to the handler, or stands at the word while its crew freezes (R253). -/
theorem StaysIn.trapLane (x : Ctx) (s : State) (len : Nat) (r : Raise) : StaysIn x s (Machine.trapLane s x.c x.k x.pc len r) := by
  unfold Machine.trapLane
  simp only
  split
  · refine (StaysIn.modCrew ?_).trans (.freezeCrew x _ _ _ _)
    exact (CrewStays.setPc (fun h => h) _ r.lane).trans (.of_pc rfl rfl)
  · refine StaysIn.modCrew ?_
    exact (CrewStays.setPc (fun _ => pcOfAddr_aligned (s.at x).trapent) _ r.lane).trans (.of_pc rfl rfl)

/-- Lanes that split off stand at the word (R184). -/
theorem StaysIn.faultSplit (x : Ctx) (s : State) (len : Nat) (l : List Raise) : StaysIn x s (Machine.faultSplit s x.c x.k x.pc len l) := by
  cases l with
  | nil => exact .refl x s
  | cons r l =>
    refine (StaysIn.modCrew (CrewStays.foldl (fun k e => ?_) (r :: l) _)).trans (.post x _ _ _)
    exact (CrewStays.setPc (fun h => h) k e.lane).trans (.of_pc rfl rfl)

theorem StaysIn.takeFaults (x : Ctx) (s : State) (len : Nat) (l : List Raise) : StaysIn x s (Machine.takeFaults s x.c x.k x.pc len l) :=
  (StaysIn.faultSplit x s len _).trans (.foldl (fun s r => .trapLane x s len r) _ _)

theorem StaysIn.faultLanes (x : Ctx) (s : State) (l : List Raise) : StaysIn x s (Machine.faultLanes s x l) := .takeFaults x s _ l

/-- A collective word runs, or its lanes trap (R78). -/
theorem StaysIn.collective {x : Ctx} {s : State} {t : Nat} {f : State → State} (h : StaysIn x s (f s)) :
    StaysIn x s (Machine.collective s x t f) := by
  unfold Machine.collective
  split
  · exact .faultLanes x s _
  · exact h

/-! ### Issue and results (R24 to R26) -/

theorem StaysIn.begun (x : Ctx) (s : State) (p : Pre) (bad : List Nat) : StaysIn x s (Machine.begun s p x bad) := by
  refine (StaysIn.modCrew ?_).trans ((StaysIn.of_onlyCrew (OnlyCrew.holdSeat _ x _ _) ?_).trans (.takeFaults x _ _ _))
  · exact (CrewStays.advance x _).trans (.of_pc rfl rfl)
  · rw [State.at, State.at, crew_modCore_holdSeat]
    exact .refl _ _

theorem StaysIn.ended (x : Ctx) (s : State) (p : Pre) (old : Crew) : StaysIn x s (Machine.ended p x old s) :=
  .of_onlyCrew (OnlyCrew.ended s p x old) (by rw [at_ended]; exact .settleRows x p old _)

theorem StaysIn.addResult (x : Ctx) (s : State) (r : Result) : StaysIn x s (Machine.addResult s x r) := by
  refine .of_onlyCrew (OnlyCrew.addResult s x r) ?_
  obtain ⟨l, h⟩ := at_addResult s x r
  rw [h]
  exact .of_pc rfl rfl

theorem StaysIn.fresh (x : Ctx) (s : State) : StaysIn x s s.fresh.2 := ⟨rfl, fun _ _ _ => rfl, fun _ => rfl, .refl _ _⟩

theorem StaysIn.fixedResult (x : Ctx) (s : State) (lat : Nat) (wr : List Wr) (cs : List Nat) :
    StaysIn x s (Machine.fixedResult s x lat wr cs) := by
  unfold Machine.fixedResult
  split
  · exact .refl x s
  · exact (StaysIn.fresh x s).trans (.addResult x _ _)

theorem StaysIn.boundedResult (x : Ctx) (s : State) (lo hi : Nat) (wr : List Wr) (cs : List Nat) :
    StaysIn x s (Machine.boundedResult s x lo hi wr cs) := by
  unfold Machine.boundedResult
  split
  · exact .refl x s
  · exact (StaysIn.fresh x s).trans (.addResult x _ _)

/-- Lanes that wait for a row are parked (R99). -/
theorem StaysIn.rowPark (x : Ctx) (s : State) (m : Crew → Mask) :
    StaysIn x s (s.modCrew x.c x.k (fun k => forLanes (m k) (fun l k => k.setPark l .row) k)) :=
  .modCrew (CrewStays.foldl (f := fun k l => k.setPark l .row) (fun _ _ => .of_pc rfl rfl) _ _)

/-! ### A whole word -/

/-- The word of an issue gives, where it gives a next state, one in which no path issues and which stays in the crew. -/
def Confined (s : State) (o : Out) : Prop := ∀ t, o = .next t → ∃ x i, s.cur = some i ∧ t.cur = none ∧ StaysIn x s t ∧
  x.c = i.core ∧ x.k = i.slot ∧ ((s.at x).aligned → x.pc.off % 4 = 0)

/-- The PC of a path is that of one of its crew's lanes. -/
theorem ctxOf_pc (s : State) (i : Issue) : (ctxOf s i).c = i.core ∧ (ctxOf s i).k = i.slot ∧
    (ctxOf s i).pc = (s.crew i.core i.slot).pcOf ((lanesOf i.lanes).headD 0) := by
  unfold ctxOf
  simp only
  split <;> exact ⟨rfl, rfl, rfl⟩

/-- A word stays in its crew where what it does on the executing lanes does: issuing and ending a word do. -/
theorem confined_issue {s : State} {p : Pre} {body : Ctx → State → State} (h : ∀ x u, StaysIn x u (body x u)) :
    Confined s (issue s p body) := by
  intro t ht
  unfold issue at ht
  split at ht
  · cases ht
  next i hi =>
    obtain ⟨hc, hk, hpc⟩ := ctxOf_pc s i
    have hal : (s.at (ctxOf s i)).aligned → (ctxOf s i).pc.off % 4 = 0 := fun ha => by
      rw [hpc, ← hc, ← hk]; exact ha _
    simp only at ht
    split at ht
    · cases ht
    split at ht
    · cases ht
      exact ⟨ctxOf s i, i, hi, rfl, .done _ s, hc, hk, hal⟩
    split at ht
    · cases ht
      exact ⟨ctxOf s i, i, hi, rfl, (StaysIn.rowPark (ctxOf s i) s (·.ready s.clk)).trans (.done _ _), hc, hk, hal⟩
    · cases ht
      exact ⟨{ ctxOf s i with on := _ }, i, hi, rfl, ((StaysIn.begun _ s p _).trans (h _ _)).trans (.ended _ _ p _), hc, hk, hal⟩

theorem confined_laneWord (w : Op) (n : Widths) (lat : Nat) (f : Ctx → State → Nat → Nat → Nat → Nat → Nat) (s : State) (comp : Bool) :
    Confined s (laneWord w n lat f s comp) :=
  confined_issue fun x u => .fixedResult x u _ _ _

theorem confined_floatWord (w : Op) (base wd wa : Nat) (lat : FLat) (comp : Bool) (val : Ctx → State → FpEnv → Nat → FRes) (s : State) :
    Confined s (floatWord w base lat wd wa comp val s) := by
  refine confined_issue fun x u => ?_
  split
  · exact .refl x u
  · cases lat with
    | fixed n => exact .fixedResult x u _ _ _
    | long lo hi => exact .boundedResult x u _ _ _ _

theorem confined_tileWord {w : Op} {na : Nat} {scan : Bool} {go : Ctx → Nat → Bool → State → State} {s : State}
    (h : ∀ x t comp u, StaysIn x u (go x t comp u)) :
    Confined s (tileWord w na scan go s) := by
  unfold tileWord
  refine confined_issue fun x u => ?_
  simp only
  split
  · exact .refl x u
  split
  · exact .faultLanes x u _
  · exact .collective (h x _ _ u)

theorem confined_recordWord {w : Op} {go : Ctx → State → State} {s : State} (h : ∀ x u, StaysIn x u (go x u)) :
    Confined s (recordWord w go s) := by
  refine confined_issue fun x u => ?_
  split
  · exact .refl x u
  split
  · exact .faultLanes x u _
  · exact .collective (h x u)

theorem confined_flagWord (w : Op) (mk : Tab (BitVec 5) → Wr) (s : State) : Confined s (flagWord w mk s) := by
  refine confined_issue fun x u => ?_
  split
  · exact .refl x u
  · exact .fixedResult x u _ _ _

theorem confined_fcntclr (w : Op) (s : State) : Confined s (execFcntclr w s) := by
  refine confined_issue fun x u => ?_
  split
  · exact .refl x u
  · exact .fixedResult x u _ _ _

/-- FMODE changes the mode by a result, or faults where the rounding code has no meaning (R160). -/
theorem confined_fmode (w : Op) (s : State) : Confined s (execFmode w s) := by
  refine confined_issue fun x u => ?_
  simp only
  split
  · exact .refl x u
  split
  · exact .faultLanes x u _
  · exact .fixedResult x u _ _ _

/-- PAIR leaves the results of its two halves, one after the other (R38). -/
theorem confined_pair (p : PairOp) (s : State) : Confined s (execPair p s) := by
  have half (x : Ctx) (u : State) (r : FLat × List Wr × List Nat) : StaysIn x u (leaveHalf x u r) := by
    obtain ⟨lat, wr, cs⟩ := r
    cases lat with
    | fixed n => exact .fixedResult x u _ _ _
    | long lo hi => exact .boundedResult x u _ _ _ _
  exact confined_issue fun x u => (half x u _).trans (half x _ _)

/-! ### The words of chapters 4 and 5 -/

/-- The words of chapter 4 whose lanes each give a value of their own sources (R107). -/
def laneInstrs (w : Op) : List Instr :=
  [.iadd w, .isub w, .imul w, .imulh w, .imad w, .imin w, .imax w, .iabs w, .ineg w, .andW w, .orW w, .xorW w, .notW w,
   .shl w, .shr w, .shra w, .rot w, .popc w, .clz w, .brev w, .bfx w, .bfi w, .prmb w, .sel w, .icmp w, .iset w, .lea w,
   .add64 w, .sub64 w, .mad64 w, .mov w, .movi w, .vbcast w, .v2s w, .pand w, .por w, .pxor w, .pnot w, .p2v w, .v2p w]

/-- The other words of chapter 4: those that look across lanes (R117 to R120), and the uniform words (R121). -/
def crossInstrs (w : Op) : List Instr :=
  [.shfl w, .vote w, .redx w, .scanx w, .matchW w, .ffl w, .umov w, .uloop w, .ucmp w, .uand w]

/-- The words of chapter 5 that give values with flags and counts (R141 to R151). -/
def floatInstrs (w : Op) : List Instr :=
  [.fadd w, .fsub w, .fmul w, .ffma w, .fmin w, .fmax w, .fminm w, .fmaxm w, .fabs w, .fneg w, .fcpys w, .fcmp w, .fset w,
   .frnd w, .ffrx w, .fscale w, .fclass w, .cvtf w, .cvti w, .cvtfi w, .sclx w]

/-- The SFU words, divisions, dot products and the rest of R142 and R143 (R153 to R157). -/
def sfuInstrs (w : Op) : List Instr :=
  [.exp2 w, .log2 w, .rcp w, .rsq w, .sqrt w, .sin w, .cos w, .tanh w, .sigm w, .erf w, .divf w, .divi w, .fdot2 w, .fdot4 w, .fmad2 w,
   .fsat w, .fmed3 w]

/-- The words for flags, counters and the mode (R158 to R160), and PAIR (R36). -/
def modeInstrs (w : Op) (p : PairOp) : List Instr :=
  [.flrd w, .flclr w, .flset w, .fcntrd w, .fcntclr w, .fmode w, .fmodeGet w, .pair p]

theorem confined_laneInstrs (w : Op) (s : State) : ∀ i ∈ laneInstrs w, Confined s (exec i s) := by
  refine List.forall_iff_forall_mem.1 ?_
  simp only [laneInstrs, List.Forall]
  unfold exec
  simp only [execIadd, execIsub, execImul, execImulh, execImad, execImin, execImax, execIabs, execIneg,
    execAndW, execOrW, execXorW, execNotW, execShl, execShr, execShra, execRot, execPopc, execClz, execBrev, execBfx, execBfi, execPrmb,
    execSel, execIcmp, execIset, execLea, execAdd64, execSub64, execMad64, execMov, execMovi, execVbcast, execV2s, execPand, execPor,
    execPxor, execPnot, execP2v, execV2p, fnWord, predWord]
  and_intros <;> exact confined_laneWord w _ _ _ s _

theorem confined_crossInstrs (w : Op) (s : State) : ∀ i ∈ crossInstrs w, Confined s (exec i s) := by
  refine List.forall_iff_forall_mem.1 ?_
  simp only [crossInstrs, List.Forall]
  unfold exec
  simp only [execShfl, execVote, execRedx, execScanx, reduceWord, execMatchW, execFfl, execUmov,
    execUloop, execUcmp, execUand]
  refine ⟨?shfl, ?vote, ?redx, ?scanx, ?matchW, ?ffl, ?umov, ?uloop, ?ucmp, ?uand⟩
  case shfl | umov => exact confined_issue fun x u => .fixedResult x u _ _ _
  case vote | redx | scanx | matchW | ffl => exact confined_tileWord fun x _ _ u => .fixedResult x u _ _ _
  case uloop | ucmp | uand => exact confined_laneWord w _ _ _ s _

theorem confined_floatInstrs (w : Op) (s : State) : ∀ i ∈ floatInstrs w, Confined s (exec i s) := by
  refine List.forall_iff_forall_mem.1 ?_
  simp only [floatInstrs, List.Forall]
  unfold exec
  simp only [execFadd, execFsub, execFmul, execFfma, execFmin, execFmax, execFminm, execFmaxm, execFabs,
    execFneg, execFcpys, execFcmp, execFset, execFrnd, execFfrx, execFscale, execFclass, execCvtf, execCvti, execCvtfi, execSclx, fWord,
    cvtWord]
  and_intros <;> exact confined_floatWord _ _ _ _ _ _ _ s

theorem confined_sfuInstrs (w : Op) (s : State) : ∀ i ∈ sfuInstrs w, Confined s (exec i s) := by
  refine List.forall_iff_forall_mem.1 ?_
  simp only [sfuInstrs, List.Forall]
  unfold exec
  simp only [execExp2, execLog2, execRcp, execRsq, execSqrt, execSin, execCos, execTanh, execSigm, execErf,
    execDivf, execDivi, execFdot2, execFdot4, execFmad2, execFsat, execFmed3, sfuWord, dotWord, fWord]
  and_intros <;> exact confined_floatWord w _ _ _ _ _ _ s

theorem confined_packb (w : Op) (s : State) : Confined s (execPackb w s) := by
  unfold execPackb
  exact confined_recordWord fun x u => .fixedResult x u _ _ _

theorem confined_unpkb (w : Op) (s : State) : Confined s (execUnpkb w s) := by
  unfold execUnpkb
  exact confined_recordWord fun x u => .fixedResult x u _ _ _

/-- PACKB and UNPKB, which gather and split a block record (R152). -/
theorem confined_records (w : Op) (s : State) : ∀ i ∈ [Instr.packb w, .unpkb w], Confined s (exec i s) := by
  refine List.forall_iff_forall_mem.1 ?_
  simp only [List.Forall]
  unfold exec
  exact ⟨confined_packb w s, confined_unpkb w s⟩

theorem confined_modeInstrs (w : Op) (p : PairOp) (s : State) : ∀ i ∈ modeInstrs w p, Confined s (exec i s) := by
  refine List.forall_iff_forall_mem.1 ?_
  simp only [modeInstrs, List.Forall]
  unfold exec
  simp only [execFlrd, execFlclr, execFlset, execFcntrd, execFmodeGet]
  exact ⟨confined_issue fun x u => .fixedResult x u _ _ _, confined_flagWord w _ s, confined_flagWord w _ s,
    confined_issue fun x u => .boundedResult x u _ _ _ _, confined_fcntclr w s, confined_fmode w s,
    confined_issue fun x u => .fixedResult x u _ _ _, confined_pair p s⟩

/-- Settles O60: each word is built of operations that stay in the crew of its issue. -/
theorem arithmeticKeepsToItsCrew : Obligations.ArithmeticKeepsToItsCrew := by
  intro w p s t iss hcur i hi hexec
  have hall : ∀ i ∈ (laneInstrs w ++ crossInstrs w) ++ (floatInstrs w ++ [.packb w, .unpkb w] ++ sfuInstrs w ++ modeInstrs w p),
      Confined s (exec i s) := by
    simp only [List.forall_mem_append]
    exact ⟨⟨confined_laneInstrs w s, confined_crossInstrs w s⟩,
      ⟨⟨confined_floatInstrs w s, confined_records w s⟩, confined_sfuInstrs w s⟩, confined_modeInstrs w p s⟩
  simp only [laneInstrs, crossInstrs, floatInstrs, sfuInstrs, modeInstrs, List.cons_append, List.nil_append] at hall hi
  obtain ⟨x, j, hj, hnone, hstays, hc, hk, hpc⟩ := hall i hi t hexec
  obtain rfl : iss = j := Option.some.inj (hcur.symm.trans hj)
  rw [← hc, ← hk]
  obtain ⟨hrest, hothers, hcore, hcrew, hpcs⟩ := hstays
  exact ⟨hnone, hrest, hothers, hcore, hcrew, fun ha => hpcs (hpc ha) ha⟩

end Sys2Proof.Machine

/-! ## Words that act on the state in which they begin

A system word changes the chip, or its crew, as it would change them in the state before its issue; the advance of the
PCs and the seat's slot come in between and do not touch what it changes (R24, R97). -/

namespace Sys2Proof.Machine

/-- State `b` is to `u` as the state in which the word of `x` acts is to `s`, the state before its issue. -/
structure BegunOnto (s u b : State) (x : Ctx) : Prop where
  only : OnlyCrew u b x
  keeps : KeepsCrew (u.at x) (b.at x) []
  moves : MovesOn s b x
  results : (b.at x).results = (s.at x).results

theorem OnlyCrew.symm {s t : State} {x : Ctx} (h : OnlyCrew s t x) : OnlyCrew t s x where
  rest := by
    have e := h.rest
    rw [← e]
  cores c hc := (h.cores c hc).symm
  core := by
    have e := h.core
    rw [← e]
  slots k hk := (h.slots k hk).symm

/-- A change of the writes on their way does not touch a crew. -/
theorem OnlyCrew.sysWrs {s t : State} {x : Ctx} (h : OnlyCrew s t x) (r : List SysWr) :
    OnlyCrew { s with sysWrs := r } { t with sysWrs := r } x := by
  obtain ⟨h1, h2, h3, h4⟩ := h
  exact ⟨congrArg (fun u : State => { u with sysWrs := r }) h1, h2, h3, h4⟩

theorem KeepsCrew.mono {k k' : Crew} {l m : List Nat} (h : KeepsCrew k k' l) (hlm : l ⊆ m) : KeepsCrew k k' m :=
  ⟨fun n hn => h.v n (fun hl => hn (hlm hl)), h.rest⟩

theorem vdst_subset (o : Opd) {a b : Nat} (h : a ≤ b) : vdst o a ⊆ vdst o b := by
  cases o with
  | v r => exact List.map_subset _ (List.range_subset.2 h)
  | no | u | sp | im | ext => exact List.Subset.refl _

/-- Wider operands have more registers to release. -/
theorem lastRegs_subset (h : Head) (w : Op) {a b c n : Nat} (ha : a ≤ n) (hb : b ≤ n) (hc : c ≤ n) :
    lastRegs h w a b c ⊆ lastRegs h w n n n := by
  have side (q : Bool) (o : Opd) {m : Nat} (hm : m ≤ n) : (if q then vdst o m else []) ⊆ (if q then vdst o n else []) := by
    cases q with
    | true => exact vdst_subset o hm
    | false => exact List.Subset.refl _
  have app {a b c d : List Nat} (h : a ⊆ b) (g : c ⊆ d) : a ++ c ⊆ b ++ d :=
    List.append_subset.2 ⟨List.subset_append_of_subset_left _ h, List.subset_append_of_subset_right _ g⟩
  exact app (app (side h.la w.a ha) (side h.lb w.b hb)) (side h.lc w.c hc)

theorem results_begun (s : State) (p : Pre) (x : Ctx) : ((begun s p x []).at x).results = (s.at x).results := by
  obtain ⟨t, h, -⟩ := at_begun s p x
  rw [h]

/-- A change of the chip outside its cores. -/
theorem BegunOnto.chip {s u : State} (hu : u.cores = s.cores) (p : Pre) (x : Ctx) :
    BegunOnto s u { u with cores := (begun s p x []).cores } x := by
  have hcore (c : Nat) : u.core c = s.core c := congrArg (fun t => tget ({} : Core) t c) hu
  have hcrew (c k : Nat) : u.crew c k = s.crew c k := congrArg (fun o : Core => o.crew k) (hcore c)
  obtain ⟨-, hcores, hown, hslots⟩ := OnlyCrew.begun s p x
  constructor
  · exact ⟨rfl, fun c hc => (hcores c hc).trans (hcore c).symm, by rw [hcore]; exact hown, fun k hk => (hslots k hk).trans (hcrew _ k).symm⟩
  · rw [State.at, hcrew]
    exact keeps_begun s p x []
  · exact (begins_begun s p x).moves
  · exact results_begun s p x

/-- A change of the crew that has nothing to do with its PCs and age. -/
theorem BegunOnto.modCrew (s : State) (p : Pre) (x : Ctx) {f : Crew → Crew}
    (hf : ∀ k t n, f { k with pc := t, since := n } = { f k with pc := t, since := n }) (hr : ∀ k, (f k).results = k.results) :
    BegunOnto s (s.modCrew x.c x.k f) ((begun s p x []).modCrew x.c x.k f) x := by
  obtain ⟨t, hat, hpc⟩ := at_begun s p x
  have hu : (s.modCrew x.c x.k f).at x = f (s.at x) := crew_modCrew_same s x.c x.k f
  have hb : ((begun s p x []).modCrew x.c x.k f).at x = { f (s.at x) with pc := t, since := s.clk + 1 } := by
    rw [← hf, ← hat]; exact crew_modCrew_same _ x.c x.k f
  refine ⟨((OnlyCrew.modCrew s x f).symm.trans (OnlyCrew.begun s p x)).trans (OnlyCrew.modCrew _ x f), ?_, fun l => ?_, ?_⟩
  · rw [hu, hb]
    exact ⟨fun _ _ _ _ => rfl, rfl⟩
  · rw [hb]
    exact hpc l
  · rw [hb]
    exact hr _

/-- A write that goes to its unit in addition. -/
theorem BegunOnto.sysWrs {s u b : State} {x : Ctx} (h : BegunOnto s u b x) (r : List SysWr) (n : Nat) :
    BegunOnto s { u with sysWrs := r } { b with sysWrs := r, nextId := n } x := by
  obtain ⟨ho, hk, hm, hr⟩ := h
  exact ⟨(ho.sysWrs r).trans ⟨rfl, fun _ _ => rfl, rfl, fun _ _ => rfl⟩, hk, hm, hr⟩

/-- A word that issues and acts on the begun state as on the state before does what it did there. -/
theorem does_of_begunOnto {i : Instr} {p : Pre} {s u : State} {x : Ctx} {body : Ctx → State → State}
    (h : Issues s p.w p.dst p.comp x) (hi : exec i s = issue s p body)
    (hl : lastRegs x.h p.w p.ra p.rb p.rc ++ p.last ⊆ lastRegs x.h p.w 16 16 16)
    (hb : BegunOnto s u (body x (begun s p x [])) x) : Does i s u x p.w (NoneLeft s x) := by
  obtain ⟨ho, hk, hm, hr⟩ := hb
  refine ⟨_, hi.trans (issue_next h body), ho.trans (OnlyCrew.ended _ p x _), ?_, fun l => ?_, ?_⟩
  · rw [at_ended]
    exact (hk.mono (List.nil_subset _)).trans ((keeps_settleRows x p _ _).mono hl)
  · rw [pcOf_ended]
    exact hm l
  · rw [NoneLeft, results_ended]
    exact hr

/-! ## SWRITE (R234, R273) -/

/-- What a write by a privileged crew to a register changes at once lies outside the cores, and does not depend on them. -/
theorem writePrw_cores (s : State) (C : Tab Core) (n i v : Nat) :
    writePrw { s with cores := C } n i v = { writePrw s n i v with cores := C } := by
  unfold writePrw
  split
  case h_10 | h_11 =>
    simp only
    split <;> rfl
  all_goals rfl

theorem cores_writePrw (s : State) (n i v : Nat) : (writePrw s n i v).cores = s.cores := by
  have h := congrArg State.cores (writePrw_cores s s.cores n i v)
  exact h

/-- The registers that hold the value written to them: number, writable bits (R234, R395, R440), and the value of the one at
index `i`. -/
def plainRegs (i : Nat) : List (Nat × Nat × (State → Nat)) :=
  [(0x20, 0xFFFFFFF000, (·.cwtbase.toNat)), (0x21, 0xFFFFFFF000, (·.savebase.toNat)),
   (0x22, 2 ^ 32 - 1, (·.savesize.toNat)), (0x23, 0xFFFFFFF000, (·.holdbase.toNat)), (0x24, 2 ^ 32 - 1, (·.holdsize.toNat)),
   (0x25, 0xFFFFFFF000, (·.groupbase.toNat)), (0x30, 0xFFFFFFF000, fun s => (s.stack i).itbase.toNat),
   (0x31, 0xFFFFFFF000, fun s => (s.stack i).anchorbase.toNat), (0x60, 0xFFFFFFF000, (·.homebase.toNat)),
   (0x61, 0xFFFFFFF000, (·.hometab.toNat)), (0x62, 0xFFFFFFF000, fun s => (s.stack i).stubbase.toNat),
   (0x63, 0xFFFF, fun s => (s.stack i).migcore.toNat), (0x64, 0xFFFF, (·.stubcfg.toNat)), (0x65, 0xC000FFFF, (·.trkcfg.toNat)),
   (0x66, 0x80000000000FFFFF, fun s => (s.stack i).pgpool.toNat), (0x70, 0xFFFFFFF000, (·.connbase.toNat)), (0x71, 0x3FFFFF, (·.fabcfg.toNat))]

/-- A number under a mask that fits a word. -/
theorem toNat_ofNat_and {k m : Nat} (v : Nat) (hm : m < 2 ^ k) : (BitVec.ofNat k (v &&& m)).toNat = v &&& m := by
  rw [BitVec.toNat_ofNat, Nat.mod_eq_of_lt (Nat.lt_of_le_of_lt Nat.and_le_right hm)]

theorem toNat_ofNat_mod {k j : Nat} (v : Nat) (hj : j ≤ k) : (BitVec.ofNat k (v % 2 ^ j)).toNat = v &&& (2 ^ j - 1) := by
  rw [← Nat.and_two_pow_sub_one_eq_mod]
  exact toNat_ofNat_and v (Nat.lt_of_lt_of_le (Nat.sub_lt (Nat.two_pow_pos j) Nat.one_pos) (Nat.pow_le_pow_right (by decide) hj))

/-- A plain register takes the writable bits of what is written to it. -/
theorem writePrw_value (s : State) (i v : Nat) : ∀ e ∈ plainRegs i, e.2.2 (writePrw s e.1 i v) = v &&& e.2.1 := by
  have base : (w64 (v &&& baseMask)).toNat = v &&& 0xFFFFFFF000 := toNat_ofNat_and v (by decide)
  have size : (w32 v).toNat = v &&& (2 ^ 32 - 1) := by rw [Nat.and_two_pow_sub_one_eq_mod]; exact BitVec.toNat_ofNat _ _
  have low16 : (w32 (v % 2 ^ 16)).toNat = v &&& 0xFFFF := toNat_ofNat_mod (j := 16) v (by decide)
  have low22 : (w32 (v % 2 ^ 22)).toNat = v &&& 0x3FFFFF := toNat_ofNat_mod (j := 22) v (by decide)
  have trk : (w32 (v &&& 0xC000FFFF)).toNat = v &&& 0xC000FFFF := toNat_ofNat_and v (by decide)
  have pool : (w64 (v &&& 0x80000000000FFFFF)).toNat = v &&& 0x80000000000FFFFF := toNat_ofNat_and v (by decide)
  refine List.forall_iff_forall_mem.1 ?_
  simp only [plainRegs, List.Forall, writePrw, stack_modStack_same, base, size, low16, low22, trk, pool, and_self]

/-- It leaves every other plain register: a line of the table for each pair of them. -/
theorem writePrw_others (s : State) (i v : Nat) :
    ∀ e ∈ plainRegs i, ∀ f ∈ plainRegs i, f.1 ≠ e.1 → f.2.2 (writePrw s e.1 i v) = f.2.2 s := by
  refine List.forall_iff_forall_mem.1 ?_
  simp [plainRegs, writePrw, State.stack, State.modStack]

/-- Beside the plain registers nothing differs, and of the registers of the stacks only those of index `i`. -/
structure OnlyPlain (i : Nat) (s u : State) : Prop where
  others : ∀ j, j ≠ i → u.stack j = s.stack j
  own : { u.stack i with itbase := 0, anchorbase := 0, stubbase := 0, migcore := 0, pgpool := 0 } =
    { s.stack i with itbase := 0, anchorbase := 0, stubbase := 0, migcore := 0, pgpool := 0 }
  rest : { u with cwtbase := s.cwtbase, savebase := s.savebase, savesize := s.savesize, holdbase := s.holdbase, holdsize := s.holdsize
                  groupbase := s.groupbase, stks := s.stks, homebase := s.homebase, hometab := s.hometab, stubcfg := s.stubcfg
                  trkcfg := s.trkcfg, connbase := s.connbase, fabcfg := s.fabcfg } = s

theorem OnlyPlain.chip {i : Nat} {s u : State} (hu : u.stks = s.stks)
    (h : { u with cwtbase := s.cwtbase, savebase := s.savebase, savesize := s.savesize, holdbase := s.holdbase, holdsize := s.holdsize
                  groupbase := s.groupbase, homebase := s.homebase, hometab := s.hometab, stubcfg := s.stubcfg
                  trkcfg := s.trkcfg, connbase := s.connbase, fabcfg := s.fabcfg } = s) : OnlyPlain i s u := by
  have hs (j : Nat) : u.stack j = s.stack j := congrArg (fun t => tget ({} : Stack) t j) hu
  exact ⟨fun j _ => hs j, by rw [hs], by rw [← hu]; exact h⟩

theorem OnlyPlain.modStack {i : Nat} {s : State} {f : Stack → Stack}
    (hf : ∀ m, { f m with itbase := 0, anchorbase := 0, stubbase := 0, migcore := 0, pgpool := 0 } =
      { m with itbase := 0, anchorbase := 0, stubbase := 0, migcore := 0, pgpool := 0 }) : OnlyPlain i s (s.modStack i f) :=
  ⟨fun _ hj => tget_tset_ne _ _ _ hj, by rw [stack_modStack_same]; exact hf _, rfl⟩

/-- A write to a plain register changes one register of the chip or of a stack. -/
theorem writePrw_onlyPlain (s : State) (i v : Nat) : ∀ e ∈ plainRegs i, OnlyPlain i s (writePrw s e.1 i v) := by
  refine List.forall_iff_forall_mem.1 ?_
  simp only [plainRegs, List.Forall, writePrw]
  refine ⟨?cwt, ?save, ?savesize, ?hold, ?holdsize, ?group, ?itbase, ?anchor, ?home, ?hometab, ?stub, ?migcore, ?stubcfg, ?trk, ?pgpool,
    ?conn, ?fab⟩
  case itbase | anchor | stub | migcore | pgpool => exact .modStack fun _ => rfl
  all_goals exact .chip rfl rfl

/-- SWRITE to any register but those whose writes have an effect of their own or go to the lanes. -/
theorem writeReg_plain (s : State) (x : Ctx) {n : Nat} (i v : Nat) (hn : n ∉ [0x02, 0x10, 0x12, 0x40, 0x50, 0x72]) :
    writeReg s x n i v = if (s.at x).priv then writePrw s n i v else s := by
  unfold writeReg
  split
  case h_7 => rfl
  all_goals simp at hn

theorem priv_begun (s : State) (p : Pre) (x : Ctx) : ((begun s p x []).at x).priv = (s.at x).priv := by
  obtain ⟨t, h, -⟩ := at_begun s p x
  rw [h]

/-- The data of an SWRITE. -/
def swData (s : State) (x : Ctx) (w : Op) : Nat := if w.mb 0 then usrc64 s x w.d else usrc s x w.d

theorem ReadsAs.swData {s s' : State} {x : Ctx} (h : ReadsAs s s' x) (w : Op) : swData s' x w = Machine.swData s x w := by
  simp only [Machine.swData, usrc64, usrc, h.rd64, h.rd]

/-- SWRITE does what its write does, once for the crew (R270). -/
theorem swrite_does {w : Op} {s u : State} {x : Ctx} (h : Issues s w [] false x)
    (hb : BegunOnto s u (writeReg (begun s { w } x []) x (bf w.imm.toNat 0 16) (bf w.imm.toNat 16 8) (swData s x w)) x) :
    Does (.swrite w) s u x w (NoneLeft s x) := by
  have hi : exec (.swrite w) s = execSwrite w s := rfl
  unfold execSwrite sysWord at hi
  refine does_of_begunOnto (p := { w }) h hi ?_ ?_
  · rw [List.append_nil]
    exact lastRegs_subset x.h w (a := 1) (b := 1) (c := 1) (by decide) (by decide) (by decide)
  · have hon : (x.on == 0) = false := by simpa using h.on
    rw [← (readsAs_begun s { w } x).swData w] at hb
    simpa only [hon, Bool.false_eq_true, if_false, Bool.false_and, Machine.swData] using hb

theorem plainRegs_plain {i : Nat} : ∀ e ∈ plainRegs i, e.1 ∉ [0x02, 0x10, 0x12, 0x40, 0x50, 0x72] := by
  refine List.forall_iff_forall_mem.1 ?_
  simp only [plainRegs, List.Forall]
  decide

/-- A privileged crew stores the writable bits of a plain register. -/
theorem swrite_stores {w : Op} {s : State} {x : Ctx} (h : Issues s w [] false x) (hp : (s.at x).priv = true)
    (hn : bf w.imm.toNat 0 16 ∉ [0x02, 0x10, 0x12, 0x40, 0x50, 0x72]) :
    Does (.swrite w) s (writePrw s (bf w.imm.toNat 0 16) (bf w.imm.toNat 16 8) (swData s x w)) x w (NoneLeft s x) := by
  refine swrite_does h ?_
  rw [writeReg_plain _ _ _ _ hn, priv_begun, if_pos hp]
  have e := writePrw_cores s (begun s { w } x []).cores (bf w.imm.toNat 0 16) (bf w.imm.toNat 16 8) (swData s x w)
  have hb := BegunOnto.chip (cores_writePrw s (bf w.imm.toNat 0 16) (bf w.imm.toNat 16 8) (swData s x w)) { w } x
  rw [← e] at hb
  exact hb

/-- An unprivileged crew changes no register but TRAPPC, FCNTSTAT of its grid, and ERR of a window. -/
theorem writeReg_unprivileged {s : State} {x : Ctx} (hp : (s.at x).priv = false) {n : Nat} (i v : Nat) (hn : n ∉ [0x02, 0x12, 0x40]) :
    writeReg s x n i v = s := by
  rw [State.at] at hp
  unfold writeReg
  simp only [hp, Bool.false_and, Bool.false_eq_true, if_false]
  split
  case h_1 | h_3 | h_4 => simp at hn
  all_goals rfl

theorem swrite_unprivileged {w : Op} {s : State} {x : Ctx} (h : Issues s w [] false x) (hp : (s.at x).priv = false)
    (hn : bf w.imm.toNat 0 16 ∉ [0x02, 0x12, 0x40]) : Does (.swrite w) s s x w (NoneLeft s x) := by
  refine swrite_does h ?_
  rw [writeReg_unprivileged ((priv_begun s _ x).trans hp) _ _ hn]
  exact .chip rfl _ x

/-- TRAPPC is written in each executing lane (R233). -/
theorem forLanes_trappc (m : Mask) (v : W32) (k : Crew) :
    forLanes m (fun l k => { k with trappc := tset k.trappc l v }) k =
      { k with trappc := (lanesOf m).foldl (fun t l => tset t l v) k.trappc } := by
  unfold forLanes
  induction lanesOf m generalizing k with
  | nil => rfl
  | cons a t ih => rw [List.foldl_cons, ih]; rfl

theorem swrite_trappc {w : Op} {s : State} {x : Ctx} (h : Issues s w [] false x) (hn : bf w.imm.toNat 0 16 = 2) :
    Does (.swrite w) s (s.modCrew x.c x.k (forLanes x.on (fun l k => { k with trappc := tset k.trappc l (codeBits (swData s x w)) })))
      x w (NoneLeft s x) := by
  refine swrite_does h ?_
  rw [hn]
  exact .modCrew s _ x (fun k t n => by simp only [forLanes_trappc]) (fun k => by rw [forLanes_trappc])

/-- The write that a word sends to its unit. -/
def sentWr (s : State) (x : Ctx) (reg inst data : Nat) : SysWr :=
  { id := s.nextId, core := x.c, slot := x.k, reg, inst, data := w64 data, priv := (s.at x).priv, grid := (s.at x).grid }

/-- What a crew that sends one looks like from before the issue. -/
theorem queueWr_onto (s : State) (p : Pre) (x : Ctx) (reg inst data : Nat) :
    BegunOnto s { s.modCrew x.c x.k (fun k => { k with sysHold := k.sysHold + 1 }) with sysWrs := s.sysWrs ++ [sentWr s x reg inst data] }
      (queueWr (begun s p x []) x reg inst data) x := by
  have hsent : sentWr (begun s p x []) x reg inst data = sentWr s x reg inst data := by
    obtain ⟨t, h, -⟩ := at_begun s p x
    simp only [sentWr, h, begun_nextId]
  have hq : queueWr (begun s p x []) x reg inst data =
      { (begun s p x []).modCrew x.c x.k (fun k => { k with sysHold := k.sysHold + 1 }) with
        sysWrs := s.sysWrs ++ [sentWr (begun s p x []) x reg inst data], nextId := s.nextId + 1 } := rfl
  rw [hq, hsent]
  exact (BegunOnto.modCrew s p x (f := fun k => { k with sysHold := k.sysHold + 1 }) (fun _ _ _ => rfl) (fun _ => rfl)).sysWrs _ _

/-- The writes of a privileged crew to GRIDSTAT, FCNTSTAT and PORTSTAT that have an effect of their own (R138, R236, R440). -/
def sends (s : State) (n i v : Nat) : Prop :=
  (n = 0x10 ∧ bf v 29 3 = 0 ∧ (s.grid i).state = 4) ∨ (n = 0x12 ∧ bit v 31 = true) ∨ (n = 0x72 ∧ bit v 29 = true)

theorem writeReg_sends {s : State} {x : Ctx} {n i v : Nat} (hp : (s.at x).priv = true) (h : sends s n i v) :
    writeReg s x n i v = queueWr s x n i v := by
  rw [State.at] at hp
  rcases h with ⟨rfl, hv, hg⟩ | ⟨rfl, hv⟩ | ⟨rfl, hv⟩
  · simp only [writeReg, hp, hv, hg, decide_true, Bool.and_self, if_true]
  · simp only [writeReg, hp, hv, Bool.true_or, Bool.and_self, if_true]
  · simp only [writeReg, hp, hv, Bool.and_self, if_true]

/-- A write with an effect of its own goes to its unit, and the crew waits for it (R273). -/
theorem swrite_sends {w : Op} {s : State} {x : Ctx} (h : Issues s w [] false x) (hp : (s.at x).priv = true)
    (hn : sends s (bf w.imm.toNat 0 16) (bf w.imm.toNat 16 8) (swData s x w)) :
    Does (.swrite w) s { s.modCrew x.c x.k (fun k => { k with sysHold := k.sysHold + 1 }) with
      sysWrs := s.sysWrs ++ [sentWr s x (bf w.imm.toNat 0 16) (bf w.imm.toNat 16 8) (swData s x w)] } x w (NoneLeft s x) := by
  refine swrite_does h ?_
  rw [writeReg_sends ((priv_begun s _ x).trans hp) hn]
  exact queueWr_onto s _ x _ _ _

/-! ## The events by which a write arrives (R138, R175, R176, R236, R265, R440) -/

theorem findWr_id {s : State} {id reg : Nat} {r : SysWr} (h : findWr s id reg = some r) : r.id = id := by
  have e := List.find?_some h
  simp only [Bool.and_eq_true, beq_iff_eq] at e
  exact e.1

/-- A write that has arrived is no longer on its way, and memory is as its effect left it. -/
theorem endWr_rest {s u : State} {id reg : Nat} {r : SysWr} (hr : findWr s id reg = some r) (hq : u.sysWrs = s.sysWrs) (hm : SameMemory s u) :
    (endWr u r).sysWrs = s.sysWrs.filter (fun q => !(q.id == id)) ∧ SameMemory s (endWr u r) := by
  obtain ⟨hdram, hmsc, hhost, hscratch, htiles⟩ := hm
  constructor
  · rw [← findWr_id hr, ← hq]
    rfl
  · refine ⟨hdram, hmsc, hhost, fun c => ?_, htiles⟩
    rw [← hscratch c]
    by_cases hc : c = r.core
    · subst hc
      simp [endWr, Core.modCrew, Core.setCrew]
      rfl
    · exact congrArg Core.scratch (core_modCrew_ne _ _ _ hc)

theorem grid_endWr (s : State) (r : SysWr) (g : Nat) : (endWr s r).grid g = s.grid g := rfl

theorem getLsbD_w64_two_pow (k b : Nat) : (w64 (2 ^ k)).getLsbD b = (decide (b < 64) && decide (k = b)) := by
  rw [w64, BitVec.getLsbD_ofNat, Nat.testBit_two_pow]

/-- A bit of a 64-bit register that is cleared. -/
theorem getLsbD_putBits_zero (old : W64) (k b : Nat) : (putBits old (2 ^ k) 0).getLsbD b = (old.getLsbD b && decide (b ≠ k)) := by
  by_cases hb : b < 64
  · rw [putBits, BitVec.getLsbD_or, BitVec.getLsbD_and, BitVec.getLsbD_not, getLsbD_w64_two_pow, show w64 0 &&& w64 (2 ^ k) = 0 from BitVec.zero_and]
    simp [hb, eq_comm]
  · simp [BitVec.getLsbD_of_ge _ _ (Nat.le_of_not_lt hb)]

/-- One that is set. -/
theorem getLsbD_or_two_pow (old : W64) {k : Nat} (hk : k < 64) (b : Nat) :
    (old ||| w64 (2 ^ k)).getLsbD b = (old.getLsbD b || decide (b = k)) := by
  rw [BitVec.getLsbD_or, getLsbD_w64_two_pow]
  by_cases hb : b = k
  · simp [hb, hk]
  · simp [hb, Ne.symm hb]

theorem gridstatFree_frees {s : State} {id : Nat} {r : SysWr} (h : findWr s id 0x10 = some r) (hg : (s.grid r.inst).state = 4) :
    Completes (.gridstatFree id) s fun t => (t.sysWrs = s.sysWrs.filter (fun q => !(q.id == id)) ∧ SameMemory s t) ∧
      (t.grid r.inst).state = 0 ∧ ∀ g, g ≠ r.inst → t.grid g = s.grid g := by
  have e : exec (.gridstatFree id) s = execGridstatFree id s := rfl
  simp only [execGridstatFree, h, hg, if_true] at e
  refine ⟨_, e, endWr_rest h rfl ⟨rfl, rfl, rfl, fun _ => rfl, rfl⟩, ?_, fun g hne => tget_tdel_ne _ _ hne⟩
  exact congrArg Grid.state (tget_tdel_same _ _ _)

theorem fcntstatClear_clears {s : State} {id : Nat} {r : SysWr} (h : findWr s id 0x12 = some r) :
    Completes (.fcntstatClear id) s fun t => (t.sysWrs = s.sysWrs.filter (fun q => !(q.id == id)) ∧ SameMemory s t) ∧
      (t.grid r.inst).fcntstat = (s.grid r.inst).fcntstat &&& 0x7FFFFFFF ∧ ∀ g, g ≠ r.inst → t.grid g = s.grid g := by
  have e : exec (.fcntstatClear id) s = execFcntstatClear id s := rfl
  simp only [execFcntstatClear, h] at e
  refine ⟨_, e, endWr_rest h rfl ⟨rfl, rfl, rfl, fun _ => rfl, rfl⟩, ?_, fun g hne => ?_⟩
  · rw [grid_endWr, grid_modGrid_same]
  · rw [grid_endWr, grid_modGrid_ne _ _ hne]

theorem portstatClear_clears {s : State} {id : Nat} {r : SysWr} (h : findWr s id 0x72 = some r) :
    Completes (.portstatClear id) s fun t => (t.sysWrs = s.sysWrs.filter (fun q => !(q.id == id)) ∧ SameMemory s t) ∧
      t.port r.inst = { s.port r.inst with trans := 0, drop := 0 } ∧ ∀ p, p ≠ r.inst → t.port p = s.port p := by
  have e : exec (.portstatClear id) s = execPortstatClear id s := rfl
  simp only [execPortstatClear, h] at e
  exact ⟨_, e, endWr_rest h rfl ⟨rfl, rfl, rfl, fun _ => rfl, rfl⟩, tget_tset_same _ _ _ _, fun p hne => tget_tset_ne _ _ _ hne⟩

theorem hdmctlClose_closes {s : State} {id : Nat} {r : SysWr} (h : findWr s id 0x50 = some r) :
    Completes (.hdmctlClose id) s fun t => (t.sysWrs = s.sysWrs.filter (fun q => !(q.id == id)) ∧ SameMemory s t) ∧
      ∀ b, t.hdmctl.getLsbD b = (s.hdmctl.getLsbD b && decide (b ≠ 63)) := by
  have e : exec (.hdmctlClose id) s = execHdmctlClose id s := rfl
  simp only [execHdmctlClose, h] at e
  exact ⟨_, e, endWr_rest h rfl ⟨rfl, rfl, rfl, fun _ => rfl, rfl⟩, getLsbD_putBits_zero s.hdmctl 63⟩

/-- The window of an index after a change of it and the arrival of a write. -/
theorem win_endWr (s : State) (i : Nat) (f : Win → Win) (r : SysWr) :
    tget ({} : Win) (endWr (s.modWin i f) r).wins i = f (tget {} s.wins i) := tget_tset_same _ _ _ _

/-- FWCTL_ENABLE sets EN where the checks of R176 hold, and ERR where one fails. -/
theorem fwctlEnable_sets {s : State} {id : Nat} {r : SysWr} (h : findWr s id 0x40 = some r) (hen : bit r.data.toNat 63 = true) :
    let ctl (s : State) (b : Nat) : Bool := (tget ({} : Win) s.wins r.inst).ctl.getLsbD b
    Completes (.fwctlEnable id) s fun t => (t.sysWrs = s.sysWrs.filter (fun q => !(q.id == id)) ∧ SameMemory s t) ∧
      ctl t 63 = (ctl s 63 || winOk s r.inst) ∧ ctl t 62 = (ctl s 62 || !(winOk s r.inst)) ∧ ∀ b, b < 62 → ctl t b = ctl s b := by
  have e : exec (.fwctlEnable id) s = execFwctlEnable id s := rfl
  simp only [execFwctlEnable, h, hen, Bool.not_true, Bool.false_eq_true, if_false] at e
  refine ⟨_, e, endWr_rest h rfl ⟨rfl, rfl, rfl, fun _ => rfl, rfl⟩, ?_⟩
  simp only [win_endWr]
  cases winOk s r.inst with
  | true =>
    simp only [if_true, getLsbD_or_two_pow _ (show 63 < 64 by decide)]
    refine ⟨rfl, by simp, fun b hb => ?_⟩
    rw [decide_eq_false (by omega), Bool.or_false]
  | false =>
    simp only [Bool.false_eq_true, if_false, getLsbD_or_two_pow _ (show 62 < 64 by decide)]
    refine ⟨by simp, rfl, fun b hb => ?_⟩
    rw [decide_eq_false (by omega), Bool.or_false]

/-- FWCTL_DISABLE begins to close the window. -/
theorem fwctlDisable_closes {s : State} {id : Nat} {r : SysWr} (h : findWr s id 0x40 = some r) (hen : bit r.data.toNat 63 = false) :
    Completes (.fwctlDisable id) s fun t => (t.sysWrs = s.sysWrs.filter (fun q => !(q.id == id)) ∧ SameMemory s t) ∧
      tget ({} : Win) t.wins r.inst = { tget ({} : Win) s.wins r.inst with closing := true } := by
  have e : exec (.fwctlDisable id) s = execFwctlDisable id s := rfl
  simp only [execFwctlDisable, h, hen, Bool.false_eq_true, if_false] at e
  exact ⟨_, e, endWr_rest h rfl ⟨rfl, rfl, rfl, fun _ => rfl, rfl⟩, win_endWr s _ _ r⟩

/-! ### Dropping the lines of a view (R176) -/

/-- State `t` differs from `s` in DRAM with its marks and in the memory-side cache alone, which has lost the sectors that a
test picks. -/
structure Evicts (gone : Nat → Bool) (s t : State) : Prop where
  rest : { t with dram := s.dram, gkey := s.gkey, poison := s.poison, msc := s.msc } = s
  msc : ∀ n, tget? t.msc n = if gone n then none else tget? s.msc n

theorem Evicts.refl (s : State) : Evicts (fun _ => false) s s := ⟨rfl, fun _ => rfl⟩

theorem Evicts.trans {g h : Nat → Bool} {s t u : State} (hg : Evicts g s t) (hh : Evicts h t u) : Evicts (fun n => h n || g n) s u := by
  refine ⟨?_, fun n => ?_⟩
  · have h1 := hg.rest
    rw [← hh.rest] at h1
    exact h1
  · rw [hh.msc, hg.msc]
    cases h n <;> rfl

/-- Writing a sector to DRAM leaves the cache. -/
theorem sectorBack_eq (s : State) (sec : Nat) (e : MscSector) :
    ∃ d g p, sectorBack s sec e = { s with dram := d, gkey := g, poison := p } := by
  have gran (s : State) (ctx g : Nat) (b : List Byte) : ∃ d k, granWrite s ctx g b = { s with dram := d, gkey := k } := ⟨_, _, rfl⟩
  obtain ⟨d, k, h⟩ := gran s e.ctx (2 * sec) (e.data.take 32)
  obtain ⟨d', k', h'⟩ := gran { s with dram := d, gkey := k } e.ctx (2 * sec + 1) (e.data.drop 32)
  unfold sectorBack
  rw [h, h']
  exact ⟨_, _, _, rfl⟩

theorem cleanSector_eq (s : State) (sec : Nat) : ∃ d g p m, cleanSector s sec = { s with dram := d, gkey := g, poison := p, msc := m } ∧
    ∀ n, n ≠ sec → tget? m n = tget? s.msc n := by
  unfold cleanSector
  split
  next e _ =>
    split
    · obtain ⟨d, g, p, h⟩ := sectorBack_eq s sec e
      rw [h]
      exact ⟨d, g, p, _, rfl, fun n hn => tget?_tset_ne _ _ hn⟩
    · exact ⟨_, _, _, _, rfl, fun _ _ => rfl⟩
  · exact ⟨_, _, _, _, rfl, fun _ _ => rfl⟩

theorem evictSector_evicts (s : State) (sec : Nat) : Evicts (· == sec) s (evictSector s sec) := by
  obtain ⟨d, g, p, m, h, hm⟩ := cleanSector_eq s sec
  unfold evictSector dropSector
  rw [h]
  refine ⟨rfl, fun n => ?_⟩
  by_cases hn : n = sec
  · simp [hn]
  · simp [hn, hm n hn]

theorem Evicts.foldl {α : Type} (f : α → Nat) (l : List α) (s : State) :
    Evicts (fun n => decide (n ∈ l.map f)) s (l.foldl (fun s e => evictSector s (f e)) s) := by
  induction l generalizing s with
  | nil => exact .refl s
  | cons a l ih =>
    have h := (evictSector_evicts s (f a)).trans (ih (evictSector s (f a)))
    have hmem : (fun n => decide (n ∈ (a :: l).map f)) = fun n => decide (n ∈ l.map f) || (n == f a) := by
      funext n
      simp [Bool.or_comm, beq_eq_decide]
    rw [hmem]
    exact h

/-- A key that is not listed has no value. -/
theorem tget?_of_not_mem {α : Type} {t : Tab α} {k : Nat} (h : k ∉ t.map (·.1)) : tget? t k = none := by
  induction t with
  | nil => rfl
  | cons e t ih =>
    rw [List.map_cons, List.mem_cons, not_or] at h
    rw [tget?, if_neg (Ne.symm h.1)]
    exact ih h.2

/-- The sectors of a window's records leave the cache, and no others. -/
theorem dropView_evicts (s : State) (w : Win) :
    Evicts (fun n => overlaps (64 * n) 64 w.base (w.count * w.recSize)) s (dropView s w) := by
  obtain ⟨hrest, hmsc⟩ := Evicts.foldl (·.1) (s.msc.filter (fun e => overlaps (64 * e.1) 64 w.base (w.count * w.recSize))) s
  refine ⟨hrest, fun n => (hmsc n).trans ?_⟩
  by_cases hv : overlaps (64 * n) 64 w.base (w.count * w.recSize) = true
  · rw [if_pos hv]
    split
    · rfl
    next h =>
      refine tget?_of_not_mem fun hmem => h ?_
      obtain ⟨e, he, rfl⟩ := List.mem_map.1 hmem
      exact decide_eq_true (List.mem_map.2 ⟨e, List.mem_filter.2 ⟨he, hv⟩, rfl⟩)
  · rw [if_neg hv, if_neg]
    intro hmem
    obtain ⟨e, he, rfl⟩ := List.mem_map.1 (of_decide_eq_true hmem)
    exact hv (List.mem_filter.1 he).2

theorem msc_modWin (s : State) (i : Nat) (f : Win → Win) : (s.modWin i f).msc = s.msc := rfl

/-- FWCTL_DISABLE_DONE: no line of the view is left in the memory-side cache, and EN reads 0. -/
theorem fwctlDisableDone_drops {s : State} {id : Nat} (hc : (tget ({} : Win) s.wins id).closing = true)
    (hb : winBusy s (tget {} s.wins id) = false) : Completes (.fwctlDisableDone id) s fun t =>
      let v : Win := tget {} s.wins id
      let view (n : Nat) : Bool := overlaps (64 * n) 64 v.base (v.count * v.recSize)
      t.hostMem = s.hostMem ∧ (∀ c, t.core c = s.core c) ∧ t.quads = s.quads ∧ t.sysWrs = s.sysWrs ∧
      (∀ n, if view n then tget? t.msc n = none else tget? t.msc n = tget? s.msc n) ∧ (tget ({} : Win) t.wins id).closing = false ∧
      ∀ b, (tget ({} : Win) t.wins id).ctl.getLsbD b = ((tget ({} : Win) s.wins id).ctl.getLsbD b && decide (b ≠ 63)) := by
  have e : exec (.fwctlDisableDone id) s = execFwctlDisableDone id s := rfl
  simp only [execFwctlDisableDone, hc, hb, Bool.not_false, Bool.and_self, if_true] at e
  obtain ⟨hrest, hmsc⟩ := dropView_evicts s (tget {} s.wins id)
  generalize dropView s (tget {} s.wins id) = d at e hrest hmsc
  have hwin : tget ({} : Win) (d.modWin id (fun q => { q with ctl := putBits q.ctl (2 ^ 63) 0, closing := false })).wins id =
      { tget ({} : Win) s.wins id with ctl := putBits (tget ({} : Win) s.wins id).ctl (2 ^ 63) 0, closing := false } := by
    rw [← hrest]
    exact tget_tset_same _ _ _ _
  refine ⟨_, e, by rw [← hrest]; rfl, fun c => by rw [← hrest]; rfl, by rw [← hrest]; rfl, by rw [← hrest]; rfl, fun n => ?_,
    by rw [hwin], fun b => by rw [hwin]; exact getLsbD_putBits_zero _ 63 b⟩
  rw [msc_modWin, hmsc]
  split <;> rfl

/-! ## The statement -/

/-- Settles O34: SWRITE acts on its begun state as on the state before; the events act once the write has arrived. -/
theorem registerWrites : Obligations.RegisterWrites := by
  refine ⟨fun w s x h _ => ⟨fun hp e he hn => ?_, fun hp hn => ?_, swrite_trappc h, swrite_sends h⟩, fun s id r =>
    ⟨gridstatFree_frees, fcntstatClear_clears, portstatClear_clears, hdmctlClose_closes, fwctlEnable_sets, fwctlDisable_closes,
      fwctlDisableDone_drops⟩⟩
  · have hplain := plainRegs_plain e he
    have hd := swrite_stores h hp (hn ▸ hplain)
    obtain ⟨hothers, hown, hrest⟩ := writePrw_onlyPlain s (bf w.imm.toNat 16 8) (swData s x w) e he
    rw [hn] at hd ⊢
    exact ⟨_, hd, writePrw_value s _ _ e he, writePrw_others s _ _ e he, hothers, hown, hrest⟩
  · refine swrite_unprivileged h hp ?_
    rcases hn with ⟨e, he, hn⟩ | hn | hn | hn
    · exact fun hm => plainRegs_plain e he (hn ▸ (by decide : [0x02, 0x12, 0x40] ⊆ [0x02, 0x10, 0x12, 0x40, 0x50, 0x72]) hm)
    all_goals
      rw [hn]
      decide

end Sys2Proof.Machine

/-! ## The board and the Gremen controller (R16 to R18, R262 to R264, R268, R269, R431)

What each event of the board does to the state. Most change the controller's own record, the events posted or one port.
MONITOR_START reaches into the cores: it places two teams one after the other, and the first placement has to leave the core of
the second one vacant. -/

namespace Sys2Proof.Machine

theorem Phase.lit_iff {p : Phase} : p.lit = true ↔ p = .started ∨ p = .running := by
  simp [Phase.lit]

/-! ### Reset, identity, firmware, attestation (R262, R268, R269) -/

theorem identityRecord_starts {s : State} (r : W16) (h : s.phase = .waitIdentity) : Completes (.identityRecord r) s fun t =>
    t = if r.getLsbD 15 && namesChip (r.toNat % 2 ^ 15) then
      { s with phase := .started, chipid := r.toNat % 2 ^ 15, gremen := { s.gremen with identity := some (r.toNat % 2 ^ 15) } } else s := by
  have e : exec (.identityRecord r) s = execIdentityRecord r s := rfl
  have hbit : bit r.toNat 15 = r.getLsbD 15 := by
    rw [bit, BitVec.getLsbD, Nat.testBit_eq_decide_div_mod_eq, beq_eq_decide]
  have hid : bf r.toNat 0 15 = r.toNat % 2 ^ 15 := by rw [bf, pow_zero, Nat.div_one]
  rw [execIdentityRecord, hbit, hid, h, bne_self_eq_false, if_neg Bool.false_ne_true] at e
  split at e
  next hvalid => exact ⟨_, e, (if_pos hvalid).symm⟩
  next hvalid => exact ⟨_, e, (if_neg hvalid).symm⟩

theorem firmwareUpdate_needs_signature (s : State) (f : Firmware) : Completes (.firmwareUpdate f) s fun t =>
    t = if !(firmwareValid f) then s
      else { s with gremen := if f.monitor then { s.gremen with monitor := some f }
                              else { s.gremen with firmware := f.record ++ f.image0 ++ f.image1 } } := by
  have e : exec (.firmwareUpdate f) s = execFirmwareUpdate f s := rfl
  rw [execFirmwareUpdate] at e
  refine ⟨_, e.trans ?_, rfl⟩
  cases firmwareValid f <;> cases f.monitor <;> rfl

theorem attestationReport_takes_leaf {s : State} {id : Nat} (h : s.gremen.identity = some id) : Completes .attestationReport s fun t =>
    t = if 2 ^ 20 ≤ s.gremen.leaf then s
      else { s with gremen := { s.gremen with leaf := s.gremen.leaf + 1 }, reports := s.reports ++ [signedReport s.gremen.leaf id] } := by
  have e : exec .attestationReport s = execAttestationReport s := rfl
  rw [execAttestationReport] at e
  split at e
  next hnone => exact absurd (hnone.symm.trans h) (by simp)
  next i hi =>
    obtain rfl : i = id := Option.some.inj (hi.symm.trans h)
    by_cases hused : 2 ^ 20 ≤ s.gremen.leaf
    · exact ⟨_, e.trans (if_pos hused), (if_pos hused).symm⟩
    · exact ⟨_, e.trans (if_neg hused), (if_neg hused).symm⟩

/-! ### Power and heat (R16 to R18) -/

/-- An event of the controller goes to a queue or waits; its code is one free choice (R248). -/
theorem powerEvent_eq (s : State) : ∃ n a b q, powerEvent s = { s with free := n, evq0 := a, evq1 := b, evWait := q } := by
  obtain ⟨a, b, q, h⟩ := post_eq { s with free := s.free + 1 } 0 { typ := 0x0E, value := Config.telemetryCode s.free }
  exact ⟨_, a, b, q, h⟩

theorem gremen_powerEvent (s : State) : (powerEvent s).gremen = s.gremen := by
  obtain ⟨n, a, b, q, h⟩ := powerEvent_eq s
  rw [h]

theorem mhz_powerEvent (s : State) : (powerEvent s).mhz = s.mhz := by
  obtain ⟨n, a, b, q, h⟩ := powerEvent_eq s
  rw [h]

theorem powerEvaluation_due {s : State} {p : PowerReading} (hlit : s.phase.lit = true) (hdue : 1000 * s.gremen.evals ≤ s.ref)
    (hidle : s.gremen.step = none) (hlimit : p.limit ≤ 2400000) :
    let g := s.gremen
    let mw := p.milliwatts
    let g' := { g with evals := s.ref / 1000 + 1, limit := p.limit }
    let keeps (q : Gremen) : Prop := Completes (.powerEvaluation p) s fun t => t = { s with gremen := q }
    (p.limit < mw → 1200 < s.mhz → keeps { g' with step := some (max 1200 (s.mhz - 25)) }) ∧
    (p.limit < mw → s.mhz ≤ 1200 → Completes (.powerEvaluation p) s fun t => t.mhz = s.mhz ∧
      t.gremen = { g' with throttleMatrix := true, throttleBank := g.throttleMatrix || g.throttleBank }) ∧
    (mw ≤ p.limit → g.throttleBank = true → keeps { g' with throttleBank := false }) ∧
    (mw ≤ p.limit → g.throttleBank = false → g.throttleMatrix = true → keeps { g' with throttleMatrix := false }) ∧
    (mw ≤ p.limit → g.throttleBank = false → g.throttleMatrix = false → g.hold = false → s.mhz < 3000 →
      keeps { g' with step := some (min 3000 (s.mhz + 25)) }) := by
  have e : exec (.powerEvaluation p) s = execPowerEvaluation p s := rfl
  have hnow : ¬(decide (s.ref < 1000 * s.gremen.evals) || decide (2400000 < p.limit)) = true := by
    simp [hdue, hlimit]
  have hstill : ¬s.gremen.step.isSome = true := by simp [hidle]
  simp only [execPowerEvaluation] at e
  rw [if_neg (by simp [hlit]), if_neg hnow, if_neg hstill] at e
  refine ⟨fun hover hfast => ?_, fun hover hslow => ?_, fun hunder hbank => ?_, fun hunder hbank hmatrix => ?_,
    fun hunder hbank hmatrix hhold hslow => ?_⟩
  · rw [if_pos hover, if_pos hfast] at e
    exact ⟨_, e, rfl⟩
  · rw [if_pos hover, if_neg (Nat.not_lt.2 hslow)] at e
    by_cases hmatrix : s.gremen.throttleMatrix = true
    · by_cases hbank : s.gremen.throttleBank = true
      · rw [if_neg (by simp [hmatrix]), if_neg (by simp [hbank])] at e
        exact ⟨_, e, rfl, by simp [hmatrix, hbank]⟩
      · rw [if_neg (by simp [hmatrix]), if_pos (by simp [hbank])] at e
        exact ⟨_, e, mhz_powerEvent _, (gremen_powerEvent _).trans (by simp [hmatrix])⟩
    · rw [if_pos (by simp [hmatrix])] at e
      exact ⟨_, e, mhz_powerEvent _, (gremen_powerEvent _).trans (by simp [hmatrix])⟩
  · rw [if_neg (Nat.not_lt.2 hunder), if_pos hbank] at e
    exact ⟨_, e, rfl⟩
  · rw [if_neg (Nat.not_lt.2 hunder), if_neg (by simp [hbank]), if_pos hmatrix] at e
    exact ⟨_, e, rfl⟩
  · rw [if_neg (Nat.not_lt.2 hunder), if_neg (by simp [hbank]), if_neg (by simp [hmatrix]), if_pos (by simp [hhold, hslow])] at e
    exact ⟨_, e, rfl⟩

theorem powerEvaluation_over_board {s : State} {p : PowerReading} (hlit : s.phase.lit = true) (hlimit : 2400000 < p.limit) :
    exec (.powerEvaluation p) s = .fault .notEnabled := by
  have e : exec (.powerEvaluation p) s = execPowerEvaluation p s := rfl
  simp only [execPowerEvaluation] at e
  rwa [if_neg (by simp [hlit]), if_pos (by simp [hlimit])] at e

theorem clockStepComplete_steps {s : State} {m : Nat} (h : s.gremen.step = some m) : Completes .clockStepComplete s fun t =>
    t = { s with mhz := m, gremen := { s.gremen with step := none } } := by
  have e : exec .clockStepComplete s = execClockStepComplete s := rfl
  rw [execClockStepComplete] at e
  split at e
  next hnone => exact absurd (hnone.symm.trans h) (by simp)
  next n hn =>
    obtain rfl : n = m := Option.some.inj (hn.symm.trans h)
    exact ⟨_, e, rfl⟩

theorem thermalHold_holds {s : State} {c : Nat} (hlit : s.phase.lit = true) (hhot : 100 ≤ c) (hfree : s.gremen.hold = false) :
    Completes (.thermalHold c) s fun t => t.gremen.hold = true ∧ t.gremen.holdFrom = s.ref ∧ t.mhz = s.mhz ∧
      t.gremen.step = if s.mhz = 1200 then none else some 1200 := by
  have e : exec (.thermalHold c) s = execThermalHold c s := rfl
  rw [execThermalHold, if_neg (by simp [hlit]), if_neg (by simp [hhot, hfree])] at e
  have hg := gremen_powerEvent { s with gremen := { s.gremen with hold := true, holdFrom := s.ref, step := if s.mhz = 1200 then none else some 1200 } }
  exact ⟨_, e, congrArg Gremen.hold hg, congrArg Gremen.holdFrom hg, mhz_powerEvent _, congrArg Gremen.step hg⟩

theorem thermalHoldEnd_ends {s : State} {r : ThermalReading} (hlit : s.phase.lit = true) (hcool : r.celsius ≤ 95)
    (hhold : s.gremen.hold = true) (hlong : 1000000 ≤ r.ticks) (hfrom : s.gremen.holdFrom + r.ticks ≤ s.ref) :
    Completes (.thermalHoldEnd r) s fun t => t.gremen = { s.gremen with hold := false } ∧ t.mhz = s.mhz := by
  have e : exec (.thermalHoldEnd r) s = execThermalHoldEnd r s := rfl
  rw [execThermalHoldEnd, if_neg (by simp [hlit]), if_neg (by simp [hcool, hhold, hlong, hfrom])] at e
  exact ⟨_, e, gremen_powerEvent _, mhz_powerEvent _⟩

theorem thermalHoldEnd_too_short {s : State} {r : ThermalReading} (hlit : s.phase.lit = true) (hshort : r.ticks < 1000000) :
    exec (.thermalHoldEnd r) s = .fault .notEnabled := by
  have e : exec (.thermalHoldEnd r) s = execThermalHoldEnd r s := rfl
  rwa [execThermalHoldEnd, if_neg (by simp [hlit]), if_pos (by simp [hshort])] at e

theorem thermalTrip_cuts_power {s : State} {r : ThermalReading} (hhot : 110 ≤ r.celsius) (hon : s.phase ≠ .off) (hlong : 100000 ≤ r.ticks)
    (hheld : s.phase.lit = true → s.gremen.hold = true ∧ s.gremen.holdFrom + r.ticks ≤ s.ref) : Completes (.thermalTrip r) s fun t =>
      t = { s with phase := .off, msix := s.msix ++ [0], gremen := { s.gremen with tripLog := s.gremen.tripLog ++ [r.celsius] } } := by
  have e : exec (.thermalTrip r) s = execThermalTrip r s := rfl
  rw [execThermalTrip, if_neg (by simpa [hhot, hon, hlong] using hheld)] at e
  exact ⟨_, e, rfl⟩

theorem thermalTrip_too_short {s : State} {r : ThermalReading} (hshort : r.ticks < 100000) :
    exec (.thermalTrip r) s = .fault .notEnabled := by
  have e : exec (.thermalTrip r) s = execThermalTrip r s := rfl
  rwa [execThermalTrip, if_pos (by simp [hshort])] at e

/-! ### Background work and errors (R263, R264, R431) -/

theorem dieOfStack_granule (n : Nat) : dieOfStack (stackOf (32 * n)) = if n / 2 ^ 31 % 8 < 4 then 0 else 1 := by
  have h : bf (32 * n) 36 3 = n / 2 ^ 31 % 8 := by
    unfold bf
    omega
  rw [dieOfStack, stackOf, h]

section
variable {s : State} {n : Nat} (hlit : s.phase.lit = true) (hn : n < 2 ^ 34)
include hlit hn

theorem patrolScrub_clean : Completes (.patrolScrub n .clean) s fun t => t = s := by
  have e : exec (.patrolScrub n .clean) s = execPatrolScrub n .clean s := rfl
  simp only [execPatrolScrub] at e
  rw [if_neg (by simp [hlit]), if_neg (Nat.not_le.2 hn)] at e
  exact ⟨_, e, rfl⟩

theorem patrolScrub_correctable (b : Bool) : Completes (.patrolScrub n (.correctable b)) s fun t =>
    t = s.post (if n / 2 ^ 31 % 8 < 4 then 0 else 1) { typ := if b then 0x09 else 0x08, addr := w64 (32 * n) } := by
  have e : exec (.patrolScrub n (.correctable b)) s = execPatrolScrub n (.correctable b) s := rfl
  simp only [execPatrolScrub] at e
  rw [if_neg (by simp [hlit]), if_neg (Nat.not_le.2 hn), dieOfStack_granule] at e
  exact ⟨_, e, rfl⟩

theorem patrolScrub_uncorrectable : Completes (.patrolScrub n .uncorrectable) s fun t => t = s.setPoison n true := by
  have e : exec (.patrolScrub n .uncorrectable) s = execPatrolScrub n .uncorrectable s := rfl
  simp only [execPatrolScrub] at e
  rw [if_neg (by simp [hlit]), if_neg (Nat.not_le.2 hn)] at e
  exact ⟨_, e, rfl⟩
end

@[simp] theorem port_modPort_same (s : State) (p : Nat) (f : Port → Port) : (s.modPort p f).port p = f (s.port p) := by
  simp [State.modPort, State.port]
@[simp] theorem port_modPort_ne (s : State) {p r : Nat} (f : Port → Port) (h : r ≠ p) : (s.modPort p f).port r = s.port r := by
  simp [State.modPort, State.port, h]
@[simp] theorem port_linkEvent (s : State) (die v r : Nat) : (linkEvent s die v).port r = s.port r := by
  obtain ⟨a, b, q, h⟩ := post_eq s die { typ := 0x0D, value := w32 v }
  rw [linkEvent, h]
  rfl

theorem linkCalibration_trains {s : State} {p c q : Nat} (hlit : s.phase.lit = true) (hp : p < 47) :
    Completes (.linkCalibration p c q) s fun t => (∀ r, r ≠ p → t.port r = s.port r) ∧
      t.port p = { s.port p with up := decide (farEnd s p = some (c, q)) && !(s.port p).down } := by
  have e : exec (.linkCalibration p c q) s = execLinkCalibration p c q s := rfl
  rw [execLinkCalibration, if_neg (by simp [hlit]), if_neg (show ¬Config.nPorts ≤ p from Nat.not_le.2 hp)] at e
  split at e
  next hfar => exact ⟨_, e, fun r hr => by simp [hr], by simp [hfar]⟩
  next f hfar =>
    by_cases hf : f = (c, q)
    · rw [if_pos (by simp [hf])] at e
      exact ⟨_, e, fun r hr => by simp [hr], by simp [hfar, hf]⟩
    · rw [if_neg (by simp [hf])] at e
      exact ⟨_, e, fun r hr => by simp [hr], by simp [hfar, hf]⟩

theorem flitCrcError_counts {s : State} {p : Nat} (b : Bool) (hlit : s.phase.lit = true) (hp : p < 47) (hup : (s.port p).up = true) :
    Completes (.flitCrcError p b) s fun t => (∀ r, r ≠ p → t.port r = s.port r) ∧
      t.port p = if b then { s.port p with up := false, down := true } else { s.port p with trans := (s.port p).trans + 1 } := by
  have e : exec (.flitCrcError p b) s = execFlitCrcError p b s := rfl
  rw [execFlitCrcError, if_neg (by simp [hlit]), if_neg (by simp [hup, show p < Config.nPorts from hp])] at e
  cases b with
  | false => exact ⟨_, e, fun r hr => by simp [hr], by simp⟩
  | true => exact ⟨_, e, fun r hr => by simp [hr], by simp⟩

theorem laserWearLevelling_sets_bias {s : State} {n : Nat} (b : Nat) (hlit : s.phase.lit = true) (hn : n < 4) :
    Completes (.laserWearLevelling n b) s fun t => t = { s with gremen := { s.gremen with bias := tset s.gremen.bias n b } } := by
  have e : exec (.laserWearLevelling n b) s = execLaserWearLevelling n b s := rfl
  rw [execLaserWearLevelling, if_neg (by simp [hlit]), if_neg (Nat.not_le.2 hn)] at e
  exact ⟨_, e, rfl⟩

theorem telemetry_records {s : State} (hlit : s.phase.lit = true) : Completes .telemetry s fun t =>
    ∃ v, t = { s with free := s.free + 1, gremen := { s.gremen with telemetry := s.gremen.telemetry ++ [v] } } := by
  have e : exec .telemetry s = execTelemetry s := rfl
  rw [execTelemetry, if_neg (by simp [hlit])] at e
  exact ⟨_, e, _, rfl⟩

/-! ### The monitors (R247, R262)

Placing a team on a core that has no team and no crew gives its crew slot 0. What placement does on the way, to presence
bits, lines and requests, leaves team slots and overlays as they are, and crews but for their parks. -/

/-- Crew `b` is crew `a`, but for its parks. -/
def SameButPark (a b : Crew) : Prop := ∃ p, b = { a with park := p }

/-- Core `b` has the team slots and overlays of core `a`, and its crews but for their parks. -/
structure SeatsStay (a b : Core) : Prop where
  teams : b.teams = a.teams
  ov : ∀ i, b.ov i = a.ov i
  crews : ∀ k, SameButPark (a.crew k) (b.crew k)

theorem SameButPark.refl (a : Crew) : SameButPark a a := ⟨a.park, rfl⟩

theorem SameButPark.trans {a b c : Crew} : SameButPark a b → SameButPark b c → SameButPark a c := by
  rintro ⟨p, rfl⟩ ⟨q, rfl⟩
  exact ⟨q, rfl⟩

theorem SameButPark.st {a b : Crew} : SameButPark a b → b.st = a.st := by
  rintro ⟨p, rfl⟩
  rfl

theorem SeatsStay.refl (a : Core) : SeatsStay a a := ⟨rfl, fun _ => rfl, fun _ => .refl _⟩

theorem SeatsStay.trans {a b c : Core} (h : SeatsStay a b) (g : SeatsStay b c) : SeatsStay a c where
  teams := g.teams.trans h.teams
  ov i := (g.ov i).trans (h.ov i)
  crews k := (h.crews k).trans (g.crews k)

/-- Only requests, fresh numbers and cores differ, and every core's seats stay. -/
structure SeatsKept (s t : State) : Prop where
  rest : { t with cores := s.cores, reqs := s.reqs, nextId := s.nextId } = s
  cores : ∀ d, SeatsStay (s.core d) (t.core d)

theorem SeatsKept.refl (s : State) : SeatsKept s s := ⟨rfl, fun _ => .refl _⟩

theorem SeatsKept.trans {s t u : State} (h : SeatsKept s t) (g : SeatsKept t u) : SeatsKept s u where
  rest := by rw [← h.rest, ← g.rest]
  cores d := (h.cores d).trans (g.cores d)

theorem SeatsKept.foldl {α : Type} {f : State → α → State} (h : ∀ s e, SeatsKept s (f s e)) (l : List α) (s : State) :
    SeatsKept s (l.foldl f s) := by
  induction l generalizing s with
  | nil => exact .refl s
  | cons e l ih => exact (h s e).trans (ih _)

theorem SeatsKept.modCore {s : State} {c : Nat} {f : Core → Core} (h : SeatsStay (s.core c) (f (s.core c))) : SeatsKept s (s.modCore c f) where
  rest := rfl
  cores d := by
    by_cases hd : d = c
    · subst hd
      rwa [core_modCore_same]
    · rw [core_modCore_ne _ _ hd]
      exact .refl _

/-- A change of a table's values that keeps to a relation keeps to it at every key. -/
theorem tget_map_of_rel {α : Type} {R : α → α → Prop} {d : α} {f : Nat × α → α} (hd : R d d) (h : ∀ e, R e.2 (f e)) (t : Tab α) (k : Nat) :
    R (tget d t k) (tget d (t.map (fun e => (e.1, f e))) k) := by
  induction t with
  | nil => exact hd
  | cons e t ih =>
    obtain ⟨j, v⟩ := e
    simp only [List.map_cons, tget]
    split
    · exact h (j, v)
    · exact ih

theorem SeatsKept.wakeAbsent (s : State) : SeatsKept s (Machine.wakeAbsent s) where
  rest := rfl
  cores d := by
    refine tget_map_of_rel (R := SeatsStay) ?_ ?_ s.cores d
    · exact .refl _
    · refine fun e => ⟨rfl, fun _ => rfl, fun k => ?_⟩
      refine tget_map_of_rel (R := SameButPark) ?_ ?_ e.2.slots k
      · exact .refl _
      · exact fun q => ⟨_, rfl⟩

theorem SeatsKept.setReqs (s : State) (q : List Req) : SeatsKept s { s with reqs := q } := ⟨rfl, fun _ => .refl _⟩

theorem SeatsKept.setPresent (s : State) (c line : Nat) (b : Bool) : SeatsKept s (Machine.setPresent s c line b) := by
  have hbit := SeatsKept.modCore (s := s) (c := c) (f := fun o => { o with
    absent := tput false o.absent line (!b), mapClr := if b then o.mapClr.filter (· != line) else o.mapClr })
    ⟨rfl, fun _ => rfl, fun _ => .refl _⟩
  cases b with
  | false => exact hbit
  | true =>
    simp only [Machine.setPresent, if_true]
    split
    · exact hbit.trans ((SeatsKept.setReqs _ _).trans (.wakeAbsent _))
    · exact hbit

theorem SeatsKept.setPresentAll (s : State) (c : Nat) (lines : List Nat) (b : Bool) : SeatsKept s (Machine.setPresentAll s c lines b) :=
  .foldl (fun u l => .setPresent u c l b) lines s

theorem SeatsKept.invalL1 (s : State) (c : Nat) : SeatsKept s (Machine.invalL1 s c) where
  rest := rfl
  cores := (SeatsKept.modCore (s := s) (c := c) (f := fun o => { o with l1 := [] }) ⟨rfl, fun _ => rfl, fun _ => .refl _⟩).cores

/-- A core that no team has used, with all its crew slots free. -/
structure Vacant (o : Core) : Prop where
  teams : o.teams = []
  crews : ∀ k, (o.crew k).st = .free

theorem Vacant.of_seatsStay {a b : Core} (v : Vacant a) (h : SeatsStay a b) : Vacant b :=
  ⟨h.teams.trans v.teams, fun k => (h.crews k).st.trans (v.crews k)⟩

theorem freeTeamSlot_vacant {s : State} {c : Nat} (h : (s.core c).teams = []) : freeTeamSlot s c = some 0 := by
  have hfree : slotFree s c 0 = true := by
    simp [slotFree, h]
  rw [freeTeamSlot, show List.range 64 = 0 :: (List.range 63).map Nat.succ from List.range_succ_eq_map]
  exact List.find?_cons_of_pos hfree

theorem scratchRun_vacant {o : Core} {n : Nat} (h : o.teams = []) (hn : n ≤ 262144) : scratchRun o n = some 0 := by
  unfold scratchRun
  split
  · rfl
  · simp [h, hn]

theorem nextCrewSlot_vacant {o : Core} (h : ∀ k, (o.crew k).st = .free) : nextCrewSlot o = some 0 := by
  have hfree : crewSlotFree o = fun _ => true := funext fun k => by simp [crewSlotFree, h k]
  have hcount : seatCount o = fun _ => 0 := funext fun k => by simp [seatCount, h]
  rw [nextCrewSlot, hfree, hcount]
  rfl

/-- Nothing is loaded where the slots hold the record's overlays. -/
theorem placeOverlays_held {s : State} {c : Nat} (ts g : Nat) {r : LaunchRec}
    (h : ∀ i id img n, r.overlay i = some (id, img, n) → slotHas (s.core c) i id = true) : placeOverlays s c ts g r = s := by
  refine List.foldl_fixed' (fun i => ?_) _
  split
  · rfl
  next id img n hi => exact if_pos (h i id img n hi)

theorem slotHas_of_seatsStay {a b : Core} (h : SeatsStay a b) (i id : Nat) : slotHas b i id = slotHas a i id := by
  rw [slotHas, slotHas, h.ov]

/-- A crew of a vacant core takes slot 0. -/
theorem placeCrew_vacant {s : State} {c : Nat} (g : Nat) (r : LaunchRec) (team cluster ts j : Nat) (h : ∀ k, (s.crew c k).st = .free) :
    ∃ u uid a, placeCrew g r team cluster c ts s j = s.fresh.2.modCore c (fun o => o.setCrew 0 (newCrew u g r team cluster ts j uid a)) := by
  rw [placeCrew, nextCrewSlot_vacant h]
  exact ⟨_, _, _, rfl⟩

/-- Before its overlays and crews are placed, the team has slot 0 and the seats have stayed. -/
theorem placeTeam_takes_slot {s : State} {g c : Nat} {r : LaunchRec} (team cluster : Nat) (hr : (s.grid g).lr = r)
    (hc : (s.core c).teams = []) (hscratch : r.scratch ≤ 262144) : ∃ (m : Team) (u : State), SeatsKept (s.fresh.2.modTeam c 0 (fun _ => m)) u ∧
      placeTeam s g team cluster c = (List.range r.crews).foldl (placeCrew g r team cluster c 0) (placeOverlays u c 0 g r) := by
  simp only [placeTeam, hr, freeTeamSlot_vacant hc, scratchRun_vacant hc hscratch]
  exact ⟨_, _, (SeatsKept.setPresentAll _ c _ true).trans (.invalL1 _ c), rfl⟩

/-- Core `c` has got a crew in slot 0 that has just begun the record's code, and every other core's seats have stayed. -/
structure Placed (s t : State) (c g : Nat) (r : LaunchRec) (team cluster : Nat) : Prop where
  rest : { t with cores := s.cores, reqs := s.reqs, nextId := s.nextId } = s
  others : ∀ d, d ≠ c → SeatsStay (s.core d) (t.core d)
  crew : ∃ u ts uid a, t.crew c 0 = newCrew u g r team cluster ts 0 uid a

theorem placeTeam_vacant {s : State} {g c : Nat} {r : LaunchRec} (team cluster : Nat) (hr : (s.grid g).lr = r) (hc : Vacant (s.core c))
    (hcrews : r.crews = 1) (hscratch : r.scratch ≤ 262144)
    (hov : ∀ i id img n, r.overlay i = some (id, img, n) → slotHas (s.core c) i id = true) :
    Placed s (placeTeam s g team cluster c) c g r team cluster := by
  obtain ⟨m, u, hkept, e⟩ := placeTeam_takes_slot team cluster hr hc.teams hscratch
  have hcore : (s.fresh.2.modTeam c 0 (fun _ => m)).core c = (s.core c).modTeam 0 (fun _ => m) := core_modCore_same _ _ _
  have hfree : ∀ k, (u.crew c k).st = .free := by
    intro k
    have h := ((hkept.cores c).crews k).st
    rw [hcore] at h
    exact h.trans (hc.crews k)
  have hheld : ∀ i id img n, r.overlay i = some (id, img, n) → slotHas (u.core c) i id = true := by
    intro i id img n hi
    rw [slotHas_of_seatsStay (hkept.cores c), hcore]
    exact hov i id img n hi
  obtain ⟨v, uid, a, hplace⟩ := placeCrew_vacant g r team cluster 0 0 hfree
  rw [placeOverlays_held 0 g hheld, hcrews, List.range_one, List.foldl_cons, List.foldl_nil, hplace] at e
  rw [e]
  refine ⟨congrArg (fun w : State => { w with cores := s.cores, reqs := s.reqs, nextId := s.nextId }) hkept.rest, fun d hd => ?_, v, 0, uid, a, ?_⟩
  · have h := hkept.cores d
    rw [State.modTeam, core_modCore_ne _ _ hd] at h
    rw [core_modCore_ne _ _ hd]
    exact h
  · rw [State.crew, core_modCore_same, crew_setCrew_same]

/-! #### The monitors' own record -/

theorem scratch_le_of_recordOk {b : List Byte} (h : recordOk b = true) : (parseRecord b).scratch ≤ 262144 := by
  simp only [recordOk, Bool.and_eq_true, decide_eq_true_eq] at h
  simp only [h]

/-- A core into which the images have been put holds the overlays that the record names. -/
theorem slotHas_monitorOverlays (f : Firmware) (o : Core) {i id n : Nat} {img : W64} (h : (monitorRecord f).overlay i = some (id, img, n)) :
    slotHas (monitorOverlays f (monitorRecord f) o) i id = true := by
  unfold LaunchRec.overlay at h
  unfold monitorOverlays
  split at h
  next hi =>
    simp only [Option.some.injEq, Prod.mk.injEq] at h
    subst hi
    split <;> simp [slotHas, Core.ov, h.1]
  next hi =>
    split at h
    · simp at h
    next hid =>
      simp only [Option.some.injEq, Prod.mk.injEq] at h
      rw [if_neg hid]
      simp [slotHas, Core.ov, hi, h.1]

/-- A monitor's crew that has just started (R247). -/
structure MonitorCrew (f : Firmware) (k : Crew) : Prop where
  st : k.st = .resident
  priv : k.priv = true
  ctx : k.ctx = 0
  live : k.live = BitVec.allOnes 32
  pcs : ∀ l, l < 32 → k.pcOf l = codeAt (parseRecord f.record).entry

theorem MonitorCrew.newCrew (f : Firmware) (s : State) (team cluster ts j uid : Nat) (a : Bool) :
    MonitorCrew f (newCrew s 0 (monitorRecord f) team cluster ts j uid a) where
  st := rfl
  priv := show bit 13 0 = true by decide
  ctx := rfl
  live := rfl
  pcs l hl := tget_map ({} : Pc) (List.range 32) (fun _ => codeAt (parseRecord f.record).entry) (List.mem_range.2 hl)

theorem MonitorCrew.of_sameButPark {f : Firmware} {a b : Crew} (h : MonitorCrew f a) : SameButPark a b → MonitorCrew f b := by
  rintro ⟨p, rfl⟩
  exact ⟨h.st, h.priv, h.ctx, h.live, h.pcs⟩

theorem monitorStart_unverified {s : State} {f : Firmware} (hf : s.gremen.monitor = some f) (hv : firmwareValid f = false) :
    exec .monitorStart s = .fault .notEnabled := by
  have e : exec .monitorStart s = execMonitorStart s := rfl
  rw [execMonitorStart, hf] at e
  exact e.trans (if_pos (by simp [hv]))

theorem Vacant.monitorOverlays {o : Core} (f : Firmware) (r : LaunchRec) (h : Vacant o) : Vacant (monitorOverlays f r o) := by
  unfold Machine.monitorOverlays
  split <;> exact ⟨h.teams, h.crews⟩

/-- What MONITOR_START does for the monitor on core `c`, team and cluster `i` of its grid. -/
def placeMonitor (f : Firmware) (s : State) (i c : Nat) : State :=
  let t := placeTeam (s.modCore c (monitorOverlays f (monitorRecord f))) 0 i i c
  { t with clusters := t.clusters ++ [{ grid := 0, index := i, origin := c, bars := newBars t.clk 4 32 }] }

/-- The chip runs, and grid 0 is the monitors'. -/
def monitorGrid (f : Firmware) (s : State) : State :=
  { s.fresh.2 with
    phase := .running
    grids := tset s.grids 0 { lr := monitorRecord f, state := 2, teamsLeft := 2, nextTeam := 2, accepted := s.nextId, ready := true, monitor := true } }

theorem grid_of_grids {s t : State} (h : t.grids = s.grids) (g : Nat) : t.grid g = s.grid g := by
  rw [State.grid, State.grid, h]

/-- A monitor runs on core `c`, and other cores' seats have stayed. -/
structure MonitorPlaced (f : Firmware) (s t : State) (c : Nat) : Prop where
  phase : t.phase = s.phase
  grids : t.grids = s.grids
  others : ∀ d, d ≠ c → SeatsStay (s.core d) (t.core d)
  crew : MonitorCrew f (t.crew c 0)

theorem placeMonitor_places {s : State} {f : Firmware} {c : Nat} (i : Nat) (hr : (s.grid 0).lr = monitorRecord f)
    (hok : recordOk f.record = true) (hc : Vacant (s.core c)) : MonitorPlaced f s (placeMonitor f s i c) c := by
  have hcore := core_modCore_same s c (monitorOverlays f (monitorRecord f))
  have hvacant : Vacant ((s.modCore c (monitorOverlays f (monitorRecord f))).core c) := by
    rw [hcore]
    exact hc.monitorOverlays f _
  obtain ⟨hrest, hothers, u, ts, uid, a, hcrew⟩ := placeTeam_vacant
    (s := s.modCore c (monitorOverlays f (monitorRecord f))) i i hr hvacant rfl (scratch_le_of_recordOk hok)
    (fun j id img n hj => by rw [hcore]; exact slotHas_monitorOverlays f _ hj)
  refine ⟨(congrArg State.phase hrest :), (congrArg State.grids hrest :), fun d hd => ?_, ?_⟩
  · have h := hothers d hd
    rwa [core_modCore_ne _ _ hd] at h
  · have h := MonitorCrew.newCrew f u i i ts 0 uid a
    rw [← hcrew] at h
    exact h

theorem monitorStart_places {s : State} {f : Firmware} (hf : s.gremen.monitor = some f) (hphase : s.phase = .started)
    (hok : recordOk f.record = true) (hcores : s.cores = []) (hv : firmwareValid f = true) :
    Completes .monitorStart s fun t => t.phase = .running ∧ (t.grid 0).state = 2 ∧ (t.grid 0).monitor = true ∧
      ∀ c ∈ [0, 96], MonitorCrew f (t.crew c 0) := by
  have e : exec .monitorStart s = execMonitorStart s := rfl
  rw [execMonitorStart, hf] at e
  replace e : exec .monitorStart s = .next (placeMonitor f (placeMonitor f (monitorGrid f s) 0 0) 1 96) :=
    e.trans (if_neg (by simp [hphase, hv, hok]))
  have hvacant (c : Nat) : Vacant ((monitorGrid f s).core c) := by
    have h : (monitorGrid f s).core c = {} := congrArg (fun l => tget ({} : Core) l c) hcores
    rw [h]
    exact ⟨rfl, fun _ => rfl⟩
  have hgrid : ((monitorGrid f s).grid 0).lr = monitorRecord f := congrArg Grid.lr (tget_tset_same _ _ _ _)
  have first := placeMonitor_places 0 hgrid hok (hvacant 0)
  have hgrids : (placeMonitor f (monitorGrid f s) 0 0).grid 0 = (monitorGrid f s).grid 0 := grid_of_grids first.grids 0
  have second := placeMonitor_places 1 (hgrids ▸ hgrid) hok ((hvacant 96).of_seatsStay (first.others 96 (by decide)))
  have hkept := (grid_of_grids (second.grids.trans first.grids) 0).trans (tget_tset_same _ _ _ _)
  refine ⟨_, e, second.phase.trans first.phase, congrArg Grid.state hkept, congrArg Grid.monitor hkept, fun c hc => ?_⟩
  obtain rfl | rfl : c = 0 ∨ c = 96 := by simpa using hc
  · exact first.crew.of_sameButPark ((second.others 0 (by decide)).crews 0)
  · exact second.crew

/-! ### The statement -/

/-- Settles O39: each event as its lemma says; the two monitors are placed one after the other, each on a core that is vacant. -/
theorem boardEvents : Obligations.BoardEvents := by
  intro s g lit keeps
  refine ⟨⟨_, rfl, rfl⟩, fun r => identityRecord_starts r, fun f hf hphase hok hcores => ?_, firmwareUpdate_needs_signature s,
    fun id => attestationReport_takes_leaf, fun p h hdue hidle hlimit => powerEvaluation_due (Phase.lit_iff.2 h) hdue hidle hlimit,
    fun p h => powerEvaluation_over_board (Phase.lit_iff.2 h), fun m => clockStepComplete_steps,
    fun c h => thermalHold_holds (Phase.lit_iff.2 h),
    fun r h hcool hhold => ⟨thermalHoldEnd_ends (Phase.lit_iff.2 h) hcool hhold, thermalHoldEnd_too_short (Phase.lit_iff.2 h)⟩,
    fun r hhot hon => ⟨fun hlong hheld => thermalTrip_cuts_power hhot hon hlong (fun h => hheld (Phase.lit_iff.1 h)), thermalTrip_too_short⟩,
    fun n h hn => ⟨patrolScrub_clean (Phase.lit_iff.2 h) hn, patrolScrub_correctable (Phase.lit_iff.2 h) hn, patrolScrub_uncorrectable (Phase.lit_iff.2 h) hn⟩,
    fun p c q h => linkCalibration_trains (Phase.lit_iff.2 h), fun p b h => flitCrcError_counts b (Phase.lit_iff.2 h),
    fun e b h => laserWearLevelling_sets_bias b (Phase.lit_iff.2 h), fun h => telemetry_records (Phase.lit_iff.2 h)⟩
  split
  next hv =>
    obtain ⟨t, e, hrun, hstate, hmonitor, hcrews⟩ := monitorStart_places hf hphase hok hcores hv
    refine ⟨t, e, hrun, hstate, hmonitor, fun c hc => ?_⟩
    obtain ⟨hst, hpriv, hctx, hlive, hpcs⟩ := hcrews c hc
    exact ⟨hst, hpriv, hctx, hlive, hpcs⟩
  next hv => exact monitorStart_unverified hf (by simpa using hv)

end Sys2Proof.Machine

/-! ## Results that are written, and the two halves of a PAIR word (R26, R38, R98 to R101)

RESULT_WRITEBACK raises counters, applies the result's writes and then makes the releases that waited for it; each of the three
has its own lemmas here, and the registers afterwards are read off from them. PAIR leaves two results one after the other: a
half's result depends on the state at issue alone, and the half's own word leaves the same one. -/

namespace Sys2Proof.Machine

/-! ### Raising counters leaves the cores (R137) -/

theorem cores_post (s : State) (die : Nat) (e : Event) : (s.post die e).cores = s.cores := by
  simp only [State.post, apply_ite State.cores, ite_self]

theorem cores_addCounter (c k g n : Nat) (s : State) (i : Nat) : (addCounter c k g n s i).cores = s.cores := by
  simp only [addCounter, apply_ite State.cores, cores_post, State.modGrid_cores, ite_self]

theorem cores_bumpCounters (s : State) (c k : Nat) (l : List Nat) : (bumpCounters s c k l).cores = s.cores := by
  simp only [bumpCounters]
  split
  · rfl
  · exact l.foldlRecOn (motive := fun t => t.cores = s.cores) _ rfl fun t ht i _ => (cores_addCounter _ _ _ _ t i).trans ht

theorem crew_of_cores {s t : State} (h : t.cores = s.cores) (c k : Nat) : t.crew c k = s.crew c k := by
  rw [State.crew, State.core, h]
  rfl

/-- A result that clears no counter changes no crew before it is written. -/
theorem crew_countResult {r : Result} (h : r.wr.flatMap wrCnt = []) (c k : Nat) (s : State) :
    (countResult c k s r).crew c k = s.crew c k := by
  simp only [countResult, h, List.isEmpty_nil, if_true]
  exact crew_of_cores (cores_bumpCounters s c k r.counts) c k

/-! ### Writes (R26, R30, R100, R134) -/

theorem tget_of_not_mem_keys {α : Type} {t : Tab α} {l : Nat} (h : l ∉ t.map (·.1)) (d : α) : tget d t l = d := by
  induction t with
  | nil => rfl
  | cons e t ih =>
    obtain ⟨j, v⟩ := e
    obtain ⟨hj, ht⟩ := not_or.1 (mt List.mem_cons.2 h)
    rw [tget, if_neg (Ne.symm hj), ih ht]

/-- Writing the entries of a table one by one: where no key stands twice, a key reads its entry, and any other what it read. -/
theorem tget_foldl_tset {α : Type} {vals : Tab α} (h : (vals.map (·.1)).Nodup) (d : α) (t : Tab α) (l : Nat) :
    tget d (vals.foldl (fun t e => tset t e.1 e.2) t) l = tget (tget d t l) vals l := by
  induction vals generalizing t with
  | nil => rfl
  | cons e vals ih =>
    obtain ⟨j, v⟩ := e
    obtain ⟨hj, hnd⟩ := List.nodup_cons.1 h
    rw [List.foldl_cons, ih hnd, tget_tset, tget]
    by_cases hl : l = j
    · rw [if_pos hl, if_pos hl.symm, hl, tget_of_not_mem_keys hj]
    · rw [if_neg hl, if_neg (Ne.symm hl)]

theorem fl_foldl_orFl {vals : Tab (BitVec 5)} (h : (vals.map (·.1)).Nodup) (k : Crew) (l : Nat) :
    tget 0 (vals.foldl (fun k e => orFl k e.1 e.2) k).fl l = tget 0 k.fl l ||| tget 0 vals l := by
  induction vals generalizing k with
  | nil => simp
  | cons e vals ih =>
    obtain ⟨j, v⟩ := e
    obtain ⟨hj, hnd⟩ := List.nodup_cons.1 h
    rw [List.foldl_cons, ih hnd, orFl, tget_tset, tget]
    by_cases hl : l = j
    · rw [if_pos hl, if_pos hl.symm, hl, tget_of_not_mem_keys hj, show tget 0 k.fl j ||| v ||| 0 = _ from BitVec.or_zero]
    · rw [if_neg hl, if_neg (Ne.symm hl)]

theorem foldl_orFl_rest (vals : Tab (BitVec 5)) (k : Crew) : ∃ f, vals.foldl (fun k e => orFl k e.1 e.2) k = { k with fl := f } :=
  vals.foldlRecOn (motive := fun k' : Crew => ∃ f, k' = { k with fl := f }) _ ⟨k.fl, rfl⟩ (by
    rintro _ ⟨f, rfl⟩ e -
    exact ⟨_, rfl⟩)

/-- A register of which lanes are to be written gets a row. -/
theorem ent_takeRows_row (k : Crew) (n : Nat) : ∃ t, (takeRows k [n]).ent n = .row t := by
  simp only [takeRows, List.foldl_cons, List.foldl_nil]
  cases he : k.ent n with
  | row t => exact ⟨t, he⟩
  | no => exact ⟨_, tget_tset_same _ _ _ _⟩
  | comp v => exact ⟨_, tget_tset_same _ _ _ _⟩

/-- Lanes of a vector register are written in a row that keeps its other lanes. -/
theorem val_writeLanes {vals : Tab W32} (h : (vals.map (·.1)).Nodup) (k : Crew) (n : Nat) {l : Nat} (hl : l < 32) :
    ((writeLanes k n vals).ent n).val l = tget ((k.ent n).val l) vals l := by
  obtain ⟨t, ht⟩ := ent_takeRows_row k n
  have hold : tget 0 t l = (k.ent n).val l := by
    rw [← val_takeRows k [n] n hl, ht]
    rfl
  simp only [writeLanes, ht]
  rw [ent_vent, tget_tset_same]
  exact (tget_foldl_tset h 0 t l).trans (by rw [hold])

theorem writeLanes_rest (k : Crew) (n : Nat) (vals : Tab W32) : ∃ v m, writeLanes k n vals = { k with vent := v, rows := m } := by
  obtain ⟨v, m, h⟩ := takeRows_rest k [n]
  simp only [writeLanes, h]
  split <;> exact ⟨_, _, rfl⟩

theorem pred_writePred (k : Crew) (n : Nat) (m vals : Mask) :
    (writePred k n m vals).pred n = if n = 0 then BitVec.allOnes 32 else (k.pred n &&& ~~~m) ||| (vals &&& m) := by
  unfold Crew.pred writePred
  split
  · rfl
  · exact tget_tset_same _ _ _ _

/-- A write leaves the releases that wait and the crew's outstanding results. -/
theorem applyWr_keeps (noU : List Nat) (k : Crew) (w : Wr) :
    (applyWr noU k w).pendRel = k.pendRel ∧ (applyWr noU k w).results = k.results := by
  cases w with
  | v n vals =>
    obtain ⟨v, m, h⟩ := writeLanes_rest k n vals
    rw [applyWr, h]
    exact ⟨rfl, rfl⟩
  | fl vals =>
    obtain ⟨f, h⟩ := foldl_orFl_rest vals k
    rw [applyWr, h]
    exact ⟨rfl, rfl⟩
  | u n x =>
    simp only [applyWr]
    split <;> exact ⟨rfl, rfl⟩
  | q n lanes vals =>
    simp only [applyWr, writePred]
    split <;> exact ⟨rfl, rfl⟩
  | comp n x => exact ⟨rfl, rfl⟩
  | flClr vals => exact ⟨rfl, rfl⟩
  | mode x m => exact ⟨rfl, rfl⟩
  | cnt l => exact ⟨rfl, rfl⟩

theorem foldl_applyWr_results (noU : List Nat) (ws : List Wr) (k : Crew) : (ws.foldl (applyWr noU) k).results = k.results :=
  ws.foldlRecOn (motive := fun k' => k'.results = k.results) _ rfl fun k' hk w _ => ((applyWr_keeps noU k' w).2).trans hk

/-! ### Releases that waited for a result (R101) -/

/-- The releases that waited for this result alone are made, and no other waits for it any more. -/
def releaseWaiting (id : Nat) (k : Crew) : Crew :=
  let rel := k.pendRel.map (fun e => (e.1, e.2.filter (· != id)))
  { (rel.filter (·.2.isEmpty)).foldl (fun k e => dropEnt e.1 k) k with pendRel := rel.filter (fun e => !e.2.isEmpty) }

/-- Does a release of the register wait for this result alone? -/
def waitsOnlyFor (id n : Nat) (k : Crew) : Bool := k.pendRel.any (fun e => e.1 == n && e.2.all (· == id))

theorem foldl_dropEnt_rest (rel : List (Nat × List Nat)) (k : Crew) :
    ∃ v m, rel.foldl (fun k e => dropEnt e.1 k) k = { k with vent := v, rows := m } :=
  rel.foldlRecOn (motive := fun k' : Crew => ∃ v m, k' = { k with vent := v, rows := m }) _ ⟨k.vent, k.rows, rfl⟩ (by
    rintro _ ⟨v, m, rfl⟩ e -
    exact ⟨_, _, rfl⟩)

theorem releaseWaiting_rest (id : Nat) (k : Crew) : ∃ v m p, releaseWaiting id k = { k with vent := v, rows := m, pendRel := p } := by
  obtain ⟨v, m, h⟩ := foldl_dropEnt_rest ((k.pendRel.map (fun e => (e.1, e.2.filter (· != id)))).filter (·.2.isEmpty)) k
  exact ⟨v, m, _, by rw [releaseWaiting, h]⟩

theorem ent_dropEnt (m : Nat) (k : Crew) (n : Nat) : (dropEnt m k).ent n = if m == n then .no else k.ent n := by
  by_cases h : m = n
  · simp [dropEnt, Crew.ent, h]
  · simp [dropEnt, Crew.ent, h, Ne.symm h]

theorem ent_foldl_dropEnt (rel : List (Nat × List Nat)) (k : Crew) (n : Nat) :
    (rel.foldl (fun k e => dropEnt e.1 k) k).ent n = if rel.any (·.1 == n) then .no else k.ent n := by
  induction rel generalizing k with
  | nil => rfl
  | cons e rel ih =>
    rw [List.foldl_cons, ih, ent_dropEnt, List.any_cons]
    cases e.1 == n
    · rfl
    · exact ite_self _

theorem filter_ne_isEmpty (id : Nat) (l : List Nat) : (l.filter (· != id)).isEmpty = l.all (· == id) := by
  induction l with
  | nil => rfl
  | cons a l ih => by_cases h : a = id <;> simp [h, ih]

theorem ent_releaseWaiting (id : Nat) (k : Crew) (n : Nat) :
    (releaseWaiting id k).ent n = if waitsOnlyFor id n k then .no else k.ent n := by
  have hany : ((k.pendRel.map (fun e => (e.1, e.2.filter (· != id)))).filter (·.2.isEmpty)).any (·.1 == n) = waitsOnlyFor id n k := by
    simp only [waitsOnlyFor, List.any_filter, List.any_map, Function.comp_def, filter_ne_isEmpty, Bool.and_comm]
  rw [← hany]
  exact ent_foldl_dropEnt _ k n

/-! ### RESULT_WRITEBACK (R26) -/

/-- The crew without a result, as its writes find it. -/
def withoutResult (id : Nat) (k : Crew) : Crew := { k with results := k.results.filter (fun q => !(q.id == id)) }

theorem crew_writeResult (s : State) (c k : Nat) (r : Result) : (writeResult s c k r).crew c k =
    releaseWaiting r.id (r.wr.foldl (applyWr r.noU) (withoutResult r.id ((countResult c k s r).crew c k))) :=
  crew_modCrew_same _ _ _ _

theorem writeResult_ends_result (s : State) (c k : Nat) (r : Result) :
    ∀ q ∈ ((writeResult s c k r).crew c k).results, q.id ≠ r.id := by
  obtain ⟨v, m, p, h⟩ := releaseWaiting_rest r.id (r.wr.foldl (applyWr r.noU) (withoutResult r.id ((countResult c k s r).crew c k)))
  intro q hq
  rw [crew_writeResult, h] at hq
  replace hq : q ∈ (r.wr.foldl (applyWr r.noU) (withoutResult r.id ((countResult c k s r).crew c k))).results := hq
  rw [foldl_applyWr_results] at hq
  simpa using (List.mem_filter.1 hq).2

/-- A result with one write, which clears no counter: the write, and then the releases. -/
theorem crew_writeResult_single {r : Result} {w : Wr} (h : r.wr = [w]) (hw : wrCnt w = []) (s : State) (c k : Nat) :
    (writeResult s c k r).crew c k = releaseWaiting r.id (applyWr r.noU (withoutResult r.id (s.crew c k)) w) := by
  have hcnt : r.wr.flatMap wrCnt = [] := by simp [h, hw]
  rw [crew_writeResult, crew_countResult hcnt, h]
  rfl

/-- A vector register after a result with one write. -/
theorem ent_writeResult_single {r : Result} {w : Wr} (h : r.wr = [w]) (hw : wrCnt w = []) (s : State) (c k n : Nat) :
    ((writeResult s c k r).crew c k).ent n = if waitsOnlyFor r.id n (s.crew c k) then .no
      else (applyWr r.noU (withoutResult r.id (s.crew c k)) w).ent n := by
  have hpend : waitsOnlyFor r.id n (applyWr r.noU (withoutResult r.id (s.crew c k)) w) = waitsOnlyFor r.id n (s.crew c k) := by
    rw [waitsOnlyFor, (applyWr_keeps _ _ _).1]
    rfl
  rw [crew_writeResult_single h hw, ent_releaseWaiting, hpend]

/-- Releases touch vector registers alone. -/
theorem writeResult_single_rest {r : Result} {w : Wr} (h : r.wr = [w]) (hw : wrCnt w = []) (s : State) (c k : Nat) :
    ∃ v m p, (writeResult s c k r).crew c k =
      { applyWr r.noU (withoutResult r.id (s.crew c k)) w with vent := v, rows := m, pendRel := p } := by
  rw [crew_writeResult_single h hw]
  exact releaseWaiting_rest _ _

theorem writeResult_lanes {r : Result} {n : Nat} {vals : Tab W32} (h : r.wr = [.v n vals]) (hnd : (vals.map (·.1)).Nodup)
    (s : State) (c k : Nat) {l : Nat} (hl : l < 32) : (((writeResult s c k r).crew c k).ent n).val l =
      if waitsOnlyFor r.id n (s.crew c k) then 0 else tget (((s.crew c k).ent n).val l) vals l := by
  rw [ent_writeResult_single h rfl]
  split
  · rfl
  · exact val_writeLanes hnd _ n hl

theorem writeResult_compressed {r : Result} {n : Nat} {v : W32} (h : r.wr = [.comp n v]) (s : State) (c k l : Nat) :
    (((writeResult s c k r).crew c k).ent n).val l = if waitsOnlyFor r.id n (s.crew c k) then 0 else v := by
  rw [ent_writeResult_single h rfl]
  split
  · rfl
  · rw [applyWr, ent_vent, tget_tset_same]
    rfl

theorem writeResult_uniform {r : Result} {n : Nat} {v : W32} (h : r.wr = [.u n v]) (s : State) (c k : Nat) :
    tget 0 ((writeResult s c k r).crew c k).u n = if n ∈ r.noU then tget 0 (s.crew c k).u n else v := by
  obtain ⟨_, _, _, e⟩ := writeResult_single_rest h rfl s c k
  rw [e]
  by_cases hn : n ∈ r.noU
  · simp [applyWr, hn, withoutResult]
  · simp [applyWr, hn]

theorem writeResult_predicate {r : Result} {n : Nat} {m vals : Mask} (h : r.wr = [.q n m vals]) (s : State) (c k : Nat) :
    ((writeResult s c k r).crew c k).pred n =
      if n = 0 then BitVec.allOnes 32 else ((s.crew c k).pred n &&& ~~~m) ||| (vals &&& m) := by
  obtain ⟨_, _, _, e⟩ := writeResult_single_rest h rfl s c k
  rw [e]
  exact pred_writePred (withoutResult r.id (s.crew c k)) n m vals

theorem writeResult_flags {r : Result} {vals : Tab (BitVec 5)} (h : r.wr = [.fl vals]) (hnd : (vals.map (·.1)).Nodup)
    (s : State) (c k l : Nat) :
    tget 0 ((writeResult s c k r).crew c k).fl l = tget 0 (s.crew c k).fl l ||| tget 0 vals l := by
  obtain ⟨_, _, _, e⟩ := writeResult_single_rest h rfl s c k
  rw [e]
  exact fl_foldl_orFl hnd (withoutResult r.id (s.crew c k)) l

theorem resultWriteback_writes {s : State} {c k : Nat} {r : Result} (hfind : (s.crew c k).results.find? (fun q => q.id == r.id) = some r)
    (hready : r.ready = true) (hlo : r.lo ≤ s.clk) : exec (.resultWriteback c k r.id) s = .next (writeResult s c k r) := by
  have e : exec (.resultWriteback c k r.id) s = execResultWriteback c k r.id s := rfl
  rw [e, execResultWriteback, hfind]
  exact if_pos (by simp [hready, hlo])

/-! ### What a half leaves (R38) -/

/-- The earliest and the latest clock of a result after its issue (R26, R141). -/
def FLat.bounds : FLat → Nat × Nat
  | .fixed n => (n, n)
  | .long lo hi => (lo, hi)

/-- The result with a number that a word leaves in a clock, from its latency, writes and counts. -/
def leftResult (x : Ctx) (clk : Nat) (r : FLat × List Wr × List Nat) (id : Nat) : Result :=
  { id, serial := x.serial, lo := clk + r.1.bounds.1, hi := some (clk + r.1.bounds.2), ready := true, wr := r.2.1
    vs := r.2.1.flatMap wrVreg, us := r.2.1.flatMap wrUreg, counts := r.2.2 }

theorem leaveHalf_adds {r : FLat × List Wr × List Nat} (h : r.2.1 ≠ []) (x : Ctx) (s : State) :
    leaveHalf x s r = addResult s.fresh.2 x (leftResult x s.clk r s.nextId) := by
  obtain ⟨lat, wr, cs⟩ := r
  have he : (wr.isEmpty && cs.isEmpty) = false := by simp [List.isEmpty_eq_false_iff.2 h]
  cases lat with
  | fixed n => exact if_neg (by simp [he])
  | long lo hi => exact if_neg (by simp [he])

theorem leaveHalf_mem {r : FLat × List Wr × List Nat} (h : r.2.1 ≠ []) (x : Ctx) (s : State) :
    leftResult x s.clk r s.nextId ∈ ((leaveHalf x s r).at x).results := by
  rw [leaveHalf_adds h]
  exact addResult_mem _ _ _

/-- A result that writes no uniform register leaves the others of its clock as they were (R69). -/
theorem addResult_keeps {r q : Result} (hus : r.us = []) (s : State) (x : Ctx) (hq : q ∈ (s.at x).results) :
    q ∈ ((addResult s x r).at x).results := by
  simp only [addResult, State.at, crew_modCrew_same, hus, List.append_nil, ite_self, List.map_id', List.mem_append]
  exact .inl hq

theorem leaveHalf_keeps {r : FLat × List Wr × List Nat} {q : Result} (h : r.2.1 ≠ []) (hus : r.2.1.flatMap wrUreg = []) (x : Ctx)
    (s : State) (hq : q ∈ (s.at x).results) : q ∈ ((leaveHalf x s r).at x).results := by
  rw [leaveHalf_adds h]
  exact addResult_keeps hus _ x hq

theorem leaveHalf_clk (x : Ctx) (s : State) {r : FLat × List Wr × List Nat} (h : r.2.1 ≠ []) : (leaveHalf x s r).clk = s.clk := by
  rw [leaveHalf_adds h]
  rfl

theorem leaveHalf_nextId (x : Ctx) (s : State) {r : FLat × List Wr × List Nat} (h : r.2.1 ≠ []) :
    (leaveHalf x s r).nextId = s.nextId + 1 := by
  rw [leaveHalf_adds h]
  rfl

theorem OnlyCrew.leaveHalf (s : State) (x : Ctx) (r : FLat × List Wr × List Nat) : OnlyCrew s (Machine.leaveHalf x s r) x := by
  obtain ⟨lat, wr, cs⟩ := r
  cases lat with
  | fixed n => exact .fixedResult s x n wr cs
  | long lo hi => exact .boundedResult s x lo hi wr cs

theorem keeps_leaveHalf (s : State) (x : Ctx) (r : FLat × List Wr × List Nat) (last : List Nat) :
    KeepsCrew (s.at x) ((leaveHalf x s r).at x) last := by
  obtain ⟨lat, wr, cs⟩ := r
  cases lat with
  | fixed n => exact keeps_fixedResult s x n wr cs last
  | long lo hi => exact keeps_boundedResult s x lo hi wr cs last

theorem pcOf_leaveHalf (s : State) (x : Ctx) (r : FLat × List Wr × List Nat) (l : Nat) :
    ((leaveHalf x s r).at x).pcOf l = (s.at x).pcOf l := by
  obtain ⟨lat, wr, cs⟩ := r
  cases lat with
  | fixed n => exact pcOf_fixedResult s x n wr cs l
  | long lo hi => exact pcOf_boundedResult s x lo hi wr cs l

/-! ### The operands of a half (R36) -/

theorem halfOp_md (h : Half) : (halfOp h).md.toNat = h.ty.toNat * 16 + h.m.toNat := by
  have ht := h.ty.isLt
  have hm := h.m.isLt
  simp only [halfOp, BitVec.toNat_ofNat]
  omega

theorem halfOp_ty (h : Half) : (halfOp h).ty = h.ty.toNat := by
  have ht := h.ty.isLt
  have hm := h.m.isLt
  rw [Op.ty, halfOp_md, bf]
  omega

theorem halfOp_m (h : Half) : (halfOp h).m = h.m.toNat := by
  have ht := h.ty.isLt
  have hm := h.m.isLt
  rw [Op.m, halfOp_md, bf]
  omega

theorem halfOp_opt (h : Half) : (halfOp h).opt = 0 := by
  have ht := h.ty.isLt
  have hm := h.m.isLt
  rw [Op.opt, halfOp_md, bf]
  omega

theorem halfOp_w64 {h : Half} (hty : h.ty.toNat ∉ [12, 16, 18]) : (halfOp h).w64 = false := by
  rw [Op.w64, halfOp_ty]
  simpa [wide, and_assoc] using hty

/-- A vector register, or no operand. -/
def vectorOrNo (o : Opd) : Prop := o = .no ∨ ∃ n, o = .v n

theorem halfOp_operands (h : Half) : ∀ o ∈ [(halfOp h).a, (halfOp h).b, (halfOp h).c, (halfOp h).d], vectorOrNo o := by
  have optional (c : Prop) [Decidable c] (n : BitVec 8) : vectorOrNo (if c then .v n else .no) := by
    split
    · exact .inr ⟨n, rfl⟩
    · exact .inl rfl
  simp only [halfOp, List.forall_mem_cons]
  exact ⟨.inr ⟨_, rfl⟩, optional _ _, optional _ _, .inr ⟨_, rfl⟩, nofun⟩

theorem latchesOf_halfOp (h : Half) : latchesOf (halfOp h) = [] := by
  refine List.filterMap_eq_nil_iff.2 fun o ho => ?_
  obtain rfl | ⟨n, rfl⟩ := halfOp_operands h o ho <;> rfl

/-- A source of a half reads the same as an integer and as a float, whatever the type. -/
theorem rdE_rdF_vectorOrNo {o : Opd} (ho : vectorOrNo o) (s : State) (x : Ctx) (imm : W64) (t l : Nat) :
    rdE s x imm t o l = (rd s x 0 o l).toNat ∧ rdF s x imm t o l = (rd s x 0 o l).toNat := by
  obtain rfl | ⟨n, rfl⟩ := ho <;> exact ⟨rfl, rfl⟩

theorem rdE_halfOp (h : Half) (s : State) (x : Ctx) (imm : W64) (t l : Nat) :
    rdE s x imm t (halfOp h).a l = (rd s x 0 (halfOp h).a l).toNat ∧ rdE s x imm t (halfOp h).b l = (rd s x 0 (halfOp h).b l).toNat ∧
      rdE s x imm t (halfOp h).c l = (rd s x 0 (halfOp h).c l).toNat := by
  have hreads (o : Opd) (ho : vectorOrNo o) := (rdE_rdF_vectorOrNo ho s x imm t l).1
  exact ⟨hreads _ (halfOp_operands h _ (by simp)), hreads _ (halfOp_operands h _ (by simp)), hreads _ (halfOp_operands h _ (by simp))⟩

theorem rdF_halfOp (h : Half) (s : State) (x : Ctx) (imm : W64) (t l : Nat) :
    rdF s x imm t (halfOp h).a l = (rd s x 0 (halfOp h).a l).toNat ∧ rdF s x imm t (halfOp h).b l = (rd s x 0 (halfOp h).b l).toNat ∧
      rdF s x imm t (halfOp h).c l = (rd s x 0 (halfOp h).c l).toNat := by
  have hreads (o : Opd) (ho : vectorOrNo o) := (rdE_rdF_vectorOrNo ho s x imm t l).2
  exact ⟨hreads _ (halfOp_operands h _ (by simp)), hreads _ (halfOp_operands h _ (by simp)), hreads _ (halfOp_operands h _ (by simp))⟩

/-- A word without latches issues where one issues that writes its register among others. -/
theorem Issues.of_sublist {s : State} {x : Ctx} {w : Op} {dst dst' : List Nat} (h : Issues s {} dst false x) (hd : dst'.Sublist dst)
    (hl : latchesOf w = []) : Issues s w dst' false x := by
  obtain ⟨hpath, hruns, hon, hmarker, hlatches, hrows⟩ := h
  refine ⟨hpath, hruns, hon, hmarker, fun l hm => ?_, .inr ?_⟩
  · have hfree := hlatches l hm
    simp only [latchOk, Bool.and_eq_true, List.all_eq_true] at hfree ⊢
    refine ⟨by simp [hl], fun i hi => ?_⟩
    have hreg := hfree.2 i hi
    split
    next r hr =>
      simp only [hr, Bool.not_eq_true', List.contains_eq_mem, decide_eq_false_iff_not] at hreg ⊢
      exact mt (hd.subset ·) hreg
    next => rfl
  · have hfree := hrows.resolve_left (by simp)
    have hfewer : rowsNeeded (s.crew x.c x.k) dst' ≤ rowsNeeded (s.crew x.c x.k) dst := (hd.filter _).length_le
    simp only [rowsFree, decide_eq_true_eq] at hfree ⊢
    omega

/-! ### A half and its own word -/

theorem ReadsAs.halfResult {s u : State} {x : Ctx} (hr : ReadsAs s u x) (h : Half) : halfResult h x u = Machine.halfResult h x s := by
  have hrd := hr.rd
  have hq := hr.readQ
  obtain ⟨-, -, -, t, n, hcrew⟩ := hr
  simp only [State.at] at hcrew
  simp only [Machine.halfResult, hrd, hq, hcrew]
  rfl

theorem wrUreg_wrOf_vector (x : Ctx) (n : BitVec 8) (val : Nat → W32) : (wrOf x false (.v n) val).flatMap wrUreg = [] := by
  simp only [wrOf]
  split <;> rfl

theorem wrUreg_flWr (on : Bool) (l : List (Nat × Fl)) : (flWr on l).flatMap wrUreg = [] := by
  simp only [flWr]
  split <;> rfl

/-- A half writes its vector register, and no uniform register. -/
theorem halfResult_writes {x : Ctx} (hx : x.on ≠ 0) (h : Half) (s : State) :
    (halfResult h x s).2.1 ≠ [] ∧ (halfResult h x s).2.1.flatMap wrUreg = [] := by
  have hne (val : Nat → W32) : wrOf x false (halfOp h).d val ≠ [] := wrOf_ne_nil hx false rfl val
  have hus (val : Nat → W32) : (wrOf x false (halfOp h).d val).flatMap wrUreg = [] := wrUreg_wrOf_vector x h.d val
  simp only [halfResult]
  split
  · exact ⟨hne _, hus _⟩
  · exact ⟨fun e => hne _ (List.append_eq_nil_iff.1 e).1, by rw [List.flatMap_append, hus, wrUreg_flWr]; rfl⟩

/-- The word issues with a half's operands, and what it does then is to leave the half's result. -/
def LeavesHalf (i : Instr) (h : Half) : Prop :=
  ∀ s : State, ∃ p body, exec i s = issue s p body ∧ p.w = halfOp h ∧ p.dst = [h.d.toNat] ∧ p.comp = false ∧
    ∀ (x : Ctx) (u : State), x.on ≠ 0 → body x u = leaveHalf x u (halfResult h x u)

/-- An integer word whose lane function is the half's, SEL's choice by a predicate included. -/
theorem LeavesHalf.of_lane {i : Instr} {h : Half} {n : Widths} {lat : Nat} {f : LaneFn} {g : Ctx → State → Nat → Nat → Nat → Nat → Nat}
    {comp : Bool} (hexec : ∀ s, exec i s = laneWord (halfOp h) n lat g s comp) (hn : n = {}) (hcomp : comp = false)
    (hf : intHalf h.opc.toNat = some (lat, f))
    (hg : ∀ x u l a b c, g x u l a b c = f h.ty.toNat h.m.toNat (h.opc == 0x057 && readQ u x h.m.toNat l) a b c) : LeavesHalf i h := by
  subst hn hcomp
  refine fun s => ⟨_, _, hexec s, rfl, rfl, rfl, fun x u _ => ?_⟩
  simp only [halfResult, hf, leaveHalf, wrN, rdN, OfNat.one_ne_ofNat, if_false, hg, rdE_halfOp]

/-- A word that computes the half's function of TYPE, M and its sources. -/
theorem LeavesHalf.of_fn {i : Instr} {h : Half} {n : Widths} {lat : Nat} {f : LaneFn}
    (hexec : ∀ s, exec i s = fnWord (halfOp h) n lat f s) (hn : n = {})
    (hf : intHalf h.opc.toNat = some (lat, f)) (hq : ∀ t m q, f t m q = f t m false) : LeavesHalf i h :=
  .of_lane hexec hn rfl hf fun x u l a b c => by rw [hq _ _ (_ && _), halfOp_ty, halfOp_m]

/-- A float word that computes the half's function of the mode, TYPE, M and its sources. -/
theorem LeavesHalf.of_float {i : Instr} {h : Half} {base : Nat} {lat : FLat} {f : FLane} {val : Ctx → State → FpEnv → Nat → FRes}
    (hexec : ∀ s, exec i s = floatWord (halfOp h) base lat 1 1 (uniformProducing (halfOp h)) val s)
    (hint : intHalf h.opc.toNat = none) (hf : floatHalf h.opc.toNat = (lat, f))
    (hval : ∀ x u v l, val x u v l = f v h.ty.toNat h.m.toNat 0 (rd u x 0 (halfOp h).a l).toNat (rd u x 0 (halfOp h).b l).toNat
      (rd u x 0 (halfOp h).c l).toNat) : LeavesHalf i h := by
  refine fun s => ⟨_, _, hexec s, rfl, rfl, rfl, fun x u hx => ?_⟩
  have h0 : (x.on == 0) = false := by simpa using hx
  have hv : val x u (u.crew x.c x.k).env = fun l => f (u.crew x.c x.k).env h.ty.toNat h.m.toNat 0 (rd u x 0 (halfOp h).a l).toNat
    (rd u x 0 (halfOp h).b l).toNat (rd u x 0 (halfOp h).c l).toNat := funext (hval x u _)
  have hfl (g : Nat → FRes) : (lanesOf x.on).map (fun l => (l, (tget { val := 0 } ((lanesOf x.on).map (fun l => (l, g l))) l).fl)) =
      ((lanesOf x.on).map (fun l => (l, g l))).map (fun e => (e.1, e.2.fl)) := by
    rw [List.map_map]
    exact List.map_congr_left fun l hl => by rw [tget_map _ _ _ hl]; rfl
  have hu : isU (halfOp h).d = false := rfl
  simp only [halfResult, hint, hf, h0, hu, hv, ← hfl, Bool.false_eq_true, if_false]
  cases lat <;> rfl

theorem LeavesHalf.of_fWord {i : Instr} {h : Half} {lat : Nat} {f : FLane} (hexec : ∀ s, exec i s = fWord (halfOp h) lat f s)
    (hint : intHalf h.opc.toNat = none) (hf : floatHalf h.opc.toNat = (.fixed lat, f)) : LeavesHalf i h :=
  .of_float hexec hint hf fun x u v l => by simp only [rdF_halfOp, halfOp_ty, halfOp_m, halfOp_opt]

/-- A dot product, whose C is .f32. -/
theorem LeavesHalf.of_dotWord {i : Instr} {h : Half} {lat : Nat} {f : FLane} (hexec : ∀ s, exec i s = dotWord (halfOp h) lat f s)
    (hint : intHalf h.opc.toNat = none) (hf : floatHalf h.opc.toNat = (.fixed lat, f)) : LeavesHalf i h :=
  .of_float hexec hint hf fun x u v l => by simp only [rdF_halfOp, halfOp_ty, halfOp_m, halfOp_opt]

/-- An SFU word, which takes no C. -/
theorem LeavesHalf.of_sfuWord {i : Instr} {h : Half} {lat : FLat} {o : Nat} (hexec : ∀ s, exec i s = sfuWord (halfOp h) lat (fSfu o) s)
    (hint : intHalf h.opc.toNat = none) (hf : floatHalf h.opc.toNat = (lat, fSfu o)) : LeavesHalf i h :=
  .of_float hexec hint hf fun x u v l => by
    simp only [rdF_halfOp, halfOp_ty, halfOp_m, halfOp_opt]
    rfl

/-! ### The words of the pairable opcodes (R37) -/

theorem widths_narrow {w : Op} (h : w.w64 = false) : same w = {} ∧ sameAD w = {} ∧ sameA w = {} := by
  simp [same, sameAD, sameA, h]

/-- The words of the pairable opcodes by the way in which they compute: integer ALU, LEA and MOV, float ALU, saturation and
dot products, SFU; SEL and FSCALE read their sources in a way of their own. -/
def aluWords (w : Op) : List (Nat × Instr) :=
  [(0x040, .iadd w), (0x041, .isub w), (0x042, .imul w), (0x044, .imad w), (0x045, .imin w), (0x046, .imax w), (0x047, .iabs w),
   (0x048, .ineg w), (0x049, .andW w), (0x04A, .orW w), (0x04B, .xorW w), (0x04C, .notW w), (0x04D, .shl w), (0x04E, .shr w),
   (0x04F, .shra w), (0x050, .rot w), (0x051, .popc w), (0x052, .clz w), (0x053, .brev w), (0x054, .bfx w), (0x055, .bfi w),
   (0x056, .prmb w)]

def moveWords (w : Op) : List (Nat × Instr) := [(0x05A, .lea w), (0x05E, .mov w)]

def floatWords (w : Op) : List (Nat × Instr) :=
  [(0x0C0, .fadd w), (0x0C1, .fsub w), (0x0C2, .fmul w), (0x0C3, .ffma w), (0x0C4, .fmin w), (0x0C5, .fmax w), (0x0C6, .fminm w),
   (0x0C7, .fmaxm w), (0x0C8, .fabs w), (0x0C9, .fneg w), (0x0CA, .fcpys w), (0x0CD, .frnd w)]

def dotSatWords (w : Op) : List (Nat × Instr) := [(0x0EB, .fsat w), (0x0E8, .fdot2 w), (0x0EA, .fmad2 w), (0x0EC, .fmed3 w)]

def sfuWords (w : Op) : List (Nat × Instr) :=
  [(0x0D6, .exp2 w), (0x0D7, .log2 w), (0x0D8, .rcp w), (0x0D9, .rsq w), (0x0DA, .sqrt w), (0x0DB, .sin w), (0x0DC, .cos w),
   (0x0DD, .tanh w), (0x0DE, .sigm w), (0x0DF, .erf w)]

theorem leavesHalf_aluWords {h : Half} (hw : (halfOp h).w64 = false) :
    ∀ e ∈ aluWords (halfOp h) ++ moveWords (halfOp h), e.1 = h.opc.toNat → LeavesHalf e.2 h := by
  refine List.forall_iff_forall_mem.1 ?_
  simp only [aluWords, moveWords, List.cons_append, List.nil_append, List.Forall]
  and_intros <;> intro ho <;>
    exact .of_fn (fun _ => rfl) (by simp only [widths_narrow hw]) (by rw [← ho]; rfl) (fun _ _ _ => rfl)

theorem leavesHalf_sel {h : Half} (hw : (halfOp h).w64 = false) (ho : 0x057 = h.opc.toNat) : LeavesHalf (.sel (halfOp h)) h := by
  have hopc : (h.opc == 0x057) = true := beq_iff_eq.2 (BitVec.eq_of_toNat_eq ho.symm)
  have e (s : State) : exec (.sel (halfOp h)) s = execSel (halfOp h) s := rfl
  refine .of_lane e (widths_narrow hw).1 rfl (by rw [← ho]; rfl) fun x u l a b c => ?_
  rw [hopc, Bool.true_and, halfOp_ty, halfOp_m]

theorem leavesHalf_floatWords {h : Half} : ∀ e ∈ floatWords (halfOp h), e.1 = h.opc.toNat → LeavesHalf e.2 h := by
  refine List.forall_iff_forall_mem.1 ?_
  simp only [floatWords, List.Forall]
  and_intros <;> intro ho <;> exact .of_fWord (fun _ => rfl) (by rw [← ho]; rfl) (by rw [← ho]; rfl)

/-- FSCALE, whose B is an integer. -/
theorem leavesHalf_fscale {h : Half} (ho : 0x0CE = h.opc.toNat) : LeavesHalf (.fscale (halfOp h)) h := by
  have e (s : State) : exec (.fscale (halfOp h)) s = execFscale (halfOp h) s := rfl
  have hf : floatHalf h.opc.toNat = (.fixed 6, fFscale) := by
    rw [← ho]
    rfl
  refine .of_float e (by rw [← ho]; rfl) hf fun x u v l => ?_
  simp only [rdF_halfOp, rdE_halfOp, halfOp_ty, halfOp_m, halfOp_opt]
  rfl

theorem leavesHalf_dotSatWords {h : Half} : ∀ e ∈ dotSatWords (halfOp h), e.1 = h.opc.toNat → LeavesHalf e.2 h := by
  refine List.forall_iff_forall_mem.1 ?_
  simp only [dotSatWords, List.Forall]
  refine ⟨?fsat, ?fdot2, ?fmad2, ?fmed3⟩ <;> intro ho
  case fsat | fmed3 => exact .of_fWord (fun _ => rfl) (by rw [← ho]; rfl) (by rw [← ho]; rfl)
  case fdot2 | fmad2 => exact .of_dotWord (fun _ => rfl) (by rw [← ho]; rfl) (by rw [← ho]; rfl)

theorem leavesHalf_sfuWords {h : Half} : ∀ e ∈ sfuWords (halfOp h), e.1 = h.opc.toNat → LeavesHalf e.2 h := by
  refine List.forall_iff_forall_mem.1 ?_
  simp only [sfuWords, List.Forall]
  and_intros <;> intro ho <;> exact .of_sfuWord (fun _ => by unfold exec; rfl) (by rw [← ho]; rfl) (by rw [← ho]; rfl)

/-- The words that the pairable opcodes have by themselves. -/
def ownWords (w : Op) : List (Nat × Instr) :=
  aluWords w ++ (0x057, .sel w) :: moveWords w ++ floatWords w ++ (0x0CE, .fscale w) :: dotSatWords w ++ sfuWords w

theorem leavesHalf_ownWords {h : Half} (hw : (halfOp h).w64 = false) :
    ∀ e ∈ ownWords (halfOp h), e.1 = h.opc.toNat → LeavesHalf e.2 h := by
  have halu := leavesHalf_aluWords hw
  simp only [ownWords, List.forall_mem_append, List.forall_mem_cons] at halu ⊢
  exact ⟨⟨⟨⟨halu.1, leavesHalf_sel hw, halu.2⟩, leavesHalf_floatWords⟩, leavesHalf_fscale, leavesHalf_dotSatWords⟩, leavesHalf_sfuWords⟩

/-! ### PAIR (R38) -/

/-- A half's own word leaves in its crew the result that the half leaves. -/
theorem LeavesHalf.completes {i : Instr} {h : Half} {s : State} {x : Ctx} {dst : List Nat} (hi : LeavesHalf i h)
    (hs : Issues s {} dst false x) (hd : [h.d.toNat].Sublist dst) :
    Completes i s fun u => leftResult x s.clk (halfResult h x s) s.nextId ∈ (u.at x).results := by
  obtain ⟨p, body, e, hw, hdst, hcomp, hbody⟩ := hi s
  have hissues : Issues s p.w p.dst p.comp x := by
    rw [hw, hdst, hcomp]
    exact hs.of_sublist hd (latchesOf_halfOp h)
  refine ⟨_, e.trans (issue_next hissues body), ?_⟩
  show _ ∈ ((ended p x (s.at x) (body x (begun s p x []))).at x).results
  rw [results_ended, hbody x _ hs.on, (readsAs_begun s p x).halfResult]
  exact leaveHalf_mem (halfResult_writes hs.on h s).1 x _

/-- What PAIR tells before it acts. -/
def pairPre (p : PairOp) : Pre :=
  { dst := [p.x.d.toNat, p.y.d.toNat], reads := halfSrcs p.x ++ halfSrcs p.y, last := halfLast p.x ++ halfLast p.y
    base := if pairClass p.y.opc.toNat == some 2 then sfuBase p.y.ty.toNat else 1 }

/-- Both halves read the state before either leaves its result. -/
theorem execPair_eq (p : PairOp) (s : State) : exec (.pair p) s =
    issue s (pairPre p) (fun x s => leaveHalf x (leaveHalf x s (halfResult p.x x s)) (halfResult p.y x s)) := rfl

/-- Each half's result, of the state at issue, is outstanding, and nothing else changes but what every word changes. -/
theorem pair_completes {p : PairOp} {s : State} {x : Ctx} (hs : Issues s {} [p.x.d.toNat, p.y.d.toNat] false x) :
    Completes (.pair p) s fun t => leftResult x s.clk (halfResult p.x x s) s.nextId ∈ (t.at x).results ∧
      leftResult x s.clk (halfResult p.y x s) (s.nextId + 1) ∈ (t.at x).results ∧ OnlyResult s t x (halfLast p.x ++ halfLast p.y) := by
  obtain ⟨hx, -⟩ := halfResult_writes hs.on p.x s
  obtain ⟨hy, hyu⟩ := halfResult_writes hs.on p.y s
  have hr := readsAs_begun s (pairPre p) x
  have hlast : lastRegs x.h (pairPre p).w (pairPre p).ra (pairPre p).rb (pairPre p).rc ++ (pairPre p).last =
      halfLast p.x ++ halfLast p.y := by
    simp [lastRegs, pairPre, vdst]
  have hfirst := leaveHalf_mem hx x (begun s (pairPre p) x [])
  have hsecond := leaveHalf_mem hy x (leaveHalf x (begun s (pairPre p) x []) (halfResult p.x x s))
  rw [leaveHalf_clk _ _ hx, leaveHalf_nextId _ _ hx] at hsecond
  refine ⟨_, (execPair_eq p s).trans (issue_next (p := pairPre p) hs _), ?_⟩
  simp only [hr.halfResult, results_ended, ← hlast]
  exact ⟨leaveHalf_keeps hy hyu x _ hfirst, hsecond,
    .ended ((OnlyCrew.leaveHalf _ x _).trans (.leaveHalf _ x _)) ((keeps_leaveHalf _ x _ _).trans (keeps_leaveHalf _ x _ _))
      fun l => (pcOf_leaveHalf _ x _ l).trans (pcOf_leaveHalf _ x _ l)⟩

/-! ### The statement -/

/-- Settles O18: each half of PAIR leaves the result that its own word leaves at issue; RESULT_WRITEBACK makes each write and then
the releases that waited for it. -/
theorem pairAndWriteback : Obligations.PairAndWriteback := by
  refine ⟨fun p s x hs => ?_, fun s c k r hfind hready hlo => ?_⟩
  · intro own leaves lastOf
    obtain ⟨t, e, hx, hy, honly⟩ := pair_completes hs
    have half {h : Half} {id : Nat} (hd : [h.d.toNat].Sublist [p.x.d.toNat, p.y.d.toNat])
        (hmem : leftResult x s.clk (halfResult h x s) id ∈ (t.at x).results) : leaves t h id := by
      refine ⟨_, hmem, rfl, fun e he ho hty => ?_⟩
      obtain ⟨u, eu, hu⟩ := (leavesHalf_ownWords (halfOp_w64 hty) e he ho).completes hs hd
      exact ⟨u, eu, _, hu, rfl, rfl⟩
    exact ⟨t, e, half (by simp) hx, half (by simp) hy, honly⟩
  · exact ⟨_, resultWriteback_writes hfind hready hlo, writeResult_ends_result s c k r,
      fun n vals h hnd l hl => writeResult_lanes h hnd s c k hl, fun n v h l _ => writeResult_compressed h s c k l,
      fun n v h => writeResult_uniform h s c k, fun n m vals h => writeResult_predicate h s c k,
      fun vals h hnd l => writeResult_flags h hnd s c k l⟩

end Sys2Proof.Machine

/-! ## Control words that move lanes (R80, R84 to R86)

A control word acts between `begun`, which has moved its path's lanes to the next word, and `ended`. What it does in between is
said of the begun state; the lemmas of the first section carry it to the state that the word leaves. -/

namespace Sys2Proof.Machine

/-! ### From the begun state to the ended one -/

/-- The executing lanes are lanes of the path (R24). -/
theorem Issues.on_path {s : State} {w : Op} {dst : List Nat} {comp : Bool} {x : Ctx} (h : Issues s w dst comp x) {l : Nat}
    (hl : l ∈ lanesOf x.on) : l ∈ lanesOf x.path := by
  obtain ⟨i, -, rfl⟩ := h.path
  unfold ctxOf at hl ⊢
  simp only at hl ⊢
  split
  next hq => rwa [if_pos hq] at hl
  next hq =>
    rw [if_neg hq] at hl
    have hm := (mem_lanesOf.1 hl).2
    rw [getLsbD_maskOf _ _ (mem_lanesOf.1 hl).1] at hm
    exact (List.mem_filter.1 (List.contains_iff_mem.1 hm)).1

theorem onlyCrew_word {s u : State} {x : Ctx} (p : Pre) (h : OnlyCrew (begun s p x []) u x) (old : Crew) :
    OnlyCrew s (ended p x old u) x :=
  ((OnlyCrew.begun s p x).trans h).trans (OnlyCrew.ended u p x old)

/-- The last reads of a word whose sources are single registers. -/
def Pre.single (p : Pre) : Prop := p.ra = 1 ∧ p.rb = 1 ∧ p.rc = 1 ∧ p.last = []

theorem keepsCrew_word {k : Crew} {u : State} {x : Ctx} {p : Pre} (hp : p.single) (h : KeepsCrew k (u.at x) (lastRegs x.h p.w 1 1 1))
    (old : Crew) : KeepsCrew k ((ended p x old u).at x) (lastRegs x.h p.w 1 1 1) := by
  obtain ⟨ha, hb, hc, hl⟩ := hp
  have hend := keeps_settleRows x p old (u.at x)
  rw [ha, hb, hc, hl, List.append_nil] at hend
  rw [at_ended]
  exact h.trans hend

/-- The lanes of a path stand in the begun state at the next word. -/
theorem pcOf_begun (s : State) (p : Pre) (x : Ctx) (l : Nat) :
    ((begun s p x []).at x).pcOf l = if l ∈ lanesOf x.path then x.next else (s.at x).pcOf l :=
  (begins_begun s p x).moves l

/-- A word that sends no lane anywhere leaves its executing lanes at the next word. -/
theorem goes_next {s u : State} {w : Op} {dst : List Nat} {comp : Bool} {x : Ctx} (h : Issues s w dst comp x) (p : Pre) (old : Crew)
    (hu : ∀ l, (u.at x).pcOf l = ((begun s p x []).at x).pcOf l) : Goes s (ended p x old u) x (fun _ => x.next) := by
  intro l
  rw [pcOf_ended, hu, pcOf_begun]
  by_cases hon : l ∈ lanesOf x.on
  · rw [if_pos (h.on_path hon), if_pos hon]
  · rw [if_neg hon]

/-! ### Lanes that are sent to other PCs (R80) -/

/-- Some lanes have been sent to PCs of their own, and nothing else differs. -/
structure Sent (s t : State) (x : Ctx) (ls : List Nat) (dest : Nat → Pc) : Prop where
  only : OnlyCrew s t x
  free : t.free = s.free
  crew : { t.at x with pc := (s.at x).pc } = s.at x
  pcs : ∀ l, (t.at x).pcOf l = if l ∈ ls then dest l else (s.at x).pcOf l

theorem Sent.nil (s : State) (x : Ctx) (dest : Nat → Pc) : Sent s s x [] dest := ⟨.refl s x, rfl, rfl, fun _ => rfl⟩

theorem Sent.append {s t u : State} {x : Ctx} {a b : List Nat} {dest : Nat → Pc} (h : Sent s t x a dest) (g : Sent t u x b dest) :
    Sent s u x (a ++ b) dest := by
  refine ⟨h.only.trans g.only, g.free.trans h.free, ?_, fun l => ?_⟩
  · have e := h.crew
    rw [← g.crew] at e
    exact e
  · rw [g.pcs, h.pcs]
    by_cases hb : l ∈ b <;> by_cases ha : l ∈ a <;> simp [ha, hb]

theorem sent_sendTo (s : State) (x : Ctx) (m : Mask) (p : Pc) : Sent s (sendTo s x m p) x (lanesOf m) (fun _ => p) := by
  obtain ⟨t, ht⟩ := forLanes_setPc m p (s.at x)
  have hat : (sendTo s x m p).at x = { s.at x with pc := t } := by
    rw [← ht]
    exact crew_modCrew_same s x.c x.k _
  refine ⟨.modCrew s x _, rfl, by rw [hat], fun l => ?_⟩
  rw [hat, ← ht]
  exact pcOf_forLanes m p (s.at x) l

theorem lanesOf_laneBit {l : Nat} (hl : l < 32) : lanesOf (laneBit l) = [l] := by
  revert l
  decide

theorem ReadsAs.refl (s : State) (x : Ctx) : ReadsAs s s x := ⟨rfl, rfl, rfl, _, _, rfl⟩

/-- Operands read after lanes have been sent as before. -/
theorem Sent.readsAs {s t u : State} {x : Ctx} {ls : List Nat} {dest : Nat → Pc} (h : Sent t u x ls dest) (hr : ReadsAs s t x) :
    ReadsAs s u x := by
  obtain ⟨hfree, hclk, hchip, pc, since, hcrew⟩ := hr
  refine ⟨h.free.trans hfree, ?_, ?_, (u.at x).pc, since, ?_⟩
  · rw [← hclk, ← h.only.rest]
  · rw [← hchip, ← h.only.rest]
  · have e := h.crew
    rw [hcrew] at e
    exact congrArg (fun k : Crew => { k with pc := (u.at x).pc }) e

/-- Lanes that are sent one after the other, each to its own PC, which is read as before the first of them. -/
theorem sent_each {s t : State} {x : Ctx} {step : State → Nat → State} {dest : Nat → Pc} {ls : List Nat} (hr : ReadsAs s t x)
    (hstep : ∀ u, ReadsAs s u x → ∀ l ∈ ls, Sent u (step u l) x [l] dest) : Sent t (ls.foldl step t) x ls dest := by
  induction ls generalizing t with
  | nil => exact .nil t x dest
  | cons a ls ih =>
    have ha := hstep t hr a List.mem_cons_self
    exact ha.append (ih (ha.readsAs hr) fun u hu l hl => hstep u hu l (List.mem_cons_of_mem a hl))

theorem sent_lane (s : State) (x : Ctx) {l : Nat} (hl : l < 32) {dest : Nat → Pc} {p : Pc} (hp : p = dest l) :
    Sent s (sendTo s x (laneBit l) p) x [l] dest := by
  subst hp
  obtain ⟨ho, hf, hc, hpcs⟩ := sent_sendTo s x (laneBit l) (dest l)
  refine ⟨ho, hf, hc, fun j => (hpcs j).trans ?_⟩
  rw [lanesOf_laneBit hl]
  by_cases hj : j = l <;> simp [hj]

/-- Jump to an offset within the slot (R80). -/
theorem sent_jump {x : Ctx} {w : Op} (h : x.inSlot w) (s : State) (m : Mask) : Sent s (jump s x m w) x (lanesOf m) (fun _ => x.there w) := by
  obtain ⟨h0, h1⟩ := h
  rw [Ctx.near] at h0 h1
  have hin : ¬(decide ((x.pc.off : Int) + 4 * off16 w < 0) || decide (65532 < (x.pc.off : Int) + 4 * off16 w)) = true := by
    simp only [Bool.or_eq_true, decide_eq_true_eq]
    omega
  rw [jump, if_neg hin]
  exact sent_sendTo s x m _

theorem bit_one_setWidth {v : W64} (h : bit v.toNat 1 = false) : bit (v.setWidth 32).toNat 1 = false := by
  simp only [bit, BitVec.toNat_setWidth, beq_eq_false_iff_ne] at h ⊢
  omega

/-- A jump of each lane to a code address of its own, whose bit 1 is 0 (R80). -/
theorem sent_jumpCA {x : Ctx} {ca : Nat → W32} (h : ∀ l ∈ lanesOf x.on, bit (ca l).toNat 1 = false) (s : State) :
    Sent s ((lanesOf x.on).foldl (fun s l => jumpCA s x l (ca l)) s) x (lanesOf x.on) (fun l => codeAt (ca l)) := by
  refine sent_each (ReadsAs.refl s x) fun u _ l hl => ?_
  rw [jumpCA, h l hl, if_neg Bool.false_ne_true]
  exact sent_lane u x (mem_lanesOf.1 hl).1 rfl

/-! ### Words that send their lanes and do nothing else -/

/-- A word that sends its executing lanes goes where it sends them. -/
theorem goes_of_sent {s u : State} {p : Pre} {x : Ctx} {dest : Nat → Pc} (h : Sent (begun s p x []) u x (lanesOf x.on) dest) (old : Crew) :
    Goes s (ended p x old u) x dest := by
  intro l
  rw [pcOf_ended, h.pcs, pcOf_begun]

theorem Sent.keeps {s t : State} {x : Ctx} {ls last : List Nat} {dest : Nat → Pc} (h : Sent s t x ls dest) :
    KeepsCrew (s.at x) (t.at x) last := by
  have e := h.crew
  exact ⟨fun n _ l _ => by rw [← e]; rfl, by rw [← e]⟩

theorem Sent.results {s t : State} {x : Ctx} {ls : List Nat} {dest : Nat → Pc} (h : Sent s t x ls dest) :
    (t.at x).results = (s.at x).results := by
  rw [← h.crew]

/-- What a word without a destination register tells before it acts. -/
theorem single_op (w : Op) (dst : List Nat) : ({ w, dst } : Pre).single := ⟨rfl, rfl, rfl, rfl⟩

theorem onlyTo_of_sent {s u : State} {w : Op} {x : Ctx} {ls : List Nat} {dest : Nat → Pc} (h : Sent (begun s { w } x []) u x ls dest) :
    OnlyTo s (ended { w } x (s.at x) u) x w id where
  only := onlyCrew_word { w } h.only _
  keeps := keepsCrew_word (single_op w []) ((keeps_begun s { w } x _).trans h.keeps) _
  results := by rw [results_ended, h.results, results_begun]

section
variable {i : Instr} {s : State} {w : Op} {x : Ctx} {body : Ctx → State → State}

theorem completes_sent {dest : Nat → Pc} (h : Issues s w [] false x) (hi : exec i s = issue s { w } body)
    (hs : Sent (begun s { w } x []) (body x (begun s { w } x [])) x (lanesOf x.on) dest) :
    Completes i s fun t => OnlyTo s t x w id ∧ Goes s t x dest :=
  ⟨_, hi.trans (issue_next (p := { w }) h body), onlyTo_of_sent hs, goes_of_sent hs _⟩

theorem completes_stays (h : Issues s w [] false x) (hi : exec i s = issue s { w } body)
    (hs : body x (begun s { w } x []) = begun s { w } x []) : Completes i s fun t => OnlyTo s t x w id ∧ Goes s t x (fun _ => x.next) := by
  have hnil : Sent (begun s { w } x []) (body x (begun s { w } x [])) x [] (fun _ => x.next) := by
    rw [hs]; exact .nil _ x _
  exact ⟨_, hi.trans (issue_next (p := { w }) h body), onlyTo_of_sent hnil, goes_next h _ _ fun l => by rw [hs]⟩

/-- What a word does that leaves a value in D within 2 clk and sends its executing lanes to a PC (R84, R86). -/
def LinksTo (s t : State) (x : Ctx) (w : Op) (val : W32) (dest : Pc) : Prop :=
  Leaves s t x 2 (wrOf x false w.d (fun _ => val)) ∧ OnlyCrew s t x ∧ KeepsCrew (s.at x) (t.at x) (lastRegs x.h w 1 1 1) ∧
    Goes s t x (fun _ => dest)

/-- A word that leaves a value in D and then sends lanes. -/
theorem completes_links {dst ls : List Nat} {val : W32} {away : Nat → Pc} {dest : Pc} (h : Issues s w dst false x)
    (hd : Opd.writes w.d = true) (hi : exec i s = issue s { w, dst } body)
    (hs : Sent (fixedResult (begun s { w, dst } x []) x 2 (wrOf x false w.d (fun _ => val))) (body x (begun s { w, dst } x [])) x ls away)
    (hg : Goes s (ended { w, dst } x (s.at x) (body x (begun s { w, dst } x []))) x (fun _ => dest)) :
    Completes i s fun t => LinksTo s t x w val dest := by
  refine ⟨_, hi.trans (issue_next (p := { w, dst }) h body), ?_, ?_, ?_, hg⟩
  · obtain ⟨r, hr, hleft⟩ := fixedResult_mem (begun s { w, dst } x []) x 2 _ [] (wrOf_ne_nil h.on false hd (fun _ => val))
    exact leaves_ended ⟨r, by rwa [hs.results], hleft⟩
  · exact onlyCrew_word _ ((OnlyCrew.fixedResult _ x 2 _ _).trans hs.only) _
  · exact keepsCrew_word (single_op w dst) (((keeps_begun s _ x _).trans (keeps_fixedResult _ x 2 _ _ _)).trans hs.keeps) _

theorem completes_links_sent {dst : List Nat} {val : W32} {dest : Pc} (h : Issues s w dst false x)
    (hd : Opd.writes w.d = true) (hi : exec i s = issue s { w, dst } body)
    (hs : Sent (fixedResult (begun s { w, dst } x []) x 2 (wrOf x false w.d (fun _ => val))) (body x (begun s { w, dst } x [])) x
      (lanesOf x.on) (fun _ => dest)) : Completes i s fun t => LinksTo s t x w val dest := by
  refine completes_links h hd hi hs fun l => ?_
  rw [pcOf_ended, hs.pcs, pcOf_fixedResult, pcOf_begun]

end

/-! ### BRC and BRU (R85) -/

theorem lanesOf_injective : Function.Injective lanesOf := fun a b h => by
  rw [← maskOf_lanesOf a, h, maskOf_lanesOf]

/-- The mask of some lanes of a mask. -/
theorem lanesOf_maskOf_filter (m : Mask) (q : Nat → Bool) : lanesOf (maskOf ((lanesOf m).filter q)) = (lanesOf m).filter q := by
  rw [lanesOf, lanesOf, List.filter_filter]
  refine List.filter_congr fun l hl => ?_
  rw [getLsbD_maskOf _ _ (List.mem_range.1 hl), Bool.eq_iff_iff, List.contains_iff_mem, List.mem_filter, and_iff_right hl]

/-- The condition of BRC, on the executing lanes in which the predicate reads 1. -/
theorem brcTakes_iff (s : State) (x : Ctx) (q mode : Nat) :
    (if mode = 0 then readQMask s x q x.on != 0 else if mode = 1 then readQMask s x q x.on == x.on else readQMask s x q x.on == 0) = true ↔
      let yes := (lanesOf x.on).filter (fun l => readQ s x q l)
      match mode with
      | 0 => yes ≠ []
      | 1 => yes = lanesOf x.on
      | _ => yes = [] := by
  have hl : lanesOf (readQMask s x q x.on) = (lanesOf x.on).filter (fun l => readQ s x q l) := lanesOf_maskOf_filter _ _
  have heq (m : Mask) : readQMask s x q x.on = m ↔ (lanesOf x.on).filter (fun l => readQ s x q l) = lanesOf m := by
    rw [← hl]
    exact lanesOf_injective.eq_iff.symm
  have hnil : lanesOf 0 = [] := by decide
  match mode with
  | 0 => simp only [if_true, bne_iff_ne, ne_eq, heq, hnil]
  | 1 => simp only [one_ne_zero, if_false, if_true, beq_iff_eq, heq]
  | n + 2 => simp only [Nat.add_eq_zero_iff, OfNat.ofNat_ne_zero, and_false, if_false, Nat.reduceEqDiff, beq_iff_eq, heq, hnil]

/-- The condition of BRU. -/
theorem zeroCond_iff (mode : Nat) (v : Int) : zeroCond mode v = true ↔ match mode with
    | 0 => v = 0 | 1 => v ≠ 0 | 2 => v < 0 | 3 => 0 ≤ v | 4 => 0 < v | _ => v ≤ 0 := by
  match mode with
  | 0 | 1 | 2 | 3 | 4 => simp [zeroCond]
  | n + 5 => simp [zeroCond]

/-! ### The words -/

section
variable {s : State} {w : Op} {x : Ctx}

theorem brc_takes_branch {n : BitVec 8} (hd : w.d = .sp n) (h : Issues s w [] false x) :
    let yes := (lanesOf x.on).filter (fun l => readQ s x (n.toNat - 0x80) l)
    let take : Prop := match w.mn with
      | 0 => yes ≠ [] | 1 => yes = lanesOf x.on | _ => yes = []
    (take → x.inSlot w → Completes (.brc w) s fun t => OnlyTo s t x w id ∧ Goes s t x (fun _ => x.there w)) ∧
    (¬take → Completes (.brc w) s fun t => OnlyTo s t x w id ∧ Goes s t x (fun _ => x.next)) := by
  intro yes take
  have hr := readsAs_begun s { w } x
  have htake := brcTakes_iff (begun s { w } x []) x (n.toNat - 0x80) w.mn
  simp only [hr.readQ] at htake
  have hi : exec (.brc w) s = execBrc w s := rfl
  rw [execBrc] at hi
  refine ⟨fun ht hin => completes_sent h hi ?_, fun ht => completes_stays h hi ?_⟩
  · simp only [hd]
    rw [if_pos (htake.2 ht)]
    exact sent_jump hin _ _
  · simp only [hd]
    exact if_neg fun hc => ht (htake.1 hc)

theorem bru_takes_branch (h : Issues s w [] false x) :
    let v := (rd s x 0 w.d 0).toInt
    let take : Prop := match w.mn with
      | 0 => v = 0 | 1 => v ≠ 0 | 2 => v < 0 | 3 => 0 ≤ v | 4 => 0 < v | _ => v ≤ 0
    (take → x.inSlot w → Completes (.bru w) s fun t => OnlyTo s t x w id ∧ Goes s t x (fun _ => x.there w)) ∧
    (¬take → Completes (.bru w) s fun t => OnlyTo s t x w id ∧ Goes s t x (fun _ => x.next)) := by
  intro v take
  have htake : zeroCond w.mn (rd (begun s { w } x []) x 0 w.d 0).toInt = true ↔ take := by
    rw [(readsAs_begun s { w } x).rd]
    exact zeroCond_iff _ _
  have hi : exec (.bru w) s = execBru w s := rfl
  rw [execBru] at hi
  refine ⟨fun ht hin => completes_sent h hi ?_, fun ht => completes_stays h hi ?_⟩
  · rw [if_pos (htake.2 ht)]
    exact sent_jump hin _ _
  · exact if_neg fun hc => ht (htake.1 hc)

/-- BRX: each lane goes to an offset of its own within the slot. -/
theorem brx_goes (h : Issues s w [] false x) : Completes (.brx w) s fun t =>
    OnlyTo s t x w id ∧ Goes s t x (fun l => { x.pc with off := 4 * bf (rd s x 0 w.a l).toNat 2 14 }) := by
  have hi : exec (.brx w) s = execBrx w s := rfl
  rw [execBrx] at hi
  refine completes_sent h hi (sent_each (readsAs_begun s { w } x) fun u hu l hl => ?_)
  rw [hu.rd]
  exact sent_lane u x (mem_lanesOf.1 hl).1 rfl

/-- RET: each lane goes to the code address in A. -/
theorem ret_goes (h : Issues s w [] false x) (hca : ∀ l ∈ lanesOf x.on, bit (rd s x 0 w.a l).toNat 1 = false) :
    Completes (.ret w) s fun t => OnlyTo s t x w id ∧ Goes s t x (fun l => codeAt (rd s x 0 w.a l)) := by
  have hi : exec (.ret w) s = execRet w s := rfl
  rw [execRet] at hi
  refine completes_sent h hi ?_
  simp only [List.foldl_map, (readsAs_begun s { w } x).rd]
  exact sent_jumpCA hca _

/-- CALL and CALL.far leave the link and go where their jump sends them. -/
theorem callWord_links {i : Instr} {go : Ctx → State → State} {dest : Pc} (hd : Opd.writes w.d = true)
    (h : Issues s w (vdst w.d 1) false x) (hlast : x.next.off ≠ 65536) (hi : exec i s = callWord w s go)
    (hgo : ∀ u, Sent u (go x u) x (lanesOf x.on) (fun _ => dest)) : Completes i s fun t => LinksTo s t x w x.next.addr dest := by
  rw [callWord] at hi
  refine completes_links_sent h hd hi ?_
  rw [if_neg (show ¬x.pc.off + x.h.form.bytes = 65536 from hlast)]
  exact hgo _

theorem loopu_counts (hu : isU w.d = true) (h : Issues s w (vdst w.d 1) false x) :
    let k := rd s x 0 w.d 0 - 1
    (k ≠ 0 → x.inSlot w → Completes (.loopu w) s fun t => LinksTo s t x w k (x.there w)) ∧
    (k = 0 → Completes (.loopu w) s fun t => LinksTo s t x w 0 x.next) := by
  intro k
  have hdst : vdst w.d 1 = [] := by
    cases hd : w.d with
    | u n => rfl
    | no | v | sp | im | ext => simp [hd, isU] at hu
  have hd : Opd.writes w.d = true := by
    cases hd : w.d with
    | u n => rfl
    | no | v | sp | im | ext => simp [hd, isU] at hu
  rw [hdst] at h
  have hon : (x.on == 0) = false := by simpa using h.on
  have hrd : rd (begun s { w } x []) x 0 w.d 0 - 1 = k := by rw [(readsAs_begun s { w } x).rd]
  have hi : exec (.loopu w) s = execLoopu w s := rfl
  rw [execLoopu] at hi
  refine ⟨fun hk hin => completes_links_sent h hd hi ?_, fun hk => completes_links (ls := []) (away := fun _ => {}) h hd hi ?_ ?_⟩
  · simp only [hon, Bool.false_eq_true, if_false, hrd]
    rw [if_pos (bne_iff_ne.2 hk)]
    exact sent_jump hin _ _
  all_goals
    rw [hk] at hrd
    simp only [hon, Bool.false_eq_true, if_false, hrd, bne_self_eq_false]
  · exact .nil _ x _
  · exact goes_next h _ _ (pcOf_fixedResult _ x 2 _ _)

end

/-! ### The statement -/

/-- Settles O19: a branch sends the lanes of its begun state; a call or a loop leaves its value first. -/
theorem branches : Obligations.Branches := by
  refine ⟨fun w s x h => ⟨fun hin => ?_, fun hca => ?_, fun n hd _ => brc_takes_branch hd h, bru_takes_branch h, brx_goes h, ret_goes h⟩,
    fun w s x hd h => ⟨fun hlast => ⟨fun hin => ?_, fun hca => ?_⟩, fun hu => loopu_counts hu h⟩⟩
  · exact completes_sent h (show exec (.bra w) s = execBra w s from rfl) (sent_jump hin _ _)
  · exact completes_sent h (show exec (.braFar w) s = execBraFar w s from rfl) (sent_jumpCA (fun _ _ => bit_one_setWidth hca) _)
  · exact callWord_links hd h hlast (show exec (.call w) s = execCall w s from rfl) fun u => sent_jump hin u _
  · exact callWord_links hd h hlast (show exec (.callFar w) s = execCallFar w s from rfl) fun u => sent_jumpCA (fun _ _ => bit_one_setWidth hca) u

end Sys2Proof.Machine

/-! ## Traps that are taken (R94, R253)

A lane that traps leaves its record and goes to its crew's handler. The lanes of a word trap one after the other; since no lane
traps twice, each is found as the word found it. -/

namespace Sys2Proof.Machine

/-- What ending a word changes of its crew. -/
theorem at_ended_rest (s : State) (p : Pre) (x : Ctx) (old : Crew) :
    ∃ a v r q, (ended p x old s).at x = { s.at x with latch := a, vent := v, rows := r, pendRel := q } := by
  rw [at_ended]
  exact settleRows_rest x p old _

/-- A crew of which only PCs and the age differ keeps the rest. -/
theorem KeepsCrew.of_pcs {k k' : Crew} {pc : Tab Pc} {since : Nat} {last : List Nat} (h : k' = { k with pc, since }) : KeepsCrew k k' last :=
  ⟨fun _ _ _ _ => by rw [h]; rfl, by rw [h]⟩

/-- Some lanes have trapped with a cause and a code, and nothing else differs. -/
structure TakesTraps (s t : State) (x : Ctx) (ls : List Nat) (cause code : Nat) : Prop where
  only : OnlyCrew s t x
  crew : t.at x = { trapFields (t.at x) (s.at x) with pc := (t.at x).pc }
  saved : ∀ l ∈ ls, tget 0 (t.at x).trappc l = x.pc.addr ∧ tget 0 (t.at x).trapaddr l = 0 ∧
    tget 0 (t.at x).trapinfo l = trapInfo x.lenCode code cause ∧ (t.at x).pcOf l = codeAt (s.at x).trapent
  others : ∀ l, l ∉ ls → tget 0 (t.at x).trappc l = tget 0 (s.at x).trappc l ∧ tget 0 (t.at x).trapaddr l = tget 0 (s.at x).trapaddr l ∧
    tget 0 (t.at x).trapinfo l = tget 0 (s.at x).trapinfo l ∧ (t.at x).parkOf l = (s.at x).parkOf l ∧ (t.at x).pcOf l = (s.at x).pcOf l

theorem TakesTraps.none {s t : State} {x : Ctx} (h : OnlyCrew s t x) (hat : t.at x = s.at x) (cause code : Nat) :
    TakesTraps s t x [] cause code :=
  ⟨h, by rw [hat]; rfl, fun _ hl => absurd hl List.not_mem_nil, fun l _ => by rw [hat]; exact ⟨rfl, rfl, rfl, rfl, rfl⟩⟩

theorem TakesTraps.trapent {s t : State} {x : Ctx} {ls : List Nat} {cause code : Nat} (h : TakesTraps s t x ls cause code) :
    (t.at x).trapent = (s.at x).trapent := by
  have e := congrArg Crew.trapent h.crew
  exact e

theorem TakesTraps.append {s t u : State} {x : Ctx} {a b : List Nat} {cause code : Nat} (h : TakesTraps s t x a cause code)
    (g : TakesTraps t u x b cause code) (hab : ∀ l ∈ a, l ∉ b) : TakesTraps s u x (a ++ b) cause code := by
  refine ⟨h.only.trans g.only, ?_, fun l hl => ?_, fun l hl => ?_⟩
  · exact g.crew.trans (congrArg (fun k => { trapFields (u.at x) k with pc := (u.at x).pc }) h.crew)
  · rcases List.mem_append.1 hl with ha | hb
    · obtain ⟨hpc, haddr, hinfo, hto⟩ := h.saved l ha
      obtain ⟨gpc, gaddr, ginfo, -, gto⟩ := g.others l (hab l ha)
      exact ⟨gpc.trans hpc, gaddr.trans haddr, ginfo.trans hinfo, gto.trans hto⟩
    · rw [← h.trapent]
      exact g.saved l hb
  · obtain ⟨ha, hb⟩ := not_or.1 (mt List.mem_append.2 hl)
    obtain ⟨hpc, haddr, hinfo, hpark, hto⟩ := h.others l ha
    obtain ⟨gpc, gaddr, ginfo, gpark, gto⟩ := g.others l hb
    exact ⟨gpc.trans hpc, gaddr.trans haddr, ginfo.trans hinfo, gpark.trans hpark, gto.trans hto⟩

/-- A lane that is not in its handler traps in a crew that has one (R253). -/
theorem trapLane_takes {s : State} {x : Ctx} {l : Nat} (hent : (s.at x).trapent ≠ 0xFFFFFFFF)
    (hin : inTrap (tget 0 (s.at x).trapinfo l) = false) (cause code : Nat) :
    TakesTraps s (trapLane s x.c x.k x.pc x.lenCode { lane := l, cause, code }) x [l] cause code := by
  rw [State.at] at hent hin
  have hc : (inTrap (tget 0 (s.crew x.c x.k).trapinfo l) || (s.crew x.c x.k).trapent == 0xFFFFFFFF) = false := by
    rw [hin, Bool.false_or, beq_eq_false_iff_ne]
    exact hent
  simp only [trapLane, hc, Bool.false_eq_true, if_false]
  refine ⟨.modCrew s x _, ?_, ?_, fun j hj => ?_⟩
  · simp only [State.at, crew_modCrew_same]
    rfl
  · simp only [State.at, crew_modCrew_same, List.forall_mem_singleton, tget_tset_same, Crew.pcOf, true_and]
    rfl
  · have hne : j ≠ l := fun h => hj (List.mem_singleton.2 h)
    simp only [State.at, crew_modCrew_same, tget_tset_ne _ _ _ hne, Crew.parkOf, Crew.pcOf, and_self]

/-- Lanes of which none is in its handler trap one after the other. -/
theorem foldl_trapLane_takes {s : State} {x : Ctx} {ls : List Nat} (hnd : ls.Nodup) (hent : (s.at x).trapent ≠ 0xFFFFFFFF)
    (hin : ∀ l ∈ ls, inTrap (tget 0 (s.at x).trapinfo l) = false) (cause code : Nat) :
    TakesTraps s (ls.foldl (fun s l => trapLane s x.c x.k x.pc x.lenCode { lane := l, cause, code }) s) x ls cause code := by
  induction ls generalizing s with
  | nil => exact .none (.refl s x) rfl _ _
  | cons a ls ih =>
    obtain ⟨ha, hls⟩ := List.nodup_cons.1 hnd
    have hfirst := trapLane_takes hent (hin a List.mem_cons_self) cause code
    refine hfirst.append (ih hls ?_ fun l hl => ?_) fun l hl => List.mem_singleton.1 hl ▸ ha
    · rw [hfirst.trapent]
      exact hent
    · obtain ⟨-, -, hinfo, -, -⟩ := hfirst.others l (fun h => ha (List.mem_singleton.1 h ▸ hl))
      rw [hinfo]
      exact hin l (List.mem_cons_of_mem a hl)

/-- The lanes of a mask raise a cause that goes to their handler (R252). -/
theorem faultLanes_takes {s : State} {x : Ctx} {m : Mask} {cause : Nat} (hc : monitorFirst cause = false)
    (hent : (s.at x).trapent ≠ 0xFFFFFFFF) (hin : ∀ l ∈ lanesOf m, inTrap (tget 0 (s.at x).trapinfo l) = false) (code : Nat) :
    TakesTraps s (faultLanes s x (raises m cause code)) x (lanesOf m) cause code := by
  have hsplit : (raises m cause code).filter (fun r => monitorFirst r.cause) = [] := by
    simp [raises, List.filter_map, Function.comp_def, hc]
  have htrap : (raises m cause code).filter (fun r => !(monitorFirst r.cause)) = raises m cause code := by
    simp [raises, List.filter_map, Function.comp_def, hc]
  rw [faultLanes, takeFaults, hsplit, htrap, raises, List.foldl_map]
  exact foldl_trapLane_takes (lanesOf_nodup m) hent hin cause code

/-- Those of them that a test picks. -/
theorem faultLanes_filter_takes {s : State} {x : Ctx} {m : Mask} {cause : Nat} (hc : monitorFirst cause = false)
    (hent : (s.at x).trapent ≠ 0xFFFFFFFF) (hin : ∀ l ∈ lanesOf m, inTrap (tget 0 (s.at x).trapinfo l) = false) (q : Nat → Bool)
    (code : Nat) :
    TakesTraps s (faultLanes s x (raises (maskOf ((lanesOf m).filter q)) cause code)) x ((lanesOf m).filter q) cause code := by
  have hl := lanesOf_maskOf_filter m q
  have ht := faultLanes_takes (m := maskOf ((lanesOf m).filter q)) hc hent
    (fun l h => hin l (List.mem_filter.1 (hl ▸ h)).1) code
  rwa [hl] at ht

/-- A trap record as the statements write it (R235). -/
theorem trapInfo_eq {len code cause : Nat} (hcode : code < 256) (hcause : cause < 256) :
    trapInfo len code cause = w32 (2 ^ 31 + len % 4 * 2 ^ 24 + code * 2 ^ 16 + cause) := by
  rw [trapInfo, Nat.mod_eq_of_lt hcode, Nat.mod_eq_of_lt hcause]

/-- What the statements say of a word whose lanes `ls` trap while its other lanes move on. -/
def TrapsWord (s t : State) (x : Ctx) (w : Op) (ls : List Nat) (cause code : Nat) : Prop :=
  Traps s t x ls cause code (fun l => if l ∈ lanesOf x.path then x.next else (s.at x).pcOf l) ∧
    KeepsCrew (trapFields (t.at x) (s.at x)) (t.at x) (lastRegs x.h w 1 1 1)

section
variable {i : Instr} {s : State} {w : Op} {x : Ctx} {body : Ctx → State → State}

theorem completes_traps {ls : List Nat} {cause code : Nat} (h : Issues s w [] false x) (hi : exec i s = issue s { w } body)
    (hcode : code < 256) (hcause : cause < 256)
    (hb : TakesTraps (begun s { w } x []) (body x (begun s { w } x [])) x ls cause code) :
    Completes i s fun t => TrapsWord s t x w ls cause code := by
  refine ⟨_, hi.trans (issue_next (p := { w }) h body), ?_⟩
  obtain ⟨ho, hcrew, hsaved, hothers⟩ := hb
  obtain ⟨t, hat, hpc⟩ := at_begun s { w } x
  rw [hat] at hcrew
  simp only [hat] at hsaved hothers
  generalize body x (begun s { w } x []) = u at ho hcrew hsaved hothers
  have hkeep : KeepsCrew (trapFields (u.at x) (s.at x)) (u.at x) (lastRegs x.h w 1 1 1) := .of_pcs hcrew
  have hres : (u.at x).results = (s.at x).results := by
    have e := congrArg Crew.results hcrew
    exact e
  have hend := keepsCrew_word (single_op w []) hkeep (s.at x)
  obtain ⟨a, v, r, q, hended⟩ := at_ended_rest u { w } x (s.at x)
  refine ⟨⟨fun l hl => ?_, fun l hl => ?_, onlyCrew_word _ ho _, by rw [results_ended, hres]⟩, ?_⟩
  · rw [← trapInfo_eq hcode hcause, hended]
    exact hsaved l hl
  · obtain ⟨hpc', haddr, hinfo, hpark, hto⟩ := hothers l hl
    rw [hended]
    exact ⟨hpc', haddr, hinfo, hpark, hto.trans (hpc l)⟩
  · rw [hended] at hend ⊢
    exact hend

/-- A jump out of the slot raises cause 0x02 (R80). -/
theorem jump_out (h : ¬x.inSlot w) (m : Mask) : jump s x m w = faultLanes s x (raises m 0x02) := by
  refine if_pos ?_
  rw [Ctx.inSlot, Ctx.near] at h
  simp only [Bool.or_eq_true, decide_eq_true_eq]
  omega

end

/-! ### Conditions and comparisons -/

theorem signedOf_toNat (v : W32) : signedOf 32 v.toNat = v.toInt := by
  rw [signedOf, BitVec.toInt_eq_toNat_cond]
  split <;> split <;> omega

/-- The comparison of TRAPC in a lane (R94). -/
def trapcHolds (s : State) (x : Ctx) (w : Op) (l : Nat) : Bool :=
  trapCond (w.mf 1 2) (intOf (w.mb 0) 32 (rd s x 0 w.a l).toNat) (intOf (w.mb 0) 32 (rd s x 0 w.b l).toNat)

theorem trapcHolds_eq {s u : State} {x : Ctx} (h : ReadsAs s u x) (w : Op) (l : Nat) :
    let v (o : Opd) : Int := if w.mb 0 then (rd s x 0 o l).toInt else (rd s x 0 o l).toNat
    trapcHolds u x w l = match w.mf 1 2 with
      | 0 => decide (v w.a = v w.b)
      | 1 => decide (v w.a ≠ v w.b)
      | 2 => decide (v w.a < v w.b)
      | _ => decide (v w.b ≤ v w.a) := by
  intro v
  have hv (o : Opd) : intOf (w.mb 0) 32 (rd u x 0 o l).toNat = v o := by
    rw [h.rd]
    simp only [v]
    cases w.mb 0 with
    | true => exact signedOf_toNat _
    | false => rfl
  rw [trapcHolds, hv, hv]
  match w.mf 1 2 with
  | 0 => exact beq_eq_decide _ _
  | 1 => simp [trapCond, bne, beq_eq_decide]
  | 2 => rfl
  | n + 3 => simp [trapCond]

/-! ### The statement -/

/-- Settles O20: each of the words raises a cause that the lanes' own handler takes. -/
theorem trapsAreTaken : Obligations.TrapsAreTaken := by
  intro w s x h hent hin traps v
  have hentB : ((begun s { w } x []).at x).trapent ≠ 0xFFFFFFFF := by
    obtain ⟨t, hat, -⟩ := at_begun s { w } x
    rw [hat]
    exact hent
  have hinB : ∀ l ∈ lanesOf x.on, inTrap (tget 0 ((begun s { w } x []).at x).trapinfo l) = false := by
    obtain ⟨t, hat, -⟩ := at_begun s { w } x
    rw [hat]
    exact hin
  have hcode : w.mf 3 8 < 256 := Nat.mod_lt _ (by decide)
  refine ⟨?trap, ?trapc, fun hout => ?bra, fun harr => ?enrol, ?eret⟩
  case trap =>
    exact completes_traps h (show exec (.trap w) s = execTrap w s from rfl) hcode (by decide) (faultLanes_takes rfl hentB hinB _)
  case trapc =>
    refine completes_traps h (show exec (.trapc w) s = execTrapc w s from rfl) hcode (by decide) ?_
    have ht := faultLanes_filter_takes (m := x.on) (cause := 0x60) rfl hentB hinB (trapcHolds (begun s { w } x []) x w) (w.mf 3 8)
    have hlanes := List.filter_congr (l := lanesOf x.on) fun l _ => trapcHolds_eq (readsAs_begun s { w } x) w l
    exact Eq.subst (motive := fun ls => TakesTraps _ (faultLanes _ x (raises (maskOf ((lanesOf x.on).filter _)) _ _)) x ls _ _) hlanes ht
  case bra =>
    refine completes_traps h (show exec (.bra w) s = execBra w s from rfl) (by decide) (by decide) ?_
    rw [jump_out hout]
    exact faultLanes_takes rfl hentB hinB 0
  case enrol =>
    refine completes_traps h (show exec (.enrol w) s = execEnrol w s from rfl) (by decide) (by decide) ?_
    have hB : tget 0 ((begun s { w } x []).crew x.c x.k).arrivals (w.mf 0 3) ≠ 0 := by
      obtain ⟨t, hat, -⟩ := at_begun s { w } x
      rw [State.at] at hat
      rw [hat]
      exact harr
    simp only [bne_iff_ne.2 hB, if_true]
    exact faultLanes_takes rfl hentB hinB 0
  case eret =>
    refine completes_traps h (show exec (.eret w) s = execEret w s from rfl) (by decide) (by decide) ?_
    have hnone : (lanesOf x.on).filter (fun l => inTrap (tget 0 ((begun s { w } x []).crew x.c x.k).trapinfo l)) = [] :=
      List.filter_eq_nil_iff.2 fun l hl => by rw [← State.at, hinB l hl]; exact Bool.false_ne_true
    have hall : maskOf ((lanesOf x.on).filter (fun l => !(inTrap (tget 0 ((begun s { w } x []).crew x.c x.k).trapinfo l)))) = x.on := by
      rw [List.filter_eq_self.2 fun l hl => by rw [← State.at, hinB l hl]; rfl, maskOf_lanesOf]
    simp only [hnone, hall, maskOf_nil]
    have hat : ((begun s { w } x []).modCrew x.c x.k (fun k => k)).at x = (begun s { w } x []).at x := crew_modCrew_same _ _ _ _
    refine (TakesTraps.none (OnlyCrew.modCrew _ x _) hat 0x01 0).append (faultLanes_takes rfl ?_ ?_ 0) fun _ hl => absurd hl List.not_mem_nil
    · rw [hat]
      exact hentB
    · rw [hat]
      exact hinB

end Sys2Proof.Machine

/-! ## Rolls (R72, R88)

A roll of a crew is a pair of masks, its members and those of them that have arrived; a release empties both. Members that leave
one after the other leave the roll as if they left together: none of them has arrived, so a release on the way is the release at
the end. -/

namespace Sys2Proof.Machine

/-! ### The masks of a roll -/

/-- The members of a roll and those of them that have arrived. -/
def Crew.roll (k : Crew) (j : Nat) : Mask × Mask := (tget 0 k.rolls j, tget 0 k.arrivals j)

/-- Every member has arrived. -/
def rollFull (r a : Mask) : Bool := r ≠ 0 ∧ a = r

/-- The masks after a release, where one is due. -/
def releasedRoll (m : Mask × Mask) : Mask × Mask := if rollFull m.1 m.2 then (0, 0) else m

/-- Only rolls and parks differ. -/
structure RollsOnly (k k' : Crew) : Prop where
  eq : k' = { k with rolls := k'.rolls, arrivals := k'.arrivals, park := k'.park }

theorem RollsOnly.refl (k : Crew) : RollsOnly k k := ⟨rfl⟩

theorem RollsOnly.trans {k k' k'' : Crew} (h : RollsOnly k k') (g : RollsOnly k' k'') : RollsOnly k k'' :=
  ⟨g.eq.trans (congrArg (fun q : Crew => { q with rolls := k''.rolls, arrivals := k''.arrivals, park := k''.park }) h.eq)⟩

theorem RollsOnly.foldl {α : Type} {f : Crew → α → Crew} (h : ∀ k e, RollsOnly k (f k e)) (l : List α) (k : Crew) :
    RollsOnly k (l.foldl f k) :=
  l.foldlRecOn f (RollsOnly.refl k) fun _ hb e _ => hb.trans (h _ e)

theorem rollsOnly_setPark (k : Crew) (l : Nat) (p : Park) : RollsOnly k (k.setPark l p) := ⟨rfl⟩

/-! ### Parks of several lanes -/

/-- Lanes are parked one after the other, and nothing else differs. -/
theorem foldl_setPark (p : Park) (ls : List Nat) (k : Crew) (l : Nat) :
    (ls.foldl (fun k l => k.setPark l p) k).parkOf l = if l ∈ ls then p else k.parkOf l := by
  induction ls generalizing k with
  | nil => rfl
  | cons a ls ih =>
    rw [List.foldl_cons, ih]
    by_cases hl : l = a
    · simp [hl]
    · simp [hl]

theorem foldl_setPark_rest (p : Park) (ls : List Nat) (k : Crew) :
    ∃ q, ls.foldl (fun k l => k.setPark l p) k = { k with park := q } :=
  ls.foldlRecOn (motive := fun k' : Crew => ∃ q, k' = { k with park := q }) _ ⟨k.park, rfl⟩ (by
    rintro _ ⟨q, rfl⟩ l -
    exact ⟨_, rfl⟩)

/-- The lanes of those that are parked on the roll resume. -/
def resumeRoll (clk n : Nat) (k : Crew) (l : Nat) : Crew := if k.parkOf l == .rejoin n then k.setPark l (.resume (clk + 2)) else k

theorem foldl_resumeRoll_rest (clk n : Nat) (ls : List Nat) (k : Crew) :
    ∃ q, ls.foldl (resumeRoll clk n) k = { k with park := q } :=
  ls.foldlRecOn (motive := fun k' : Crew => ∃ q, k' = { k with park := q }) _ ⟨k.park, rfl⟩ (by
    rintro _ ⟨q, rfl⟩ l -
    unfold resumeRoll
    split
    · exact ⟨_, rfl⟩
    · exact ⟨_, rfl⟩)

theorem parkOf_resumeRoll (clk n : Nat) (k : Crew) (a l : Nat) : (resumeRoll clk n k a).parkOf l =
    if l = a ∧ k.parkOf l = .rejoin n then .resume (clk + 2) else k.parkOf l := by
  unfold resumeRoll
  by_cases hl : l = a
  · subst hl
    by_cases hp : k.parkOf l = .rejoin n
    · simp [hp]
    · simp [hp]
  · split
    · simp [hl]
    · simp [hl]

theorem parkOf_foldl_resumeRoll (clk n : Nat) (ls : List Nat) (k : Crew) (l : Nat) :
    (ls.foldl (resumeRoll clk n) k).parkOf l = if l ∈ ls ∧ k.parkOf l = .rejoin n then .resume (clk + 2) else k.parkOf l := by
  induction ls generalizing k with
  | nil => simp
  | cons a ls ih =>
    rw [List.foldl_cons, ih, parkOf_resumeRoll]
    by_cases hp : k.parkOf l = .rejoin n
    · by_cases hl : l = a
      · subst hl
        simp [hp]
      · simp [hl, hp]
    · simp [hp]

/-! ### Release, check and leave (R72, R88) -/

theorem releaseRoll_eq (clk n : Nat) (k : Crew) : ∃ q, releaseRoll clk n k =
      { k with park := q, rolls := tset k.rolls n 0, arrivals := tset k.arrivals n 0 } ∧
    ∀ l, tget .no q l = if l ∈ lanesOf (tget 0 k.arrivals n) ∧ k.parkOf l = .rejoin n then .resume (clk + 2) else k.parkOf l := by
  obtain ⟨q, hq⟩ := foldl_resumeRoll_rest clk n (lanesOf (tget 0 k.arrivals n)) k
  have hr : releaseRoll clk n k = { (lanesOf (tget 0 k.arrivals n)).foldl (resumeRoll clk n) k with
      rolls := tset ((lanesOf (tget 0 k.arrivals n)).foldl (resumeRoll clk n) k).rolls n 0
      arrivals := tset ((lanesOf (tget 0 k.arrivals n)).foldl (resumeRoll clk n) k).arrivals n 0 } := rfl
  refine ⟨q, by rw [hr, hq], fun l => ?_⟩
  rw [← parkOf_foldl_resumeRoll, hq]
  rfl

theorem roll_releaseRoll (clk n : Nat) (k : Crew) (j : Nat) : (releaseRoll clk n k).roll j = if j = n then (0, 0) else k.roll j := by
  obtain ⟨q, h, -⟩ := releaseRoll_eq clk n k
  rw [h]
  simp only [Crew.roll, tget_tset]
  split <;> rfl

theorem rollsOnly_checkRoll (clk n : Nat) (k : Crew) : RollsOnly k (checkRoll clk n k) := by
  unfold checkRoll
  split
  · obtain ⟨q, h, -⟩ := releaseRoll_eq clk n k
    rw [h]
    exact ⟨rfl⟩
  · exact .refl k

/-- The roll releases when every member has arrived. -/
theorem checkRoll_eq (clk n : Nat) (k : Crew) :
    checkRoll clk n k = if rollFull (k.roll n).1 (k.roll n).2 then releaseRoll clk n k else k := by
  rw [checkRoll]
  have h : (tget 0 k.rolls n != 0 && tget 0 k.arrivals n == tget 0 k.rolls n) = rollFull (k.roll n).1 (k.roll n).2 := by
    rw [Bool.eq_iff_iff, rollFull, decide_eq_true_iff, Bool.and_eq_true, bne_iff_ne, beq_iff_eq]
    rfl
  rw [h]

theorem roll_checkRoll (clk n : Nat) (k : Crew) (j : Nat) :
    (checkRoll clk n k).roll j = if j = n then releasedRoll (k.roll n) else k.roll j := by
  rw [checkRoll_eq, releasedRoll]
  by_cases hf : rollFull (k.roll n).1 (k.roll n).2 = true
  · rw [if_pos hf, roll_releaseRoll, if_pos hf]
  · rw [if_neg hf, if_neg hf]
    split
    next hj => rw [hj]
    · rfl

theorem rollsOnly_leaveRoll (clk l n : Nat) (k : Crew) : RollsOnly k (leaveRoll clk l n k) :=
  RollsOnly.trans ⟨rfl⟩ (rollsOnly_checkRoll clk n _)

/-- The masks of a roll that a lane leaves. -/
def leftRoll (m : Mask × Mask) (l : Nat) : Mask × Mask := releasedRoll (m.1 &&& ~~~(laneBit l), m.2 &&& ~~~(laneBit l))

theorem roll_leaveRoll (clk l n : Nat) (k : Crew) (j : Nat) :
    (leaveRoll clk l n k).roll j = if j = n then leftRoll (k.roll n) l else k.roll j := by
  rw [leaveRoll, roll_checkRoll]
  split
  · simp [Crew.roll, leftRoll]
  next hj => simp [Crew.roll, hj]

/-- A lane leaves each of some rolls. -/
theorem roll_foldl_leaveRoll (clk l : Nat) (ns : List Nat) (hns : ns.Nodup) (k : Crew) (j : Nat) :
    (ns.foldl (fun k n => leaveRoll clk l n k) k).roll j = if j ∈ ns then leftRoll (k.roll j) l else k.roll j := by
  induction ns generalizing k with
  | nil => rfl
  | cons n ns ih =>
    obtain ⟨hn, hns⟩ := List.nodup_cons.1 hns
    rw [List.foldl_cons, ih hns, roll_leaveRoll]
    by_cases hj : j = n
    · subst hj
      simp [hn]
    · simp [hj]

/-- Lanes leave each of some rolls one after the other. -/
theorem roll_foldl_lanes (clk : Nat) (ns : List Nat) (hns : ns.Nodup) (ls : List Nat) (k : Crew) (j : Nat) :
    (ls.foldl (fun k l => ns.foldl (fun k n => leaveRoll clk l n k) k) k).roll j =
      if j ∈ ns then ls.foldl leftRoll (k.roll j) else k.roll j := by
  induction ls generalizing k with
  | nil => exact (ite_self _).symm
  | cons l ls ih =>
    rw [List.foldl_cons, ih, roll_foldl_leaveRoll clk l ns hns]
    by_cases hj : j ∈ ns <;> simp [hj]

/-! ### Lanes that leave together -/

/-- Lanes that have not arrived leave a roll: what is released on the way is what is released at the end. -/
theorem foldl_leftRoll_released {a : Mask} {ls : List Nat} (h : ∀ l ∈ ls, a &&& ~~~(laneBit l) = a) (r : Mask) :
    ls.foldl leftRoll (releasedRoll (r, a)) = releasedRoll (ls.foldl (fun r l => r &&& ~~~(laneBit l)) r, a) := by
  induction ls generalizing r with
  | nil => rfl
  | cons l ls ih =>
    have ha := h l List.mem_cons_self
    have hstep : leftRoll (releasedRoll (r, a)) l = releasedRoll (r &&& ~~~(laneBit l), a) := by
      by_cases hf : rollFull r a = true
      · have hra : a = r := (of_decide_eq_true hf).2
        have hl : releasedRoll (r, a) = (0, 0) := if_pos hf
        rw [show r &&& ~~~(laneBit l) = r from hra ▸ ha, hl, leftRoll]
        simp [releasedRoll]
      · rw [show releasedRoll (r, a) = (r, a) from if_neg hf, leftRoll, ha]
    rw [List.foldl_cons, List.foldl_cons, hstep, ih (fun l hl => h l (List.mem_cons_of_mem _ hl))]

theorem foldl_leftRoll {a : Mask} {ls : List Nat} (h : ∀ l ∈ ls, a &&& ~~~(laneBit l) = a) (hne : ls ≠ []) (r : Mask) :
    ls.foldl leftRoll (r, a) = releasedRoll (ls.foldl (fun r l => r &&& ~~~(laneBit l)) r, a) := by
  cases ls with
  | nil => exact absurd rfl hne
  | cons l ls =>
    rw [List.foldl_cons, leftRoll, h l List.mem_cons_self]
    exact foldl_leftRoll_released (fun l hl => h l (List.mem_cons_of_mem _ hl)) _

theorem getLsbD_laneBit {l i : Nat} (hi : i < 32) : (laneBit l).getLsbD i = decide (l = i) := by
  rw [laneBit, BitVec.getLsbD_ofNat, Nat.testBit_two_pow, decide_eq_true hi, Bool.true_and]

theorem foldl_clear_lanes (m r : Mask) : (lanesOf m).foldl (fun r l => r &&& ~~~(laneBit l)) r = r &&& ~~~m := by
  have hfold (ls : List Nat) (r : Mask) : ls.foldl (fun r l => r &&& ~~~(laneBit l)) r = r &&& ~~~(maskOf ls) := by
    refine BitVec.eq_of_getLsbD_eq fun i hi => ?_
    induction ls generalizing r with
    | nil => rw [List.foldl_nil, maskOf_nil, show ~~~(0 : Mask) = BitVec.allOnes 32 from by decide, BitVec.and_allOnes]
    | cons a ls ih =>
      rw [List.foldl_cons, ih]
      simp only [BitVec.getLsbD_and, BitVec.getLsbD_not, hi, decide_true, Bool.true_and, getLsbD_laneBit hi, getLsbD_maskOf _ _ hi,
        List.contains_cons, Bool.not_or, beq_eq_decide, Bool.and_assoc, eq_comm]
  rw [hfold, maskOf_lanesOf]

/-! ### Words that change their crew alone -/

/-- The word has made this of its crew, and nothing else differs but what every word changes. -/
structure MakesOf (s t : State) (x : Ctx) (w : Op) (k : Crew) : Prop where
  only : OnlyCrew s t x
  keeps : KeepsCrew k (t.at x) (lastRegs x.h w 1 1 1)
  results : (t.at x).results = (s.at x).results
  goes : Goes s t x (fun _ => x.next)
  crew : ∃ pc since a v r q, t.at x = { k with pc, since, latch := a, vent := v, rows := r, pendRel := q }

theorem MakesOf.onlyTo {s t : State} {x : Ctx} {w : Op} {upd : Crew → Crew} (h : MakesOf s t x w (upd (s.at x))) : OnlyTo s t x w upd :=
  ⟨h.only, h.keeps, h.results⟩

/-- A word that changes its crew by a function makes of it what the function makes of the begun crew, whose PCs and age it leaves. -/
theorem completes_modCrew {i : Instr} {s : State} {p : Pre} {x : Ctx} {body : Ctx → State → State} {f : Crew → Crew} {k : Crew}
    (h : Issues s p.w p.dst p.comp x) (hp : p.single) (hi : exec i s = issue s p body)
    (hb : body x (begun s p x []) = (begun s p x []).modCrew x.c x.k f)
    (hf : f ((begun s p x []).at x) = { k with pc := ((begun s p x []).at x).pc, since := ((begun s p x []).at x).since })
    (hr : k.results = (s.at x).results) :
    Completes i s fun t => MakesOf s t x p.w k := by
  have hu : (body x (begun s p x [])).at x = { k with pc := ((begun s p x []).at x).pc, since := ((begun s p x []).at x).since } := by
    rw [hb, ← hf]
    exact crew_modCrew_same _ _ _ _
  refine ⟨_, hi.trans (issue_next h body), onlyCrew_word p (hb ▸ OnlyCrew.modCrew _ x f) _, keepsCrew_word hp (.of_pcs hu) _, ?_,
    goes_next h p _ fun l => ?_, ?_⟩
  · rw [results_ended, hu]
    exact hr
  · rw [hu]
    rfl
  · obtain ⟨a, v, r, q, e⟩ := at_ended_rest (body x (begun s p x [])) p x (s.at x)
    rw [hu] at e
    exact ⟨_, _, a, v, r, q, e⟩

/-! ### The words -/

section
variable {i : Instr} {s : State} {w : Op} {x : Ctx} {body : Ctx → State → State} {f : Crew → Crew}

/-- Only rolls and parks of the crew differ, and its lanes move on. -/
def OnlyRolls (s t : State) (x : Ctx) (w : Op) : Prop :=
  OnlyTo s t x w (fun k => { k with rolls := (t.at x).rolls, arrivals := (t.at x).arrivals, park := (t.at x).park }) ∧
    Goes s t x (fun _ => x.next)

/-- A word that changes the rolls and parks of its crew: they are as it makes them of a crew with the same rolls and parks. -/
theorem completes_rolls (h : Issues s w [] false x) (hi : exec i s = issue s { w } body)
    (hb : body x (begun s { w } x []) = (begun s { w } x []).modCrew x.c x.k f) (hf : ∀ k, RollsOnly k (f k)) :
    Completes i s fun t => OnlyRolls s t x w ∧
      ∃ k, (∀ j, k.roll j = (s.at x).roll j) ∧ (∀ l, k.parkOf l = (s.at x).parkOf l) ∧ k.arrivals = (s.at x).arrivals ∧
        (∀ j, (t.at x).roll j = (f k).roll j) ∧ (∀ l, (t.at x).parkOf l = (f k).parkOf l) ∧ (t.at x).arrivals = (f k).arrivals := by
  obtain ⟨pc, hat, -⟩ := at_begun s { w } x
  have honly := (hf ((begun s { w } x []).at x)).eq
  obtain ⟨t, e, hmakes⟩ := completes_modCrew (p := { w }) h (single_op w []) hi hb
    (k := { s.at x with rolls := (f ((begun s { w } x []).at x)).rolls, arrivals := (f ((begun s { w } x []).at x)).arrivals
                        park := (f ((begun s { w } x []).at x)).park })
    (by rw [hat] at honly ⊢; exact honly) rfl
  obtain ⟨_, _, a, v, r, q, hend⟩ := hmakes.crew
  have hrolls := (congrArg Crew.rolls hend :)
  have harr := (congrArg Crew.arrivals hend :)
  have hpark := (congrArg Crew.park hend :)
  refine ⟨t, e, ⟨⟨hmakes.only, ?_, hmakes.results⟩, hmakes.goes⟩, (begun s { w } x []).at x, ?_, ?_, ?_, fun j => ?_, fun l => ?_, harr⟩
  · rw [hrolls, harr, hpark]
    exact hmakes.keeps
  · rw [hat]
    exact fun _ => rfl
  · rw [hat]
    exact fun _ => rfl
  · rw [hat]
  · rw [Crew.roll, hrolls, harr]
    rfl
  · rw [Crew.parkOf, hpark]
    rfl

theorem rollFull_iff {r a : Mask} : rollFull r a = true ↔ r ≠ 0 ∧ a = r := decide_eq_true_iff

/-- The masks of a roll as the statement writes them. -/
theorem masks_of_roll {k : Crew} {j : Nat} {r a : Mask} (h : k.roll j = releasedRoll (r, a)) :
    tget 0 k.rolls j = (if rollFull r a then 0 else r) ∧ tget 0 k.arrivals j = (if rollFull r a then 0 else a) := by
  have hr := congrArg Prod.fst h
  have ha := congrArg Prod.snd h
  rw [releasedRoll, apply_ite Prod.fst] at hr
  rw [releasedRoll, apply_ite Prod.snd] at ha
  exact ⟨hr, ha⟩

theorem tgets_of_roll {k k' : Crew} {j : Nat} (h : k'.roll j = k.roll j) :
    tget 0 k'.rolls j = tget 0 k.rolls j ∧ tget 0 k'.arrivals j = tget 0 k.arrivals j :=
  ⟨congrArg Prod.fst h, congrArg Prod.snd h⟩

theorem enrol_members (h : Issues s w [] false x) (harr : tget 0 (s.at x).arrivals (w.mf 0 3) = 0) :
    Completes (.enrol w) s fun t => OnlyRolls s t x w ∧ (∀ l, (t.at x).parkOf l = (s.at x).parkOf l) ∧
      (t.at x).arrivals = (s.at x).arrivals ∧
      ∀ j, tget 0 (t.at x).rolls j = if j = w.mf 0 3 then tget 0 (s.at x).rolls (w.mf 0 3) ||| x.on else tget 0 (s.at x).rolls j := by
  have hB : tget 0 ((begun s { w } x []).crew x.c x.k).arrivals (w.mf 0 3) = 0 := by
    obtain ⟨t, hat, -⟩ := at_begun s { w } x
    rw [State.at] at hat
    rw [hat]
    exact harr
  have hi : exec (.enrol w) s = execEnrol w s := rfl
  rw [execEnrol] at hi
  obtain ⟨t, e, honly, k, hroll, hpark, harr, troll, tpark, tarr⟩ := completes_rolls
    (f := fun k => { k with rolls := tset k.rolls (w.mf 0 3) (tget 0 k.rolls (w.mf 0 3) ||| x.on) }) h hi
    (by simp only [hB, bne_self_eq_false, Bool.false_eq_true, if_false]) (fun k => ⟨rfl⟩)
  refine ⟨t, e, honly, fun l => (tpark l).trans (hpark l), tarr.trans harr, fun j => ?_⟩
  rw [← (tgets_of_roll (hroll j)).1, ← (tgets_of_roll (hroll (w.mf 0 3))).1, ← tget_tset]
  exact congrArg Prod.fst (troll j)

/-- Lanes arrive at a roll and park (R88). -/
def arriveRoll (n : Nat) (on : Mask) (k : Crew) : Crew :=
  forLanes on (fun l k => k.setPark l (.rejoin n)) { k with arrivals := tset k.arrivals n (tget 0 k.arrivals n ||| on) }

/-- What REJOIN makes of its crew where every executing lane is a member. -/
def rejoinRoll (clk n : Nat) (on : Mask) (k : Crew) : Crew := checkRoll clk n (arriveRoll n on k)

theorem roll_arriveRoll (n : Nat) (on : Mask) (k : Crew) (j : Nat) :
    (arriveRoll n on k).roll j = if j = n then ((k.roll n).1, (k.roll n).2 ||| on) else k.roll j := by
  obtain ⟨q, hq⟩ := foldl_setPark_rest (.rejoin n) (lanesOf on) { k with arrivals := tset k.arrivals n (tget 0 k.arrivals n ||| on) }
  rw [arriveRoll, forLanes, hq]
  by_cases hj : j = n
  · simp [Crew.roll, hj]
  · simp [Crew.roll, hj]

theorem parkOf_arriveRoll (n : Nat) (on : Mask) (k : Crew) (l : Nat) :
    (arriveRoll n on k).parkOf l = if l ∈ lanesOf on then .rejoin n else k.parkOf l :=
  foldl_setPark _ _ _ _

theorem parkOf_checkRoll (clk n : Nat) (k : Crew) (l : Nat) : (checkRoll clk n k).parkOf l =
    if rollFull (k.roll n).1 (k.roll n).2 = true ∧ l ∈ lanesOf (k.roll n).2 ∧ k.parkOf l = .rejoin n then .resume (clk + 2)
    else k.parkOf l := by
  rw [checkRoll_eq]
  obtain ⟨q, hrel, hpark⟩ := releaseRoll_eq clk n k
  split
  next hf =>
    rw [hrel]
    simp only [hf, true_and]
    exact hpark l
  next hf => rw [if_neg fun h => hf h.1]

theorem roll_rejoinRoll (clk n : Nat) (on : Mask) (k : Crew) (j : Nat) : (rejoinRoll clk n on k).roll j =
    if j = n then releasedRoll ((k.roll n).1, (k.roll n).2 ||| on) else k.roll j := by
  rw [rejoinRoll, roll_checkRoll, roll_arriveRoll, roll_arriveRoll, if_pos rfl]
  split <;> rfl

theorem parkOf_rejoinRoll (clk n : Nat) (on : Mask) (k : Crew) {l : Nat} (hl : l < 32) : (rejoinRoll clk n on k).parkOf l =
    if l ∈ lanesOf on then (if rollFull (k.roll n).1 ((k.roll n).2 ||| on) then .resume (clk + 2) else .rejoin n)
    else if rollFull (k.roll n).1 ((k.roll n).2 ||| on) = true ∧ (k.roll n).2.getLsbD l = true ∧ k.parkOf l = .rejoin n then .resume (clk + 2)
    else k.parkOf l := by
  have hmem : l ∈ lanesOf ((k.roll n).2 ||| on) ↔ (k.roll n).2.getLsbD l = true ∨ l ∈ lanesOf on := by
    simp [mem_lanesOf, hl]
  rw [rejoinRoll, parkOf_checkRoll, roll_arriveRoll, if_pos rfl, parkOf_arriveRoll]
  by_cases hon : l ∈ lanesOf on
  · simp only [hmem, hon, or_true, if_true, and_true]
  · simp only [hmem, hon, or_false, if_false]

theorem rollsOnly_rejoinRoll (clk n : Nat) (on : Mask) (k : Crew) : RollsOnly k (rejoinRoll clk n on k) :=
  (RollsOnly.trans ⟨rfl⟩ (RollsOnly.foldl (fun k l => rollsOnly_setPark k l (.rejoin n)) (lanesOf on) _)).trans (rollsOnly_checkRoll _ _ _)

theorem and_eq_left_of_and_not {a b : Mask} (h : a &&& ~~~b = 0) : a &&& b = a := by
  refine BitVec.eq_of_getLsbD_eq fun i hi => ?_
  have e := congrArg (fun m : Mask => m.getLsbD i) h
  simp only [BitVec.getLsbD_and, BitVec.getLsbD_not, hi, decide_true, Bool.true_and] at e ⊢
  revert e
  cases a.getLsbD i <;> cases b.getLsbD i <;> simp

/-- A lane of a mask that is disjoint from another is not in the other. -/
theorem and_not_laneBit {m a : Mask} (h : m &&& a = 0) {l : Nat} (hl : l ∈ lanesOf m) : a &&& ~~~(laneBit l) = a := by
  refine BitVec.eq_of_getLsbD_eq fun i hi => ?_
  rw [BitVec.getLsbD_and, BitVec.getLsbD_not, getLsbD_laneBit hi]
  by_cases hli : l = i
  · subst hli
    have e := congrArg (fun m : Mask => m.getLsbD l) h
    simpa [(mem_lanesOf.1 hl).2] using e
  · simp [hli, hi]

theorem rejoin_arrives (h : Issues s w [] false x) (hm : x.on &&& ~~~(tget 0 (s.at x).rolls (w.mf 0 3)) = 0) :
    Completes (.rejoin w) s fun t => OnlyRolls s t x w ∧
      ∃ k, (∀ j, k.roll j = (s.at x).roll j) ∧ (∀ l, k.parkOf l = (s.at x).parkOf l) ∧
        (∀ j, (t.at x).roll j = (rejoinRoll s.clk (w.mf 0 3) x.on k).roll j) ∧
        ∀ l, (t.at x).parkOf l = (rejoinRoll s.clk (w.mf 0 3) x.on k).parkOf l := by
  have hB : tget 0 ((begun s { w } x []).crew x.c x.k).rolls (w.mf 0 3) = tget 0 (s.at x).rolls (w.mf 0 3) := by
    obtain ⟨t, hat, -⟩ := at_begun s { w } x
    rw [State.at] at hat
    rw [hat]
  have hi : exec (.rejoin w) s = execRejoin w s := rfl
  rw [execRejoin] at hi
  obtain ⟨t, e, honly, k, hroll, hpark, -, troll, tpark, -⟩ := completes_rolls (f := rejoinRoll s.clk (w.mf 0 3) x.on) h hi
    (by simp only [hB, hm, and_eq_left_of_and_not hm]; rfl) (rollsOnly_rejoinRoll _ _ _)
  exact ⟨t, e, honly, k, hroll, hpark, troll, tpark⟩

/-- What LEAVE makes of its crew: each executing lane leaves each of the rolls. -/
theorem leave_rolls (h : Issues s w [] false x) {ns : List Nat} (hns : ns.Nodup) (hw : (if w.mb 3 then List.range 8 else [w.mf 0 3]) = ns)
    (harr : ∀ j ∈ ns, x.on &&& tget 0 (s.at x).arrivals j = 0) :
    Completes (.leave w) s fun t => OnlyRolls s t x w ∧ ∀ j, (t.at x).roll j =
      if j ∈ ns then releasedRoll (tget 0 (s.at x).rolls j &&& ~~~x.on, tget 0 (s.at x).arrivals j) else (s.at x).roll j := by
  have hi : exec (.leave w) s = execLeave w s := rfl
  rw [execLeave] at hi
  obtain ⟨t, e, honly, k, hroll, -, -, troll, -, -⟩ := completes_rolls
    (f := fun k => (lanesOf x.on).foldl (fun k l => ns.foldl (fun k n => leaveRoll s.clk l n k) k) k) h hi
    (by simp only [hw]; rfl)
    (RollsOnly.foldl (fun k l => RollsOnly.foldl (fun k n => rollsOnly_leaveRoll s.clk l n k) ns k) (lanesOf x.on))
  refine ⟨t, e, honly, fun j => ?_⟩
  rw [troll, roll_foldl_lanes _ _ hns, hroll]
  split
  next hj =>
    have hkeep : ∀ l ∈ lanesOf x.on, tget 0 (s.at x).arrivals j &&& ~~~(laneBit l) = tget 0 (s.at x).arrivals j :=
      fun l hl => and_not_laneBit (harr j hj) hl
    have hne : lanesOf x.on ≠ [] := fun he => h.on (by rw [← maskOf_lanesOf x.on, he]; rfl)
    exact (foldl_leftRoll hkeep hne _).trans (by rw [foldl_clear_lanes])
  · rfl

/-- ROLLRD gives the arrivals as they stand. -/
theorem rollrd_reads (h : Ready s x w {} false) : Completes (.rollrd w) s fun t =>
    Leaves s t x 2 (wrOf x false w.d (fun _ => tget 0 (s.at x).arrivals (w.mf 0 3))) ∧ OnlyResult s t x (lastRegs x.h w 1 1 1) := by
  obtain ⟨hd, hissues⟩ := h
  have hB : ((begun s { w, dst := vdst w.d 1 } x []).at x).arrivals = (s.at x).arrivals := by
    obtain ⟨t, hat, -⟩ := at_begun s { w, dst := vdst w.d 1 } x
    rw [hat]
  have hi : exec (.rollrd w) s = execRollrd w s := rfl
  rw [execRollrd] at hi
  obtain ⟨t, e, hl, ho⟩ := issue_fixedResult (p := { w, dst := vdst w.d 1 }) hissues 2
    (fun s => wrOf x false w.d (fun _ => tget 0 (s.at x).arrivals (w.mf 0 3))) (fun _ => []) (wrOf_ne_nil hissues.on false hd _)
    (body := fun x s => fixedResult s x 2 (wrOf x false w.d (fun _ => tget 0 (s.crew x.c x.k).arrivals (w.mf 0 3)))) rfl
  rw [hB] at hl
  rw [List.append_nil] at ho
  exact ⟨t, hi.trans e, hl, ho⟩

end

/-! ### The statement -/

/-- Settles O22: each word acts on the masks of its rolls, and lanes that leave one by one leave as if together. -/
theorem rolls : Obligations.Rolls := by
  intro w s x h k n roll arr full masks only
  refine ⟨enrol_members h, fun hm => ?_, fun harr hall => ?_, fun harr hall => ?_, rollrd_reads⟩
  · obtain ⟨t, e, honly, k', hroll, hpark, troll, tpark⟩ := rejoin_arrives h hm
    refine ⟨t, e, honly, masks_of_roll ?_, fun j hj => tgets_of_roll ?_, fun l hl => ?_⟩
    · rw [troll, roll_rejoinRoll, if_pos rfl, hroll]
      rfl
    · rw [troll, roll_rejoinRoll, if_neg hj, hroll]
    · rw [tpark, parkOf_rejoinRoll _ _ _ _ hl, hroll, hpark]
      rfl
  · obtain ⟨t, e, honly, troll⟩ := leave_rolls h (List.nodup_singleton n) (by rw [hall]; rfl) fun j hj => List.mem_singleton.1 hj ▸ harr
    refine ⟨t, e, honly, masks_of_roll ?_, fun j hj => tgets_of_roll ?_⟩
    · rw [troll, if_pos (List.mem_singleton_self n)]
    · rw [troll, if_neg (mt List.mem_singleton.1 hj)]
  · obtain ⟨t, e, honly, troll⟩ := leave_rolls h List.nodup_range (by rw [hall]; rfl) (fun j hj => harr j (List.mem_range.1 hj))
    refine ⟨t, e, honly, fun j hj => masks_of_roll ?_⟩
    rw [troll, if_pos (List.mem_range.2 hj)]

end Sys2Proof.Machine

/-! ## A barrier's arrival that a request holds up (R76, R209)

BARA leaves its token as an outstanding result before its lanes arrive, and the result takes a number of its own. The release that
the arrival waits for covers what was issued before that next number, so it covers one more request than the barrier's statement
asks to be performed: a write that bears the number the result did not get. -/

namespace Sys2Proof.Machine

/-- A crew whose lane 0 is to execute a word, of a team whose barrier 0 expects two arrivals; a store of the lane, which bears the
next number that the model gives out, is open. -/
def heldUp : State :=
  { phase := .running, cur := some { core := 1, slot := 0, lanes := 1 }
    cores := [(1, { slots := [(0, { st := .resident, live := 1 })], teams := [(0, { bars := [(0, { expected := 2 })] })] })]
    reqs := [{ id := 0, word := 0, uid := 0, core := 1, slot := 0, ts := 0, acc := .store, ctx := 0, width := 4, line := 0
               pieces := [{ lane := 0, addr := 0, at_ := 0, len := 4, base := 0 }], pc := {}, len := 0 }] }

/-- The context of its word. -/
def heldUpCtx : Ctx := ctxOf heldUp { core := 1, slot := 0, lanes := 1 }

/-- BARA u0 at barrier 0 of the team. -/
def heldUpWord : Op := { d := .u 0 }

/-- The arrivals of its barrier after a word. -/
def arrivalsAfter (o : Out) : Option Nat :=
  match o with
  | .next t => some (barOf t 1 0 false 0).arrivals
  | _ => none

theorem issues_heldUp : Issues heldUp heldUpWord (vdst heldUpWord.d 1) false heldUpCtx where
  path := ⟨_, rfl, rfl⟩
  runs := rfl
  on := by decide +kernel
  marker := by decide +kernel
  latches := by decide +kernel
  rows := by decide +kernel

/-- The store is not among those that the word's arrival must find performed, as the statement counts them. -/
theorem writes_heldUp : writesOpen heldUp 1 0 heldUpCtx.on heldUp.nextId = false := by decide +kernel

/-- The arrival waits all the same. -/
theorem bara_heldUp : arrivalsAfter (exec (.bara heldUpWord) heldUp) = some 0 := by decide +kernel

/-- Refutes O23: the lane's arrival is held up by a store that bears the number of the token's result, so the barrier has no arrival. -/
theorem not_barriers : ¬ Obligations.Barriers := by
  intro h
  obtain ⟨-, hbara⟩ := h heldUpWord heldUp heldUpCtx
  obtain ⟨t, e, ⟨-, hcounts, -⟩, -⟩ := hbara rfl issues_heldUp (by decide +kernel)
    ⟨by decide +kernel, by decide +kernel, by decide +kernel, writes_heldUp, by decide +kernel, by decide +kernel, by decide +kernel⟩
  have hone : (barOf t 1 0 false 0).arrivals = 1 := (hcounts (by decide +kernel)).2.1
  have hnone := bara_heldUp
  rw [e, arrivalsAfter, hone] at hnone
  exact absurd hnone (by decide)

end Sys2Proof.Machine

/-! ## Barriers that expect fewer lanes (R75, R87)

A lane that ends is expected at no barrier of its team or cluster. What the bookkeeping of one barrier leaves is said of one crew
`k` of a core `c` at a time: the memory, all of the crew but its arrived bits and parked lanes, and how many fewer lanes each
barrier of the crew's team expects. -/

namespace Sys2Proof.Machine

/-! ### The memory -/

theorem SameMemory.refl (s : State) : SameMemory s s := ⟨rfl, rfl, rfl, fun _ => rfl, rfl⟩

theorem SameMemory.trans {s t u : State} (h : SameMemory s t) (g : SameMemory t u) : SameMemory s u :=
  ⟨g.dram.trans h.dram, g.msc.trans h.msc, g.host.trans h.host, fun c => (g.scratch c).trans (h.scratch c), g.tiles.trans h.tiles⟩

theorem SameMemory.modCore {s : State} {c : Nat} {f : Core → Core} (h : ∀ o, (f o).scratch = o.scratch) : SameMemory s (s.modCore c f) := by
  refine ⟨rfl, rfl, rfl, fun d => ?_, rfl⟩
  by_cases hd : d = c
  · subst hd
    rw [core_modCore_same, h]
  · rw [core_modCore_ne _ _ hd]

theorem OnlyCrew.sameMemory {s t : State} {x : Ctx} (h : OnlyCrew s t x) : SameMemory s t := by
  have hr := h.rest
  refine ⟨(congrArg State.dram hr :), (congrArg State.msc hr :), (congrArg State.hostMem hr :), fun d => ?_, (congrArg State.quads hr :)⟩
  by_cases hd : d = x.c
  · subst hd
    exact (congrArg Core.scratch h.core :)
  · rw [h.cores d hd]

/-! ### Crews and teams after a change of cores -/

/-- A change of a core that leaves its crew slots leaves every crew. -/
theorem crew_modCore_of_slots {s : State} {c : Nat} (f : Core → Core) (h : ∀ o, (f o).slots = o.slots) (d k : Nat) :
    (s.modCore c f).crew d k = s.crew d k := by
  by_cases hd : d = c
  · subst hd
    simp [State.crew, Core.crew, h]
  · simp [State.crew, hd]

theorem team_modCore_of_teams {s : State} {c : Nat} (f : Core → Core) (h : ∀ o, (f o).teams = o.teams) (d t : Nat) :
    (s.modCore c f).team d t = s.team d t := by
  by_cases hd : d = c
  · subst hd
    simp [State.team, Core.team, h]
  · simp [State.team, hd]

theorem crew_modTeam (s : State) (c t : Nat) (f : Team → Team) (d k : Nat) : (s.modTeam c t f).crew d k = s.crew d k :=
  crew_modCore_of_slots (·.modTeam t f) (fun _ => rfl) d k

theorem team_modTeam (s : State) (c t : Nat) (f : Team → Team) (j : Nat) :
    (s.modTeam c t f).team c j = if j = t then f (s.team c j) else s.team c j := by
  by_cases hj : j = t
  · subst hj
    rw [if_pos rfl, team_modTeam_same]
  · simp [State.modTeam, State.team, Core.modTeam, Core.team, hj]

/-- A function of the values of a table that leaves the default is a function of what is read. -/
theorem tget_map_snd {α : Type} {d : α} {g : α → α} (hd : g d = d) (t : Tab α) (k : Nat) :
    tget d (t.map (fun e => (e.1, g e.2))) k = g (tget d t k) :=
  tget_map_of_rel (R := fun a b => b = g a) (f := fun e => g e.2) hd.symm (fun _ => rfl) t k

theorem crew_mapCrews (o : Core) (p : Crew → Bool) (f : Crew → Crew) (k : Nat) :
    (o.mapCrews p f).crew k = if (o.crew k).st == .resident && p (o.crew k) then f (o.crew k) else o.crew k := by
  have hmap : o.slots.map (fun e => if e.2.st == .resident && p e.2 then (e.1, f e.2) else e) =
      o.slots.map (fun e => (e.1, if e.2.st == .resident && p e.2 then f e.2 else e.2)) :=
    List.map_congr_left fun e _ => by split <;> rfl
  rw [Core.crew, Core.mapCrews, hmap]
  exact tget_map_snd (g := fun q : Crew => if q.st == .resident && p q then f q else q) rfl o.slots k

/-! ### What is left of a crew and its barriers -/

/-- A barrier without engine arrivals has none still, and expects `n` lanes fewer. -/
def Lowers (n : Nat) (b b' : Bar) : Prop := b.engines = 0 → b'.engines = 0 ∧ b'.expected = b.expected - n

theorem Lowers.refl (b : Bar) : Lowers 0 b b := fun h => ⟨h, rfl⟩

theorem Lowers.trans {m n : Nat} {a b c : Bar} (h : Lowers m a b) (g : Lowers n b c) : Lowers (m + n) a c := fun ha => by
  obtain ⟨hb, e⟩ := h ha
  obtain ⟨hc, e'⟩ := g hb
  exact ⟨hc, by rw [e', e, Nat.sub_sub]⟩

theorem lowers_barNext (clk : Nat) (b : Bar) : Lowers 0 b (barNext clk b) := fun h => ⟨rfl, by rw [barNext, h]⟩

/-- Only the arrived bits and the parked lanes of a crew may differ. -/
structure BarsOnly (k k' : Crew) : Prop where
  eq : k' = { k with arrT := k'.arrT, arrC := k'.arrC, park := k'.park }

theorem BarsOnly.refl (k : Crew) : BarsOnly k k := ⟨rfl⟩

theorem BarsOnly.trans {k k' k'' : Crew} (h : BarsOnly k k') (g : BarsOnly k' k'') : BarsOnly k k'' :=
  ⟨g.eq.trans (congrArg (fun q : Crew => { q with arrT := k''.arrT, arrC := k''.arrC, park := k''.park }) h.eq)⟩

theorem BarsOnly.ite {k k' : Crew} {b : Bool} (h : BarsOnly k k') : BarsOnly k (if b then k' else k) := by
  cases b
  · exact .refl k
  · exact h

theorem barsOnly_clearArrived (cl : Bool) (n : Nat) (k : Crew) : BarsOnly k (clearArrived cl n k) := by
  cases cl <;> exact ⟨rfl⟩

/-- The bookkeeping of barriers: each barrier `j` of the team of crew `k` expects `n j` lanes fewer. -/
structure Expects (s t : State) (c k : Nat) (n : Nat → Nat) : Prop where
  memory : SameMemory s t
  crew : BarsOnly (s.crew c k) (t.crew c k)
  bars : ∀ j, Lowers (n j) (barOf s c k false j) (barOf t c k false j)

theorem Expects.refl (s : State) (c k : Nat) : Expects s s c k (fun _ => 0) := ⟨.refl s, .refl _, fun _ => .refl _⟩

theorem Expects.trans {s t u : State} {c k : Nat} {m n : Nat → Nat} (h : Expects s t c k m) (g : Expects t u c k n) :
    Expects s u c k (fun j => m j + n j) :=
  ⟨h.memory.trans g.memory, h.crew.trans g.crew, fun j => (h.bars j).trans (g.bars j)⟩

theorem Expects.congr {s t : State} {c k : Nat} {m n : Nat → Nat} (h : Expects s t c k m) (e : ∀ j, m j = n j) : Expects s t c k n :=
  funext e ▸ h

/-- Each of some steps counts for the barriers of its own. -/
theorem Expects.foldl {c k : Nat} {step : State → Nat → State} {n : Nat → Nat → Nat} (h : ∀ s i, Expects s (step s i) c k (n i))
    (l : List Nat) (s : State) : Expects s (l.foldl step s) c k (fun j => (l.map (fun i => n i j)).sum) := by
  induction l generalizing s with
  | nil => exact .refl s c k
  | cons i l ih => exact (h s i).trans (ih _)

/-- The barriers of a crew's team stand as the crew's slot and the team say. -/
theorem barOf_team {s t : State} {c k : Nat} (hk : BarsOnly (s.crew c k) (t.crew c k)) (ht : ∀ j, t.team c j = s.team c j) (j : Nat) :
    barOf t c k false j = barOf s c k false j := by
  have hts : (t.crew c k).ts = (s.crew c k).ts := (congrArg Crew.ts hk.eq :)
  simp only [barOf, Bool.false_eq_true, if_false, hts, ht]

theorem Expects.of_teams {s t : State} {c k : Nat} (hm : SameMemory s t) (hk : BarsOnly (s.crew c k) (t.crew c k))
    (ht : ∀ j, t.team c j = s.team c j) : Expects s t c k (fun _ => 0) :=
  ⟨hm, hk, fun j => by rw [barOf_team hk ht]; exact .refl _⟩

/-! ### The steps of a barrier -/

theorem expects_modCrew {c k : Nat} {f : Crew → Crew} (h : ∀ q, BarsOnly q (f q)) (s : State) :
    Expects s (s.modCrew c k f) c k (fun _ => 0) := by
  refine .of_teams (.modCore fun _ => rfl) ?_ (team_modCore_of_teams (·.modCrew k f) (fun _ => rfl) c)
  rw [crew_modCrew_same]
  exact h _

theorem crew_invalL1 (s : State) (c d k : Nat) : (invalL1 s c).crew d k = s.crew d k :=
  crew_modCore_of_slots (s := s) (fun o => { o with l1 := [] }) (fun _ => rfl) d k

theorem expects_invalL1 (s : State) (c k : Nat) : Expects s (invalL1 s c) c k (fun _ => 0) := by
  refine .of_teams ?_ ?_ (team_modCore_of_teams (s := s) (fun o => { o with l1 := [] }) (fun _ => rfl) c)
  · obtain ⟨h1, h2, h3, h4, h5⟩ := SameMemory.modCore (s := s) (c := c) (f := fun o => { o with l1 := [] }) fun _ => rfl
    exact ⟨h1, h2, h3, h4, h5⟩
  · rw [crew_invalL1]
    exact .refl _

theorem expects_mapCrews {p : Crew → Bool} {f : Crew → Crew} (h : ∀ q, BarsOnly q (f q)) (s : State) (c k : Nat) :
    Expects s (s.modCore c (fun o => o.mapCrews p f)) c k (fun _ => 0) := by
  refine .of_teams (.modCore fun _ => rfl) ?_ (team_modCore_of_teams (·.mapCrews p f) (fun _ => rfl) c)
  rw [State.crew, State.crew, core_modCore_same, crew_mapCrews]
  exact (h _).ite

theorem expects_mapCores {p : Crew → Bool} {f : Crew → Crew} (h : ∀ q, BarsOnly q (f q)) (s : State) (c k : Nat) :
    Expects s { s with cores := s.cores.map (fun e => (e.1, e.2.mapCrews p f)) } c k (fun _ => 0) := by
  have hcore (d : Nat) : ({ s with cores := s.cores.map (fun e => (e.1, e.2.mapCrews p f)) } : State).core d = (s.core d).mapCrews p f :=
    tget_map_snd (g := fun o : Core => o.mapCrews p f) rfl s.cores d
  refine .of_teams ⟨rfl, rfl, rfl, fun d => ?_, rfl⟩ ?_ fun j => ?_
  · rw [hcore]
    rfl
  · have e := crew_mapCrews (s.core c) p f k
    rw [← hcore] at e
    rw [State.crew, State.crew, e]
    exact (h _).ite
  · rw [State.team, hcore]
    rfl

theorem expects_modCluster (s : State) (g i : Nat) (f : Cluster → Cluster) (c k : Nat) :
    Expects s (modCluster s g i f) c k (fun _ => 0) :=
  .of_teams ⟨rfl, rfl, rfl, fun _ => rfl, rfl⟩ (.refl _) fun _ => rfl

/-- A barrier of a team becomes another: barrier `n` of the crew's own, if that is its team. -/
theorem expects_setBar {s : State} {c k t n m : Nat} {g : Bar → Bar} (h : ∀ b, Lowers m b (g b)) :
    Expects s (s.modTeam c t (fun q => { q with bars := tset q.bars n (g (tget {} q.bars n)) })) c k
      (fun j => if (s.crew c k).ts = t ∧ j = n then m else 0) := by
  refine ⟨.modCore fun _ => rfl, by rw [crew_modTeam]; exact .refl _, fun j => ?_⟩
  simp only [barOf, Bool.false_eq_true, if_false, crew_modTeam, team_modTeam]
  by_cases ht : (s.crew c k).ts = t
  · by_cases hj : j = n
    · subst hj
      simp only [ht, if_true, and_self, tget_tset_same]
      exact h _
    · simp only [ht, if_true, hj, and_false, if_false, ne_eq, not_false_eq_true, tget_tset_ne]
      exact .refl _
  · simp only [ht, if_false, false_and]
    exact .refl _

theorem modTeam_congr {s : State} {c t : Nat} {f g : Team → Team} (h : f (s.team c t) = g (s.team c t)) : s.modTeam c t f = s.modTeam c t g :=
  congrArg (fun m => s.setCore c { s.core c with teams := tset (s.core c).teams t m }) h

/-- A phase that completes lowers no barrier. -/
theorem expects_nextBar {s u : State} {c t n k : Nat} {f : Crew → Crew} (h : Expects s u c k (fun _ => 0)) (ht : u.team c t = s.team c t)
    (hf : ∀ q, BarsOnly q (f q)) :
    Expects s ((u.modTeam c t (fun m => { m with bars := tset m.bars n (barNext s.clk (tget {} (s.team c t).bars n)) })).modCore c
      (fun o => o.mapCrews (fun q => q.ts == t) f)) c k (fun _ => 0) := by
  have hset := expects_setBar (s := u) (c := c) (k := k) (t := t) (n := n) (lowers_barNext s.clk)
  rw [modTeam_congr (g := fun m => { m with bars := tset m.bars n (barNext s.clk (tget {} (s.team c t).bars n)) }) (by rw [ht])] at hset
  simpa using (h.trans hset).trans (expects_mapCrews hf _ c k)

theorem barsOnly_unpark (k : Crew) (at_ : Nat) (p : Park → Bool) : BarsOnly k (k.unpark at_ p) := ⟨rfl⟩

theorem expects_checkTeamBar (s : State) (c t n k : Nat) : Expects s (checkTeamBar s c t n) c k (fun _ => 0) := by
  have hf (p : Park → Bool) (q : Crew) : BarsOnly q ((clearArrived false n q).unpark (s.clk + 2) p) :=
    (barsOnly_clearArrived false n q).trans (barsOnly_unpark _ _ _)
  simp only [checkTeamBar]
  split
  · by_cases hj : (tget {} (s.team c t).bars n).joined = true
    · rw [if_pos hj]
      exact expects_nextBar (expects_invalL1 s c k) (team_modCore_of_teams (s := s) (fun o => { o with l1 := [] }) (fun _ => rfl) c t) (hf _)
    · rw [if_neg hj]
      exact expects_nextBar (.refl s c k) rfl (hf _)
  · exact .refl s c k

theorem expects_checkClusterBar (s : State) (g i n c k : Nat) : Expects s (checkClusterBar s g i n) c k (fun _ => 0) := by
  simp only [checkClusterBar]
  split
  · exact (expects_modCluster s g i _ c k).trans (expects_mapCores (barsOnly_clearArrived true n) _ c k)
  · exact .refl s c k

theorem expects_checkBar (s : State) (c k : Nat) (cl : Bool) (n : Nat) : Expects s (checkBar s c k cl n) c k (fun _ => 0) := by
  cases cl
  · exact expects_checkTeamBar s c _ n k
  · exact expects_checkClusterBar s _ _ n c k

theorem expects_modBar_team {s : State} {c k n m : Nat} {f : Bar → Bar} (h : ∀ b, Lowers m b (f b)) :
    Expects s (modBar s c k false n f) c k (fun j => if j = n then m else 0) := by
  exact (expects_setBar (t := (s.crew c k).ts) h).congr fun j => by simp only [true_and]

theorem expects_modBar_cluster (s : State) (c k n : Nat) (f : Bar → Bar) : Expects s (modBar s c k true n f) c k (fun _ => 0) :=
  expects_modCluster s _ _ _ c k

end Sys2Proof.Machine

/-! ## Lanes that end, crews that retire, and the other words of a crew's seat (R41, R87, R90, R91, R93) -/

namespace Sys2Proof.Machine

/-! ### One lane's EXIT (R87) -/

/-- The arrived bit of a lane at a barrier clears. -/
def dropArrived (cl : Bool) (n l : Nat) (w : Crew) : Crew :=
  { w with arrT := if cl then w.arrT else tset w.arrT l (tget 0 w.arrT l &&& ~~~(BitVec.ofNat 16 (2 ^ n)))
           arrC := if cl then tset w.arrC l (tget 0 w.arrC l &&& ~~~(BitVec.ofNat 4 (2 ^ n))) else w.arrC }

/-- A barrier expects one lane fewer, which may have arrived. -/
def lowerBar (a : Bool) (b : Bar) : Bar :=
  { b with expected := b.expected - 1, arrivals := if a then b.arrivals - 1 else b.arrivals }

/-- A lane is no longer expected at a barrier of its team or cluster. -/
def leaveBar (c k l : Nat) (cl : Bool) (s : State) (n : Nat) : State :=
  checkBar (modBar (s.modCrew c k (dropArrived cl n l)) c k cl n (lowerBar (arrived (s.crew c k) cl n l))) c k cl n

/-- A lane leaves the rolls of its crew, and its arrivals that its release holds back do not come. -/
def leaveRolls (clk l : Nat) (w : Crew) : Crew :=
  (List.range 8).foldl (fun w n => leaveRoll clk l n w) { w with ords := w.ords.map (dropHeldArrival l) }

/-- A lane has ended: it is neither live nor away, parked nor anywhere. -/
def endLane (l : Nat) (w : Crew) : Crew :=
  { w with live := w.live &&& ~~~(laneBit l), away := w.away &&& ~~~(laneBit l), park := tdel w.park l, pc := tdel w.pc l }

/-- What a lane's end does beyond its crew. -/
def leaveBars (c k l : Nat) (guest : Option Guest) (s : State) : State :=
  match guest with
  | some g => sendNote s g.chip (.exitNote g.cont.grid g.cont.team g.cont.crewid (laneBit l) (g.seen ++ [s.chipid]))
  | none => (List.range 4).foldl (leaveBar c k l true) ((List.range 16).foldl (leaveBar c k l false) s)

theorem exitLane_eq (c k : Nat) (s : State) (l : Nat) : exitLane c k s l =
    (leaveBars c k l (s.crew c k).guest (s.modCrew c k (leaveRolls s.clk l))).modCrew c k (endLane l) := by
  simp only [exitLane, leaveBars]
  cases (s.crew c k).guest <;> rfl

theorem lowers_lowerBar (a : Bool) (b : Bar) : Lowers 1 b (lowerBar a b) := fun h => ⟨h, rfl⟩

theorem barsOnly_dropArrived (cl : Bool) (n l : Nat) (k : Crew) : BarsOnly k (dropArrived cl n l k) := ⟨rfl⟩

theorem expects_leaveBar_team (c k l : Nat) (s : State) (n : Nat) :
    Expects s (leaveBar c k l false s n) c k (fun j => if j = n then 1 else 0) := by
  have h := ((expects_modCrew (barsOnly_dropArrived false n l) s).trans (expects_modBar_team (n := n)
      (lowers_lowerBar (arrived (s.crew c k) false n l)))).trans
    (expects_checkBar _ c k false n)
  simp only [Nat.zero_add, Nat.add_zero] at h
  exact h

theorem expects_leaveBar_cluster (c k l : Nat) (s : State) (n : Nat) : Expects s (leaveBar c k l true s n) c k (fun _ => 0) :=
  ((expects_modCrew (barsOnly_dropArrived true n l) s).trans (expects_modBar_cluster _ c k n _)).trans (expects_checkBar _ c k true n)

theorem sum_map_ite_eq_count (l : List Nat) (j : Nat) : (l.map (fun n => if j = n then 1 else 0)).sum = l.count j := by
  induction l with
  | nil => rfl
  | cons n l ih =>
    rw [List.map_cons, List.sum_cons, ih, List.count_cons, Nat.add_comm]
    exact congrArg _ (if_congr (by rw [beq_iff_eq, eq_comm]) rfl rfl)

/-- A lane's end counts once at each team barrier, if the lane is not a guest. -/
theorem expects_leaveBars (c k l : Nat) (guest : Option Guest) (s : State) :
    Expects s (leaveBars c k l guest s) c k (fun j => if guest = none ∧ j < 16 then 1 else 0) := by
  cases guest with
  | some g =>
    have h : Expects s (leaveBars c k l (some g) s) c k (fun _ => 0) :=
      .of_teams ⟨rfl, rfl, rfl, fun _ => rfl, rfl⟩ (.refl _) fun _ => rfl
    simpa using h
  | none =>
    have h := (Expects.foldl (expects_leaveBar_team c k l) (List.range 16) s).trans
      (Expects.foldl (expects_leaveBar_cluster c k l) (List.range 4) _)
    refine h.congr fun j => ?_
    rw [sum_map_ite_eq_count, List.nodup_range.count, List.map_const', List.sum_replicate, smul_zero, Nat.add_zero]
    simp only [List.mem_range, true_and]

/-! ### The lanes of a word end (R87) -/

/-- A crew, but with the lanes, rolls, arrivals, parks and orders of another. -/
def withLanesOf (k v : Crew) : Crew :=
  { k with live := v.live, away := v.away, rolls := v.rolls, arrivals := v.arrivals, arrT := v.arrT, arrC := v.arrC, park := v.park, ords := v.ords }

/-- Lanes `ls` of crew `k` have ended. -/
structure Exited (s t : State) (c k : Nat) (ls : List Nat) : Prop where
  memory : SameMemory s t
  crew : t.crew c k = { withLanesOf (s.crew c k) (t.crew c k) with pc := (t.crew c k).pc }
  live : (t.crew c k).live = ls.foldl (fun m l => m &&& ~~~(laneBit l)) (s.crew c k).live
  away : (t.crew c k).away = ls.foldl (fun m l => m &&& ~~~(laneBit l)) (s.crew c k).away
  rolls : ∀ j, j < 8 → (t.crew c k).roll j = ls.foldl leftRoll ((s.crew c k).roll j)
  bars : (s.crew c k).guest = none → ∀ j, j < 16 → Lowers ls.length (barOf s c k false j) (barOf t c k false j)

theorem Exited.nil (s : State) (c k : Nat) : Exited s s c k [] :=
  ⟨.refl s, rfl, rfl, rfl, fun _ _ => rfl, fun _ _ _ => .refl _⟩

theorem Exited.append {s t u : State} {c k : Nat} {a b : List Nat} (h : Exited s t c k a) (g : Exited t u c k b) :
    Exited s u c k (a ++ b) where
  memory := h.memory.trans g.memory
  crew := g.crew.trans (congrArg (fun w : Crew => { withLanesOf w (u.crew c k) with pc := (u.crew c k).pc }) h.crew)
  live := by rw [g.live, h.live, List.foldl_append]
  away := by rw [g.away, h.away, List.foldl_append]
  rolls j hj := by rw [g.rolls j hj, h.rolls j hj, List.foldl_append]
  bars hg j hj := by
    have hg' : (t.crew c k).guest = none := (congrArg Crew.guest h.crew :).trans hg
    rw [List.length_append]
    exact (h.bars hg j hj).trans (g.bars hg' j hj)

theorem rollsOnly_leaveRolls (clk l : Nat) (w : Crew) : RollsOnly { w with ords := w.ords.map (dropHeldArrival l) } (leaveRolls clk l w) :=
  RollsOnly.foldl (fun w n => rollsOnly_leaveRoll clk l n w) (List.range 8) _

theorem roll_leaveRolls (clk l : Nat) (w : Crew) {j : Nat} (hj : j < 8) : (leaveRolls clk l w).roll j = leftRoll (w.roll j) l := by
  rw [leaveRolls, roll_foldl_leaveRoll clk l _ List.nodup_range, if_pos (List.mem_range.2 hj)]
  rfl

/-- The end of a lane: it leaves its rolls (`w`), then its barriers (`u`), then its crew. -/
theorem exited_of_steps {s u : State} {c k l : Nat} {w : Crew} {o : List Ord} (hw : RollsOnly { s.crew c k with ords := o } w)
    (hroll : ∀ j, j < 8 → w.roll j = leftRoll ((s.crew c k).roll j) l) (hu : BarsOnly w (u.crew c k)) (hm : SameMemory s u)
    (hb : (s.crew c k).guest = none → ∀ j, j < 16 → Lowers 1 (barOf s c k false j) (barOf u c k false j)) :
    Exited s (u.modCrew c k (endLane l)) c k [l] := by
  have hnew : (u.modCrew c k (endLane l)).crew c k = endLane l (u.crew c k) := crew_modCrew_same u c k _
  have hcrew := hu.eq.trans (congrArg (fun v : Crew => { v with
    arrT := (u.crew c k).arrT, arrC := (u.crew c k).arrC, park := (u.crew c k).park }) hw.eq)
  refine ⟨hm.trans (.modCore fun _ => rfl), ?_, ?_, ?_, fun j hj => ?_, fun hg j hj => ?_⟩
  · rw [hnew]
    generalize u.crew c k = v at hcrew
    rw [hcrew]
    rfl
  · rw [hnew]
    exact (congrArg (fun v : Crew => v.live &&& ~~~(laneBit l)) hcrew :)
  · rw [hnew]
    exact (congrArg (fun v : Crew => v.away &&& ~~~(laneBit l)) hcrew :)
  · rw [hnew]
    exact (congrArg (fun v : Crew => v.roll j) hu.eq).trans (hroll j hj)
  · have e : barOf (u.modCrew c k (endLane l)) c k false j = barOf u c k false j := by
      simp only [barOf, hnew, Bool.false_eq_true, if_false]
      rw [State.modCrew, team_modCore_of_teams (·.modCrew k (endLane l)) fun _ => rfl]
      rfl
    rw [e]
    exact hb hg j hj

theorem exited_lane (s : State) (c k l : Nat) : Exited s (exitLane c k s l) c k [l] := by
  rw [exitLane_eq]
  have hw := rollsOnly_leaveRolls s.clk l (s.crew c k)
  have hroll (j : Nat) (hj : j < 8) := roll_leaveRolls s.clk l (s.crew c k) hj
  have hfirst : SameMemory s (s.modCrew c k (leaveRolls s.clk l)) := .modCore fun _ => rfl
  have hts : ((s.modCrew c k (leaveRolls s.clk l)).crew c k).ts = (s.crew c k).ts := by
    rw [crew_modCrew_same]
    exact (congrArg Crew.ts hw.eq :)
  have hteam (j : Nat) : (s.modCrew c k (leaveRolls s.clk l)).team c j = s.team c j :=
    team_modCore_of_teams (·.modCrew k (leaveRolls s.clk l)) (fun _ => rfl) c j
  obtain ⟨hmem, hbars, hlow⟩ := expects_leaveBars c k l (s.crew c k).guest (s.modCrew c k (leaveRolls s.clk l))
  rw [crew_modCrew_same] at hbars
  refine exited_of_steps hw hroll hbars (hfirst.trans hmem) fun hg j hj => ?_
  have h := hlow j
  rw [if_pos ⟨hg, hj⟩] at h
  have e : barOf (s.modCrew c k (leaveRolls s.clk l)) c k false j = barOf s c k false j := by
    simp only [barOf, hts, hteam]
    rfl
  rwa [e] at h

theorem exited_lanes (c k : Nat) (ls : List Nat) (s : State) : Exited s (ls.foldl (exitLane c k) s) c k ls := by
  induction ls generalizing s with
  | nil => exact .nil s c k
  | cons l ls ih => exact (exited_lane s c k l).append (ih _)

end Sys2Proof.Machine

namespace Sys2Proof.Machine

/-! ### The retirement of a crew leaves its slot free (R87, R244) -/

theorem crew_endReservation (s : State) (c t d k : Nat) : (endReservation s c t).crew d k = s.crew d k := by
  simp only [endReservation]
  split
  · rw [crew_modCore_of_slots (fun o => { o with fifoA := [], fifoB := [], fifoTeam := none }) fun _ => rfl, crew_modTeam]
    rfl
  · rw [crew_modTeam]
    rfl

theorem crew_endClaims (s : State) (c t d k : Nat) : (endClaims s c t).crew d k = s.crew d k := by
  simp only [endClaims]
  split <;> rfl

theorem crew_unbindAll (s : State) (c t d k : Nat) : (unbindAll s c t).crew d k = s.crew d k :=
  crew_modCore_of_slots (s := s) (fun o => { o with arrCtrs := o.arrCtrs.filter (fun e => !(e.2.ts == t)) }) (fun _ => rfl) d k

/-- The retirement of a team leaves every crew. -/
theorem crew_retireTeam (s : State) (c t d k : Nat) : (retireTeam s c t).crew d k = s.crew d k := by
  have hpins : (unbindAll (endPins s c t) c t).crew d k = s.crew d k := crew_unbindAll _ c t d k
  have hgrid (u : State) (g : Nat) (f : Grid → Grid) : (u.modGrid g f).crew d k = u.crew d k := rfl
  simp only [retireTeam]
  split
  · rfl
  · rw [apply_ite (fun u : State => u.crew d k), hgrid, ite_self, crew_endClaims, crew_modTeam,
      apply_ite (fun u : State => u.crew d k), crew_endReservation, ite_self, hpins]

theorem retireCrew_live {s : State} {c k : Nat} (h : (s.crew c k).live ≠ 0) : retireCrew s c k = s := by
  simp only [retireCrew]
  rw [Bool.or_assoc, if_pos (Bool.or_eq_true_iff.2 (.inl (bne_iff_ne.2 h)))]

theorem crew_retireCrew {s : State} {c k : Nat} (hlive : (s.crew c k).live = 0) (hst : (s.crew c k).st = .resident)
    (hg : (s.crew c k).guest = none) : (retireCrew s c k).crew c k = {} := by
  simp only [retireCrew]
  rw [if_neg (by simp [hlive, hst, hg]), crew_retireTeam, State.crew, core_modCore_same]
  exact tget_tdel_same _ _ _

/-! ### EXIT (R87) -/

/-- A lane that has left a roll is in neither of its masks, and stays out of them. -/
theorem leftRoll_out {m : Mask × Mask} {l i : Nat} (hi : i < 32) (h : i = l ∨ m.1.getLsbD i = false ∧ m.2.getLsbD i = false) :
    (leftRoll m l).1.getLsbD i = false ∧ (leftRoll m l).2.getLsbD i = false := by
  have hout (a : Mask) (ha : i = l ∨ a.getLsbD i = false) : (a &&& ~~~(laneBit l)).getLsbD i = false := by
    rw [BitVec.getLsbD_and, BitVec.getLsbD_not, getLsbD_laneBit hi]
    obtain rfl | ha := ha
    · simp
    · simp [ha]
  rw [leftRoll, releasedRoll]
  split
  · simp
  · exact ⟨hout _ (h.imp_right And.left), hout _ (h.imp_right And.right)⟩

theorem foldl_leftRoll_out {i : Nat} (hi : i < 32) (ls : List Nat) {m : Mask × Mask}
    (h : i ∈ ls ∨ m.1.getLsbD i = false ∧ m.2.getLsbD i = false) :
    (ls.foldl leftRoll m).1.getLsbD i = false ∧ (ls.foldl leftRoll m).2.getLsbD i = false := by
  induction ls generalizing m with
  | nil => exact h.resolve_left List.not_mem_nil
  | cons l ls ih =>
    rw [List.mem_cons, or_right_comm] at h
    rw [List.foldl_cons]
    exact ih (h.symm.imp_right (leftRoll_out hi))

theorem and_eq_zero_of_lanes {a on : Mask} (h : ∀ i ∈ lanesOf on, a.getLsbD i = false) : a &&& on = 0 := by
  refine BitVec.eq_of_getLsbD_eq fun i hi => ?_
  by_cases hon : on.getLsbD i = true
  · simp [h i (mem_lanesOf.2 ⟨hi, hon⟩)]
  · simp [hon]

/-- Once its lanes have left a roll, none of them is in its masks. -/
theorem masks_leftRoll (on : Mask) (m : Mask × Mask) :
    ((lanesOf on).foldl leftRoll m).1 &&& on = 0 ∧ ((lanesOf on).foldl leftRoll m).2 &&& on = 0 := by
  have h (i : Nat) (hi : i ∈ lanesOf on) := foldl_leftRoll_out (mem_lanesOf.1 hi).1 (lanesOf on) (m := m) (.inl hi)
  exact ⟨and_eq_zero_of_lanes fun i hi => (h i hi).1, and_eq_zero_of_lanes fun i hi => (h i hi).2⟩

/-- The barriers of a crew's team stand in its core, not in its slot. -/
theorem OnlyCrew.barOf_team {s t : State} {x : Ctx} (h : OnlyCrew s t x) (hts : (t.at x).ts = (s.at x).ts) (j : Nat) :
    barOf t x.c x.k false j = barOf s x.c x.k false j := by
  have hteams : (t.core x.c).teams = (s.core x.c).teams := (congrArg Core.teams h.core :)
  have hteam (n : Nat) : t.team x.c n = s.team x.c n := congrArg (fun l => tget ({} : Team) l n) hteams
  rw [State.at, State.at] at hts
  simp only [barOf, Bool.false_eq_true, if_false, hts, hteam]

section
variable {s : State} {x : Ctx}

/-- EXIT's lanes end one after the other, and then its crew retires if it can. -/
theorem exit_runs (h : Issues s {} [] false x) : ∃ v, Exited (begun s {} x []) v x.c x.k (lanesOf x.on) ∧
    exec .exit s = .next (ended {} x (s.at x) (retireCrew v x.c x.k)) :=
  ⟨_, exited_lanes x.c x.k (lanesOf x.on) _, issue_next (p := {}) h fun x s => retireCrew ((lanesOf x.on).foldl (exitLane x.c x.k) s) x.c x.k⟩

/-- The lanes live after EXIT. -/
theorem Exited.live_on {v : State} (g : Exited (begun s {} x []) v x.c x.k (lanesOf x.on)) : (v.at x).live = (s.at x).live &&& ~~~x.on := by
  obtain ⟨pc, hat, -⟩ := at_begun s {} x
  rw [State.at, g.live, foldl_clear_lanes]
  exact (congrArg (fun k : Crew => k.live &&& ~~~x.on) hat :)

/-- The lanes away after EXIT. -/
theorem Exited.away_on {v : State} (g : Exited (begun s {} x []) v x.c x.k (lanesOf x.on)) : (v.at x).away = (s.at x).away &&& ~~~x.on := by
  obtain ⟨pc, hat, -⟩ := at_begun s {} x
  rw [State.at, g.away, foldl_clear_lanes]
  exact (congrArg (fun k : Crew => k.away &&& ~~~x.on) hat :)

theorem exit_frees (h : Issues s {} [] false x) (hst : (s.at x).st = .resident) (hl : (s.at x).live = x.on) (hg : (s.at x).guest = none) :
    ∃ t, exec .exit s = .next t ∧ (t.at x).st = .free := by
  obtain ⟨v, g, e⟩ := exit_runs h
  obtain ⟨pc, hat, -⟩ := at_begun s {} x
  have hlive : (v.at x).live = 0 := by rw [g.live_on, hl, BitVec.and_not_self]
  have hst' : (v.at x).st = (s.at x).st := (congrArg Crew.st g.crew :).trans (congrArg Crew.st hat :)
  have hg' : (v.at x).guest = (s.at x).guest := (congrArg Crew.guest g.crew :).trans (congrArg Crew.guest hat :)
  obtain ⟨a, b, r, q, hend⟩ := at_ended_rest (retireCrew v x.c x.k) {} x (s.at x)
  refine ⟨_, e, ?_⟩
  rw [hend]
  exact congrArg Crew.st (crew_retireCrew hlive (hst'.trans hst) (hg'.trans hg))

/-- What EXIT leaves of a crew that has live lanes still. -/
structure Survives (s t : State) (x : Ctx) : Prop where
  live : (t.at x).live = (s.at x).live &&& ~~~x.on
  away : (t.at x).away = (s.at x).away &&& ~~~x.on
  memory : SameMemory s t
  rolls : ∀ j, j < 8 → tget 0 (t.at x).rolls j &&& x.on = 0 ∧ tget 0 (t.at x).arrivals j &&& x.on = 0
  bars : (s.at x).guest = none → ∀ j, j < 16 → Lowers (lanesOf x.on).length (barOf s x.c x.k false j) (barOf t x.c x.k false j)
  keeps : KeepsCrew (withLanesOf (s.at x) (t.at x)) (t.at x) []

theorem exit_survives (h : Issues s {} [] false x) (hon : x.on &&& ~~~(s.at x).live = 0) (hl : (s.at x).live ≠ x.on) :
    ∃ t, exec .exit s = .next t ∧ Survives s t x := by
  obtain ⟨v, g, e⟩ := exit_runs h
  have hlive : (v.at x).live ≠ 0 := fun h0 => hl (by
    rw [g.live_on] at h0
    rw [← and_eq_left_of_and_not h0, BitVec.and_comm]
    exact and_eq_left_of_and_not hon)
  rw [retireCrew_live hlive] at e
  obtain ⟨pc, hat, -⟩ := at_begun s {} x
  obtain ⟨a, b, r, q, hend⟩ := at_ended_rest v {} x (s.at x)
  have hv : v.at x = { withLanesOf (s.at x) (v.at x) with pc := (v.at x).pc, since := s.clk + 1 } :=
    g.crew.trans (congrArg (fun k : Crew => { withLanesOf k (v.at x) with pc := (v.at x).pc }) hat)
  have hkeeps : KeepsCrew (withLanesOf (s.at x) (v.at x)) ((ended {} x (s.at x) v).at x) (lastRegs x.h {} 1 1 1) :=
    keepsCrew_word (single_op {} []) (.of_pcs hv) _
  have hlast : lastRegs x.h {} 1 1 1 = [] := by simp [lastRegs, vdst]
  rw [hlast] at hkeeps
  have honly : OnlyCrew v (ended {} x (s.at x) v) x := .ended v {} x _
  have hbegun : OnlyCrew s (begun s {} x []) x := .begun s {} x
  refine ⟨_, e, ?_, ?_, ?_, fun j hj => ?_, fun hg j hj => ?_, ?_⟩
  · rw [hend]
    exact g.live_on
  · rw [hend]
    exact g.away_on
  · exact (hbegun.sameMemory.trans g.memory).trans honly.sameMemory
  · have hm := masks_leftRoll x.on (((begun s {} x []).at x).roll j)
    rw [State.at, ← g.rolls j hj] at hm
    rw [hend]
    exact hm
  · rw [← hbegun.barOf_team (congrArg Crew.ts hat :), honly.barOf_team (congrArg Crew.ts hend :)]
    exact g.bars ((congrArg Crew.guest hat :).trans hg) j hj
  · rw [hend] at hkeeps ⊢
    exact hkeeps

end

/-! ### Words that say how their crew issues (R41, R90, R91, R93) -/

section
variable {i : Instr} {s : State} {p : Pre} {w : Op} {x : Ctx}

/-- A word that changes of its crew what does not depend on PCs and age. -/
theorem completes_sets {body : Ctx → State → State} {f : Crew → Crew} (h : Issues s p.w p.dst p.comp x) (hp : p.single)
    (hi : exec i s = issue s p body) (hb : body x (begun s p x []) = (begun s p x []).modCrew x.c x.k f)
    (hf : ∀ pc since, f { s.at x with pc, since } = { f (s.at x) with pc, since }) (hr : (f (s.at x)).results = (s.at x).results) :
    Completes i s fun t => OnlyTo s t x p.w f ∧ Goes s t x (fun _ => x.next) := by
  obtain ⟨pc, hat, -⟩ := at_begun s p x
  obtain ⟨t, e, hmakes⟩ := completes_modCrew h hp hi hb (k := f (s.at x)) (by rw [hat]; exact hf _ _) hr
  exact ⟨t, e, hmakes.onlyTo, hmakes.goes⟩

theorem Issues.runs_lanes {dst : List Nat} {comp : Bool} (h : Issues s w dst comp x) : ¬(x.on == 0) = true :=
  fun h0 => h.on (beq_iff_eq.1 h0)

theorem nop_moves_on (h : Issues s {} [] false x) : Completes .nop s fun t => OnlyTo s t x {} id ∧ Goes s t x (fun _ => x.next) := by
  have hi : exec .nop s = execNop s := rfl
  rw [execNop] at hi
  exact completes_stays h hi rfl

theorem pause_leaves (h : Issues s {} [] false x) :
    Completes .pause s fun t => OnlyTo s t x {} (fun k => { k with leaving := true, paused := true }) ∧ Goes s t x (fun _ => x.next) := by
  have hi : exec .pause s = execPause s := rfl
  rw [execPause] at hi
  exact completes_sets (p := {}) h (single_op {} []) hi (if_neg h.runs_lanes) (fun _ _ => rfl) rfl

theorem yield_holds (h : Issues s w [] false x) :
    Completes (.yield w) s fun t => OnlyTo s t x w (fun k => { k with
      yieldTo := max k.yieldTo (s.clk + w.mf 0 8), leaving := k.leaving || decide (64 ≤ w.mf 0 8) }) ∧ Goes s t x (fun _ => x.next) := by
  have hi : exec (.yield w) s = execYield w s := rfl
  rw [execYield] at hi
  exact completes_sets (p := { w }) h (single_op w []) hi (if_neg h.runs_lanes) (fun _ _ => rfl) rfl

theorem settile_sets (h : Issues s w [] false x) (hc : notConverged x 32 = false) :
    Completes (.settile w) s fun t => OnlyTo s t x w (fun k => { k with tile := 2 ^ w.mn }) ∧ Goes s t x (fun _ => x.next) := by
  have hi : exec (.settile w) s = execSettile w s := rfl
  rw [execSettile] at hi
  exact completes_sets (p := { w, coll := true }) h ⟨rfl, rfl, rfl, rfl⟩ hi (by rw [collective, hc]; rfl) (fun _ _ => rfl) rfl

end

/-! ### The statement -/

/-- Settles O24: EXIT's lanes leave their rolls and barriers one after the other; the other words change fields of their crew. -/
theorem seatWords : Obligations.SeatWords := by
  intro w s x k n sets
  refine ⟨fun h => ⟨nop_moves_on h, pause_leaves h, fun hon hst => ?_⟩, fun h => ⟨yield_holds h, settile_sets h⟩⟩
  by_cases hl : k.live = x.on
  · by_cases hg : k.guest = none
    · obtain ⟨t, e, hfree⟩ := exit_frees h hst hl hg
      exact ⟨t, e, fun hne => absurd hl hne, fun _ _ => hfree⟩
    · obtain ⟨v, -, e⟩ := exit_runs h
      exact ⟨_, e, fun hne => absurd hl hne, fun _ hg' => absurd hg' hg⟩
  · obtain ⟨t, e, hlive, haway, hmem, hrolls, hbars, hkeeps⟩ := exit_survives h hon hl
    exact ⟨t, e, fun _ => ⟨hlive, haway, hmem, hrolls, fun hg j hj hb => (hbars hg j hj hb).2, hkeeps⟩, fun hl' => absurd hl' hl⟩

end Sys2Proof.Machine

/-! ## Events of the seats (R65, R67, R75, R91, R99) -/

namespace Sys2Proof.Machine

/-! ### Lanes that resume -/

/-- What a table tells of a key beyond the default stands in it. -/
theorem mem_of_tget_ne {α : Type} {d : α} {t : Tab α} {k : Nat} (h : tget d t k ≠ d) : (k, tget d t k) ∈ t := by
  induction t with
  | nil => exact absurd rfl h
  | cons e t ih =>
    obtain ⟨j, v⟩ := e
    simp only [tget] at h ⊢
    split
    next hj => rw [hj]; exact List.mem_cons_self
    next hj =>
      rw [if_neg hj] at h
      exact List.mem_cons_of_mem _ (ih h)

/-- A lane that is parked for a reason that a test picks is in the list of parked lanes. -/
theorem park_any {k : Crew} {p : Park → Bool} (hno : p .no = false) {l : Nat} (h : p (k.parkOf l) = true) :
    k.park.any (fun e => p e.2) = true := by
  have hne : k.parkOf l ≠ .no := fun he => by
    rw [he, hno] at h
    exact Bool.false_ne_true h
  exact List.any_eq_true.2 ⟨_, mem_of_tget_ne hne, h⟩

theorem parkOf_unpark {p : Park → Bool} (hno : p .no = false) (k : Crew) (at_ l : Nat) :
    (k.unpark at_ p).parkOf l = if p (k.parkOf l) then .resume at_ else k.parkOf l := by
  have hmap : k.park.map (fun e => if p e.2 then (e.1, Park.resume at_) else e) =
      k.park.map (fun e => (e.1, if p e.2 then Park.resume at_ else e.2)) :=
    List.map_congr_left fun e _ => by split <;> rfl
  rw [Crew.parkOf, Crew.unpark, hmap]
  exact tget_map_snd (g := fun q : Park => if p q then .resume at_ else q) (by rw [hno]; rfl) k.park l

/-! ### Events of one crew -/

section
variable {s : State} {c n : Nat}

/-- The context in which a statement speaks of crew `n` of core `c`. -/
def seatCtx (c n : Nat) : Ctx := { c, k := n, path := 0, on := 0, h := {}, pc := {}, serial := 0, live := 0, away := 0, second := false }

theorem completes_crewEvent {e : Instr} {f : Crew → Crew} (h : exec e s = .next (s.modCrew c n f)) :
    Completes e s fun t => OnlyCrew s t (seatCtx c n) ∧ t.crew c n = f (s.crew c n) :=
  ⟨_, h, .modCrew s (seatCtx c n) f, crew_modCrew_same s c n f⟩

theorem yieldHoldEnd_ends (hy : (s.crew c n).yieldTo ≠ 0) (hc : (s.crew c n).yieldTo < s.clk) :
    Completes (.yieldHoldEnd c n) s fun t => OnlyCrew s t (seatCtx c n) ∧ t.crew c n = { s.crew c n with yieldTo := 0 } := by
  have hi : exec (.yieldHoldEnd c n) s = execYieldHoldEnd c n s := rfl
  rw [execYieldHoldEnd] at hi
  exact completes_crewEvent (f := fun w => { w with yieldTo := 0 }) (hi.trans (if_pos (by simp [hy, hc])))

/-- The first lane of a mask that a test picks. -/
theorem find?_lanesOf {m : Mask} {p : Nat → Bool} {l : Nat} (hl : l ∈ lanesOf m) (hp : p l = true)
    (hmin : ∀ j ∈ lanesOf m, j < l → p j = false) : (lanesOf m).find? p = some l := by
  have hsorted : (lanesOf m).Pairwise (· < ·) := List.pairwise_lt_range.filter _
  obtain ⟨as, bs, he⟩ := List.append_of_mem hl
  rw [he] at hsorted hmin
  refine he ▸ List.find?_eq_some_iff_append.2 ⟨hp, as, bs, rfl, fun a ha => ?_⟩
  rw [hmin a (List.mem_append_left _ ha) ((List.pairwise_append.1 hsorted).2.2 a ha l List.mem_cons_self)]
  rfl

theorem laneStarvationPath_decides {l : Nat} (hl : l ∈ lanesOf ((s.crew c n).ready s.clk)) (h64 : 64 ≤ tget 0 (s.crew c n).starve l)
    (hmin : ∀ j ∈ lanesOf ((s.crew c n).ready s.clk), j < l → tget 0 (s.crew c n).starve j < 64) (hnone : (s.crew c n).starved = none) :
    Completes (.laneStarvationPath c n) s fun t => OnlyCrew s t (seatCtx c n) ∧ t.crew c n = { s.crew c n with starved := some l } := by
  have hfind : (lanesOf ((s.crew c n).ready s.clk)).find? (fun l => 64 ≤ tget 0 (s.crew c n).starve l) = some l :=
    find?_lanesOf hl (decide_eq_true h64) fun j hj hjl => decide_eq_false (Nat.not_le.2 (hmin j hj hjl))
  have hi : exec (.laneStarvationPath c n) s = execLaneStarvationPath c n s := rfl
  simp only [execLaneStarvationPath, hfind, hnone, Option.isNone_none, if_true] at hi
  exact completes_crewEvent (f := fun w => { w with starved := some l }) hi

theorem rowWaitRetry_resumes (hst : (s.crew c n).st = .resident) (hrow : (s.crew c n).park.any (fun e => e.2 == .row) = true)
    (hfree : rowsFree (s.core c) (s.crew c n) 1 = true) :
    Completes (.rowWaitRetry c n) s fun t => OnlyCrew s t (seatCtx c n) ∧ { t.crew c n with park := (s.crew c n).park } = s.crew c n ∧
      ∀ l, (t.crew c n).parkOf l = if (s.crew c n).parkOf l = .row then .resume s.clk else (s.crew c n).parkOf l := by
  have hi : exec (.rowWaitRetry c n) s = execRowWaitRetry c n s := rfl
  rw [execRowWaitRetry] at hi
  obtain ⟨t, e, honly, hcrew⟩ := completes_crewEvent (f := fun w => w.unpark s.clk (· == .row))
    (hi.trans (if_pos (by simp [hst, hrow, hfree])))
  refine ⟨t, e, honly, by rw [hcrew]; rfl, fun l => ?_⟩
  rw [hcrew, parkOf_unpark rfl]
  simp only [beq_iff_eq]

theorem mem_slots (h : (s.crew c n).st = .resident) : (n, s.crew c n) ∈ (s.core c).slots :=
  mem_of_tget_ne fun he => by
    have hst : (s.crew c n).st = .free := congrArg Crew.st he
    rw [h] at hst
    cases hst

theorem l1_invalL1 (s : State) (c : Nat) : ((invalL1 s c).core c).l1 = [] :=
  (congrArg Core.l1 (core_modCore_same s c (fun o => { o with l1 := [] })) :)

/-- A crew of a cluster with lanes parked on barrier `b`, whose phase is over. -/
def waitsOver (q : Cluster) (b : Nat) (k : Crew) : Bool :=
  k.st == .resident && inCluster q.grid q.index k && k.park.any (fun e => barOver true b (tget {} q.bars b).phase e.2)

/-- Its lanes resume. -/
def resumeOver (clk : Nat) (q : Cluster) (b : Nat) (k : Crew) : Crew := k.unpark (clk + 1) (barOver true b (tget {} q.bars b).phase)

/-- The core after its crews have resumed. -/
def resumedCore (s : State) (c : Nat) (q : Cluster) (b : Nat) : State := s.modCore c (fun o => o.mapCrews (waitsOver q b) (resumeOver s.clk q b))

theorem crew_resumedCore {q : Cluster} {b : Nat} (h : waitsOver q b (s.crew c n) = true) :
    (invalL1 (resumedCore s c q b) c).crew c n = resumeOver s.clk q b (s.crew c n) := by
  have hst : ((s.core c).crew n).st == .resident := by
    rw [waitsOver, Bool.and_eq_true, Bool.and_eq_true] at h
    obtain ⟨⟨hst, -⟩, -⟩ := h
    exact hst
  have hboth : (((s.core c).crew n).st == .resident && waitsOver q b ((s.core c).crew n)) = true := Bool.and_eq_true_iff.2 ⟨hst, h⟩
  rw [crew_invalL1, resumedCore, State.crew, core_modCore_same, crew_mapCrews, if_pos hboth]
  rfl

theorem clusterBarrierResume_resumes {i b : Nat} {q : Cluster} (hq : s.clusters[i]? = some q) (hst : (s.crew c n).st = .resident)
    (hin : inCluster q.grid q.index (s.crew c n) = true)
    (hover : ∃ l, barOver true b (tget {} q.bars b).phase ((s.crew c n).parkOf l) = true) :
    Completes (.clusterBarrierResume c i b) s fun t =>
      (t.core c).l1 = [] ∧ SameMemory s t ∧ { t.crew c n with park := (s.crew c n).park } = s.crew c n ∧
      ∀ l, (t.crew c n).parkOf l = if barOver true b (tget {} q.bars b).phase ((s.crew c n).parkOf l) then .resume (s.clk + 1)
        else (s.crew c n).parkOf l := by
  obtain ⟨l, hl⟩ := hover
  have hpark := park_any (p := barOver true b (tget {} q.bars b).phase) rfl hl
  have hwaits : waitsOver q b (s.crew c n) = true := by rw [waitsOver, hst, hin, hpark]; rfl
  have hi : exec (.clusterBarrierResume c i b) s = execClusterBarrierResume c i b s := rfl
  simp only [execClusterBarrierResume, hq] at hi
  have e : exec (.clusterBarrierResume c i b) s = .next (invalL1 (resumedCore s c q b) c) :=
    hi.trans (if_pos (List.any_eq_true.2 ⟨_, mem_slots hst, hwaits⟩))
  have hmem : SameMemory s (resumedCore s c q b) := .modCore fun _ => rfl
  refine ⟨_, e, l1_invalL1 _ c, hmem.trans (expects_invalL1 _ c n).memory, ?_, fun l => ?_⟩
  · rw [crew_resumedCore hwaits]
    rfl
  · rw [crew_resumedCore hwaits]
    exact parkOf_unpark rfl _ _ _

/-! ### Promotion (R65) -/

/-- A choice that keeps what it has or takes the next of a list makes its choice from the list. -/
theorem mem_of_foldl_pick {f : Option Nat → Nat → Option Nat} (hf : ∀ b k j, f b k = some j → b = some j ∨ j = k) {l : List Nat} {j : Nat}
    {b : Option Nat} (h : l.foldl f b = some j) : b = some j ∨ j ∈ l := by
  induction l generalizing b with
  | nil => exact .inl h
  | cons k l ih =>
    obtain hb | hj := ih h
    · exact (hf b k j hb).imp_right fun e => List.mem_cons.2 (.inl e)
    · exact .inr (List.mem_cons_of_mem _ hj)

theorem oldest_mem {l : List Nat} {j : Nat} (h : oldest s c l = some j) : j ∈ l := by
  refine (mem_of_foldl_pick (fun b k j hb => ?_) h).resolve_left (by simp)
  cases b with
  | none => exact .inr (Option.some.inj hb).symm
  | some x =>
    simp only at hb
    split at hb
    · exact .inr (Option.some.inj hb).symm
    · exact .inl hb

theorem youngest_mem {l : List Nat} {j : Nat} (h : youngest s c l = some j) : j ∈ l := by
  refine (mem_of_foldl_pick (fun b k j hb => ?_) h).resolve_left (by simp)
  cases b with
  | none => exact .inr (Option.some.inj hb).symm
  | some x =>
    simp only at hb
    split at hb
    · exact .inr (Option.some.inj hb).symm
    · exact .inl hb

/-- Who may be promoted: a pending crew that can issue (R65). -/
def canEnter (s : State) (c j : Nat) : Prop := (s.crew c j).active = false ∧ canIssue s c j = true

theorem canEnter_of_mem {l : List Nat} {j : Nat} (h : j ∈ l.filter (fun k => !((s.core c).crew k).active && canIssue s c k)) : canEnter s c j := by
  have hp := (List.mem_filter.1 h).2
  simp only [Bool.and_eq_true, Bool.not_eq_true'] at hp
  exact hp

theorem promotable_enters {i j : Nat} (h : promotable s c i = some j) : canEnter s c j := by
  simp only [promotable] at h
  split at h
  · cases h
  · have hm := oldest_mem h
    split at hm
    · exact canEnter_of_mem hm
    · exact canEnter_of_mem (List.mem_filter.1 hm).1

/-- Whom a seat promotes, and whom it takes out for it. -/
theorem promotion_enters {i j : Nat} {out : Option Nat} (h : promotion s c i = some (j, out)) :
    canEnter s c j ∧ ∀ y, out = some y → (s.crew c y).active = true ∧ 448 ≤ (s.crew c j).age s.clk := by
  simp only [promotion] at h
  split at h
  · cases h
  split at h
  · obtain ⟨k, hk, e⟩ := Option.map_eq_some_iff.1 h
    cases e
    exact ⟨promotable_enters hk, fun y hy => by cases hy⟩
  split at h
  · cases h
  · obtain ⟨k, hk, e⟩ := Option.map_eq_some_iff.1 h
    cases e
    have hold := List.mem_filter.1 (oldest_mem hk)
    exact ⟨canEnter_of_mem hold.1, fun y hy => ⟨(List.mem_filter.1 (youngest_mem hy)).2, of_decide_eq_true hold.2⟩⟩

theorem crew_demote (s : State) (c y k : Nat) : (demote s c y).crew c k =
    if k = y then { s.crew c k with active := false, leaving := false, promoted := none } else s.crew c k := by
  rw [demote, State.crew, core_modCore_same]
  by_cases hk : k = y
  · subst hk
    rw [if_pos rfl]
    exact crew_setCrew_same _ _ _
  · rw [if_neg hk]
    exact crew_setCrew_ne _ _ hk

theorem crew_promote (s : State) (c j k : Nat) : (promote s c j).crew c k =
    if k = j then { s.crew c k with active := true, leaving := false, paused := false, promoted := some s.clk } else s.crew c k := by
  by_cases hk : k = j
  · subst hk
    rw [if_pos rfl]
    exact crew_modCrew_same s c k _
  · rw [if_neg hk]
    exact crew_modCrew_slot s c _ hk

theorem crewPromotion_enters {i j : Nat} {out : Option Nat} (hi : i < 4) (h : promotion s c i = some (j, out)) :
    Completes (.crewPromotion c i) s fun t =>
      (s.crew c j).active = false ∧ canIssue s c j = true ∧ (t.crew c j).active = true ∧ (t.crew c j).paused = false ∧
      (∀ y, out = some y → (t.crew c y).active = false ∧ 448 ≤ (s.crew c j).age s.clk) ∧
      ∀ y, y ≠ j → out ≠ some y → t.crew c y = s.crew c y := by
  obtain ⟨⟨hact, hcan⟩, hout⟩ := promotion_enters h
  have e : exec (.crewPromotion c i) s = execCrewPromotion c i s := rfl
  rw [execCrewPromotion, if_pos hi, h] at e
  refine ⟨_, e, hact, hcan, ?_, ?_, fun y hy => ⟨?_, (hout y hy).2⟩, fun y hj hy => ?_⟩
  · rw [crew_promote, if_pos rfl]
  · rw [crew_promote, if_pos rfl]
  · have hyj : y ≠ j := fun hyj => by
      have := (hout y hy).1
      rw [hyj, hact] at this
      exact Bool.false_ne_true this
    subst hy
    rw [crew_promote, if_neg hyj]
    simp only [crew_demote, if_true]
  · rw [crew_promote, if_neg hj]
    cases out with
    | none => rfl
    | some z =>
      simp only [crew_demote]
      rw [if_neg fun hyz => hy (congrArg some hyz.symm)]

end

/-! ### The statement -/

/-- Settles O25: each event as its lemma says. -/
theorem seatEvents : Obligations.SeatEvents := by
  intro c n i b s k x sets
  exact ⟨yieldHoldEnd_ends, fun l hl h64 hmin hnone => laneStarvationPath_decides hl h64 hmin hnone, rowWaitRetry_resumes,
    fun q hq hst hin => clusterBarrierResume_resumes hq hst hin, fun hi j out h => crewPromotion_enters hi h⟩

end Sys2Proof.Machine

/-! ## Accesses through the memory-side cache (R172, R173)

Reads and writes of device-physical bytes change DRAM with its marks, the cache, the choices of the cache and the event queues of
a poisoned write, and nothing else of the chip. -/

namespace Sys2Proof.Machine

/-- State `t` differs from `s` in DRAM, the memory-side cache and the event queues alone. -/
structure CacheOnly (s t : State) : Prop where
  eq : t = { s with dram := t.dram, gkey := t.gkey, poison := t.poison, msc := t.msc, free := t.free
                    evq0 := t.evq0, evq1 := t.evq1, evWait := t.evWait }

theorem CacheOnly.refl (s : State) : CacheOnly s s := ⟨rfl⟩

theorem CacheOnly.trans {s t u : State} (h : CacheOnly s t) (g : CacheOnly t u) : CacheOnly s u :=
  ⟨g.eq.trans (congrArg (fun v : State => { v with dram := u.dram, gkey := u.gkey, poison := u.poison, msc := u.msc, free := u.free
                                                   evq0 := u.evq0, evq1 := u.evq1, evWait := u.evWait }) h.eq)⟩

theorem CacheOnly.foldl {α : Type} {f : State → α → State} (h : ∀ s e, CacheOnly s (f s e)) (l : List α) (s : State) :
    CacheOnly s (l.foldl f s) :=
  l.foldlRecOn f (CacheOnly.refl s) fun _ hb e _ => hb.trans (h _ e)

/-- Steps that carry more than the state. -/
theorem CacheOnly.foldl_fst {α β : Type} {f : State × β → α → State × β} (h : ∀ a e, CacheOnly a.1 (f a e).1) (l : List α)
    (a : State × β) : CacheOnly a.1 (l.foldl f a).1 :=
  l.foldlRecOn (motive := fun b => CacheOnly a.1 b.1) f (CacheOnly.refl a.1) fun _ hb e _ => hb.trans (h _ e)

theorem cacheOnly_setMsc (s : State) (m : Tab MscSector) : CacheOnly s { s with msc := m } := ⟨rfl⟩

theorem cacheOnly_cleanSector (s : State) (sec : Nat) : CacheOnly s (cleanSector s sec) := by
  obtain ⟨d, g, p, m, h, -⟩ := cleanSector_eq s sec
  rw [h]
  exact ⟨rfl⟩

theorem cacheOnly_evictSector (s : State) (sec : Nat) : CacheOnly s (evictSector s sec) :=
  (cacheOnly_cleanSector s sec).trans (cacheOnly_setMsc _ _)

theorem cacheOnly_mscRoom (s : State) (sec : Nat) : CacheOnly s (mscRoom s sec) := by
  simp only [mscRoom]
  split
  · exact .refl s
  · exact CacheOnly.trans ⟨rfl⟩ (.foldl (fun s _ => cacheOnly_evictSector s _) _ _)

theorem cacheOnly_fill (s : State) (ctx sec : Nat) (nt : Bool) : CacheOnly s (loadSector.fill ctx sec nt s).1 :=
  (cacheOnly_mscRoom s sec).trans (cacheOnly_setMsc _ _)

theorem cacheOnly_loadSector (s : State) (ctx sec : Nat) (nt : Bool) : CacheOnly s (loadSector s ctx sec nt).1 := by
  unfold loadSector
  split
  · split
    · exact .refl s
    · exact (cacheOnly_evictSector s sec).trans (cacheOnly_fill _ ctx sec nt)
  · exact cacheOnly_fill s ctx sec nt

theorem cacheOnly_memRead (s : State) (ctx a n : Nat) (nt : Bool) : CacheOnly s (memRead s ctx a n nt).1 := by
  refine CacheOnly.foldl_fst (β := List (Nat × MscSector)) ?_ (sectorsOf a n) (s, [])
  exact fun a sec => cacheOnly_loadSector a.1 ctx sec nt

theorem cacheOnly_memWrite (s : State) (ctx : Nat) (cells : List (Nat × Byte)) (nt : Bool) : CacheOnly s (memWrite s ctx cells nt).1 := by
  refine CacheOnly.foldl_fst (β := List Nat) ?_ ((cells.map (fun c => c.1 / 64)).eraseDups) (s, [])
  exact fun a sec => (cacheOnly_loadSector a.1 ctx sec nt).trans (cacheOnly_setMsc _ _)

theorem cacheOnly_poisonEvent (s : State) (g : Nat) (org : W32) : CacheOnly s (poisonEvent s g org) := by
  obtain ⟨a, b, q, h⟩ := post_eq s (dieOfStack (stackOf (32 * g))) { typ := 0x06, value := org, addr := w64 (32 * g) }
  rw [poisonEvent, h]
  exact ⟨rfl⟩

theorem cacheOnly_memStore (s : State) (ctx : Nat) (cells : List (Nat × Byte)) (nt : Bool) (org : W32) :
    CacheOnly s (memStore s ctx cells nt org) :=
  (cacheOnly_memWrite s ctx cells nt).trans (.foldl (fun s g => cacheOnly_poisonEvent s g org) _ _)

theorem cacheOnly_viewByte (s : State) (ctx a : Nat) : CacheOnly s (viewByte s ctx a).1 := by
  unfold viewByte
  split
  · exact .refl s
  · exact cacheOnly_memRead _ _ _ _ _

theorem cacheOnly_viewStore (s : State) (ctx a : Nat) (v : Byte) (org : W32) : CacheOnly s (viewStore s ctx a v org) := by
  unfold viewStore
  split
  · exact .refl s
  · exact (cacheOnly_memRead _ _ _ _ _).trans (cacheOnly_memStore _ _ _ _ _)

theorem cacheOnly_devRead (s : State) (ctx a n : Nat) (nt : Bool) : CacheOnly s (devRead s ctx a n nt).1 := by
  unfold devRead
  split
  · exact cacheOnly_memRead s ctx a n nt
  · refine CacheOnly.foldl_fst (β := List Byte × List Nat) ?_ (List.range n) (s, [], [])
    exact fun b i => cacheOnly_viewByte b.1 ctx (a + i)

theorem cacheOnly_devWrite (s : State) (ctx : Nat) (cells : List (Nat × Byte)) (nt : Bool) (org : W32) :
    CacheOnly s (devWrite s ctx cells nt org) := by
  unfold devWrite
  split
  · exact .refl s
  · split
    · exact cacheOnly_memStore s ctx _ nt org
    · refine CacheOnly.foldl ?_ _ s
      exact fun s e => cacheOnly_viewStore s ctx e.1 e.2 org

/-- A held operation is applied to memory alone (R218). -/
theorem cacheOnly_applyHeld (s : State) (h : HeldOp) : CacheOnly s (applyHeld s h) := by
  have hread := cacheOnly_devRead s (entCtx (frameEntry s (stackOf h.addr) (frameOf h.addr))) h.addr 4 false
  simp only [applyHeld]
  split
  · exact hread.trans (cacheOnly_poisonEvent _ _ _)
  · split
    · exact hread.trans (cacheOnly_devWrite _ _ _ _ _)
    · exact hread

/-! ### Cleaning the cache (R209) -/

/-- A sector of the cache needs no writing back. -/
def isClean (s : State) (n : Nat) : Prop := ∀ e, tget? s.msc n = some e → e.dirty = false

theorem isClean_cleanSector (s : State) (sec : Nat) : isClean (cleanSector s sec) sec := by
  intro e he
  unfold cleanSector at he
  split at he
  next f hf =>
    split at he
    · rw [tget?_tset_same, Option.some.injEq] at he
      rw [← he]
    next hd =>
      rw [hf, Option.some.injEq] at he
      rw [← he]
      exact Bool.eq_false_iff.2 hd
  next hf =>
    rw [hf] at he
    cases he

theorem isClean_cleanSector_of_clean {s : State} {n : Nat} (h : isClean s n) (sec : Nat) : isClean (cleanSector s sec) n := by
  by_cases hn : n = sec
  · rw [hn]
    exact isClean_cleanSector s sec
  · obtain ⟨d, g, p, m, e, hm⟩ := cleanSector_eq s sec
    rw [e]
    exact fun f hf => h f ((hm n hn).symm.trans hf)

theorem isClean_foldl {n : Nat} (l : List Nat) {s : State} (h : n ∈ l ∨ isClean s n) : isClean (l.foldl cleanSector s) n := by
  induction l generalizing s with
  | nil => exact h.resolve_left List.not_mem_nil
  | cons a l ih =>
    refine ih ?_
    obtain hm | hc := h
    · obtain rfl | hl := List.mem_cons.1 hm
      · exact .inr (isClean_cleanSector s n)
      · exact .inl hl
    · exact .inr (isClean_cleanSector_of_clean hc a)

theorem mem_of_tget? {α : Type} {t : Tab α} {k : Nat} {v : α} (h : tget? t k = some v) : (k, v) ∈ t := by
  induction t with
  | nil => cases h
  | cons e t ih =>
    obtain ⟨j, w⟩ := e
    rw [tget?] at h
    split at h
    next hj =>
      cases h
      rw [hj]
      exact List.mem_cons_self
    · exact List.mem_cons_of_mem _ (ih h)

/-- Every sector is clean once the dirty ones have been written back. -/
theorem isClean_cleanAll (s : State) (n : Nat) : isClean (cleanAll s (fun _ _ => true)) n := by
  have hfold : cleanAll s (fun _ _ => true) = ((s.msc.filter (fun e => e.2.dirty && true)).map (·.1)).foldl cleanSector s := by
    rw [cleanAll, List.foldl_map]
  rw [hfold]
  refine isClean_foldl _ ?_
  by_cases hc : isClean s n
  · exact .inr hc
  · simp only [isClean, not_forall] at hc
    obtain ⟨e, he, hd⟩ := hc
    exact .inl (List.mem_map.2 ⟨(n, e), List.mem_filter.2 ⟨mem_of_tget? he, by simpa using hd⟩, rfl⟩)

theorem cacheOnly_cleanAll (s : State) (p : Nat → MscSector → Bool) : CacheOnly s (cleanAll s p) := by
  refine CacheOnly.foldl ?_ _ s
  exact fun s e => cacheOnly_cleanSector s e.1

end Sys2Proof.Machine

/-! ## Waits, orders and held operations (R92, R209, R218, R225, R280) -/

namespace Sys2Proof.Machine

/-! ### A wait reads its words again (R92) -/

/-- The request of which a wait's reads are copies. -/
def waitRead (cr : Crew) (c k : Nat) (w : Wait) : Req :=
  { id := 0, word := w.id, uid := cr.uid, core := c, slot := k, ts := cr.ts, res := w.res, acc := .wait w.id, space := if w.sp then 1 else 0
    tgt := c, ctx := cr.ctx, width := if w.w64 then 8 else 4, line := 0, pieces := [], atom := w.kind == 1, pc := w.pc, len := w.len
    stage := if w.sp then .scratch else .look }

/-- The lines that a wait reads. -/
def waitLines (c : Nat) (w : Wait) : List (Nat × List Piece) :=
  lineGroups false ((lanesOf w.lanes).map (fun l => { lane := l, addr := (tget 0 w.addrs l).toNat, n := if w.w64 then 8 else 4, tgt := c }))

theorem askWait_eq (s : State) (c k : Nat) (w : Wait) :
    askWait s c k w = pump (addReqs s (waitRead (s.crew c k) c k w) (waitLines c w)).2 c := rfl

/-- The reads of a wait stand behind the other requests. -/
theorem askWait_asks (s : State) (c k : Nat) (w : Wait) : ∃ u new, askWait s c k w = pump u c ∧
    u = { s with reqs := s.reqs ++ new, nextId := u.nextId } ∧ new.map (fun q => (q.line, q.pieces)) = waitLines c w ∧
    ∀ q ∈ new, q.acc = .wait w.id ∧ q.core = c ∧ q.slot = k ∧ q.res = w.res ∧ q.stage = if w.sp then .scratch else .look := by
  obtain ⟨new, hadd, hlines, hlike⟩ := addReqs_eq s (waitRead (s.crew c k) c k w) (waitLines c w)
  refine ⟨_, new, askWait_eq s c k w, by rw [hadd], ?_, fun q hq => ?_⟩
  · have e := congrArg (List.map (fun e : Nat × Nat × Nat × List Piece => (e.2.2.1, e.2.2.2))) hlines
    rw [List.map_map, List.map_map] at e
    exact e.trans (List.map_id _)
  · have h := (hlike q hq).1
    exact ⟨(congrArg Req.acc h :), (congrArg Req.core h :), (congrArg Req.slot h :), (congrArg Req.res h :), (congrArg Req.stage h :)⟩

theorem waitwRecheck_asks {s : State} {c k id : Nat} {w : Wait} (hw : (s.crew c k).waits.find? (fun w => w.id == id) = some w)
    (hh : (s.crew c k).halted = false) (hf : (s.crew c k).frozen = false)
    (hq : ∀ q ∈ s.reqs, q.core = c → q.slot = k → q.acc ≠ .wait id) :
    exec (.waitwRecheck c k id) s = .next (askWait (s.modCrew c k (fun k => { k with
      waits := k.waits.map (fun q => if q.id = id then { q with since := s.clk } else q) })) c k w) := by
  have hi : exec (.waitwRecheck c k id) s = execWaitwRecheck c k id s := rfl
  have hnone : (s.reqs.any (fun r => r.core == c && r.slot == k && r.acc == .wait id)) = false := by
    rw [List.any_eq_false]
    intro q hm h
    simp only [Bool.and_eq_true, beq_iff_eq] at h
    obtain ⟨⟨hc, hk⟩, ha⟩ := h
    exact hq q hm hc hk ha
  simp only [execWaitwRecheck, hw, hnone, hh, hf, Bool.or_self, Bool.false_eq_true, if_false, beq_iff_eq] at hi
  exact hi

/-! ### An order goes on (R209, R225) -/

section
variable {s : State} {c k : Nat} {o : Ord}

/-- Bulk transfers that are all complete have lost no packet. -/
theorem bulkLost_of_fabric {uid before : Nat} (h : fabricOpen s uid before = false) : bulkLost s uid before = false := by
  have hops : opsOpen s uid before true = false := (Bool.or_eq_false_iff.1 h).2
  simp only [opsOpen, bulkLost, List.any_eq_false, List.any_eq_true] at hops ⊢
  rintro e he ⟨q, hq, h⟩
  refine hops e he ⟨q, hq, ?_⟩
  simp only [Bool.and_eq_true] at h ⊢
  obtain ⟨⟨⟨hu, hb⟩, hbulk⟩, -⟩ := h
  refine ⟨⟨⟨hu, hb⟩, by rw [hbulk]; rfl⟩, ?_⟩
  revert hbulk
  unfold CopyOp.isBulk
  cases q.kind <;> decide

/-- Nothing holds an order up: its engines, its writes and, behind an acknowledgement, its packets. -/
structure Unheld (s : State) (c k : Nat) (o : Ord) : Prop where
  engines : enginesOpen s c k o = false
  lost : (s.crew c k).lostWrite = false
  writes : o.rel = true → writesOpen s c k o.lanes o.before = false
  fabric : o.after = .fack → fabricOpen s (s.crew c k).uid o.before = false

theorem Unheld.bulk (h : Unheld s c k o) : ((o.after == .fack || o.engines.getLsbD 0) && bulkLost s (s.crew c k).uid o.before) = false := by
  by_cases hf : fabricOpen s (s.crew c k).uid o.before = false
  · rw [bulkLost_of_fabric hf, Bool.and_false]
  · have hfack : (o.after == .fack) = false := beq_eq_false_iff_ne.2 fun he => hf (h.fabric he)
    have heng : o.engines.getLsbD 0 = false := by
      have he := h.engines
      simp only [enginesOpen, Bool.or_eq_false_iff] at he
      rw [Bool.eq_true_of_not_eq_false hf, Bool.and_true] at he
      obtain ⟨⟨⟨hfabric, -⟩, -⟩, -⟩ := he
      exact hfabric
    rw [hfack, heng]
    rfl

theorem Unheld.nothing_open (h : Unheld s c k o) : (enginesOpen s c k o || (o.rel && writesOpen s c k o.lanes o.before) ||
    (o.after == .fack && fabricOpen s (s.crew c k).uid o.before)) = false := by
  rw [h.engines, Bool.false_or, Bool.or_eq_false_iff, Bool.and_eq_false_imp, Bool.and_eq_false_imp]
  exact ⟨h.writes, fun he => h.fabric (beq_iff_eq.1 he)⟩

theorem orderingComplete_settles {u : State} (hst : (s.crew c k).st = .resident) (hords : (s.crew c k).ords = [o])
    (h : settleOrd s c k o = some u) : exec (.orderingComplete c k) s = .next (pump u c) := by
  have hi : exec (.orderingComplete c k) s = execOrderingComplete c k s := rfl
  simp only [execOrderingComplete, hst, hords, List.findSome?_cons, h, bne_self_eq_false, Bool.false_eq_true, if_false] at hi
  exact hi

/-! ### The clean requests of a release (R209) -/

theorem settleOrd_asks (h : Unheld s c k o) (hrel : o.rel = true) (h5 : o.scope = 5) (hask : o.asked = false) :
    settleOrd s c k o = some (askClean s c k o) := by
  have hopen := h.nothing_open
  rw [hrel, Bool.true_and] at hopen
  simp only [settleOrd, h.bulk, h.lost, hrel, h5, hask, hopen, Bool.true_and, Bool.false_and, Bool.not_false, Bool.false_eq_true, if_false, if_true,
    beq_self_eq_true]

/-- The state once the cache is clean and the chips of the pod instance have been asked. -/
def cleanAsked (s : State) (c k : Nat) : State :=
  (podChips s (s.crew c k)).foldl (fun t chip => sendNote t chip (.cleanAsk c k (s.crew c k).uid)) (cleanAll s (fun _ _ => true))

theorem cleanAsked_asks (s : State) (c k : Nat) : (cleanAsked s c k).cores = s.cores ∧
    (cleanAsked s c k).msc = (cleanAll s (fun _ _ => true)).msc ∧
    (cleanAsked s c k).notes.map (fun m => (m.dst, m.body)) = s.notes.map (fun m => (m.dst, m.body)) ++
      (podChips s (s.crew c k)).map (fun chip => (chip, .cleanAsk c k (s.crew c k).uid)) := by
  have hclean := (cacheOnly_cleanAll s (fun _ _ => true)).eq
  have hbefore : (cleanAll s (fun _ _ => true)).notes = s.notes := (congrArg State.notes hclean :)
  obtain ⟨hsent, hnotes⟩ := sendNotes_eq (fun _ => .cleanAsk c k (s.crew c k).uid) (podChips s (s.crew c k)) (cleanAll s (fun _ _ => true))
  refine ⟨(congrArg State.cores hsent :).trans (congrArg State.cores hclean :), (congrArg State.msc hsent :), ?_⟩
  have h := congrArg (List.map (fun e : Nat × Nat × Body => (e.1, e.2.2))) hnotes
  rw [List.map_append, List.map_map, List.map_map, List.map_map, hbefore] at h
  exact h

/-- What the clean requests leave: the cache is clean, and each of the chips has been asked. -/
theorem askClean_asks (hords : (s.crew c k).ords = [o]) :
    ((askClean s c k o).crew c k).ords = [{ o with asked := true, waitFor := podChips s (s.crew c k) }] ∧
    (∀ n e, tget? (askClean s c k o).msc n = some e → e.dirty = false) ∧
    (askClean s c k o).notes.map (fun m => (m.dst, m.body)) = s.notes.map (fun m => (m.dst, m.body)) ++
      (podChips s (s.crew c k)).map (fun chip => (chip, .cleanAsk c k (s.crew c k).uid)) := by
  obtain ⟨hcores, hmsc, hnotes⟩ := cleanAsked_asks s c k
  have e : askClean s c k o = (cleanAsked s c k).modCrew c k (fun w => { w with
      ords := w.ords.map (fun p => if p == o then { o with asked := true, waitFor := podChips s (s.crew c k) } else p) }) := rfl
  rw [e]
  refine ⟨?_, fun n => ?_, hnotes⟩
  · rw [crew_modCrew_same, crew_of_cores hcores, hords]
    simp
  · have h := isClean_cleanAll s n
    rw [isClean, ← hmsc] at h
    exact h

/-! ### An order that completes (R209, R225, R280) -/

/-- No clean request is due or open. -/
structure Cleaned (s : State) (o : Ord) : Prop where
  asked : o.rel = true → o.scope = 5 → o.asked = true
  answered : ∀ chip ∈ o.waitFor, (s.conn chip).lost = true

theorem Cleaned.ask (h : Cleaned s o) : (o.rel && o.scope == 5 && !o.asked) = false := by
  rw [Bool.and_eq_false_imp, Bool.and_eq_true]
  rintro ⟨hr, h5⟩
  rw [h.asked hr (beq_iff_eq.1 h5)]
  rfl

theorem Cleaned.cleaning (h : Cleaned s o) : cleaning s o = false := by
  rw [Machine.cleaning, List.any_eq_false]
  intro chip hc
  simp [h.answered chip hc]

/-- Threads that are joined leave all but cores and requests. -/
theorem joinEngines_rest (s : State) (c : Nat) (o : Ord) : { joinEngines s c o with cores := s.cores, reqs := s.reqs } = s := by
  unfold joinEngines
  split <;> rfl

theorem crew_joinEngines (s : State) (c : Nat) (o : Ord) (d k : Nat) : (joinEngines s c o).crew d k = s.crew d k := by
  unfold joinEngines
  split
  · exact crew_invalL1 s c d k
  · rfl

theorem readsOpen_invalL1 (s : State) (d c k : Nat) (m : Mask) (before : Nat) : readsOpen (invalL1 s d) c k m before = readsOpen s c k m before := by
  have hreqs : (invalL1 s d).reqs = s.reqs.map (fun r => if r.core == d then { r with noFill := 0xF } else r) := rfl
  simp only [readsOpen, crew_invalL1, hreqs, List.any_map]
  congr 1
  funext r
  simp only [Function.comp_apply]
  split <;> rfl

theorem readsOpen_joinEngines (s : State) (d : Nat) (p : Ord) (c k : Nat) (m : Mask) (before : Nat) :
    readsOpen (joinEngines s d p) c k m before = readsOpen s c k m before := by
  unfold joinEngines
  split
  · exact readsOpen_invalL1 s d c k m before
  · rfl

/-- An order that is over is the crew's no more. -/
theorem ords_dropOrd {t : State} (h : (t.crew c k).ords = [o]) : ((dropOrd t c k o).crew c k).ords = [] := by
  rw [dropOrd, crew_modCrew_same, h]
  simp

theorem settleOrd_fence (h : Unheld s c k o) (g : Cleaned s o) (ha : o.after = .fence)
    (hr : o.acq = true → readsOpen s c k o.lanes o.before = false) : settleOrd s c k o = some (
      if o.acq then acquire (dropOrd (joinEngines s c o) c k o) c k o.scope else dropOrd (joinEngines s c o) c k o) := by
  have hreads : (o.acq && readsOpen s c k o.lanes o.before) = false := by
    rw [Bool.and_eq_false_imp]
    exact hr
  simp only [settleOrd, h.bulk, h.nothing_open, h.lost, g.ask, g.cleaning, Bool.false_and, Bool.false_eq_true, if_false]
  simp only [ha, readsOpen_joinEngines, hreads, Bool.false_eq_true, if_false]

theorem settleOrd_heat (h : Unheld s c k o) (g : Cleaned s o) (ha : o.after = .heat) :
    settleOrd s c k o = some (dropOrd (joinEngines s c o) c k o) := by
  simp only [settleOrd, h.bulk, h.nothing_open, h.lost, g.ask, g.cleaning, Bool.false_and, Bool.false_eq_true, if_false]
  simp only [ha]

theorem settleOrd_irq (h : Unheld s c k o) (g : Cleaned s o) {v : Nat} (ha : o.after = .irq v) :
    settleOrd s c k o = some (dropOrd { joinEngines s c o with msix := (joinEngines s c o).msix ++ [v] } c k o) := by
  simp only [settleOrd, h.bulk, h.nothing_open, h.lost, g.ask, g.cleaning, Bool.false_and, Bool.false_eq_true, if_false]
  simp only [ha]

/-- The job of a launch whose release is complete. -/
def launchJob (s : State) (c k : Nat) (o : Ord) (d : Opd) (a : W64) (wait : Bool) (res : Nat) : Job :=
  { id := (joinEngines s c o).nextId, core := c, slot := k, uid := (s.crew c k).uid, res, d
    kind := .launch [] a.toNat wait (launcherOf (joinEngines s c o) (s.crew c k)) }

theorem settleOrd_launch (h : Unheld s c k o) (g : Cleaned s o) {d : Opd} {a : W64} {wait : Bool} {res : Nat} (ha : o.after = .launch d a wait res) :
    settleOrd s c k o = some (dropOrd { (joinEngines s c o).fresh.2 with
      jobs := (joinEngines s c o).jobs ++ [launchJob s c k o d a wait res] } c k o) := by
  simp only [settleOrd, h.bulk, h.nothing_open, h.lost, g.ask, g.cleaning, Bool.false_and, Bool.false_eq_true, if_false]
  simp only [ha]
  rfl

theorem ords_dropOrd_of_cores {t : State} (hords : (s.crew c k).ords = [o]) (ht : t.cores = (joinEngines s c o).cores) :
    ((dropOrd t c k o).crew c k).ords = [] :=
  ords_dropOrd (by rw [crew_of_cores ht, crew_joinEngines, hords])

theorem crew_acquire (t : State) (scope : Nat) (d j : Nat) : (acquire t c k scope).crew d j = t.crew d j := by
  simp only [acquire, apply_ite (fun u : State => u.crew d j), crew_invalL1, ite_self]

/-- An acquire at cluster scope or a wider one empties the L1 (R209). -/
theorem l1_acquire (t : State) {scope : Nat} (h : 2 ≤ scope) : ((acquire t c k scope).core c).l1 = [] := by
  have h' : 2 ≤ if ((t.crew c k).guest.isSome && decide (scope ≤ 2) && decide (1 ≤ scope)) = true then 3 else scope := by
    split
    · decide
    · exact h
  rw [acquire, if_pos h']
  exact l1_invalL1 t c

theorem fence_completes (h : Unheld s c k o) (g : Cleaned s o) (hst : (s.crew c k).st = .resident) (hords : (s.crew c k).ords = [o])
    (ha : o.after = .fence) (hr : o.acq = true → readsOpen s c k o.lanes o.before = false) :
    ∃ u, exec (.orderingComplete c k) s = .next (pump u c) ∧ (u.crew c k).ords = [] ∧
      (o.acq = true → 2 ≤ o.scope → (u.core c).l1 = []) := by
  have hdrop := ords_dropOrd_of_cores (t := joinEngines s c o) hords rfl
  refine ⟨_, orderingComplete_settles hst hords (settleOrd_fence h g ha hr), ?_, fun hacq h2 => ?_⟩
  · split
    · rwa [crew_acquire]
    · exact hdrop
  · rw [if_pos hacq]
    exact l1_acquire _ h2

theorem modCrew_congr {f g : Crew → Crew} (h : f (s.crew c k) = g (s.crew c k)) : s.modCrew c k f = s.modCrew c k g :=
  congrArg (fun w => s.setCore c ((s.core c).setCrew k w)) h

theorem heat_completes (h : Unheld s c k o) (g : Cleaned s o) (hst : (s.crew c k).st = .resident) (hords : (s.crew c k).ords = [o])
    (ha : o.after = .heat) (h0 : o.engines = 0) :
    ∃ u, exec (.orderingComplete c k) s = .next (pump u c) ∧ (u.crew c k).ords = [] ∧ u = s.modCrew c k (fun w => { w with ords := [] }) := by
  have hjoin : joinEngines s c o = s := by
    rw [joinEngines, ha, h0]
    rfl
  have hs := settleOrd_heat h g ha
  rw [hjoin] at hs
  refine ⟨_, orderingComplete_settles hst hords hs, ords_dropOrd hords, modCrew_congr ?_⟩
  rw [hords]
  simp

theorem irq_completes (h : Unheld s c k o) (g : Cleaned s o) (hst : (s.crew c k).st = .resident) (hords : (s.crew c k).ords = [o])
    {v : Nat} (ha : o.after = .irq v) :
    ∃ u, exec (.orderingComplete c k) s = .next (pump u c) ∧ (u.crew c k).ords = [] ∧ u.msix = s.msix ++ [v] :=
  ⟨_, orderingComplete_settles hst hords (settleOrd_irq h g ha), ords_dropOrd_of_cores hords rfl,
    congrArg (· ++ [v]) (congrArg State.msix (joinEngines_rest s c o) :)⟩

theorem launch_completes (h : Unheld s c k o) (g : Cleaned s o) (hst : (s.crew c k).st = .resident) (hords : (s.crew c k).ords = [o])
    {d : Opd} {a : W64} {wait : Bool} {res : Nat} (ha : o.after = .launch d a wait res) :
    ∃ u, exec (.orderingComplete c k) s = .next (pump u c) ∧ (u.crew c k).ords = [] ∧
      ∃ j, u.jobs = s.jobs ++ [j] ∧ j.core = c ∧ j.slot = k ∧ j.res = res ∧ j.d = d ∧
        j.kind = .launch [] a.toNat wait (launcherOf s (s.crew c k)) := by
  have hgrids : (joinEngines s c o).grids = s.grids := (congrArg State.grids (joinEngines_rest s c o) :)
  have hlauncher : launcherOf (joinEngines s c o) (s.crew c k) = launcherOf s (s.crew c k) := by
    simp only [launcherOf, grid_of_grids hgrids]
  refine ⟨_, orderingComplete_settles hst hords (settleOrd_launch h g ha), ords_dropOrd_of_cores hords rfl,
    launchJob s c k o d a wait res, congrArg (· ++ [_]) (congrArg State.jobs (joinEngines_rest s c o) :), rfl, rfl, rfl, rfl, ?_⟩
  rw [launchJob, hlauncher]

end

/-! ### Held operations (R218) -/

theorem closeFill_leaves (s : State) (res : Nat) : (closeFill s res).reqs = s.reqs ∧ (closeFill s res).stks = s.stks := by
  have hfill (s : State) (c k id : Nat) (wr : List Wr) : (fillResult s c k id wr).reqs = s.reqs ∧ (fillResult s c k id wr).stks = s.stks := by
    unfold fillResult
    split <;> exact ⟨rfl, rfl⟩
  unfold closeFill
  split
  · exact ⟨rfl, rfl⟩
  · split
    · exact hfill _ _ _ _ _
    · exact ⟨rfl, rfl⟩

/-- A request that is taken away is gone. -/
theorem dropReq_gone (s : State) (r : Req) : (∀ q ∈ (dropReq s r).reqs, q.id ≠ r.id) ∧ (dropReq s r).stks = s.stks := by
  obtain ⟨hreqs, hstks⟩ := closeFill_leaves { s with reqs := s.reqs.filter (fun q => !(q.id == r.id)),
                                                         ghosts := s.ghosts.filter (fun e =>
                                                           (s.reqs.filter (fun q => !(q.id == r.id))).any (fun q => q.uid == e.1)) } r.res
  refine ⟨fun q hq => ?_, hstks⟩
  rw [dropReq, hreqs] at hq
  have h := (List.mem_filter.1 hq).2
  rw [Bool.not_eq_true', beq_eq_false_iff_ne] at h
  exact h

theorem held_modStack {f : Stack → Stack} (hf : ∀ k, (f k).held = k.held) (s : State) (n m : Nat) :
    ((s.modStack n f).stack m).held = (s.stack m).held := by
  by_cases hm : m = n
  · rw [hm, stack_modStack_same, hf]
  · rw [State.stack, State.modStack, tget_tset_ne _ _ _ hm]
    rfl

/-- Counting an access leaves what a stack holds. -/
theorem held_track (s : State) (r : Req) (m : Nat) : ((track s r).stack m).held = (s.stack m).held := by
  have hcount (n f g chip : Nat) (b : Bool) : ((trackAccess s n f g chip b).stack m).held = (s.stack m).held :=
    held_modStack (fun k => by simp only [apply_ite Stack.held, ite_self]) s n m
  unfold track
  split
  · split
    · rfl
    · exact hcount _ _ _ _ _
  · rfl

/-- A held operation, but for whether it stands in the hold region. -/
def HeldOp.what (h : HeldOp) : Key × Nat × Nat × RmwFn × W32 := (h.key, h.grid, h.addr, h.fn, h.value)

/-- Entries that are appended one by one, each made of one of a list, stand in its order. -/
theorem foldl_append_single {α β : Type} {g : List α → α → α} {p : α → β} (hp : ∀ t h, p (g t h) = p h) (l t : List α) :
    ∃ new, l.foldl (fun t h => t ++ [g t h]) t = t ++ new ∧ new.map p = l.map p := by
  induction l generalizing t with
  | nil => exact ⟨[], (List.append_nil t).symm, rfl⟩
  | cons h l ih =>
    obtain ⟨new, e, hnew⟩ := ih (t ++ [g t h])
    refine ⟨g t h :: new, ?_, ?_⟩
    · rw [List.foldl_cons, e, List.append_assoc]
      rfl
    · rw [List.map_cons, List.map_cons, hnew, hp]

theorem holdOps_adds (s : State) (m : Nat) (l : List HeldOp) :
    ∃ new, ((holdOps s m l).stack m).held = (s.stack m).held ++ new ∧ new.map HeldOp.what = l.map HeldOp.what := by
  rw [holdOps, stack_modStack_same]
  exact foldl_append_single (g := fun t h => { h with spilled := decide (Config.holdEntries ≤ (t.filter (fun q => !q.spilled)).length) })
    (p := HeldOp.what) (fun _ _ => rfl) l (s.stack m).held

/-- The operation of a piece at its slice (R218). -/
def heldOf (s : State) (r : Req) (fn : RmwFn) (p : Piece) : HeldOp :=
  let t := s.team r.core r.ts
  { key := p.key.getD { heat := 0, team := t.index, lane := p.lane, seq := 0 }, grid := t.grid, addr := devOf r p.addr, fn
    value := p.b.setWidth 32, chip := if t.guest then t.homeChip else s.chipid, core := r.core, slot := r.slot }

/-- Lists that agree under two functions agree pair by pair. -/
theorem map_eq_of_mem_zip {α β γ : Type} {f : α → γ} {g : β → γ} {l : List α} {m : List β} (h : l.map f = m.map g) :
    ∀ e ∈ l.zip m, f e.1 = g e.2 := by
  induction l generalizing m with
  | nil => exact fun e he => by cases he
  | cons a l ih =>
    cases m with
    | nil => exact fun e he => by cases he
    | cons b m =>
      obtain ⟨hab, hlm⟩ := List.cons.inj h
      intro e he
      obtain rfl | he := List.mem_cons.1 he
      · exact hab
      · exact ih hlm e he

theorem findReq_id {s : State} {id : Nat} {r : Req} (h : findReq s id = some r) : r.id = id := by
  have hp := List.find?_some h
  exact beq_iff_eq.1 hp

theorem redfAtSlice_holds {s : State} {id : Nat} {r : Req} {fn : RmwFn} {t : Trans} {c m f : Nat} (hr : findReq s id = some r)
    (hacc : r.acc = .redf fn true) (hown : r.owner = some (.dram c m f)) (htr : r.tr = some t) (hfw : t.fw = false) (hs : served s r = true) :
    ∃ u, exec (.redfAtSlice id) s = .next (pump u r.core) ∧ (∀ q ∈ u.reqs, q.id ≠ id) ∧
      ∃ new, (u.stack m).held = (s.stack m).held ++ new ∧ new.map (fun h => (h.addr, h.value, h.fn, h.grid)) =
        r.pieces.map (fun p => (m * 2 ^ 36 + f * 2 ^ 16 + p.addr % 65536, p.b.setWidth 32, fn, (s.team r.core r.ts).grid)) ∧
        ∀ e ∈ new.zip r.pieces, ∀ y, e.2.key = some y → e.1.key = y := by
  have hi : exec (.redfAtSlice id) s = execRedfAtSlice id s := rfl
  simp only [execRedfAtSlice, hr, hacc, hown, hs, Bool.not_true, Bool.false_eq_true, if_false] at hi
  obtain ⟨hgone, hstks⟩ := dropReq_gone (holdOps (track s r) m (r.pieces.map (heldOf s r fn))) r
  obtain ⟨new, hheld, hwhat⟩ := holdOps_adds (track s r) m (r.pieces.map (heldOf s r fn))
  rw [held_track] at hheld
  refine ⟨_, hi, ?_, new, ?_, ?_, ?_⟩
  · rw [← findReq_id hr]
    exact hgone
  · rw [← hheld]
    exact congrArg (fun l => (tget ({} : Stack) l m).held) hstks
  · have h := congrArg (List.map (fun e : Key × Nat × Nat × RmwFn × W32 => (e.2.2.1, e.2.2.2.2, e.2.2.2.1, e.2.1))) hwhat
    rw [List.map_map, List.map_map, List.map_map] at h
    have hdev (p : Piece) : devOf r p.addr = m * 2 ^ 36 + f * 2 ^ 16 + p.addr % 65536 := by
      simp only [devOf, htr, hown, hfw, Bool.false_eq_true, if_false, devAddr]
    simp only [← hdev]
    exact h
  · have h := congrArg (List.map (fun e : Key × Nat × Nat × RmwFn × W32 => e.1)) hwhat
    rw [List.map_map, List.map_map, List.map_map] at h
    intro e he y hy
    have hkey : e.1.key = (heldOf s r fn e.2).key := map_eq_of_mem_zip h e he
    rw [hkey, heldOf, hy]
    rfl

/-! ### The watermark (R218) -/

/-- Stacks `ns` have given up their ripe operations; the grids stay. -/
structure Ripened (g : Nat) (s t : State) (ns : List Nat) : Prop where
  grids : t.grids = s.grids
  chip : t.chipid = s.chipid
  held : ∀ m, (t.stack m).held = if m ∈ ns then (s.stack m).held.filter (fun h => !(ripe s g h)) else (s.stack m).held

theorem Ripened.ripe {g : Nat} {s t : State} {ns : List Nat} (h : Ripened g s t ns) : Machine.ripe t g = Machine.ripe s g := by
  funext q
  rw [Machine.ripe, Machine.ripe, grid_of_grids h.grids, h.chip]

theorem ripened_applyRipe (g n : Nat) (s : State) : Ripened g s (applyRipe g s n) [n] := by
  have h := (CacheOnly.foldl cacheOnly_applyHeld (((s.stack n).held.filter (ripe s g)).foldl (fun l h => insertHeld h l) [])
    (s.modStack n (fun k => { k with held := k.held.filter (fun h => !(ripe s g h)) }))).eq
  refine ⟨(congrArg State.grids h :), (congrArg State.chipid h :), fun m => ?_⟩
  have hstks : (applyRipe g s n).stks = (s.modStack n (fun k => { k with held := k.held.filter (fun h => !(ripe s g h)) })).stks :=
    (congrArg State.stks h :)
  rw [State.stack, hstks]
  by_cases hm : m = n
  · subst hm
    rw [if_pos (List.mem_singleton_self m)]
    exact congrArg Stack.held (stack_modStack_same s m _)
  · rw [if_neg (mt List.mem_singleton.1 hm)]
    exact congrArg Stack.held (tget_tset_ne _ _ _ hm)

theorem ripened_foldl (g : Nat) (ns : List Nat) (s : State) : Ripened g s (ns.foldl (applyRipe g) s) ns := by
  induction ns generalizing s with
  | nil => exact ⟨rfl, rfl, fun _ => rfl⟩
  | cons n ns ih =>
    have first := ripened_applyRipe g n s
    have rest := ih (applyRipe g s n)
    refine ⟨rest.grids.trans first.grids, rest.chip.trans first.chip, fun m => ?_⟩
    rw [List.foldl_cons, rest.held, first.ripe, first.held]
    by_cases hm : m = n
    · simp [hm]
    · simp [hm]

theorem watermarkBroadcast_applies {s : State} {g : Nat} (h2 : (s.grid g).state = 2) (hh : (s.grid g).heat < (s.grid g).lr.heats)
    (hw : (s.grid g).watermark < watermarkOf s g) : Completes (.watermarkBroadcast g) s fun t =>
      (t.grid g).watermark = watermarkOf s g ∧ ∀ m h, m < 8 → (h ∈ (t.stack m).held ↔ h ∈ (s.stack m).held ∧
        ¬(h.grid = g ∧ h.chip = s.chipid ∧ h.key.team < watermarkOf s g)) := by
  have hi : exec (.watermarkBroadcast g) s = execWatermarkBroadcast g s := rfl
  rw [execWatermarkBroadcast] at hi
  have e := hi.trans (if_pos (by simp [h2, hh, hw]))
  have hgrid := grid_modGrid_same s g (fun d => { d with watermark := watermarkOf s g })
  obtain ⟨hgrids, -, hheld⟩ := ripened_foldl g (List.range Config.nStacks) (s.modGrid g (fun d => { d with watermark := watermarkOf s g }))
  refine ⟨_, e, ?_, fun m h hm => ?_⟩
  · rw [grid_of_grids hgrids, hgrid]
  · have hripe : ripe (s.modGrid g (fun d => { d with watermark := watermarkOf s g })) g h = true ↔
        h.grid = g ∧ h.chip = s.chipid ∧ h.key.team < watermarkOf s g := by
      rw [ripe, hgrid]
      simp only [Bool.and_eq_true, beq_iff_eq, decide_eq_true_iff, and_assoc]
      rfl
    have hmem : m ∈ List.range Config.nStacks := List.mem_range.2 hm
    rw [hheld, if_pos hmem, List.mem_filter, Bool.not_eq_true', ← Bool.not_eq_true, hripe]
    rfl

/-! ### The statement -/

/-- Settles O41: each event as its lemma says; nothing that an order's checks ask about differs once its threads are joined. -/
theorem orderEvents : Obligations.OrderEvents := by
  refine ⟨?_, ?_, fun s id r fn t c m f hr hacc hown htr hfw hs => redfAtSlice_holds hr hacc hown htr hfw hs,
    fun s g => watermarkBroadcast_applies⟩
  · intro s c k id w hw hh hf hq again
    obtain ⟨u, new, e, hu⟩ := askWait_asks (s.modCrew c k (fun k => { k with waits := k.waits.map again })) c k w
    exact ⟨u, new, (waitwRecheck_asks hw hh hf hq).trans (congrArg _ e), hu⟩
  · intro s c k o w hst hords heng hlost hwr
    refine ⟨fun hrel h5 hask hfab => ?_, fun hasked hans => ?_⟩
    · exact ⟨_, orderingComplete_settles hst hords (settleOrd_asks ⟨heng, hlost, hwr, hfab⟩ hrel h5 hask), askClean_asks hords⟩
    · have hun (hne : o.after ≠ .fack) : Unheld s c k o := ⟨heng, hlost, hwr, fun hf => absurd hf hne⟩
      have hclean : Cleaned s o := ⟨hasked, hans⟩
      exact ⟨fun ha hr => fence_completes (hun (by simp [ha])) hclean hst hords ha hr,
        fun ha h0 => heat_completes (hun (by simp [ha])) hclean hst hords ha h0,
        fun v ha => irq_completes (hun (by simp [ha])) hclean hst hords ha,
        fun d a wait res ha => launch_completes (hun (by simp [ha])) hclean hst hords ha⟩

end Sys2Proof.Machine

/-! ## Predicate moves and uniform words (R116, R121) -/

namespace Sys2Proof.Machine

section
variable {w : Op} {s : State} {x : Ctx}

/-! ### Values -/

theorem bit_toNat {n : Nat} (m : BitVec n) (i : Nat) : bit m.toNat i = m.getLsbD i := by
  rw [bit, BitVec.getLsbD, Nat.testBit_eq_decide_div_mod_eq, beq_eq_decide]

/-- A mask as a number has the bits of its lanes. -/
theorem bit_maskOf {ls : List Nat} {i : Nat} (hi : i < 32) : bit (maskOf ls).toNat i = true ↔ i ∈ ls := by
  rw [bit_toNat, getLsbD_maskOf ls i hi, List.contains_iff_mem]

/-- An integer source as TYPE reads it: signed for .i32 and .i64, unsigned for .n32 and .n64. -/
theorem intOf_elem {ty : Nat} (hty : ty ∈ [11, 12, 15, 16]) (n : Nat) :
    intOf (signedTy ty) (elemW ty) n = if ty = 12 then signedOf 64 n else if ty = 11 then signedOf 32 n else n := by
  simp only [List.mem_cons, List.not_mem_nil, or_false] at hty
  rcases hty with rfl | rfl | rfl | rfl <;> simp [intOf, signedTy, elemW]

/-- The condition codes of R105 on integers are those that M names. -/
theorem compare_eq_intTest {ty m : Nat} (hty : ty ∈ [11, 12, 15, 16]) (hm : m < 6) (a b : Nat) :
    compare ty m a b = intTest ty m a b := by
  simp only [compare, intTest, intOf_elem hty]
  interval_cases m <;> simp [cond, bne, beq_eq_decide]

/-! ### Lane words -/

/-- A word of R116 gives its function of A and B, each negated where M says so. -/
theorem gives_predWord {i : Instr} {f : Bool → Bool → Bool} (h : Ready s x w {} (uniformProducing w)) (hi : exec i s = predWord w f s) :
    Gives i s x w {} 2 (uniformProducing w) fun _ a b _ v => v = b2n (f ((a != 0) != w.mb 0) ((b != 0) != w.mb 1)) :=
  gives_lane h hi (fun _ _ _ _ _ _ => rfl) fun _ _ => rfl

/-- P2V gives the lane's bit, or the lanes in which the predicate holds. -/
theorem gives_p2v (h : Ready s x w {} (uniformProducing w)) : Gives (.p2v w) s x w {} 2 (uniformProducing w) fun _ a _ _ v =>
    if w.mb 0 then ∀ i, i < 32 → (bit v i = true ↔ i ∈ lanesOf x.on ∧ rd s x 0 w.a i ≠ 0) else v = a := by
  refine gives_lane (f := fun x s _ a _ _ =>
    if w.mb 0 then (maskOf ((lanesOf x.on).filter (fun l => rd s x 0 w.a l != 0))).toNat else a) h rfl ?_ ?_
  · intro s' hr l a b c
    simp only [hr.rd]
  · intro l _
    by_cases hm : w.mb 0 = true
    · simp only [if_pos hm]
      intro i hi
      rw [bit_maskOf hi, List.mem_filter, bne_iff_ne]
    · simp only [if_neg hm]

theorem gives_ucmp (h : Ready s x w {} (uniformProducing w)) (hty : w.ty ∈ [11, 15]) (hm : w.m < 6) :
    Gives (.ucmp w) s x w {} 2 (uniformProducing w) fun _ a b _ v => v = b2n (intTest w.ty w.m a b) := by
  have hty' : w.ty ∈ [11, 12, 15, 16] := by
    simp only [List.mem_cons, List.not_mem_nil, or_false] at hty ⊢
    omega
  refine gives_lane h (show exec (.ucmp w) s = execUcmp w s from rfl) (fun _ _ _ _ _ _ => rfl) fun _ _ => ?_
  rw [compare_eq_intTest hty' hm]

/-! ### UMOV -/

/-- A run of uniform registers within the file is written register by register, with the words of the lowest executing lane. -/
theorem wrRun_uniform (hx : x.on ≠ 0) (comp : Bool) {r : BitVec 9} {n : Nat} (hn : r.toNat + n ≤ 512) (val : Nat → List W32) :
    wrRun x comp (.u r) n val = (List.range n).map (fun i => Wr.u (r.toNat + i) ((val x.low).getD i 0)) := by
  have hon : (x.on == 0) = false := by simpa using hx
  rw [List.map_eq_flatMap]
  refine List.flatMap_congr fun i hi => ?_
  have hlt : r.toNat + i < 2 ^ 9 := by
    have := List.mem_range.1 hi
    omega
  simp only [nextReg, wrOf, hon, BitVec.toNat_ofNat, Nat.mod_eq_of_lt hlt]
  rfl

/-- UMOV reads the whole run before its result writes any of it. -/
theorem umov_copies {r q : BitVec 9} {n : Nat} (h : Issues s w [] false x) (hd : w.d = .u r) (ha : w.a = .u q)
    (hn : n = 2 ^ w.opt * (if w.w64 then 2 else 1)) (hr : r.toNat + n ≤ 512) :
    Completes (.umov w) s fun t =>
      Leaves s t x 2 ((List.range n).map (fun i => Wr.u (r.toNat + i) (readU s x (q.toNat + i)))) ∧
      OnlyResult s t x (lastRegs x.h w 1 1 1) := by
  have hpos : 0 < n := by
    rw [hn]
    split <;> positivity
  have hwr : wrRun x false w.d n (fun _ => rdRun (begun s { w } x []) x w.a n 0) =
      (List.range n).map (fun i => Wr.u (r.toNat + i) (readU s x (q.toNat + i))) := by
    rw [hd, wrRun_uniform h.on false hr]
    refine List.map_congr_left fun i hi => ?_
    have hlt : i < n := List.mem_range.1 hi
    rw [(readsAs_begun s { w } x).rdRun, ha]
    simp [rdRun, hlt]
  obtain ⟨t, hnext, hleaves, hkeeps⟩ := issue_fixedResult (p := { w }) h 2 (fun s => wrRun x false w.d n (fun _ => rdRun s x w.a n 0))
    (fun _ => []) (body := fun x s => fixedResult s x 2 (wrRun x false w.d n (fun _ => rdRun s x w.a n 0)))
    (by rw [hwr]; simpa using hpos.ne') rfl
  refine ⟨t, ?_, hwr ▸ hleaves, by rwa [List.append_nil] at hkeeps⟩
  rw [← hnext]
  show execUmov w s = _
  rw [execUmov, hn, ha]

end

/-- Settles O7: each word on lanes gives its function of its sources; UMOV leaves one result for the whole run that it has read. -/
theorem predicatesAndUniform : Obligations.PredicatesAndUniform := by
  refine ⟨fun w s x h => ?_, fun w s x r q h hd ha hr _ => umov_copies h hd ha rfl hr⟩
  refine ⟨gives_ucmp h, gives_predWord h rfl, gives_predWord h rfl, gives_predWord h rfl, ?pnot, gives_p2v h, ?v2p, ?uloop, ?uand⟩
  case pnot => exact gives_lane h (show exec (.pnot w) s = execPnot w s from rfl) (fun _ _ _ _ _ _ => rfl) fun _ _ => rfl
  case v2p => exact gives_lane h (show exec (.v2p w) s = execV2p w s from rfl) (fun _ _ _ _ _ _ => rfl) fun _ _ => rfl
  case uloop => exact gives_lane h (show exec (.uloop w) s = execUloop w s from rfl) (fun _ _ _ _ _ _ => rfl) fun _ _ => rfl
  case uand => exact gives_lane h (show exec (.uand w) s = execUand w s from rfl) (fun _ _ _ _ _ _ => rfl) fun _ _ => rfl

end Sys2Proof.Machine

/-! ## Float words: what each executing lane gives (R141) -/

namespace Sys2Proof.Machine

section
variable {i : Instr} {w : Op} {s : State} {x : Ctx} {base wd wa : Nat} {comp : Bool} {val : Ctx → State → FpEnv → Nat → FRes}

/-- A float word with a fixed latency completes with what its lanes give, reading their sources as they stand before it. -/
theorem completes_floatWord {lat : Nat} {v : Nat → FRes} (h : Ready s x w { d := wd } comp)
    (hi : exec i s = floatWord w base (.fixed lat) wd wa comp val s) (hr : ∀ s', ReadsAs s s' x → ∀ e l, val x s' e l = val x s e l)
    (hv : ∀ l, val x s (s.at x).env l = v l) :
    Completes i s fun t => Leaves s t x lat (floatWrites x comp w.d wd (s.at x).flOn v) (floatCounts x w.d (s.at x).cntOn v) ∧
      OnlyResult s t x (lastRegs x.h w wa 1 1) := by
  obtain rfl := funext hv
  obtain ⟨t, e, hleaves, hkeeps⟩ := floatWord_next (base := base) (wa := wa) (lat := .fixed lat) h.2 h.1 hr
  exact ⟨t, hi.trans e, hleaves, hkeeps⟩

/-- One whose time has bounds completes likewise. -/
theorem completes_floatWord_long {lo hi : Nat} {v : Nat → FRes} (h : Ready s x w { d := wd } comp)
    (he : exec i s = floatWord w base (.long lo hi) wd wa comp val s) (hr : ∀ s', ReadsAs s s' x → ∀ e l, val x s' e l = val x s e l)
    (hv : ∀ l, val x s (s.at x).env l = v l) :
    Completes i s fun t => LeavesLong s t x lo hi (floatWrites x comp w.d wd (s.at x).flOn v) (floatCounts x w.d (s.at x).cntOn v) ∧
      OnlyResult s t x (lastRegs x.h w wa 1 1) := by
  obtain rfl := funext hv
  obtain ⟨t, e, hleaves, hkeeps⟩ := floatWord_next (base := base) (wa := wa) (lat := .long lo hi) h.2 h.1 hr
  exact ⟨t, he.trans e, hleaves, hkeeps⟩

/-- What holds of each lane's result of a float word, whatever the lane's sources, is what the word gives. -/
theorem givesF_fWord {lat : Nat} {g : FLane} {value : Nat → Nat → Nat → FRes → Prop} (h : Ready s x w {} (uniformProducing w))
    (hi : exec i s = fWord w lat g s) (hv : ∀ a b c, value a b c (g (s.at x).env w.ty w.m w.opt a b c)) : GivesF i s x w lat value := by
  obtain ⟨t, e, hleaves, hkeeps⟩ := completes_floatWord h hi (fun s' hr v l => by simp only [hr.rdF]) fun _ => rfl
  exact ⟨t, _, e, hleaves, fun _ _ => hv _ _ _, hkeeps⟩

/-- An SFU word completes with its function of A and B. -/
theorem completes_sfuWord {lat : Nat} {g : FLane} (h : Ready s x w {} (uniformProducing w)) (hi : exec i s = sfuWord w (.fixed lat) g s) :
    let v (l : Nat) : FRes := g (s.at x).env w.ty w.m w.opt (rdF s x w.imm w.ty w.a l) (rdF s x w.imm w.ty w.b l) 0
    Completes i s fun t => Leaves s t x lat (floatWrites x (uniformProducing w) w.d 1 (s.at x).flOn v)
        (floatCounts x w.d (s.at x).cntOn v) ∧ OnlyResult s t x (lastRegs x.h w 1 1 1) :=
  completes_floatWord h hi (fun s' hr e l => by simp only [hr.rdF]) fun _ => rfl

theorem completes_sfuWord_long {lo hi : Nat} {g : FLane} (h : Ready s x w {} (uniformProducing w))
    (he : exec i s = sfuWord w (.long lo hi) g s) :
    let v (l : Nat) : FRes := g (s.at x).env w.ty w.m w.opt (rdF s x w.imm w.ty w.a l) (rdF s x w.imm w.ty w.b l) 0
    Completes i s fun t => LeavesLong s t x lo hi (floatWrites x (uniformProducing w) w.d 1 (s.at x).flOn v)
        (floatCounts x w.d (s.at x).cntOn v) ∧ OnlyResult s t x (lastRegs x.h w 1 1 1) :=
  completes_floatWord_long h he (fun s' hr e l => by simp only [hr.rdF]) fun _ => rfl

/-- A conversion completes with its function of A and C; its B names a type and no source. -/
theorem completes_cvtWord {src : State → Ctx → Opd → Nat → Nat} {g : FLane}
    (h : Ready s x { w with b := .no } { d := wd } (uniformProducing { w with b := .no })) (hi : exec i s = cvtWord w wd wa src g s)
    (hr : ∀ s', ReadsAs s s' x → ∀ o l, src s' x o l = src s x o l) :
    let v (l : Nat) : FRes := g (s.at x).env w.ty w.m w.opt (src s x w.a l) 0 (src s x w.c l)
    Completes i s fun t => Leaves s t x 6 (floatWrites x (uniformProducing { w with b := .no }) w.d wd (s.at x).flOn v)
        (floatCounts x w.d (s.at x).cntOn v) ∧ OnlyResult s t x (lastRegs x.h { w with b := .no } wa 1 1) := by
  rw [cvtWord] at hi
  exact completes_floatWord h hi (fun s' hs e l => by simp only [hr s' hs]) fun _ => rfl

/-- A dot-product word completes with its function of A, B and the .f32 source C. -/
theorem completes_dotWord {lat : Nat} {g : FLane} (h : Ready s x w {} (uniformProducing w)) (hi : exec i s = dotWord w lat g s) :
    let v (l : Nat) : FRes :=
      g (s.at x).env w.ty w.m w.opt (rdF s x w.imm w.ty w.a l) (rdF s x w.imm w.ty w.b l) (rdF s x w.imm 0 w.c l)
    Completes i s fun t => Leaves s t x lat (floatWrites x (uniformProducing w) w.d 1 (s.at x).flOn v)
        (floatCounts x w.d (s.at x).cntOn v) ∧ OnlyResult s t x (lastRegs x.h w 1 1 1) :=
  completes_floatWord h hi (fun s' hr e l => by simp only [hr.rdF]) fun _ => rfl

end

/-! ### Scaling, conversions, SFU words, dot products (R147 to R157) -/

/-- Settles O14: each word is a float word whose lanes read their sources as they stand before it. -/
theorem scalingAndConversions : Obligations.ScalingAndConversions := by
  refine ⟨fun w s x => ⟨fun h => ⟨?fscale, ?sclx⟩, fun h => ⟨?cvtf, ?cvti⟩, fun h => ?cvtfi⟩, fun w s x h => ⟨?sfu, ?sqrt, ?divf, ?dot⟩⟩
  case fscale =>
    exact completes_floatWord h (show exec (.fscale w) s = execFscale w s from rfl) (fun s' hr e l => by simp only [hr.rdF, hr.rdE])
      fun _ => rfl
  case sclx =>
    exact completes_floatWord h (show exec (.sclx w) s = execSclx w s from rfl) (fun s' hr e l => by simp only [hr.rdF]) fun _ => rfl
  case cvtf => exact (completes_cvtWord h (show exec (.cvtf w) s = execCvtf w s from rfl) fun s' hr o l => hr.rdF _ _ o l :)
  case cvti => exact (completes_cvtWord h (show exec (.cvti w) s = execCvti w s from rfl) fun s' hr o l => hr.rdN _ _ o l :)
  case cvtfi => exact (completes_cvtWord h (show exec (.cvtfi w) s = execCvtfi w s from rfl) fun s' hr o l => hr.rdF _ _ o l :)
  case sfu =>
    refine List.forall_iff_forall_mem.1 ?_
    simp only [List.Forall]
    and_intros <;> exact completes_sfuWord h rfl
  case sqrt => exact completes_sfuWord_long h (show exec (.sqrt w) s = execSqrt w s from rfl)
  case divf => exact completes_sfuWord_long h (show exec (.divf w) s = execDivf w s from rfl)
  case dot =>
    refine List.forall_iff_forall_mem.1 ?_
    simp only [List.Forall]
    and_intros <;> exact completes_dotWord h rfl

end Sys2Proof.Machine

/-! ## Sign operations and classes (R144, R146), and integer division (R155) -/

namespace Sys2Proof.Machine

/-! ### Bits of a half -/

/-- A field of the low half of a packed result. -/
theorem bf_low_half {lo : Nat} (hi : Nat) {p n : Nat} (h : p + n ≤ 16) : bf (lo + hi * 2 ^ 16) p n = bf lo p n := by
  have e : lo + hi * 2 ^ 16 = lo + 2 ^ (p + n) * (2 ^ (16 - (p + n)) * hi) := by
    rw [← Nat.mul_assoc, ← Nat.pow_add, Nat.add_sub_cancel' h, Nat.mul_comm]
  have hm (v : Nat) : bf v p n = v % 2 ^ (p + n) / 2 ^ p := by rw [bf, Nat.pow_add, Nat.mod_mul_right_div_self]
  rw [hm, hm, e, Nat.add_mul_mod_self_left]

/-- A field of its high half. -/
theorem bf_high_half {lo : Nat} (hlo : lo < 2 ^ 16) (hi p n : Nat) : bf (lo + hi * 2 ^ 16) (16 + p) n = bf hi p n := by
  rw [bf, Nat.pow_add, ← Nat.div_div_eq_div_mul, Nat.add_mul_div_right _ _ (Nat.two_pow_pos 16), Nat.div_eq_of_lt hlo, Nat.zero_add, bf]

theorem bit_eq_bf (v i : Nat) : bit v i = (bf v i 1 == 1) := by rw [bit, bf, Nat.pow_one]

/-- A field of a field. -/
theorem bf_bf (v p n q k : Nat) (h : q + k ≤ n) : bf (bf v p n) q k = bf v (p + q) k := by
  have hm (u q k : Nat) : bf u q k = u % 2 ^ (q + k) / 2 ^ q := by rw [bf, Nat.pow_add, Nat.mod_mul_right_div_self]
  rw [hm, bf, Nat.mod_mod_of_dvd _ (Nat.pow_dvd_pow 2 h), ← hm, bf, bf, Nat.div_div_eq_div_mul, ← Nat.pow_add]

/-! ### Packed and scalar types (R126) -/

theorem perHalf_scalar {t : Nat} (h : packed t = false) (g : FElem) (a b c : Nat) : perHalf t g a b c = g (fcode t) a b c := by
  simp [perHalf, h]

theorem perHalf_packed {t : Nat} (h : packed t = true) (g : FElem) (a b c : Nat) :
    let lo := g (fcode t) (bf a 0 16) (bf b 0 16) (bf c 0 16)
    let hi := g (fcode t) (bf a 16 16) (bf b 16 16) (bf c 16 16)
    perHalf t g a b c = { val := lo.val + hi.val * 2 ^ 16, fl := lo.fl ||| hi.fl, counts := lo.counts ++ hi.counts } := by
  simp [perHalf, h, bf]

/-! ### The sign operations (R144) -/

/-- An element with the magnitude of A and a sign made of those of A and B. -/
def signElem (sg : Bool → Bool → Bool) : FElem := fun f a b _ =>
  { val := signed_ f (sg (bit a (fmtS f)) (bit b (fmtS f))) (bf a 0 (fmtS f)) }

theorem fFabs_eq (v : FpEnv) (t m o : Nat) : fFabs v t m o = perHalf t (signElem fun _ _ => false) := rfl
theorem fFneg_eq (v : FpEnv) (t m o : Nat) : fFneg v t m o = perHalf t (signElem fun a _ => !a) := rfl
theorem fFcpys_eq (v : FpEnv) (t m o : Nat) : fFcpys v t m o = perHalf t (signElem fun _ b => b) := rfl

/-- Magnitude and sign of a pattern. -/
theorem signed_bits (f : Nat) (g : Bool) (v : Nat) : let r := signed_ f g (bf v 0 (fmtS f))
    bf r 0 (fmtS f) = bf v 0 (fmtS f) ∧ bit r (fmtS f) = g ∧ r < 2 ^ (fmtS f + 1) := by
  have hpos : 0 < 2 ^ fmtS f := Nat.two_pow_pos _
  have hv : v % 2 ^ fmtS f < 2 ^ fmtS f := Nat.mod_lt _ hpos
  simp only [signed_, bf, bit, Nat.pow_zero, Nat.div_one, Nat.pow_succ]
  cases g
  · simp [Nat.mod_eq_of_lt hv, Nat.div_eq_of_lt hv]
    omega
  · simp [Nat.mod_eq_of_lt hv, Nat.add_div_right _ hpos, Nat.div_eq_of_lt hv]
    omega

/-- A sign operation on a scalar: the magnitude is A's, the sign as said, and a 16-bit result has no bits above it. -/
theorem signElem_scalar {t S : Nat} (hp : packed t = false) (hS : fmtS (fcode t) = S) (sg : Bool → Bool → Bool) (a b c : Nat) :
    let q := perHalf t (signElem sg) a b c
    q.fl = 0 ∧ q.counts = [] ∧ q.val < 2 ^ (S + 1) ∧ ∀ h ∈ [0], bf q.val h S = bf a h S ∧ bit q.val (h + S) = sg (bit a (h + S)) (bit b (h + S)) := by
  obtain ⟨hmag, hsign, hlt⟩ := signed_bits (fcode t) (sg (bit a S) (bit b S)) a
  rw [perHalf_scalar hp, signElem, hS]
  rw [hS] at hmag hsign hlt
  refine ⟨rfl, rfl, hlt, ?_⟩
  simp only [List.forall_mem_singleton, Nat.zero_add]
  exact ⟨hmag, hsign⟩

/-- On a packed type each half has its own sign. -/
theorem signElem_packed {t : Nat} (hp : packed t = true) (hS : fmtS (fcode t) = 15) (sg : Bool → Bool → Bool) (a b c : Nat) :
    let q := perHalf t (signElem sg) a b c
    q.fl = 0 ∧ q.counts = [] ∧ q.val < 2 ^ 32 ∧
      ∀ h ∈ [0, 16], bf q.val h 15 = bf a h 15 ∧ bit q.val (h + 15) = sg (bit a (h + 15)) (bit b (h + 15)) := by
  have hbit (v h : Nat) : bit (bf v h 16) 15 = bit v (h + 15) := by rw [bit_eq_bf, bit_eq_bf, bf_bf _ _ _ _ _ (by norm_num)]
  obtain ⟨hmag, hsign, hlt⟩ := signed_bits (fcode t) (sg (bit a 15) (bit b 15)) (bf a 0 16)
  obtain ⟨hmag', hsign', hlt'⟩ := signed_bits (fcode t) (sg (bit a 31) (bit b 31)) (bf a 16 16)
  rw [perHalf_packed hp]
  simp only [signElem, hS, hbit, Nat.reduceAdd, Nat.zero_add] at *
  generalize signed_ (fcode t) (sg (bit a 15) (bit b 15)) _ = lo at hmag hsign hlt ⊢
  generalize signed_ (fcode t) (sg (bit a 31) (bit b 31)) _ = hi at hmag' hsign' hlt' ⊢
  rw [bf_bf _ _ _ _ _ (by norm_num)] at hmag hmag'
  have hbit_lo : bit (lo + hi * 2 ^ 16) 15 = bit lo 15 := by rw [bit_eq_bf, bit_eq_bf, bf_low_half hi (by norm_num)]
  have hbit_hi : bit (lo + hi * 2 ^ 16) 31 = bit hi 15 := by rw [bit_eq_bf, bit_eq_bf, ← bf_high_half hlt hi 15 1]
  refine ⟨rfl, rfl, by omega, ?_⟩
  simp only [List.forall_mem_cons, List.not_mem_nil, false_imp_iff, implies_true, and_true, Nat.zero_add, Nat.reduceAdd]
  exact ⟨⟨(bf_low_half hi (by norm_num)).trans hmag, hbit_lo.trans hsign⟩, (bf_high_half hlt hi 0 15).trans hmag', hbit_hi.trans hsign'⟩

/-- A sign operation changes the sign bit of each element. -/
theorem signElem_bits {t : Nat} (ht : t ∈ [0, 1, 2, 20, 21]) (sg : Bool → Bool → Bool) (a b c : Nat) :
    let q := perHalf t (signElem sg) a b c
    let S := if t = 0 then 31 else 15
    q.fl = 0 ∧ q.counts = [] ∧ q.val < (if t = 1 ∨ t = 2 then 2 ^ 16 else 2 ^ 32) ∧
      ∀ h ∈ (if t = 20 ∨ t = 21 then [0, 16] else [0]), bf q.val h S = bf a h S ∧ bit q.val (h + S) = sg (bit a (h + S)) (bit b (h + S)) := by
  simp only [List.mem_cons, List.not_mem_nil, or_false] at ht
  rcases ht with rfl | rfl | rfl | rfl | rfl
  · exact signElem_scalar rfl rfl sg a b c
  · exact signElem_scalar rfl rfl sg a b c
  · exact signElem_scalar rfl rfl sg a b c
  · exact signElem_packed rfl rfl sg a b c
  · exact signElem_packed rfl rfl sg a b c

/-! ### FCLASS (R146) -/

theorem classify_lt (f v : Nat) : classify f v < 9 := by
  unfold classify
  repeat' split
  all_goals decide

/-- The class of an .f32 value by its exponent, fraction and sign. -/
theorem classify_f32 (v : Nat) : 2 ^ classify 0 v =
    if bf v 23 8 = 255 then (if bf v 0 23 ≠ 0 then 256 else if bit v 31 then 1 else 128)
    else if bf v 23 8 = 0 then (if bf v 0 23 = 0 then (if bit v 31 then 8 else 16) else if bit v 31 then 4 else 32)
    else if bit v 31 then 2 else 64 := by
  simp only [classify, decodeF, fmtX, fmtM, fmtInf]
  by_cases h255 : bf v 23 8 = 255
  · by_cases hf : bf v 0 23 = 0 <;> cases hg : bit v 31 <;> simp [h255, hf, hg]
  · by_cases h0 : bf v 23 8 = 0
    · by_cases hf : bf v 0 23 = 0 <;> cases hg : bit v 31 <;> simp [h0, hf, hg]
    · cases hg : bit v 31 <;> simp [h255, h0, hg]

theorem fclass_classifies {w : Op} {s : State} {x : Ctx} (h : Ready s x w {} (uniformProducing w)) : GivesF (.fclass w) s x w 4 fun a _ _ q =>
    q = { val := 2 ^ classify w.ty (cvtElem (cvtW w.ty) w.opt a) } := by
  have hi : exec (.fclass w) s = execFclass w s := rfl
  rw [execFclass] at hi
  obtain ⟨t, e, hleaves, hkeeps⟩ := completes_floatWord h hi (fun s' hr e l => by simp only [hr.rdF]) fun _ => rfl
  exact ⟨t, _, e, hleaves, fun _ _ => rfl, hkeeps⟩

/-- Settles O12: the sign operations differ in the sign that each element gets; FCLASS gives a power of 2 below 2^9. -/
theorem signOperations : Obligations.SignOperations := by
  refine ⟨fun w s x hty h => ?_, fun w s x h => ?_⟩
  · refine List.forall_iff_forall_mem.1 ?_
    simp only [List.Forall]
    refine ⟨?fabs, ?fneg, ?fcpys⟩
    case fabs =>
      exact givesF_fWord h (show exec (.fabs w) s = execFabs w s from rfl) fun a b c => by
        rw [fFabs_eq]
        exact signElem_bits hty _ a b c
    case fneg =>
      exact givesF_fWord h (show exec (.fneg w) s = execFneg w s from rfl) fun a b c => by
        rw [fFneg_eq]
        exact signElem_bits hty _ a b c
    case fcpys =>
      exact givesF_fWord h (show exec (.fcpys w) s = execFcpys w s from rfl) fun a b c => by
        rw [fFcpys_eq]
        exact signElem_bits hty _ a b c
  · obtain ⟨t, val, e, hleaves, hval, hkeeps⟩ := fclass_classifies h
    refine ⟨t, val, e, hleaves, fun l hl => ?_, hkeeps⟩
    rw [hval l hl]
    refine ⟨rfl, rfl, ⟨_, classify_lt _ _, rfl⟩, fun ht ho => ?_⟩
    rw [ht]
    exact classify_f32 _

/-! ### DIVI (R155) -/

/-- A source of a 32-bit integer type is a 32-bit number. -/
theorem rdE_lt (s : State) (x : Ctx) (imm : W64) {t : Nat} (ht : t ∈ [11, 15]) (o : Opd) (l : Nat) : rdE s x imm t o l < 2 ^ 32 := by
  have hw : min (elemW t) 32 = 32 := by
    simp only [List.mem_cons, List.not_mem_nil, or_false] at ht
    rcases ht with rfl | rfl <;> rfl
  cases o with
  | im n =>
    simp only [rdE, hw, wrapInt]
    simp
    omega
  | no | v _ | u _ | sp _ | ext => exact BitVec.isLt _

theorem fDivi_counts (v : FpEnv) (t m o a b c : Nat) : (fDivi v t m o a b c).counts = [] := by
  simp only [fDivi]
  split
  · rfl
  · split <;> rfl

/-- A source as TYPE reads it: signed for .i32, unsigned for .n32. -/
theorem intOf_w32 {t : Nat} (ht : t ∈ [11, 15]) (n : Nat) : intOf (signedTy t) 32 n = if t = 11 then signedOf 32 n else n := by
  simp only [List.mem_cons, List.not_mem_nil, or_false] at ht
  rcases ht with rfl | rfl <;> rfl

theorem signedTy_w32 {t : Nat} (ht : t ∈ [11, 15]) : signedTy t = decide (t = 11) := by
  simp only [List.mem_cons, List.not_mem_nil, or_false] at ht
  rcases ht with rfl | rfl <;> rfl

/-- A 32-bit number is 0, -1 or the least as a signed one where its pattern says so. -/
theorem signedOf_w32 {n : Nat} (hn : n < 2 ^ 32) : (signedOf 32 n = 0 ↔ n = 0) ∧ (signedOf 32 n = -1 ↔ n = 2 ^ 32 - 1) ∧
    (signedOf 32 n = -2 ^ 31 ↔ n = 2 ^ 31) := by
  rw [signedOf]
  split <;> omega

theorem coe_wrapInt (n : Nat) (v : Int) : (wrapInt n v : Int) = v % 2 ^ n :=
  Int.toNat_of_nonneg (Int.emod_nonneg _ (by positivity))

/-- DIVI with both corners (R155). -/
theorem fDivi_divides {t a b : Nat} (ht : t ∈ [11, 15]) (ha : a < 2 ^ 32) (hb : b < 2 ^ 32) (v : FpEnv) (m o : Nat) :
    let q := fDivi v t m o a b 0
    let A : Int := if t = 11 then signedOf 32 a else a
    let B : Int := if t = 11 then signedOf 32 b else b
    if b = 0 then q.val = (if bit o 0 then a else 0xFFFFFFFF) ∧ q.fl = flDZ
    else if t = 11 ∧ a = 0x80000000 ∧ b = 0xFFFFFFFF then q.val = (if bit o 0 then 0 else 0x80000000) ∧ q.fl = flNV
    else (q.val : Int) = (if bit o 0 then A.tmod B else A.tdiv B) % 2 ^ 32 ∧ q.fl = 0 := by
  obtain ⟨hb0, hb1, -⟩ := signedOf_w32 hb
  obtain ⟨-, -, ha2⟩ := signedOf_w32 ha
  intro q A B
  have hB : B = 0 ↔ b = 0 := by
    simp only [B]
    split
    · exact hb0
    · exact Int.natCast_eq_zero
  have hcorner : (signedTy t && decide (A = -2 ^ 31) && decide (B = -1)) = true ↔ t = 11 ∧ a = 0x80000000 ∧ b = 0xFFFFFFFF := by
    simp only [signedTy_w32 ht, A, B, Bool.and_eq_true, decide_eq_true_eq, and_assoc]
    exact and_congr_right fun h => by rw [if_pos h, if_pos h, ha2, hb1]; rfl
  have hq : q = if B = 0 then { val := if bit o 0 then a else 2 ^ 32 - 1, fl := flDZ }
      else if signedTy t && decide (A = -2 ^ 31) && decide (B = -1) then { val := if bit o 0 then 0 else 2 ^ 31, fl := flNV }
      else { val := wrapInt 32 (if bit o 0 then A.tmod B else A.tdiv B) } := by
    simp only [q, fDivi, intOf_w32 ht]
    rfl
  simp only [hB, hcorner] at hq
  by_cases h0 : b = 0
  · rw [if_pos h0] at hq ⊢
    rw [hq]
    exact ⟨rfl, rfl⟩
  · rw [if_neg h0] at hq ⊢
    by_cases hc : t = 11 ∧ a = 0x80000000 ∧ b = 0xFFFFFFFF
    · rw [if_pos hc] at hq ⊢
      rw [hq]
      exact ⟨rfl, rfl⟩
    · rw [if_neg hc] at hq ⊢
      rw [hq]
      exact ⟨coe_wrapInt _ _, rfl⟩

/-- Settles O15: the quotient and the remainder are those of integers, away from the two corners. -/
theorem integerDivision : Obligations.IntegerDivision := by
  intro w s x hty h u rem
  have hi : exec (.divi w) s = execDivi w s := rfl
  rw [execDivi] at hi
  obtain ⟨t, e, hleaves, hkeeps⟩ := completes_floatWord_long h hi (fun s' hr e l => by simp only [hr.rdE]) fun _ => rfl
  have hcounts (on : Bool) (v : Nat → FRes) (hv : ∀ l, (v l).counts = []) : floatCounts x w.d on v = [] := by
    simp [floatCounts, hv]
  rw [hcounts _ _ fun l => fDivi_counts _ _ _ _ _ _ _] at hleaves
  exact ⟨t, _, e, hleaves, hkeeps, fun l _ => fDivi_divides hty (rdE_lt s x _ hty _ _) (rdE_lt s x _ hty _ _) _ _ _⟩

end Sys2Proof.Machine

/-! ## Block records (R128, R152) -/

namespace Sys2Proof.Machine

/-! ### Words that leave a result -/

/-- The state in which a word acts has its crew's mode and tile of before. -/
theorem ReadsAs.mode {s s' : State} {x : Ctx} (h : ReadsAs s s' x) : (s'.at x).fpmode = (s.at x).fpmode ∧ (s'.at x).tile = (s.at x).tile := by
  obtain ⟨pc, since, e⟩ := h.crew
  rw [e]
  exact ⟨rfl, rfl⟩

theorem ReadsAs.env {s s' : State} {x : Ctx} (h : ReadsAs s s' x) : (s'.at x).env = (s.at x).env := by rw [Crew.env, h.mode.1, Crew.env]
theorem ReadsAs.flOn {s s' : State} {x : Ctx} (h : ReadsAs s s' x) : (s'.at x).flOn = (s.at x).flOn := by rw [Crew.flOn, h.mode.1, Crew.flOn]
theorem ReadsAs.cntOn {s s' : State} {x : Ctx} (h : ReadsAs s s' x) : (s'.at x).cntOn = (s.at x).cntOn := by
  rw [Crew.cntOn, h.mode.1, Crew.cntOn]

section
variable {i : Instr} {w : Op} {s : State} {p : Pre} {x : Ctx} {lat : Nat} {wr : List Wr} {cs : List Nat}

/-- A word that, on the state in which it acts, leaves a result with these writes. -/
theorem completes_fixedResult {body : Ctx → State → State} (h : Issues s p.w p.dst p.comp x) (hp : p.single) (hi : exec i s = issue s p body)
    (hb : body x (begun s p x []) = fixedResult (begun s p x []) x lat wr cs) (hne : wr ≠ []) :
    Completes i s fun t => Leaves s t x lat wr cs ∧ OnlyResult s t x (lastRegs x.h p.w 1 1 1) := by
  obtain ⟨ha, hbr, hc, hl⟩ := hp
  obtain ⟨t, e, hleaves, hkeeps⟩ := issue_fixedResult h lat (fun _ => wr) (fun _ => cs) hne hb
  rw [ha, hbr, hc, hl, List.append_nil] at hkeeps
  exact ⟨t, hi.trans e, hleaves, hkeeps⟩

theorem completes_boundedResult {lo hi : Nat} {body : Ctx → State → State} (h : Issues s p.w p.dst p.comp x) (hp : p.single)
    (he : exec i s = issue s p body) (hb : body x (begun s p x []) = boundedResult (begun s p x []) x lo hi wr cs) (hne : wr ≠ []) :
    Completes i s fun t => LeavesLong s t x lo hi wr cs ∧ OnlyResult s t x (lastRegs x.h p.w 1 1 1) := by
  obtain ⟨ha, hbr, hc, hl⟩ := hp
  obtain ⟨t, e, hleaves, hkeeps⟩ := issue_boundedResult h lo hi (fun _ => wr) (fun _ => cs) hne hb
  rw [ha, hbr, hc, hl, List.append_nil] at hkeeps
  exact ⟨t, he.trans e, hleaves, hkeeps⟩

/-- A record word over a converged crew with a whole tile does what it is for (R78, R152). -/
theorem completes_recordWord {go : Ctx → State → State} (h : Ready s x w {} false) (htile : (s.at x).tile = 32)
    (hconv : notConverged x 32 = false) (hi : exec i s = recordWord w go s)
    (hgo : ∀ b, ReadsAs s b x → go x b = fixedResult b x lat wr cs) (hne : wr ≠ []) :
    Completes i s fun t => Leaves s t x lat wr cs ∧ OnlyResult s t x (lastRegs x.h w 1 1 1) := by
  refine completes_fixedResult (p := { w, dst := vdst w.d 1, coll := true, base := 1 }) h.2 ⟨rfl, rfl, rfl, rfl⟩ hi ?_ hne
  have hr := readsAs_begun s { w, dst := vdst w.d 1, coll := true, base := 1 } x
  have ht := hr.mode.2.trans htile
  rw [State.at] at ht
  simp only [beq_iff_eq, h.2.on, if_false, ht, bne_self_eq_false, Bool.false_eq_true, collective, hconv]
  exact hgo _ hr

end

/-! ### Records -/

/-- Bits of an element of a record. -/
theorem recBits_eq {t : Nat} : recBits t = if t = 3 ∨ t = 4 then 8 else if t = 7 then 4 else 6 := by simp [recBits]

theorem w32_bf (v p : Nat) : w32 (bf v p 32) = w32 (v / 2 ^ p) := by
  exact BitVec.eq_of_toNat_eq (by simp [w32, bf])

theorem bf_zero (v n : Nat) : bf v 0 n = v % 2 ^ n := by rw [bf, Nat.pow_zero, Nat.div_one]

/-- The record that lanes 0 to 8 hold. -/
def gathered (s : State) (x : Ctx) (w : Op) : Nat := ((List.range 9).map (fun i => (rd s x 0 w.a i).toNat * 2 ^ (32 * i))).sum

/-- A value times a power of two of E8M0 (R129). -/
def scaled (sc : Nat) : XR → XR
  | .fin g m d _ => .fin g m (d + sc - 127) false
  | y => y

/-- What UNPKB gives a lane of a record: its element, the scale, or the element's value. -/
def recordLane (ftz : Bool) (w : Op) (r l : Nat) : FRes :=
  let sc := bf r 0 8
  let e := bf r (8 + recBits w.ty * l) (recBits w.ty)
  let o := roundTo ftz (if sc = 255 then .nan else scaled sc (decodeF w.ty false e)) 0 1 false
  if w.opt = 0 then { val := e } else if w.opt = 1 then { val := sc } else { val := o.1, fl := o.2, counts := countOf 0 o.1 o.2 false }

/-- UNPKB.value rounds the element's value to .f32. -/
theorem recordLane_value {w : Op} (ho : w.opt = 2) (ftz : Bool) (r l : Nat) :
    ((recordLane ftz w r l).val, (recordLane ftz w r l).fl) = roundTo ftz
      (if bf r 0 8 = 255 then .nan else scaled (bf r 0 8) (decodeF w.ty false (bf r (8 + recBits w.ty * l) (recBits w.ty)))) 0 1 false := by
  rw [recordLane, if_neg (by omega), if_neg (by omega)]

/-- UNPKB in terms of what a lane gets. -/
theorem execUnpkb_eq (w : Op) (s : State) : execUnpkb w s = recordWord w (fun x s =>
    let res : Tab FRes := (lanesOf x.on).map (fun l => (l, recordLane (s.at x).env.ftzs w (gathered s x w) l))
    fixedResult s x 8 (wrOf x false w.d (fun l => w32 (tget { val := 0 } res l).val) ++ flWr (s.at x).flOn (res.map (fun e => (e.1, e.2.fl))))
      (if (s.at x).cntOn then res.flatMap (fun e => e.2.counts) else [])) s := by
  unfold execUnpkb
  refine congrArg (fun f => recordWord w f s) (funext fun x => funext fun b => ?_)
  extract_lets n k r sc e val res
  have hr : r = gathered b x w := rfl
  clear_value r
  have hval : val = recordLane k.env.ftzs w r := by
    funext l
    show (if w.opt = 0 then ({ val := e l } : FRes) else if w.opt = 1 then { val := sc } else _) = _
    rw [recordLane]
    split
    · rfl
    split
    · rfl
    extract_lets v
    have hv : v = if bf r 0 8 = 255 then .nan else scaled (bf r 0 8) (decodeF w.ty false (bf r (8 + recBits w.ty * l) (recBits w.ty))) := by
      refine congrArg (fun y => if bf r 0 8 = 255 then XR.nan else y) ?_
      generalize decodeF w.ty false (e l) = y
      cases y <;> rfl
    clear_value v
    subst hv
    generalize roundTo _ _ 0 1 false = o
    cases o
    rfl
  clear_value val
  subst hval hr
  rfl

/-- No flags are written where none is raised. -/
theorem flWr_none (on : Bool) {l : List (Nat × Fl)} (h : ∀ e ∈ l, e.2 = 0) : flWr on l = [] := by
  rw [flWr, List.filter_eq_nil_iff.2 fun e he => by simp [h e he]]
  exact if_neg (by simp)

section
variable {w : Op} {s : State} {x : Ctx} (h : Ready s x w {} false) (htile : (s.at x).tile = 32) (hconv : notConverged x 32 = false)
include h htile hconv

theorem packb_gathers : let n := recBits w.ty
    let e (i : Nat) : Nat := if x.mask.getLsbD i then (rd s x 0 w.a i).toNat % 2 ^ n else 0
    let r := (rd s x w.imm w.b x.low).toNat % 256 + 256 * ((List.range 32).map (fun i => e i * 2 ^ (n * i))).sum
    Completes (.packb w) s fun t =>
      Leaves s t x 8 (wrOf x false w.d (fun l => w32 (r / 2 ^ (32 * l)))) ∧ OnlyResult s t x (lastRegs x.h w 1 1 1) := by
  have hi : exec (.packb w) s = execPackb w s := rfl
  rw [execPackb] at hi
  refine completes_recordWord h htile hconv hi (fun b hr => ?_) (wrOf_ne_nil h.2.on false h.1 _)
  simp only [hr.rd, w32_bf, bf_zero]
  rfl

/-- UNPKB leaves what each executing lane gets of the record, the flags that its lanes raise, and their counts. -/
theorem unpkb_takes_apart : let v (l : Nat) : FRes := recordLane (s.at x).env.ftzs w (gathered s x w) l
    Completes (.unpkb w) s fun t =>
      Leaves s t x 8 (wrOf x false w.d (fun l => w32 (v l).val) ++ flWr (s.at x).flOn ((lanesOf x.on).map (fun l => (l, (v l).fl))))
        (if (s.at x).cntOn then (lanesOf x.on).flatMap (fun l => (v l).counts) else []) ∧
      OnlyResult s t x (lastRegs x.h w 1 1 1) := by
  intro v
  have hi : exec (.unpkb w) s = execUnpkb w s := rfl
  rw [execUnpkb_eq] at hi
  refine completes_recordWord h htile hconv hi (fun b hr => ?_) fun hnil =>
    wrOf_ne_nil h.2.on false h.1 _ (List.append_eq_nil_iff.1 hnil).1
  have hg : gathered b x w = gathered s x w := by simp only [gathered, hr.rd]
  have hwr : wrOf x false w.d (fun l => w32 (tget ({ val := 0 } : FRes) ((lanesOf x.on).map (fun l => (l, v l))) l).val) =
      wrOf x false w.d (fun l => w32 (v l).val) := wrOf_congr h.2.on false w.d fun l hl => by rw [tget_map _ _ _ hl]
  simp only [hr.env, hr.flOn, hr.cntOn, hg, List.map_map, List.flatMap_map]
  rw [← hwr]
  rfl

/-- Where no lane raises a flag or counts, UNPKB leaves values alone. -/
theorem unpkb_gives {v : Nat → Nat} (hv : ∀ l, recordLane (s.at x).env.ftzs w (gathered s x w) l = { val := v l }) :
    Completes (.unpkb w) s fun t =>
      Leaves s t x 8 (wrOf x false w.d (fun l => w32 (v l))) ∧ OnlyResult s t x (lastRegs x.h w 1 1 1) := by
  obtain ⟨t, e, hleaves, hkeeps⟩ := unpkb_takes_apart h htile hconv
  simp only [hv] at hleaves
  rw [flWr_none _ (by simp), List.append_nil] at hleaves
  rw [List.flatMap_eq_nil_iff.2 fun _ _ => rfl, ite_self] at hleaves
  exact ⟨t, e, hleaves, hkeeps⟩

end

/-- Settles O17: PACKB leaves the words of the record, UNPKB what `recordLane` says of it. -/
theorem blockRecords : Obligations.BlockRecords := by
  intro w s x _ h htile hconv n e r rcd el
  refine ⟨?packb, fun ho => ?elem, fun ho => ?scale, fun ho => ?value⟩
  case packb =>
    simp only [r, e, n, ← recBits_eq]
    exact packb_gathers h htile hconv
  case elem => exact unpkb_gives h htile hconv fun l => by rw [recordLane, if_pos ho, recBits_eq]; rfl
  case scale => exact unpkb_gives h htile hconv fun l => by rw [recordLane, if_neg (by omega), if_pos ho, bf_zero]; rfl
  case value =>
    obtain ⟨t, e, hleaves, hkeeps⟩ := unpkb_takes_apart h htile hconv
    refine ⟨t, e, _, fun l => let q := recordLane (s.at x).env.ftzs w (gathered s x w) l; (q.val, q.fl), hleaves, hkeeps, fun l _ => ?_⟩
    refine (recordLane_value ho _ _ _).trans (congrArg (fun y => roundTo _ y 0 1 false) ?_)
    have hr : gathered s x w = rcd := rfl
    have he : bf rcd (8 + recBits w.ty * l) (recBits w.ty) = el l := by rw [recBits_eq]; rfl
    rw [hr, bf_zero, he]
    generalize decodeF w.ty false (el l) = y
    cases y <;> rfl

end Sys2Proof.Machine

/-! ## Flags, counters and the mode (R158 to R160) -/

namespace Sys2Proof.Machine

section
variable {w : Op} {s : State} {x : Ctx}

/-! ### Flags and the mode -/

theorem flrd_reads (h : Ready s x w {} false) :
    Completes (.flrd w) s fun t =>
      Leaves s t x 2 (wrOf x false w.d (fun l =>
        (if bit w.opt 0 || isU w.d then (lanesOf x.on).foldl (fun a l => a ||| readFl s x l) 0 else readFl s x l).setWidth 32)) ∧
      OnlyResult s t x (lastRegs x.h w 1 1 1) := by
  have hi : exec (.flrd w) s = execFlrd w s := rfl
  rw [execFlrd] at hi
  have hr := readsAs_begun s { w, dst := vdst w.d 1 } x
  exact completes_fixedResult (p := { w, dst := vdst w.d 1 }) h.2 ⟨rfl, rfl, rfl, rfl⟩ hi (by simp only [hr.readFl])
    (wrOf_ne_nil h.2.on false h.1 _)

/-- FLCLR and FLSET leave one write of the bits that A names in each executing lane. -/
theorem flagWord_writes {i : Instr} {mk : Tab (BitVec 5) → Wr} (h : Issues s w [] false x) (hi : exec i s = flagWord w mk s) :
    Completes i s fun t => Leaves s t x 1 [mk ((lanesOf x.on).map (fun l => (l, (rd s x 0 w.a l).setWidth 5)))] ∧
      OnlyResult s t x (lastRegs x.h w 1 1 1) := by
  rw [flagWord] at hi
  have hr := readsAs_begun s { w } x
  exact completes_fixedResult (p := { w }) h ⟨rfl, rfl, rfl, rfl⟩ hi (by rw [if_neg h.runs_lanes]; simp only [hr.rd])
    (List.cons_ne_nil _ _)

/-- What the words that have issued leave of FPMODE is the same when the next one acts. -/
theorem modeNow_begun (s : State) (p : Pre) (x : Ctx) : modeNow ((begun s p x []).at x) = modeNow (s.at x) := by
  obtain ⟨pc, hat, -⟩ := at_begun s p x
  rw [hat]
  rfl

theorem fmode_writes (h : Issues s w [] false x) : let a := rd s x w.imm w.a x.low
    let m := rd s x w.imm w.b x.low &&& 0xF7
    bf ((modeNow (s.at x) &&& ~~~m) ||| (a &&& m)).toNat 0 3 ∈ [1, 2, 3, 4] →
      Completes (.fmode w) s fun t => Leaves s t x 1 [.mode a m] ∧ OnlyResult s t x (lastRegs x.h w 1 1 1) := by
  intro a m hok
  have hi : exec (.fmode w) s = execFmode w s := rfl
  rw [execFmode] at hi
  have hr := readsAs_begun s { w } x
  have hm := modeNow_begun s { w } x
  refine completes_fixedResult (p := { w }) h ⟨rfl, rfl, rfl, rfl⟩ hi ?_ (List.cons_ne_nil _ _)
  rw [State.at] at hm
  rw [if_neg h.runs_lanes]
  simp only [hr.rd, hm]
  refine if_neg ?_
  simp only [List.mem_cons, List.not_mem_nil, or_false] at hok
  simp only [Bool.or_eq_true, decide_eq_true_eq]
  change ¬(bf ((modeNow (s.at x) &&& ~~~m) ||| (a &&& m)).toNat 0 3 = 0 ∨ 5 ≤ bf ((modeNow (s.at x) &&& ~~~m) ||| (a &&& m)).toNat 0 3)
  omega

theorem fmodeGet_reads (h : Ready s x w {} false) : Completes (.fmodeGet w) s fun t =>
    Leaves s t x 2 (wrOf x false w.d (fun _ => (s.at x).fpmode)) ∧ OnlyResult s t x (lastRegs x.h w 1 1 1) := by
  have hi : exec (.fmodeGet w) s = execFmodeGet w s := rfl
  rw [execFmodeGet] at hi
  have hm := (readsAs_begun s { w, dst := vdst w.d 1 } x).mode.1
  rw [State.at] at hm
  exact completes_fixedResult (p := { w, dst := vdst w.d 1 }) h.2 ⟨rfl, rfl, rfl, rfl⟩ hi (by simp only [hm])
    (wrOf_ne_nil h.2.on false h.1 _)

/-! ### Counters -/

/-- The events of a counter that other crews wrote in the last 256 clocks (R159). -/
def lateEvents (s : State) (x : Ctx) (i : Nat) : List (Nat × Nat × Nat × Nat) :=
  (s.grid (s.at x).grid).recent.filter (fun e => e.2.2.2 == i && s.clk < e.1 + 256 && !((e.2.1, e.2.2.1) == (x.c, x.k)))

/-- FCNTRD leaves out no more than the late events. -/
theorem fcntrd_reads (h : Ready s x w {} false) (hf : foreign s (s.at x) = false) : let i := w.ty * 4 + w.opt
    Completes (.fcntrd w) s fun t => ∃ n, n ≤ (lateEvents s x i).length ∧
      LeavesLong s t x 2 400 (wrOf x false w.d (fun _ => w32 ((tget 0 (s.grid (s.at x).grid).counters i).toNat - n))) ∧
      OnlyResult s t x (lastRegs x.h w 1 1 1) := by
  intro i
  have hi : exec (.fcntrd w) s = execFcntrd w s := rfl
  rw [execFcntrd] at hi
  obtain ⟨pc, hat, -⟩ := at_begun s { w, dst := vdst w.d 1 } x
  have hfb : foreign (begun s { w, dst := vdst w.d 1 } x []) ((begun s { w, dst := vdst w.d 1 } x []).at x) = false := by
    rw [hat]
    exact hf
  have hwr := wrOf_ne_nil h.2.on false h.1 (fun _ => w32 ((tget 0 (s.grid (s.at x).grid).counters i).toNat -
    Config.staleRead s.free (8192 + i) 0 % ((lateEvents s x i).length + 1)))
  refine (completes_boundedResult (p := { w, dst := vdst w.d 1 }) (lo := 2) (hi := 400) (cs := []) h.2 ⟨rfl, rfl, rfl, rfl⟩ hi ?_ hwr).imp ?_
  · rw [State.at] at hat hfb
    simp only [hfb, Bool.false_eq_true, if_false]
    simp only [hat]
    rfl
  · rintro t ⟨e, hleaves, hkeeps⟩
    exact ⟨e, _, Nat.lt_succ_iff.1 (Nat.mod_lt _ (Nat.succ_pos _)), hleaves, hkeeps⟩

theorem fcntclr_clears (h : Issues s w [] false x) : Completes (.fcntclr w) s fun t =>
    Leaves s t x 1 [.cnt (if w.mb 0 then List.range 36 else [w.ty * 4 + w.opt])] ∧ OnlyResult s t x (lastRegs x.h w 1 1 1) := by
  have hi : exec (.fcntclr w) s = execFcntclr w s := rfl
  rw [execFcntclr] at hi
  exact completes_fixedResult (p := { w }) h ⟨rfl, rfl, rfl, rfl⟩ hi (if_neg h.runs_lanes) (List.cons_ne_nil _ _)

end

/-! ### FCNTCLR takes effect (R159) -/

/-- A counter of a grid (R137). -/
def counterOf (g j : Nat) (s : State) : W32 := tget 0 (s.grid g).counters j

theorem counterOf_post (g j : Nat) (s : State) (die : Nat) (e : Event) : counterOf g j (s.post die e) = counterOf g j s := by
  obtain ⟨a, b, q, h⟩ := post_eq s die e
  rw [h]
  rfl

theorem counterOf_msix (g j : Nat) (s : State) (l : List Nat) : counterOf g j { s with msix := l } = counterOf g j s := rfl

/-- An update of the grid that keeps the counter keeps it in the chip. -/
theorem counterOf_modGrid {g j : Nat} {f : Grid → Grid} (s : State) (hf : ∀ d, tget 0 (f d).counters j = tget 0 d.counters j) :
    counterOf g j (s.modGrid g f) = counterOf g j s := by
  rw [counterOf, grid_modGrid_same, hf, counterOf]

theorem chipid_post (s : State) (die : Nat) (e : Event) : (s.post die e).chipid = s.chipid := by
  obtain ⟨a, b, q, h⟩ := post_eq s die e
  rw [h]

theorem chipid_addCounter (c k g n : Nat) (s : State) (i : Nat) : (addCounter c k g n s i).chipid = s.chipid := by
  simp only [addCounter, apply_ite State.chipid, chipid_post, State.modGrid_chipid, ite_self]

/-- Raising a counter, with whatever trip it causes, leaves the grid's other counters. -/
theorem counterOf_addCounter_ne {i j : Nat} (h : j ≠ i) (c k g n : Nat) (s : State) :
    counterOf g j (addCounter c k g n s i) = counterOf g j s := by
  have hset (v : W32) (r : Grid → List (Nat × Nat × Nat × Nat)) (s : State) :
      counterOf g j (s.modGrid g fun d => { d with counters := tset d.counters i v, recent := r d }) = counterOf g j s :=
    counterOf_modGrid s fun d => tget_tset_ne _ _ _ h
  have htrip (s : State) : counterOf g j (s.modGrid g fun d => { d with tripped := i :: d.tripped }) = counterOf g j s :=
    counterOf_modGrid s fun _ => rfl
  have hstat (v : W32) (s : State) : counterOf g j (s.modGrid g fun d => { d with fcntstat := v }) = counterOf g j s :=
    counterOf_modGrid s fun _ => rfl
  simp only [addCounter, apply_ite (counterOf g j), counterOf_msix, counterOf_post, hstat, htrip, ite_self]
  rw [hset _ (fun d => d.recent.filter (fun e => s.clk < e.1 + 256) ++ List.replicate n (s.clk, c, k, i)), ite_self]

/-- What raising a crew's counters leaves of the chip: its number, and its grid's other counters. -/
theorem bumpCounters_leaves {s : State} {c k : Nat} (hf : foreign s (s.crew c k) = false) (l : List Nat) :
    (bumpCounters s c k l).chipid = s.chipid ∧
      ∀ j, j ∉ l → counterOf (s.crew c k).grid j (bumpCounters s c k l) = counterOf (s.crew c k).grid j s := by
  rw [bumpCounters]
  simp only [hf, Bool.false_eq_true, if_false]
  induction l using List.reverseRecOn with
  | nil => exact ⟨rfl, fun _ _ => rfl⟩
  | append_singleton l i ih =>
    obtain ⟨hchip, hcnt⟩ := ih
    rw [List.foldl_append, List.foldl_cons, List.foldl_nil]
    refine ⟨(chipid_addCounter _ _ _ _ _ _).trans hchip, fun j hj => ?_⟩
    obtain ⟨hl, hi⟩ := not_or.1 (mt List.mem_append.2 hj)
    exact (counterOf_addCounter_ne (mt List.mem_singleton.2 hi) _ _ _ _ _).trans (hcnt j hl)

theorem tget_filter_not_contains {α : Type} (d : α) (t : Tab α) (l : List Nat) (j : Nat) :
    tget d (t.filter (fun e => !(l.contains e.1))) j = if j ∈ l then d else tget d t j := by
  induction t with
  | nil => simp
  | cons e t ih =>
    obtain ⟨i, v⟩ := e
    by_cases hi : i ∈ l
    · rw [List.filter_cons_of_neg (by simpa using hi), ih, tget]
      by_cases hij : i = j
      · subst hij
        simp [hi]
      · rw [if_neg hij]
    · rw [List.filter_cons_of_pos (by simpa using hi), tget, tget, ih]
      by_cases hij : i = j
      · subst hij
        simp [hi]
      · simp [hij]

theorem grid_sendNotes (s : State) (cs : List Nat) (b : Body) (g : Nat) : (cs.foldl (fun s chip => sendNote s chip b) s).grid g = s.grid g :=
  cs.foldlRecOn (motive := fun t : State => t.grid g = s.grid g) _ rfl fun _t ht _ _ => ht

/-- The named counters of the crew's grid are zero, and the others as they were (R159). -/
theorem counterOf_clearCounters {s : State} {c k : Nat} (hf : foreign s (s.crew c k) = false) (id : Nat) (l : List Nat) (j : Nat) :
    counterOf (s.crew c k).grid j (clearCounters c k id s l) = if j ∈ l then 0 else counterOf (s.crew c k).grid j s := by
  obtain ⟨hchip, hcnt⟩ := bumpCounters_leaves hf
    (((s.crew c k).results.filter (fun r => r.id < id)).flatMap (fun r => r.counts.filter l.contains))
  unfold clearCounters
  simp only
  rw [if_neg]
  · rw [counterOf, grid_sendNotes, zeroCounters, grid_modGrid_same]
    simp only [tget_filter_not_contains]
    by_cases hj : j ∈ l
    · rw [if_pos hj, if_pos hj]
    · rw [if_neg hj, if_neg hj]
      refine hcnt j fun hm => hj ?_
      obtain ⟨r, -, hr⟩ := List.mem_flatMap.1 hm
      exact List.contains_iff_mem.1 (List.mem_filter.1 hr).2
  · rw [foreign, State.modQuad_chipid, State.modCrew_chipid, hchip, ← foreign, hf]
    exact Bool.false_ne_true

theorem counterOf_writeResult {s : State} {c k : Nat} {r : Result} {l : List Nat} (hf : foreign s (s.crew c k) = false)
    (hwr : r.wr = [.cnt l]) (hc : r.counts = []) (j : Nat) :
    counterOf (s.crew c k).grid j (writeResult s c k r) = if j ∈ l then 0 else counterOf (s.crew c k).grid j s := by
  have hbump : bumpCounters s c k [] = s := by
    simp only [bumpCounters, hf, Bool.false_eq_true, if_false, List.foldl_nil]
  show counterOf (s.crew c k).grid j (countResult c k s r) = _
  rw [countResult, hc, hbump, hwr]
  simp only [List.flatMap_cons, List.flatMap_nil, List.append_nil, wrCnt]
  split
  next hnil =>
    rw [List.isEmpty_iff.1 hnil]
    exact (if_neg List.not_mem_nil).symm
  next => exact counterOf_clearCounters hf r.id l j

/-- Settles O16: each word leaves the one write that its lemma says, and the clear of FCNTCLR acts when its result is written. -/
theorem flagWords : Obligations.FlagWords := by
  refine ⟨fun w s x => ⟨flrd_reads, fun h => ⟨flagWord_writes h ?flclr, flagWord_writes h ?flset⟩⟩,
    fun w s x => ⟨fmode_writes, fun h => ⟨fmodeGet_reads h, fcntrd_reads h⟩, fcntclr_clears⟩, fun s c k r l => ?clear⟩
  case flclr => exact (show exec (.flclr w) s = execFlclr w s from rfl)
  case flset => exact (show exec (.flset w) s = execFlset w s from rfl)
  case clear =>
    intro w hfind hready hlo hwr hc hf
    exact ⟨_, resultWriteback_writes hfind hready hlo, counterOf_writeResult hf hwr hc⟩

end Sys2Proof.Machine

/-! ## Exact values as rational numbers (R131, R142, R143) -/

namespace Sys2Proof.Machine

/-- The number that a finite value stands for, and 0 for the others. -/
def XR.num : XR → ℚ
  | .fin g n e _ => (if g then -1 else 1) * n * 2 ^ e
  | _ => 0

/-- The value is no mere bound: it carries no sticky mark. -/
def XR.sharp : XR → Bool
  | .fin _ _ _ st => !st
  | _ => true

/-! ### Signs and zeros -/

@[simp] theorem isNan_negate (y : XR) : y.negate.isNan = y.isNan := by cases y <;> rfl
@[simp] theorem isInf_negate (y : XR) : y.negate.isInf = y.isInf := by cases y <;> rfl
@[simp] theorem sharp_negate (y : XR) : y.negate.sharp = y.sharp := by cases y <;> rfl
@[simp] theorem negate_negate (y : XR) : y.negate.negate = y := by cases y <;> simp [XR.negate]

theorem negIf_keeps (b : Bool) (y : XR) : (negIf b y).isNan = y.isNan ∧ (negIf b y).isInf = y.isInf ∧ (negIf b y).sharp = y.sharp := by
  cases b <;> simp [negIf]

theorem isZero_iff {y : XR} (hs : y.sharp = true) (hn : y.isNan = false) (hi : y.isInf = false) : y.isZero = true ↔ y.num = 0 := by
  cases y with
  | fin g n e st =>
    have h2 : (2 : ℚ) ^ e ≠ 0 := by positivity
    obtain rfl : st = false := by simpa [XR.sharp] using hs
    cases g <;> simp [XR.isZero, XR.num, h2]
  | nan => simp [XR.isNan] at hn
  | inf g => simp [XR.isInf] at hi

/-! ### Integers on a common exponent -/

theorem num_eq_asInt {q : Int} {y : XR} (hq : q ≤ y.exp) : y.num = y.asInt q * 2 ^ q := by
  cases y with
  | fin g n e st =>
    have he : (2 : ℚ) ^ e = 2 ^ (e - q).toNat * 2 ^ q := by
      rw [← zpow_natCast, Int.toNat_of_nonneg (sub_nonneg.2 (show q ≤ e from hq)), ← zpow_add₀ two_ne_zero, sub_add_cancel]
    cases g <;> simp [XR.num, XR.asInt, he] <;> ring
  | _ => simp [XR.num, XR.asInt]

/-- The common exponent lies below that of every term. -/
theorem foldl_min_le (l : List XR) (q : Int) :
    l.foldl (fun q t => min q t.exp) q ≤ q ∧ ∀ z ∈ l, l.foldl (fun q t => min q t.exp) q ≤ z.exp := by
  induction l generalizing q with
  | nil => exact ⟨le_refl q, fun _ h => absurd h List.not_mem_nil⟩
  | cons a l ih =>
    obtain ⟨hq, hl⟩ := ih (min q a.exp)
    refine ⟨hq.trans (min_le_left _ _), fun z hz => ?_⟩
    rcases List.mem_cons.1 hz with rfl | hz
    · exact hq.trans (min_le_right _ _)
    · exact hl z hz

theorem sum_num_eq {q : Int} {l : List XR} (h : ∀ z ∈ l, q ≤ z.exp) : (l.map XR.num).sum = ((l.map (XR.asInt q)).sum : Int) * 2 ^ q := by
  induction l with
  | nil => simp
  | cons a l ih =>
    obtain ⟨ha, hl⟩ := List.forall_mem_cons.1 h
    rw [List.map_cons, List.sum_cons, ih hl, num_eq_asInt ha, List.map_cons, List.sum_cons]
    push_cast
    ring

theorem num_signed (v : Int) (q : Int) : (XR.fin (v < 0) v.natAbs q false).num = v * 2 ^ q := by
  have habs : ((v.natAbs : Int) : ℚ) = |(v : ℚ)| := by rw [Int.natCast_natAbs, Int.cast_abs]
  rw [Int.cast_natCast] at habs
  by_cases h : v < 0
  · simp [XR.num, h, habs, abs_of_neg (Int.cast_lt_zero.2 h)]
  · simp [XR.num, h, habs, abs_of_nonneg (Int.cast_nonneg (not_lt.1 h))]

/-! ### Sums (R142) -/

/-- A sum with its invalid flag: infinities of both signs cancel, those of one sign stay, and a sum of 0 has the sign of R131. -/
def Sums (rnd : Nat) (l : List XR) (y : XR) (nv : Fl) : Prop :=
  if .inf false ∈ l ∧ .inf true ∈ l then y = .nan ∧ nv = flNV
  else nv = 0 ∧ if .inf false ∈ l then y = .inf false else if .inf true ∈ l then y = .inf true
    else ∃ g n e, y = .fin g n e false ∧ y.num = (l.map XR.num).sum ∧
      (n = 0 → g = if ∀ z ∈ l, z.num = 0 ∧ z.isNeg = true then true else if ∀ z ∈ l, z.num = 0 ∧ z.isNeg = false then false else rnd == 3)

theorem any_inf_iff (l : List XR) : (l.any (fun t => t.isInf && !t.isNeg) = true ↔ .inf false ∈ l) ∧
    (l.any (fun t => t.isInf && t.isNeg) = true ↔ .inf true ∈ l) := by
  have h (y : XR) : ((y.isInf && !y.isNeg) = true ↔ y = .inf false) ∧ ((y.isInf && y.isNeg) = true ↔ y = .inf true) := by
    cases y with
    | inf g => cases g <;> simp [XR.isInf, XR.isNeg]
    | _ => simp [XR.isInf]
  simp [List.any_eq_true, h]

/-- The sign of an exact zero (R131), over numbers. -/
theorem zeroSign_eq {l : List XR} (h : ∀ z ∈ l, z.isZero = true ↔ z.num = 0) (rnd : Nat) : zeroSign l rnd =
    XR.zero (if ∀ z ∈ l, z.num = 0 ∧ z.isNeg = true then true else if ∀ z ∈ l, z.num = 0 ∧ z.isNeg = false then false else rnd == 3) := by
  have hneg : l.all (fun t => t.isZero && t.isNeg) = true ↔ ∀ z ∈ l, z.num = 0 ∧ z.isNeg = true := by
    simp only [List.all_eq_true, Bool.and_eq_true]
    exact forall₂_congr fun z hz => and_congr_left' (h z hz)
  have hpos : l.all (fun t => t.isZero && !t.isNeg) = true ↔ ∀ z ∈ l, z.num = 0 ∧ z.isNeg = false := by
    simp only [List.all_eq_true, Bool.and_eq_true, Bool.not_eq_true']
    exact forall₂_congr fun z hz => and_congr_left' (h z hz)
  rw [zeroSign]
  simp only [hneg, hpos]
  split
  · rfl
  split <;> rfl

theorem sumX_sums {l : List XR} (hnan : ∀ z ∈ l, z.isNan = false) (hs : ∀ z ∈ l, z.sharp = true) (rnd : Nat) :
    Sums rnd l (sumX l rnd).1 (sumX l rnd).2 := by
  obtain ⟨hp, hn⟩ := any_inf_iff l
  simp only [Sums, sumX, Bool.and_eq_true, hp, hn]
  split
  · exact ⟨rfl, rfl⟩
  split
  · exact ⟨rfl, rfl⟩
  split
  · exact ⟨rfl, rfl⟩
  next h1 h2 =>
    have hfin : ∀ z ∈ l, z.isInf = false := by
      rintro (_ | g | _) hz
      · rfl
      · cases g <;> contradiction
      · rfl
    obtain ⟨-, hq⟩ := foldl_min_le l 0
    generalize l.foldl (fun q t => min q t.exp) 0 = q at hq ⊢
    have hsum := sum_num_eq hq
    generalize (l.map (XR.asInt q)).sum = v at hsum ⊢
    split
    next hv =>
      rw [hv] at hsum
      refine ⟨rfl, _, 0, 0, zeroSign_eq (fun z hz => isZero_iff (hs z hz) (hnan z hz) (hfin z hz)) rnd, ?_, fun _ => rfl⟩
      rw [hsum, zeroSign_eq fun z hz => isZero_iff (hs z hz) (hnan z hz) (hfin z hz)]
      simp [XR.zero, XR.num]
    next hv => exact ⟨rfl, _, _, _, rfl, (num_signed v q).trans hsum.symm, fun h0 => absurd (Int.natAbs_eq_zero.1 h0) hv⟩

/-! ### Products (R142) -/

/-- A product with its invalid flag. -/
def Multiplies (a b y : XR) (nv : Fl) : Prop :=
  if a.isInf = true ∧ b.isZero = true ∨ a.isZero = true ∧ b.isInf = true then y = .nan ∧ nv = flNV
  else nv = 0 ∧ if a.isInf = true ∨ b.isInf = true then y = .inf (a.isNeg != b.isNeg)
    else ∃ n e, y = .fin (a.isNeg != b.isNeg) n e false ∧ y.num = a.num * b.num

theorem num_mul (g h : Bool) (n m : Nat) (e d : Int) (s t : Bool) :
    (XR.fin (g != h) (n * m) (e + d) false).num = (XR.fin g n e s).num * (XR.fin h m d t).num := by
  have h2 : (2 : ℚ) ^ (e + d) = 2 ^ e * 2 ^ d := zpow_add₀ two_ne_zero e d
  cases g <;> cases h <;> simp [XR.num, h2] <;> ring

/-- The product of two values that are no NaN is NaN where an infinity meets a zero. -/
theorem mul_multiplies {a b : XR} (ha : a.isNan = false) (hb : b.isNan = false) :
    Multiplies a b (a.mul b) (if (a.mul b).isNan then flNV else 0) := by
  cases a with
  | nan => simp [XR.isNan] at ha
  | inf g =>
    cases b with
    | nan => simp [XR.isNan] at hb
    | inf h => simp [Multiplies, XR.mul, XR.isInf, XR.isZero, XR.isNan, XR.isNeg]
    | fin h m d t => cases hz : (m == 0 && !t) <;> simp [Multiplies, XR.mul, XR.isInf, XR.isZero, XR.isNan, XR.isNeg, hz]
  | fin g n e s =>
    cases b with
    | nan => simp [XR.isNan] at hb
    | inf h => cases hz : (n == 0 && !s) <;> simp [Multiplies, XR.mul, XR.isInf, XR.isZero, XR.isNan, XR.isNeg, hz]
    | fin h m d t =>
      simp only [Multiplies, XR.mul, XR.isInf, XR.isNan, XR.isNeg, Bool.false_eq_true, false_and, and_false, or_self, if_false]
      exact ⟨trivial, _, _, rfl, num_mul g h n m e d s t⟩

theorem mul_sharp {a b : XR} : (a.mul b).sharp = true := by
  unfold XR.mul
  split
  · rfl
  · rfl
  · rfl
  · split <;> rfl

/-! ### Order (R143) -/

/-- The order of two values with -0 below +0. -/
def XR.below (a b : XR) : Bool := decide (a = .inf true ∧ b ≠ .inf true ∨ b = .inf false ∧ a ≠ .inf false ∨
  a.isInf = false ∧ b.isInf = false ∧ (a.num < b.num ∨ a.num = b.num ∧ a.isNeg = true ∧ b.isNeg = false))

/-- Integers on a common exponent compare as their values do. -/
theorem asInt_lt_iff {a b : XR} {q : Int} (ha : q ≤ a.exp) (hb : q ≤ b.exp) :
    (a.asInt q < b.asInt q ↔ a.num < b.num) ∧ (a.asInt q = b.asInt q ↔ a.num = b.num) := by
  have h2 : (0 : ℚ) < 2 ^ q := by positivity
  rw [num_eq_asInt ha, num_eq_asInt hb, mul_lt_mul_iff_left₀ h2, mul_left_inj' h2.ne', Int.cast_lt, Int.cast_inj]
  exact ⟨Iff.rfl, Iff.rfl⟩

theorem ltX_finite {a b : XR} (ha : a.isInf = false) (hb : b.isInf = false) (zeros : Bool) :
    ltX zeros a b = (decide (a.num < b.num) || (zeros && decide (a.num = b.num) && a.isNeg && !b.isNeg)) := by
  obtain ⟨hlt, heq⟩ := asInt_lt_iff (min_le_left a.exp b.exp) (min_le_right a.exp b.exp)
  have h : ltX zeros a b = (decide (a.asInt (min a.exp b.exp) < b.asInt (min a.exp b.exp)) ||
      (zeros && a.asInt (min a.exp b.exp) == b.asInt (min a.exp b.exp) && a.isNeg && !b.isNeg)) := by
    cases a with
    | inf g => simp [XR.isInf] at ha
    | nan | fin g n e s =>
      cases b with
      | inf g => simp [XR.isInf] at hb
      | nan | fin h m d t => rfl
  rw [h, beq_eq_decide]
  simp only [hlt, heq]

theorem ltX_below {a b : XR} (ha : a.isNan = false) (hb : b.isNan = false) : ltX true a b = a.below b := by
  cases a with
  | nan => simp [XR.isNan] at ha
  | inf g =>
    cases b with
    | nan => simp [XR.isNan] at hb
    | inf h => cases g <;> cases h <;> simp [ltX, XR.below, XR.isInf]
    | fin h m d t => cases g <;> simp [ltX, XR.below, XR.isInf]
  | fin g n e s =>
    cases b with
    | nan => simp [XR.isNan] at hb
    | inf h => cases h <;> simp [ltX, XR.below, XR.isInf]
    | fin h m d t =>
      rw [ltX_finite rfl rfl, Bool.eq_iff_iff]
      simp [XR.below, XR.isInf, and_assoc]

/-- minimumNumber and maximumNumber of two values, by their order. -/
def XR.lower (a b : XR) : XR := if a.isNan then b else if b.isNan then a else if b.below a then b else a
def XR.upper (a b : XR) : XR := if a.isNan then b else if b.isNan then a else if b.below a then a else b

theorem minNum_eq (a b : XR) : minNum false a b = a.lower b ∧ minNum true a b = a.upper b := by
  unfold minNum XR.lower XR.upper
  by_cases ha : a.isNan = true
  · simp [ha]
  by_cases hb : b.isNan = true
  · simp [ha, hb]
  rw [ltX_below (by simpa using hb) (by simpa using ha)]
  cases b.below a <;> simp [ha, hb]

/-! ### Magnitudes -/

theorem abs_num (g : Bool) (n : Nat) (e : Int) (s : Bool) : |(XR.fin g n e s).num| = n * 2 ^ e := by
  have h2 : (0 : ℚ) < 2 ^ e := by positivity
  cases g <;> simp [XR.num, abs_mul, abs_of_pos h2]

/-- The exponent of a number by its length (R147). -/
theorem log2X_bounds {n : Nat} (hn : n ≠ 0) (g : Bool) (e : Int) (s : Bool) : let y := XR.fin g n e s
    (2 : ℚ) ^ log2X y ≤ |y.num| ∧ |y.num| < 2 ^ (log2X y + 1) := by
  have h2 : (0 : ℚ) < 2 ^ e := by positivity
  have hlog : log2X (XR.fin g n e s) = (Nat.log2 n : Int) + e := by simp [log2X, numLen, hn]
  have hlo : ((2 ^ Nat.log2 n : Nat) : ℚ) ≤ n := Nat.cast_le.2 (Nat.log2_self_le hn)
  have hhi : (n : ℚ) < (2 ^ (Nat.log2 n + 1) : Nat) := Nat.cast_lt.2 Nat.lt_log2_self
  push_cast at hlo hhi
  simp only [abs_num, hlog, zpow_add₀ (two_ne_zero' ℚ), zpow_natCast, zpow_one]
  rw [mul_right_comm]
  exact ⟨mul_le_mul_of_nonneg_right hlo h2.le, mul_lt_mul_of_pos_right (by rwa [pow_succ] at hhi) h2⟩

/-- What RND asks of a magnitude `v` rounded to an integer `m` (R130): to nearest with ties to even, toward 0, down, up. -/
def RoundsTo (rnd : Nat) (g : Bool) (v : ℚ) (m : Nat) : Prop :=
  (rnd = 1 → |v - m| ≤ 1 / 2 ∧ (|v - m| = 1 / 2 → m % 2 = 0)) ∧ (rnd = 2 → m = ⌊v⌋₊) ∧
    (rnd = 3 → m = if g then ⌈v⌉₊ else ⌊v⌋₊) ∧ (rnd = 4 → m = if g then ⌊v⌋₊ else ⌈v⌉₊)

theorem roundsTo_self (rnd : Nat) (g : Bool) (m : Nat) : RoundsTo rnd g m m := by
  refine ⟨fun _ => ?_, fun _ => (Nat.floor_natCast m).symm, fun _ => ?_, fun _ => ?_⟩
  · rw [sub_self, abs_zero]
    norm_num
  · rw [Nat.ceil_natCast, Nat.floor_natCast, ite_self]
  · rw [Nat.ceil_natCast, Nat.floor_natCast, ite_self]

/-- A magnitude between two integers, as its fraction of halves says: with `r` of `2 * half` parts above `m`. -/
theorem roundsTo_between {half r : Nat} (hr : r < 2 * half) (rnd : Nat) (g : Bool) (m : Nat) : RoundsTo rnd g (m + (r : ℚ) / (2 * half : Nat))
    (if (if rnd = 1 then decide (half < r) || (r == half && (m % 2 == 1)) else if rnd = 3 then g && (r != 0)
      else if rnd = 4 then !g && (r != 0) else if rnd = 5 then (r != 0) && (m % 2 == 0) else false) then m + 1 else m) := by
  have hd : (0 : ℚ) < half := by
    rw [Nat.cast_pos]
    omega
  have h1 : (r : ℚ) / (2 * half : Nat) < 1 := by
    rw [div_lt_one (by push_cast; linarith)]
    exact_mod_cast hr
  have h0 : (0 : ℚ) ≤ (r : ℚ) / (2 * half : Nat) := by positivity
  have hhalf : ((r : ℚ) / (2 * half : Nat) < 1 / 2 ↔ r < half) ∧ ((r : ℚ) / (2 * half : Nat) = 1 / 2 ↔ r = half) := by
    push_cast
    rw [div_lt_div_iff₀ (by linarith) two_pos, div_eq_div_iff (by linarith) two_ne_zero]
    constructor
    · rw [← Nat.cast_lt (α := ℚ)]
      constructor <;> intro h <;> linarith
    · rw [← Nat.cast_inj (R := ℚ)]
      constructor <;> intro h <;> linarith
  have hzero : (r : ℚ) / (2 * half : Nat) = 0 ↔ r = 0 := by
    push_cast
    rw [div_eq_zero_iff, Nat.cast_eq_zero]
    exact or_iff_left (by linarith)
  generalize (r : ℚ) / (2 * half : Nat) = t at *
  have hfloor : ⌊(m : ℚ) + t⌋₊ = m := (Nat.floor_eq_iff (by positivity)).2 ⟨by linarith, by linarith⟩
  have hceil : ⌈(m : ℚ) + t⌉₊ = if r = 0 then m else m + 1 := by
    split
    next hr0 => rw [hzero.2 hr0, add_zero, Nat.ceil_natCast]
    next hr0 =>
      have ht : 0 < t := lt_of_le_of_ne h0 fun h => hr0 (hzero.1 h.symm)
      refine (Nat.ceil_eq_iff (Nat.succ_ne_zero m)).2 ⟨?_, ?_⟩ <;> push_cast <;> linarith
  refine ⟨?nearest, ?zero, ?down, ?up⟩
  case nearest =>
    rintro rfl
    obtain ⟨hlt, heq⟩ := hhalf
    rcases lt_trichotomy r half with h | h | h
    · have hup : (decide (half < r) || (r == half && (m % 2 == 1))) = false := by simp [h.not_gt, h.ne]
      have ht := hlt.2 h
      simp only [if_true, hup, Bool.false_eq_true, if_false]
      rw [add_sub_cancel_left, abs_of_nonneg h0]
      exact ⟨ht.le, fun h' => absurd h' ht.ne⟩
    · have ht := heq.2 h
      simp only [if_true, h, lt_irrefl, decide_false, beq_self_eq_true, Bool.true_and, Bool.false_or, beq_iff_eq]
      split
      next hodd =>
        rw [ht, Nat.cast_succ, show (m : ℚ) + 1 / 2 - (m + 1) = -(1 / 2) by ring, abs_neg, abs_of_pos one_half_pos]
        exact ⟨le_refl _, fun _ => by omega⟩
      next heven =>
        rw [ht, add_sub_cancel_left, abs_of_pos one_half_pos]
        exact ⟨le_refl _, fun _ => by omega⟩
    · have ht : 1 / 2 < t := lt_of_le_of_ne (not_lt.1 fun h' => absurd (hlt.1 h') h.not_gt) fun h' => absurd (heq.1 h'.symm) h.ne'
      simp only [if_true, h, decide_true, Bool.true_or]
      rw [Nat.cast_succ, show (m : ℚ) + t - (m + 1) = -(1 - t) by ring, abs_neg, abs_of_pos (by linarith)]
      exact ⟨by linarith, fun h' => by linarith⟩
  case zero =>
    rintro rfl
    simpa using hfloor.symm
  case down =>
    rintro rfl
    rw [hfloor, hceil]
    cases g <;> by_cases hr0 : r = 0 <;> simp [hr0]
  case up =>
    rintro rfl
    rw [hfloor, hceil]
    cases g <;> by_cases hr0 : r = 0 <;> simp [hr0]

theorem toIntegral_rounds (rnd : Nat) (g : Bool) (n : Nat) (e : Int) :
    RoundsTo rnd g |(XR.fin g n e false).num| (toIntegral rnd (.fin g n e false)).1 := by
  rw [abs_num, toIntegral, roundMag]
  split
  next he =>
    obtain ⟨k, rfl⟩ := Int.eq_ofNat_of_zero_le he
    have hv : (n : ℚ) * 2 ^ (k : Int) = (n * 2 ^ k : Nat) := by push_cast; rw [zpow_natCast]
    rw [hv]
    simp only [sub_zero, Int.toNat_natCast]
    exact roundsTo_self rnd g _
  next he =>
    obtain ⟨k, rfl⟩ : ∃ k : Nat, e = -((k + 1 : Nat) : Int) := ⟨(-e - 1).toNat, by omega⟩
    have hsh : (0 - -((k + 1 : Nat) : Int)).toNat = k + 1 := by omega
    have hd : (0 : ℚ) < (2 * 2 ^ k : Nat) := by positivity
    have hv : (n : ℚ) * 2 ^ (-((k + 1 : Nat) : Int)) = (n / (2 * 2 ^ k) : Nat) + ((n % (2 * 2 ^ k) : Nat) : ℚ) / (2 * 2 ^ k : Nat) := by
      have hn : ((2 * 2 ^ k * (n / (2 * 2 ^ k)) + n % (2 * 2 ^ k) : Nat) : ℚ) = n := congrArg _ (Nat.div_add_mod n (2 * 2 ^ k))
      rw [zpow_neg, zpow_natCast, ← div_eq_mul_inv, pow_succ', ← hn]
      push_cast at hd ⊢
      field_simp
    rw [hv]
    simp only [hsh, pow_succ', Nat.add_sub_cancel, Bool.or_false, Bool.false_or]
    exact roundsTo_between (Nat.mod_lt _ (by positivity)) rnd g (n / (2 * 2 ^ k))

end Sys2Proof.Machine

/-! ## Float arithmetic, minimum to median, saturation, rounding and splitting (R142, R143, R147) -/

namespace Sys2Proof.Machine

/-! ### Elements (R126) -/

/-- The places of a register's elements. -/
def places (t : Nat) : List Nat := if t = 20 ∨ t = 21 then [0, 16] else [0]

/-- The value of the element at a place. -/
def element (f : Nat) (flush : Bool) (v h : Nat) : XR := decodeF f flush (bf v h (if f = 0 then 32 else 16))

/-- A lane's result whose elements stand in a relation to those of its sources. -/
def Elementwise (t : Nat) (flush : Bool) (el : XR → XR → XR → Nat → Fl → List Nat → Prop) (a b c : Nat) (q : FRes) : Prop :=
  ∃ (r : Nat → Nat) (fl : Nat → Fl) (cs : Nat → List Nat),
    (∀ h ∈ places t, el (element (fcode t) flush a h) (element (fcode t) flush b h) (element (fcode t) flush c h) (r h) (fl h) (cs h)) ∧
    q.val = ((places t).map (fun h => r h * 2 ^ h)).sum ∧ q.fl = (places t).foldl (fun v h => v ||| fl h) 0 ∧ q.counts = (places t).flatMap cs

theorem decodeF_bf {f n : Nat} (hf : f ≠ 8) (hn : fmtX f + fmtM f < n) (flush : Bool) (v : Nat) :
    decodeF f flush (bf v 0 n) = decodeF f flush v := by
  simp only [decodeF, if_neg hf, bit_eq_bf]
  rw [bf_bf _ _ _ _ _ (by omega), bf_bf _ _ _ _ _ (by omega), bf_bf _ _ _ _ _ (by omega)]
  simp only [Nat.zero_add]

theorem fcode_packed {t : Nat} (h : packed t = true) : fcode t ≠ 0 := by
  simp only [packed, Bool.or_eq_true, decide_eq_true_eq] at h
  rcases h with rfl | rfl <;> decide

theorem elementwise_perHalf {t : Nat} (ht : t ∈ [0, 1, 2, 20, 21]) {flush : Bool} {el : XR → XR → XR → Nat → Fl → List Nat → Prop} {E : FElem}
    (hE : ∀ a b c, let q := E (fcode t) a b c
      el (decodeF (fcode t) flush a) (decodeF (fcode t) flush b) (decodeF (fcode t) flush c) q.val q.fl q.counts) (a b c : Nat) :
    Elementwise t flush el a b c (perHalf t E a b c) := by
  cases hp : packed t with
  | false =>
    have hpl : places t = [0] := if_neg (by simpa [packed] using hp)
    have helem (v : Nat) : element (fcode t) flush v 0 = decodeF (fcode t) flush v := by
      simp only [List.mem_cons, List.not_mem_nil, or_false] at ht
      rcases ht with rfl | rfl | rfl | rfl | rfl <;> exact decodeF_bf (by decide) (by decide) _ _
    rw [perHalf_scalar hp]
    refine ⟨fun _ => (E (fcode t) a b c).val, fun _ => (E (fcode t) a b c).fl, fun _ => (E (fcode t) a b c).counts, ?_⟩
    rw [hpl]
    simp [helem, hE]
  | true =>
    have hpl : places t = [0, 16] := if_pos (by simpa [packed] using hp)
    have helem (v h : Nat) : element (fcode t) flush v h = decodeF (fcode t) flush (bf v h 16) := by
      rw [element, if_neg (fcode_packed hp)]
    rw [perHalf_packed hp]
    refine ⟨fun h => (E (fcode t) (bf a h 16) (bf b h 16) (bf c h 16)).val, fun h => (E (fcode t) (bf a h 16) (bf b h 16) (bf c h 16)).fl,
      fun h => (E (fcode t) (bf a h 16) (bf b h 16) (bf c h 16)).counts, ?_⟩
    rw [hpl]
    simp [helem, hE]

section
variable {i : Instr} {w : Op} {s : State} {x : Ctx} {lat : Nat} {G : FLane} {E : FElem} {el : XR → XR → XR → Nat → Fl → List Nat → Prop}

/-- A word that works on each element gives what its element function does. -/
theorem givesF_elements (hty : w.ty ∈ [0, 1, 2, 20, 21]) (h : Ready s x w {} (uniformProducing w)) (hi : exec i s = fWord w lat G s)
    (hG : G (s.at x).env w.ty w.m w.opt = perHalf w.ty E) (hE : ∀ a b c, let D := decodeF (fcode w.ty) ((s.at x).env.ftz (fcode w.ty))
      let q := E (fcode w.ty) a b c
      el (D a) (D b) (D c) q.val q.fl q.counts) :
    GivesF i s x w lat (Elementwise w.ty ((s.at x).env.ftz (fcode w.ty)) el) :=
  givesF_fWord h hi fun a b c => by
    rw [hG]
    exact elementwise_perHalf hty hE a b c

end

/-- FTZ of a format, in FPMODE's bits (R133, R136). -/
theorem ftz_env (k : Crew) {f : Nat} (hf : f = 0 ∨ f = 1 ∨ f = 2) : k.env.ftz f = bit k.fpmode.toNat (if f = 0 then 4 else 5) := by
  rcases hf with rfl | rfl | rfl <;> rfl

theorem decodeF_sharp (f : Nat) (flush : Bool) (v : Nat) : (decodeF f flush v).sharp = true := by
  simp only [decodeF]
  repeat' split
  all_goals rfl

/-! ### Rounding, saturation and counts (R132, R137, R142) -/

/-- Sat01 (R142) by the number that a pattern stands for. -/
def saturated (f r : Nat) : Nat :=
  let y := decodeF f false r
  if y.isNan = true ∨ y.isNeg = true ∨ y.isZero = true then 0 else if y.isInf = true ∨ 1 < y.num then fmtOne f else r

theorem sat01_eq (f r : Nat) : sat01 f r = saturated f r := by
  have hone : (XR.fin false 1 0 false).num = 1 := by simp [XR.num]
  have hlt : (decodeF f false r).isNan = false → (decodeF f false r).isNeg = false →
      (ltX false (.fin false 1 0 false) (decodeF f false r) = true ↔ (decodeF f false r).isInf = true ∨ 1 < (decodeF f false r).num) := by
    cases decodeF f false r with
    | nan => simp [XR.isNan]
    | inf g => cases g <;> simp [XR.isNeg, XR.isInf, ltX]
    | fin g n e st => simp [ltX_finite (a := .fin false 1 0 false) (b := .fin g n e st) rfl rfl, hone, XR.isInf]
  simp only [sat01, saturated, Bool.or_eq_true, or_assoc]
  split
  · rfl
  next h =>
    simp only [not_or, Bool.not_eq_true] at h
    simp only [hlt h.1 h.2.1]

/-- The count of a NaN result. -/
def nanCount (f r : Nat) : List Nat := if (decodeF f false r).isNan then [f * 4] else []

/-- A value rounded once, saturated, with its flags and counts. -/
def Rounded (v : FpEnv) (f rnd : Nat) (sat inf : Bool) (ok : XR → Fl → Prop) (r : Nat) (fl : Fl) (cs : List Nat) : Prop :=
  ∃ y nv, ok y nv ∧
    let o := roundTo (v.ftz f) y f rnd false
    r = (if sat then saturated f o.1 else o.1) ∧ fl = o.2 ||| nv ∧
    cs = nanCount f r ++ (if (decodeF f false r).isInf && !inf then [f * 4 + 1] else []) ++
      (if fl.getLsbD 2 then [f * 4 + 2] else []) ++ (if fl.getLsbD 1 then [f * 4 + 3] else [])

theorem eventsOf_eq (f : Nat) (nan inf : Bool) (fl : Fl) : eventsOf f nan inf fl = (if nan then [f * 4] else []) ++
    (if inf then [f * 4 + 1] else []) ++ (if fl.getLsbD 2 then [f * 4 + 2] else []) ++ (if fl.getLsbD 1 then [f * 4 + 3] else []) := by
  have hbits : (fl &&& flOF != 0) = fl.getLsbD 2 ∧ (fl &&& flUF != 0) = fl.getLsbD 1 := by
    revert fl
    decide
  rw [eventsOf, hbits.1, hbits.2]

theorem finish_rounded {v : FpEnv} {f rnd : Nat} {sat inf : Bool} {ok : XR → Fl → Prop} {o : XR × Fl} (hok : ok o.1 o.2) :
    let q := finish v f rnd sat o inf
    Rounded v f rnd sat inf ok q.val q.fl q.counts := by
  refine ⟨o.1, o.2, hok, ?_⟩
  simp only [finish, countOf, eventsOf_eq, sat01_eq, nanCount, and_self]

/-! ### Arithmetic (R142) -/

theorem negIf_bne (n sub : Bool) (y : XR) : negIf (n != sub) y = if sub then (negIf n y).negate else negIf n y := by
  cases n <;> cases sub <;> simp [negIf]

/-- A sum of two values, one of which may be a NaN. -/
theorem dotX_adds {a b : XR} (ha : a.sharp = true) (hb : b.sharp = true) (rnd : Nat) : let o := dotX [] [a, b] rnd
    if a.isNan = true ∨ b.isNan = true then o.1 = .nan ∧ o.2 = 0 else Sums rnd [a, b] o.1 o.2 := by
  split
  next h => simp [dotX, h]
  next h =>
    simp only [not_or, Bool.not_eq_true] at h
    have hdot : dotX [] [a, b] rnd = sumX [a, b] rnd := by simp [dotX, h]
    simp only [hdot]
    exact sumX_sums (by simp [h]) (by simp [ha, hb]) rnd

/-- A single term keeps its sign in a sum. -/
theorem sumX_single (g : Bool) (n : Nat) (e : Int) (rnd : Nat) : ∃ m d, sumX [.fin g n e false] rnd = (.fin g m d false, 0) ∧
    (XR.fin g m d false).num = (XR.fin g n e false).num := by
  by_cases hn : n = 0
  · subst hn
    refine ⟨0, 0, ?_, by simp [XR.num]⟩
    cases g <;> simp [sumX, zeroSign, XR.zero, XR.asInt, XR.isInf, XR.isZero, XR.isNeg]
  · have hnum := num_eq_asInt (q := min 0 e) (y := .fin g n e false) (min_le_right _ _)
    have hsign : decide ((XR.fin g n e false).asInt (min 0 e) < 0) = g ∧ (XR.fin g n e false).asInt (min 0 e) ≠ 0 := by
      have hpos : 0 < n * 2 ^ (e - min 0 e).toNat := by positivity
      cases g <;> simp only [XR.asInt, Bool.false_eq_true, if_false, if_true, decide_eq_true_eq, decide_eq_false_iff_not] <;> omega
    have hsum : sumX [.fin g n e false] rnd = if (XR.fin g n e false).asInt (min 0 e) = 0 then (zeroSign [.fin g n e false] rnd, 0)
        else (.fin ((XR.fin g n e false).asInt (min 0 e) < 0) ((XR.fin g n e false).asInt (min 0 e)).natAbs (min 0 e) false, 0) := by
      simp [sumX, XR.isInf, XR.exp]
    rw [hsum, if_neg hsign.2, hsign.1]
    refine ⟨_, _, rfl, ?_⟩
    rw [hnum, ← num_signed, hsign.1]

/-- A finite product has its sign and its number, whatever their spelling. -/
theorem Multiplies.respell {a b : XR} {g : Bool} {n m : Nat} {e d : Int} (h : Multiplies a b (.fin g n e false) 0)
    (hnum : (XR.fin g m d false).num = (XR.fin g n e false).num) : Multiplies a b (.fin g m d false) 0 := by
  unfold Multiplies at h ⊢
  split at h
  · cases h.1
  next h1 =>
    rw [if_neg h1]
    obtain ⟨h0, h⟩ := h
    split at h
    · cases h
    next h2 =>
      obtain ⟨k, c, hk, hmul⟩ := h
      obtain ⟨rfl, -, -⟩ := XR.fin.inj hk
      exact ⟨rfl, by rw [if_neg h2]; exact ⟨m, d, rfl, hnum.trans hmul⟩⟩

/-- A product rounded by itself (FMUL). -/
theorem dotX_product {a b : XR} (rnd : Nat) : let o := dotX [(a, b)] [] rnd
    if a.isNan = true ∨ b.isNan = true then o.1 = .nan ∧ o.2 = 0 else Multiplies a b o.1 o.2 := by
  split
  next h => simp [dotX, h]
  next h =>
    simp only [not_or, Bool.not_eq_true] at h
    have hmul := mul_multiplies h.1 h.2
    have hs : (a.mul b).sharp = true := mul_sharp
    have hdot : dotX [(a, b)] [] rnd = if (a.mul b).isNan then (.nan, flNV) else sumX [a.mul b] rnd := by simp [dotX, h]
    rw [hdot]
    generalize a.mul b = p at *
    cases p with
    | nan => exact hmul
    | inf g => cases g <;> exact hmul
    | fin g n e st =>
      obtain rfl : st = false := by simpa [XR.sharp] using hs
      obtain ⟨m, d, hsum, hnum⟩ := sumX_single g n e rnd
      simp only [XR.isNan, Bool.false_eq_true, if_false, hsum] at hmul ⊢
      exact hmul.respell hnum

/-- A product and an addend rounded once (FFMA): 0 times infinity is invalid even beside a NaN. -/
theorem fma_sums {a b c : XR} (hc : c.sharp = true) (rnd : Nat) :
    let o := if !a.isNan && !b.isNan && (a.mul b).isNan then (.nan, flNV) else dotX [(a, b)] [c] rnd
    if a.isNan = true ∨ b.isNan = true then o.1 = .nan ∧ o.2 = 0
    else ∃ p v, Multiplies a b p v ∧
      if p = .nan then o.1 = .nan ∧ o.2 = v else if c.isNan then o.1 = .nan ∧ o.2 = 0 else Sums rnd [p, c] o.1 o.2 := by
  intro o
  split
  next h =>
    have ho : o = dotX [(a, b)] [c] rnd := if_neg (by rcases h with h | h <;> simp [h])
    rw [ho]
    simp [dotX, h]
  next h =>
    simp only [not_or, Bool.not_eq_true] at h
    refine ⟨_, _, mul_multiplies h.1 h.2, ?_⟩
    have ho : o = if (a.mul b).isNan then (.nan, flNV) else if c.isNan then (.nan, 0) else sumX [a.mul b, c] rnd := by
      by_cases hp : (a.mul b).isNan = true
      · simp [o, h, hp]
      · by_cases hcn : c.isNan = true <;> simp [o, h, hp, hcn, dotX]
    rw [ho]
    have hs : (a.mul b).sharp = true := mul_sharp
    generalize a.mul b = p at *
    by_cases hp : p = .nan
    · subst hp
      exact ⟨rfl, rfl⟩
    · have hpn : p.isNan = false := by cases p <;> trivial
      rw [if_neg hp, hpn, if_neg Bool.false_ne_true]
      split
      · exact ⟨rfl, rfl⟩
      next hcn => exact sumX_sums (by simp [hpn, hcn]) (by simp [hs, hc]) rnd

/-! ### Minimum, maximum and median by the order of numbers (R143) -/

theorem fFmin_lower : fFmin = pick2 fun a b _ => a.lower b := by simp only [fFmin, minNum_eq]

theorem fFmax_upper : fFmax = pick2 fun a b _ => a.upper b := by simp only [fFmax, minNum_eq]

theorem fFminm_lower : fFminm = pick2 fun a b _ => if a.isNan || b.isNan then .nan else a.lower b := by
  simp only [fFminm, minNan, minNum_eq]

theorem fFmaxm_upper : fFmaxm = pick2 fun a b _ => if a.isNan || b.isNan then .nan else a.upper b := by
  simp only [fFmaxm, minNan, minNum_eq]

theorem fFmed3_middle : fFmed3 = pick2 fun a b c => (a.lower b).upper ((a.upper b).lower c) := by simp only [fFmed3, minNum_eq]

section
variable {w : Op} {s : State} {x : Ctx} (hty : w.ty ∈ [0, 1, 2, 20, 21]) (h : Ready s x w {} (uniformProducing w))
include hty h

theorem fSum_rounds {i : Instr} {sub : Bool} (hi : exec i s = fWord w 6 (fSum sub) s) : let v := (s.at x).env
    let f := fcode w.ty
    GivesF i s x w 6 (Elementwise w.ty (v.ftz f) fun a b _ => Rounded v f (v.mode w.m) (bit w.m 3) (a.isInf || b.isInf) fun y nv =>
      if a.isNan = true ∨ b.isNan = true then y = .nan ∧ nv = 0
      else Sums (v.mode w.m) [negIf (bit w.opt 0) a, if sub then (negIf (bit w.opt 1) b).negate else negIf (bit w.opt 1) b] y nv) := by
  refine givesF_elements hty h hi rfl fun a b c => ?_
  obtain ⟨han, hai, has⟩ := negIf_keeps (bit w.opt 0) (decodeF (fcode w.ty) ((s.at x).env.ftz (fcode w.ty)) a)
  obtain ⟨hbn, hbi, hbs⟩ := negIf_keeps (bit w.opt 1 != sub) (decodeF (fcode w.ty) ((s.at x).env.ftz (fcode w.ty)) b)
  have hsum := dotX_adds (has.trans (decodeF_sharp _ _ _)) (hbs.trans (decodeF_sharp _ _ _)) ((s.at x).env.mode w.m)
  rw [han, hbn] at hsum
  simp only [← negIf_bne, ← hai, ← hbi]
  exact finish_rounded hsum

theorem fmul_rounds : let v := (s.at x).env
    let f := fcode w.ty
    GivesF (.fmul w) s x w 6 (Elementwise w.ty (v.ftz f) fun a b _ => Rounded v f (v.mode w.m) (bit w.m 3) (a.isInf || b.isInf) fun y nv =>
      if a.isNan = true ∨ b.isNan = true then y = .nan ∧ nv = 0 else Multiplies (negIf (bit w.opt 0) a) (negIf (bit w.opt 1) b) y nv) := by
  refine givesF_elements hty h (show exec (.fmul w) s = execFmul w s from rfl) rfl fun a b c => ?_
  obtain ⟨han, hai, -⟩ := negIf_keeps (bit w.opt 0) (decodeF (fcode w.ty) ((s.at x).env.ftz (fcode w.ty)) a)
  obtain ⟨hbn, hbi, -⟩ := negIf_keeps (bit w.opt 1) (decodeF (fcode w.ty) ((s.at x).env.ftz (fcode w.ty)) b)
  have hmul := dotX_product (a := negIf (bit w.opt 0) (decodeF (fcode w.ty) ((s.at x).env.ftz (fcode w.ty)) a))
    (b := negIf (bit w.opt 1) (decodeF (fcode w.ty) ((s.at x).env.ftz (fcode w.ty)) b)) ((s.at x).env.mode w.m)
  rw [han, hbn] at hmul
  simp only [← hai, ← hbi]
  exact finish_rounded hmul

theorem ffma_rounds : let v := (s.at x).env
    let f := fcode w.ty
    GivesF (.ffma w) s x w 6 (Elementwise w.ty (v.ftz f) fun a b c =>
      Rounded v f (v.mode w.m) (bit w.m 3) (a.isInf || b.isInf || c.isInf) fun y nv =>
        if a.isNan = true ∨ b.isNan = true then y = .nan ∧ nv = 0
        else ∃ p u, Multiplies (negIf (bit w.opt 0) a) b p u ∧
          if p = .nan then y = .nan ∧ nv = u else if c.isNan then y = .nan ∧ nv = 0
          else Sums (v.mode w.m) [p, negIf (bit w.opt 1) c] y nv) := by
  refine givesF_elements hty h (show exec (.ffma w) s = execFfma w s from rfl) rfl fun a b c => ?_
  obtain ⟨han, hai, -⟩ := negIf_keeps (bit w.opt 0) (decodeF (fcode w.ty) ((s.at x).env.ftz (fcode w.ty)) a)
  obtain ⟨hcn, hci, hcs⟩ := negIf_keeps (bit w.opt 1) (decodeF (fcode w.ty) ((s.at x).env.ftz (fcode w.ty)) c)
  have hsum := fma_sums (a := negIf (bit w.opt 0) (decodeF (fcode w.ty) ((s.at x).env.ftz (fcode w.ty)) a))
    (b := decodeF (fcode w.ty) ((s.at x).env.ftz (fcode w.ty)) b) (hcs.trans (decodeF_sharp _ _ _)) ((s.at x).env.mode w.m)
  simp only [han, hcn] at hsum
  simp only [← hai, ← hci]
  refine finish_rounded ?_
  simp only [han]
  exact hsum

/-! ### Words that pick a source (R143) -/

theorem pick2_picks {i : Instr} {G : FLane} {g : XR → XR → XR → XR} (hi : exec i s = fWord w 4 G s) (hG : G = pick2 g) : let f := fcode w.ty
    GivesF i s x w 4 (Elementwise w.ty ((s.at x).env.ftz f) fun a b c r fl cs => r = encodeF f (g a b c) ∧ fl = 0 ∧ cs = nanCount f r) :=
  givesF_elements hty h hi (by rw [hG]; rfl) fun _ _ _ => ⟨rfl, rfl, by simp [eventsOf, nanCount]⟩

theorem fsat_saturates : let f := fcode w.ty
    GivesF (.fsat w) s x w 4 (Elementwise w.ty ((s.at x).env.ftz f) fun a _ _ r fl cs => r = saturated f (encodeF f a) ∧ fl = 0 ∧ cs = []) :=
  givesF_elements hty h (show exec (.fsat w) s = execFsat w s from rfl) rfl fun _ _ _ => ⟨sat01_eq _ _, rfl, rfl⟩

/-! ### Rounding to an integer and splitting (R147) -/

/-- A value rounded to an integer of its own format. -/
def Integral (f rnd : Nat) (a : XR) (r : Nat) : Prop :=
  match a with
  | .fin g _ _ _ => ∃ m : Nat, r = encodeF f (.fin g m 0 false) ∧ RoundsTo rnd g |a.num| m
  | y => r = encodeF f y

theorem frnd_rounds : let v := (s.at x).env
    let f := fcode w.ty
    GivesF (.frnd w) s x w 6 (Elementwise w.ty (v.ftz f) fun a _ _ r fl cs =>
      fl = 0 ∧ cs = nanCount f r ∧ Integral f (v.mode w.m) a r) := by
  refine givesF_elements hty h (show exec (.frnd w) s = execFrnd w s from rfl) rfl fun a b c => ?_
  refine ⟨rfl, by simp [eventsOf, nanCount], ?_⟩
  have hs := decodeF_sharp (fcode w.ty) ((s.at x).env.ftz (fcode w.ty)) a
  simp only
  generalize decodeF (fcode w.ty) ((s.at x).env.ftz (fcode w.ty)) a = y at *
  cases y with
  | nan => rfl
  | inf g => rfl
  | fin g n e st =>
    obtain rfl : st = false := by simpa [XR.sharp] using hs
    exact ⟨_, rfl, toIntegral_rounds _ g n e⟩

end

/-- The exponent that FFRX.exp writes (R147). -/
def Exponent (y : XR) (r : Nat) : Prop :=
  match y with
  | .nan => r = 0x80000000
  | .inf _ => r = 0x7FFFFFFF
  | .fin _ n _ _ => if n = 0 then r = 0 else ∃ e : ℤ, 2 ^ e ≤ |y.num| ∧ |y.num| < 2 ^ (e + 1) ∧ (r : ℤ) = e % 2 ^ 32

/-- The significand that FFRX writes: A without a power of two, between 1 and 2. -/
def Significand (f : Nat) (y : XR) (r : Nat) : Prop :=
  match y with
  | .fin g n _ _ => if n = 0 then r = encodeF f y else ∃ k d, r = encodeF f (.fin g k d false) ∧
      ∃ e : ℤ, (XR.fin g k d false).num * 2 ^ e = y.num ∧ 1 ≤ |(XR.fin g k d false).num| ∧ |(XR.fin g k d false).num| < 2
  | y => r = encodeF f y

theorem fFfrx_exponent {o : Nat} (ho : bit o 0 = true) (v : FpEnv) (t m a b c : Nat) : let q := fFfrx v t m o a b c
    q.fl = 0 ∧ q.counts = [] ∧ Exponent (decodeF t (v.ftz t) a) q.val := by
  simp only [fFfrx, ho, if_true, true_and]
  generalize decodeF t (v.ftz t) a = y
  cases y with
  | nan => rfl
  | inf g => rfl
  | fin g n e st =>
    simp only [Exponent]
    split
    · rfl
    next hn =>
      obtain ⟨hlo, hhi⟩ := log2X_bounds hn g e st
      exact ⟨_, hlo, hhi, coe_wrapInt 32 _⟩

/-- Dividing a value by the power of two that its logarithm names leaves a number between 1 and 2. -/
theorem num_div_log2 {n : Nat} (hn : n ≠ 0) (g : Bool) (e : Int) (st : Bool) : let y := XR.fin g n e st
    let z := XR.fin g n (e - log2X y) false
    z.num * 2 ^ log2X y = y.num ∧ 1 ≤ |z.num| ∧ |z.num| < 2 := by
  intro y z
  have h2 : (0 : ℚ) < 2 ^ log2X y := by positivity
  have hz : z.num * 2 ^ log2X y = y.num := by
    simp only [z, y, XR.num, mul_assoc]
    rw [← zpow_add₀ two_ne_zero, sub_add_cancel]
  obtain ⟨hlo, hhi⟩ := log2X_bounds hn g e st
  rw [show (XR.fin g n e st).num = z.num * 2 ^ log2X y from hz.symm, abs_mul, abs_of_pos h2] at hlo hhi
  rw [zpow_add_one₀ two_ne_zero, mul_comm (2 ^ _) 2] at hhi
  exact ⟨hz, le_of_mul_le_mul_right (by rwa [one_mul]) h2, lt_of_mul_lt_mul_right hhi h2.le⟩

theorem fFfrx_significand {o : Nat} (ho : bit o 0 = false) (v : FpEnv) (t m a b c : Nat) : let q := fFfrx v t m o a b c
    q.fl = 0 ∧ q.counts = nanCount t q.val ∧ Significand t (decodeF t (v.ftz t) a) q.val := by
  simp only [fFfrx, ho, Bool.false_eq_true, if_false, true_and]
  refine ⟨by simp [eventsOf, nanCount], ?_⟩
  generalize decodeF t (v.ftz t) a = y
  cases y with
  | nan => rfl
  | inf g => rfl
  | fin g n e st =>
    simp only [Significand]
    by_cases hn : n = 0
    · rw [if_pos hn, if_pos hn]
    · rw [if_neg hn, if_neg hn]
      exact ⟨n, _, rfl, _, num_div_log2 hn g e st⟩

theorem ffrx_splits {w : Op} {s : State} {x : Ctx} (hty : w.ty ∈ [0, 1, 2]) (h : Ready s x w {} (uniformProducing w)) :
    GivesF (.ffrx w) s x w 6 fun a _ _ q =>
      let f := fcode w.ty
      let y := element f ((s.at x).env.ftz f) a 0
      q.fl = 0 ∧ if bit w.opt 0 then q.counts = [] ∧ Exponent y q.val else q.counts = nanCount f q.val ∧ Significand f y q.val := by
  have hf : fcode w.ty = w.ty ∧ ∀ fl v, element w.ty fl v 0 = decodeF w.ty fl v := by
    simp only [List.mem_cons, List.not_mem_nil, or_false] at hty
    rcases hty with e | e | e <;> rw [e] <;> exact ⟨rfl, fun _ _ => decodeF_bf (by decide) (by decide) _ _⟩
  refine givesF_fWord h (show exec (.ffrx w) s = execFfrx w s from rfl) fun a b c => ?_
  simp only [hf]
  cases ho : bit w.opt 0 with
  | false => simpa only [Bool.false_eq_true, if_false] using fFfrx_significand ho (s.at x).env w.ty w.m a b c
  | true => simpa only [if_true] using fFfrx_exponent ho (s.at x).env w.ty w.m a b c

end Sys2Proof.Machine

namespace Sys2Proof.Machine.FloatArithmetic

/-- Settles O11: each word works on its elements one by one; what an element gives is said over numbers. -/
theorem floatWords : Obligations.FloatWords := by
  intro w s x hty h mode rnd f flush one places num src pattern sat nans word sum product rounded neg adds below lo hi picks
  have hflush : (s.at x).env.ftz f = flush := by
    refine ftz_env _ ?_
    simp only [List.mem_cons, List.not_mem_nil, or_false] at hty
    rcases hty with e | e | e | e | e <;> simp [f, e]
  clear_value flush
  subst hflush
  refine ⟨?fadd, ?fsub, ?fmul, ?ffma, ?fmin, ?fmax, ?fminm, ?fmaxm, ?fmed3, ?fsat, ?frnd, ?ffrx⟩
  case fadd => exact fSum_rounds (sub := false) hty h (show exec (.fadd w) s = execFadd w s from rfl)
  case fsub => exact fSum_rounds (sub := true) hty h (show exec (.fsub w) s = execFsub w s from rfl)
  case fmul => exact fmul_rounds hty h
  case ffma => exact ffma_rounds hty h
  case fmin => exact pick2_picks hty h (show exec (.fmin w) s = execFmin w s from rfl) fFmin_lower
  case fmax => exact pick2_picks hty h (show exec (.fmax w) s = execFmax w s from rfl) fFmax_upper
  case fminm => exact pick2_picks hty h (show exec (.fminm w) s = execFminm w s from rfl) fFminm_lower
  case fmaxm => exact pick2_picks hty h (show exec (.fmaxm w) s = execFmaxm w s from rfl) fFmaxm_upper
  case fmed3 => exact pick2_picks hty h (show exec (.fmed3 w) s = execFmed3 w s from rfl) fFmed3_middle
  case fsat => exact fsat_saturates hty h
  case frnd => exact frnd_rounds hty h
  case ffrx => exact fun ht => ffrx_splits ht h

end Sys2Proof.Machine.FloatArithmetic

/-! ## Memory words: addresses, checks and data at issue (R162, R166, R182, R185 to R187, R190)

A memory word acts on the state in which it begins. Its addresses, its checks and its data are those of the state before its
issue: the advance of the PCs and the seat's slot come in between, and none of them looks there. -/

namespace Sys2Proof.Machine

/-! ### The begun state as a word's checks see it -/

section
variable {s b : State} {x : Ctx}

/-- Every crew has what it had but for PCs and the age. -/
theorem Begins.crew_same (h : Begins s b x) (c k : Nat) : ∃ pc since, b.crew c k = { s.crew c k with pc, since } := by
  by_cases hc : c = x.c
  · by_cases hk : k = x.k
    · rw [hc, hk]
      exact h.crew
    · rw [hc]
      exact ⟨_, _, h.only.slots k hk⟩
  · exact ⟨_, _, congrArg (fun o : Core => o.crew k) (h.only.cores c hc)⟩

theorem Begins.teams_same (h : Begins s b x) (c : Nat) : (b.core c).teams = (s.core c).teams := by
  by_cases hc : c = x.c
  · rw [hc]
    exact (congrArg Core.teams h.only.core :)
  · rw [h.only.cores c hc]

theorem Begins.team_same (h : Begins s b x) (c t : Nat) : b.team c t = s.team c t :=
  congrArg (fun l : Tab Team => tget ({} : Team) l t) (h.teams_same c)

theorem Begins.grid_same (h : Begins s b x) (g : Nat) : b.grid g = s.grid g :=
  grid_of_grids (congrArg State.grids h.only.rest :) g

theorem Begins.clusterOf_same (h : Begins s b x) (g i : Nat) : clusterOf b g i = clusterOf s g i := by
  rw [clusterOf, (congrArg State.clusters h.only.rest :), clusterOf]

/-- The rank of a cluster names the same team (R190). -/
theorem Begins.rankTeam_same (h : Begins s b x) (c k rank : Nat) : rankTeam b c k rank = rankTeam s c k rank := by
  obtain ⟨pc, since, e⟩ := h.crew_same c k
  simp only [rankTeam, e, h.grid_same, h.clusterOf_same, h.teams_same]

/-- The on-chip map reaches the same bytes (R165). -/
theorem Begins.mapOk_same (h : Begins s b x) (o n : Nat) : mapOk b o n = mapOk s o n := by
  have hslot (c k : Nat) : slotOpen b c k = slotOpen s c k := by
    obtain ⟨pc, since, e⟩ := h.crew_same c k
    rw [slotOpen, e]
    rfl
  simp only [mapOk, hslot]

end

/-! ### Addresses (R185) -/

section
variable {s b : State} {x : Ctx}

theorem gaddr_eq (s : State) (x : Ctx) (w : Op) (l : Nat) : gaddr s x w l = addr64 s x w l := by
  rw [gaddr, addr64, sumOf, indexOf]
  cases w.b <;> rfl

theorem saddr_eq (s : State) (x : Ctx) (w : Op) (l : Nat) : saddr s x w l = addr32 s x w l := by
  rw [saddr, addr32, sumOf, indexOf]
  cases w.b <;> rfl

theorem ReadsAs.sumOf (h : ReadsAs s b x) (w : Op) (base l : Nat) : sumOf b x w base l = Machine.sumOf s x w base l := by
  simp only [Machine.sumOf, h.rd]

theorem ReadsAs.gaddr (h : ReadsAs s b x) (w : Op) (l : Nat) : gaddr b x w l = addr64 s x w l := by
  rw [gaddr_eq, addr64, h.rd64, h.sumOf, addr64]

theorem ReadsAs.saddr (h : ReadsAs s b x) (w : Op) (l : Nat) : saddr b x w l = addr32 s x w l := by
  rw [saddr_eq, addr32, h.rd, h.sumOf, addr32]

end

/-! ### Types and data (R186, R187) -/

theorem tyBytes_eq (t : Nat) : tyBytes t = widthOf t := by
  unfold widthOf
  split <;> simp_all [tyBytes]

theorem tyKind_eq (t : Nat) : tyKind t = fillOf t := by
  unfold fillOf
  split <;> simp_all [tyKind, tyBytes]

/-- The low bytes of a number that bytes stand for are the first of them (R1). -/
theorem leBytes_leNat_take {n : Nat} {l : List Byte} (h : n ≤ l.length) : leBytes n (leNat l) = l.take n := by
  induction l generalizing n with
  | nil =>
    obtain rfl := Nat.le_zero.1 h
    rfl
  | cons b t ih =>
    cases n with
    | zero => rfl
    | succ n =>
      have hb := b.isLt
      have hhead : BitVec.ofNat 8 (b.toNat + 256 * leNat t) = b := by
        apply BitVec.eq_of_toNat_eq
        rw [BitVec.toNat_ofNat]
        omega
      have htail : (b.toNat + 256 * leNat t) / 256 = leNat t := by omega
      rw [leNat, leBytes, hhead, htail, ih (Nat.le_of_succ_le_succ h), List.take_succ_cons]

theorem length_rdRun (s : State) (x : Ctx) (o : Opd) (n l : Nat) : (rdRun s x o n l).length = n := by
  have hwords (n v : Nat) : (leWords n v).length = n := by
    induction n generalizing v with
    | zero => rfl
    | succ n ih => rw [leWords, List.length_cons, ih]
  cases o <;> simp [rdRun, hwords]

/-- A store sends the low bytes of its registers. -/
theorem storeData_eq (s : State) (x : Ctx) (w : Op) (n l : Nat) : storeData s x w n l = bytesAt s x w n l := by
  refine leBytes_leNat_take ?_
  have hlen (vs : List W32) : (vs.flatMap (fun v => leBytes 4 v.toNat)).length = 4 * vs.length := by
    simp [List.length_flatMap, Nat.mul_comm]
  rw [hlen, length_rdRun]
  omega

theorem ReadsAs.storeData {s b : State} {x : Ctx} (h : ReadsAs s b x) (w : Op) (n l : Nat) : storeData b x w n l = bytesAt s x w n l := by
  rw [storeData_eq, bytesAt, h.rdRun, bytesAt]

/-! ### The lanes that act (R106, R186) -/

section
variable {s : State} {w : Op} {dst : List Nat} {comp : Bool} {x : Ctx}

theorem Issues.actLanes_eq (h : Issues s w dst comp x) (d : Opd) : actLanes x d = acting x d := by
  rw [actLanes, if_neg (by simpa using h.on), acting]

theorem Issues.lanes_ne_nil (h : Issues s w dst comp x) : lanesOf x.on ≠ [] := by
  intro hnil
  have hmask := maskOf_lanesOf x.on
  rw [hnil] at hmask
  exact h.on hmask.symm

theorem Issues.low_mem (h : Issues s w dst comp x) : x.low ∈ lanesOf x.on := by
  rw [Ctx.low, List.headD_eq_head?_getD, List.head?_eq_some_head h.lanes_ne_nil]
  exact List.head_mem _

/-- They are executing lanes, and there is one. -/
theorem Issues.acting_subset (h : Issues s w dst comp x) (d : Opd) : acting x d ⊆ lanesOf x.on := by
  unfold acting
  split
  · exact List.cons_subset.2 ⟨h.low_mem, List.nil_subset _⟩
  · exact List.Subset.refl _

theorem Issues.acting_ne_nil (h : Issues s w dst comp x) (d : Opd) : acting x d ≠ [] := by
  unfold acting
  split
  · exact List.cons_ne_nil _ _
  · exact h.lanes_ne_nil

/-- A lane makes a mask that is not empty. -/
theorem maskOf_or_ne_zero {l : Nat} {ls : List Nat} {m : Mask} (hl : l < 32) (h : l ∈ ls ∨ m.getLsbD l = true) : maskOf ls ||| m ≠ 0 := by
  intro h0
  have hbit : (maskOf ls ||| m).getLsbD l = true := by
    rw [BitVec.getLsbD_or, getLsbD_maskOf ls l hl, Bool.or_eq_true, List.contains_iff_mem]
    exact h
  rw [h0] at hbit
  simp at hbit

end

/-! ### A word whose lanes pass their checks -/

/-- Every acting lane of a word passes step 2 of R182 with an access, whatever its data are. -/
structure Passes (s : State) (x : Ctx) (w : Op) (n : Nat) (addr : State → Ctx → Op → Nat → Nat) (check : State → Ctx → LaneAcc → Step2)
    (acc : Nat → LaneAcc) : Prop where
  ok : ∀ b, Begins s b x → ReadsAs s b x → ∀ l ∈ acting x w.d, ∀ d,
    check b x { lane := l, addr := addr b x w l, n, data := d } = .ok { acc l with data := d }
  lane : ∀ l, (acc l).lane = l ∧ (acc l).data = []
  there : ∀ l ∈ acting x w.d, (acc l).space = 1 → absentLines (s.core (acc l).tgt) (acc l).addr (acc l).n = []

section
variable {i : Instr} {s : State} {x : Ctx} {w : Op} {m : MemWord} {ra n : Nat} {acc : Nat → LaneAcc}
variable {addr : State → Ctx → Op → Nat → Nat} {check : State → Ctx → LaneAcc → Step2}

/-- A word whose accesses have all passed their checks asks for them. -/
theorem asks_checked {p : Pre} {accs : List LaneAcc} {body : Ctx → State → State} (h : Issues s p.w p.dst p.comp x) (hp : p.late = true)
    (hi : exec i s = issue s p body) (hb : body x (begun s p x []) = startChecked (begun s p x []) x p m (accs.map .ok))
    (hl : m.long = true → maskOf (accs.map (·.lane)) ||| m.zero ≠ 0)
    (ha : ∀ y ∈ accs, y.space = 1 → absentLines (s.core y.tgt) y.addr y.n = []) : Asks i s x m accs p.comp :=
  asks_start h hp hi (hb.trans (startChecked_ok _ x p m accs)) hl ha

theorem asks_accessWord {store : Bool} (hi : exec i s = accessWord w m ra n store addr check s)
    (h : Issues s w (if store then [] else vdst w.d ((n + 3) / 4)) (!store && uniformProducing w) x) (hck : Passes s x w n addr check acc) :
    Asks i s x m ((acting x w.d).map (fun l => { acc l with data := if store then bytesAt s x w n l else [] })) (!store && uniformProducing w) := by
  have hr := readsAs_begun s (memPre w ra ((n + 3) / 4) store) x
  rw [accessWord] at hi
  refine asks_checked (p := memPre w ra ((n + 3) / 4) store) h rfl hi ?_ (fun _ => ?_) ?_
  · have hacc (l : Nat) (hl : l ∈ acting x w.d) := hck.ok _ (begins_begun s (memPre w ra ((n + 3) / 4) store) x) hr l hl
      (if store then bytesAt s x w n l else [])
    simp only [h.actLanes_eq, hr.storeData, List.map_map]
    exact congrArg _ (List.map_congr_left hacc)
  · obtain ⟨l, hl⟩ := List.exists_mem_of_ne_nil _ (h.acting_ne_nil w.d)
    refine maskOf_or_ne_zero (mem_lanesOf.1 (h.acting_subset w.d hl)).1 (.inl ?_)
    simp only [List.map_map, List.mem_map]
    exact ⟨l, hl, (hck.lane l).1⟩
  · intro y hy hspace
    obtain ⟨l, hl, rfl⟩ := List.mem_map.1 hy
    exact hck.there l hl hspace

theorem asks_load (hi : exec i s = accessWord w m ra n false addr check s) (h : Issues s w (vdst w.d ((n + 3) / 4)) (uniformProducing w) x)
    (hck : Passes s x w n addr check acc) : Asks i s x m ((acting x w.d).map acc) (uniformProducing w) := by
  have hask := asks_accessWord hi (by simpa using h) hck
  have hacc (l : Nat) : { acc l with data := [] } = acc l := by rw [← (hck.lane l).2]
  simpa [hacc] using hask

theorem asks_store (hi : exec i s = accessWord w m ra n true addr check s) (h : Issues s w [] false x) (hck : Passes s x w n addr check acc) :
    Asks i s x m ((acting x w.d).map (fun l => { acc l with data := bytesAt s x w n l })) :=
  asks_accessWord (store := true) hi h hck

end

/-! ### Global loads and stores (R162, R169, R185 to R187) -/

section
variable {s : State} {x : Ctx} {w : Op} {n : Nat}

/-- Canonical addresses pass (R162). -/
theorem passes_global (hcan : ∀ l ∈ acting x w.d, addr64 s x w l + n ≤ 2 ^ 57) :
    Passes s x w n Machine.gaddr (fun _ _ => checkGlobal) (fun l => { lane := l, addr := addr64 s x w l, n }) where
  ok b _ hr l hl d := by
    rw [checkGlobal, hr.gaddr, canonical, if_pos (decide_eq_true (hcan l hl))]
  lane _ := ⟨rfl, rfl⟩
  there _ _ hspace := by cases hspace

end

/-- Settles O26: every lane's canonical address passes, and the word asks for its bytes. -/
theorem globalWords : Obligations.GlobalWords := by
  intro w s x lanes loads stores
  have hload {i : Instr} {n : Nat} {kind : FillKind} {nt hostOk : Bool}
      (hi : exec i s = accessWord w { acc := .load, width := n, cp := w.opt, nt, hostOk, long := true, kind, dst := w.d, uni := isU w.d }
        2 n false gaddr (fun _ _ => checkGlobal) s) : loads i n kind nt hostOk :=
    fun hcan h => asks_load hi h (passes_global hcan)
  have hstore {i : Instr} {n : Nat} {nt hostOk : Bool}
      (hi : exec i s = accessWord w { acc := .store, width := n, cp := w.opt, nt, hostOk, uni := isU w.d }
        2 n true gaddr (fun _ _ => checkGlobal) s) : stores i n nt hostOk :=
    fun hcan h => asks_store hi h (passes_global hcan)
  have hword (store nt : Bool) : globalWord w store nt s = accessWord w { MemWord.of w store (widthOf w.ty) (fillOf w.ty) with nt, hostOk := true }
      2 (widthOf w.ty) store gaddr (fun _ _ => checkGlobal) s := by
    rw [globalWord, tyBytes_eq, tyKind_eq]
  exact ⟨hload (hword false false), hload (hword false true), hstore (hword true false), hstore (hword true true), hload rfl, hstore rfl⟩

end Sys2Proof.Machine

/-! ## Words in the scratchpad, the cluster and the on-chip map (R164 to R166, R190) -/

namespace Sys2Proof.Machine

section
variable {s b : State} {x : Ctx} {w : Op} {n : Nat}

theorem Begins.guest_same (h : Begins s b x) : (b.crew x.c x.k).guest = (s.at x).guest := by
  obtain ⟨pc, since, e⟩ := h.crew
  exact (congrArg Crew.guest e :)

theorem Begins.priv_same (h : Begins s b x) : (b.crew x.c x.k).priv = (s.at x).priv := by
  obtain ⟨pc, since, e⟩ := h.crew
  exact (congrArg Crew.priv e :)

theorem Begins.ts_same (h : Begins s b x) : (b.crew x.c x.k).ts = (s.at x).ts := by
  obtain ⟨pc, since, e⟩ := h.crew
  exact (congrArg Crew.ts e :)

/-- An offset below .scratch passes, in a crew that is no guest (R166, R403). -/
theorem checkScratch_ok (h : Begins s b x) (hg : (s.at x).guest = none) {tgt ts off : Nat} {y : LaneAcc}
    (hin : off + y.n ≤ (s.team tgt ts).scratch) :
    checkScratch b x tgt ts off y = .ok { y with addr := (s.team tgt ts).scrBase + off, space := 1, tgt } := by
  simp [checkScratch, h.guest_same, hg, h.team_same, hin]

/-- Offsets in the team's own run pass. -/
theorem passes_scratch (hg : (s.at x).guest = none) (hin : ∀ l ∈ acting x w.d, inRun s x.c (s.at x).ts (addr32 s x w l) n) :
    Passes s x w n Machine.saddr (fun s x y => checkScratch s x x.c (s.crew x.c x.k).ts y.addr y) (fun l =>
      { lane := l, addr := (s.team x.c (s.at x).ts).scrBase + addr32 s x w l, n, space := 1, tgt := x.c }) where
  ok b hb hr l hl d := by
    simp only [hb.ts_same, hr.saddr]
    exact checkScratch_ok hb hg (hin l hl).1
  lane _ := ⟨rfl, rfl⟩
  there l hl _ := (hin l hl).2

/-- Offsets in the run of the team at a rank of the cluster pass (R190). -/
theorem passes_cluster (hg : (s.at x).guest = none) {team : Nat → Nat × Nat}
    (hin : ∀ l ∈ acting x w.d, rankTeam s x.c x.k (addr32 s x w l / 2 ^ 24) = some (team l) ∧
      inRun s (team l).1 (team l).2 (addr32 s x w l % 2 ^ 24) n) :
    Passes s x w n Machine.saddr checkCluster (fun l =>
      { lane := l, addr := (s.team (team l).1 (team l).2).scrBase + addr32 s x w l % 2 ^ 24, n, space := 1, tgt := (team l).1 }) where
  ok b hb hr l hl d := by
    obtain ⟨hteam, hrun, -⟩ := hin l hl
    simp only [checkCluster, hr.saddr, hb.rankTeam_same, hteam]
    exact checkScratch_ok hb hg hrun
  lane _ := ⟨rfl, rfl⟩
  there l hl _ := (hin l hl).2.2

/-- What a map offset names: bytes of a scratchpad, or of another region (R164). -/
def mapAcc (n a l : Nat) : LaneAcc :=
  if mapReg a = 0 then { lane := l, addr := mapOfs a, n, space := 1, tgt := mapCore a }
  else { lane := l, addr := a, n, space := 2, tgt := mapCore a }

/-- Map offsets that may be reached pass in a privileged crew (R165). -/
theorem passes_map (hp : (s.at x).priv = true)
    (hin : ∀ l ∈ acting x w.d, addr64 s x w l < 2 ^ 38 ∧ mapOk s (addr64 s x w l) n = true ∧ (mapReg (addr64 s x w l) = 0 →
      absentLines (s.core (mapCore (addr64 s x w l))) (mapOfs (addr64 s x w l)) n = [])) :
    Passes s x w n Machine.gaddr checkMap (fun l => mapAcc n (addr64 s x w l) l) where
  ok b hb hr l hl d := by
    obtain ⟨hlt, hok, -⟩ := hin l hl
    have hgo : (!(b.crew x.c x.k).priv || decide (2 ^ 38 ≤ addr64 s x w l) || !(mapOk b (addr64 s x w l) n)) = false := by
      rw [hb.priv_same, hp, hb.mapOk_same, hok, decide_eq_false (Nat.not_le.2 hlt)]
      rfl
    by_cases h0 : mapReg (addr64 s x w l) = 0 <;>
      simp only [checkMap, hr.gaddr, hgo, mapAcc, h0, if_true, if_false, Bool.false_eq_true]
  lane l := by
    unfold mapAcc
    split <;> exact ⟨rfl, rfl⟩
  there l hl := by
    obtain ⟨-, -, hlines⟩ := hin l hl
    by_cases h0 : mapReg (addr64 s x w l) = 0
    · simp only [mapAcc, h0, if_true]
      exact fun _ => hlines h0
    · simp [mapAcc, h0]

end

/-- The pattern of a load or store that has no cache policy. -/
def plainAccess (w : Op) (store : Bool) : MemWord := { MemWord.of w store (widthOf w.ty) (fillOf w.ty) with cp := 0 }

theorem scratchWord_eq (w : Op) (store : Bool) (s : State) : scratchWord w store s =
    accessWord w (plainAccess w store) 1 (widthOf w.ty) store saddr (fun s x y => checkScratch s x x.c (s.crew x.c x.k).ts y.addr y) s := by
  rw [scratchWord, tyBytes_eq, tyKind_eq, plainAccess]

theorem mapWord_cluster {w : Op} (h : w.mb 0 = false) (store : Bool) (s : State) :
    mapWord w store s = accessWord w (plainAccess w store) 1 (widthOf w.ty) store saddr checkCluster s := by
  simp only [mapWord, h, Bool.false_eq_true, if_false, tyBytes_eq, tyKind_eq, plainAccess]

theorem mapWord_map {w : Op} (h : w.mb 0 = true) (store : Bool) (s : State) :
    mapWord w store s = accessWord w (plainAccess w store) 2 (widthOf w.ty) store gaddr checkMap s := by
  simp only [mapWord, h, if_true, tyBytes_eq, tyKind_eq, plainAccess]

/-- Settles O27: in each of the spaces the lanes' offsets pass. -/
theorem localWords : Obligations.LocalWords := by
  intro w s x lanes k n load store both
  have hboth {ld st : Instr} {acc : Nat → LaneAcc} {ra : Nat} {addr : State → Ctx → Op → Nat → Nat} {check : State → Ctx → LaneAcc → Step2}
      (hld : exec ld s = accessWord w (plainAccess w false) ra n false addr check s)
      (hst : exec st s = accessWord w (plainAccess w true) ra n true addr check s) (hck : Passes s x w n addr check acc) : both ld st acc :=
    ⟨fun h => asks_load hld h hck, fun h => asks_store hst h hck⟩
  exact ⟨fun hin hg => hboth (scratchWord_eq w false s) (scratchWord_eq w true s) (passes_scratch hg hin),
    fun team hm hg hin => hboth (mapWord_cluster hm false s) (mapWord_cluster hm true s) (passes_cluster hg hin),
    fun hm hp hin => hboth (mapWord_map hm false s) (mapWord_map hm true s) (passes_map hp hin)⟩

end Sys2Proof.Machine

/-! ## Prefetch, cache control and probes (R192 to R194) -/

namespace Sys2Proof.Machine

section
variable {s b : State} {x : Ctx} {w : Op}

/-! ### Words that ask for one line of each lane -/

/-- The lanes that a test picks are the accesses that a test of their address picks. -/
theorem filter_accesses {ls : List Nat} {mk : Nat → LaneAcc} {q : LaneAcc → Bool} {r : Nat → Bool} (h : ∀ l, q (mk l) = r l) :
    (ls.map mk).filter q = (ls.filter r).map mk := by
  rw [List.filter_map]
  exact congrArg _ (List.filter_congr fun l _ => h l)

/-- PREF drops the lanes whose line is not canonical (R192). -/
theorem pref_asks (h : Issues s w [] false x) : Asks (.pref w) s x { acc := .pref (w.mb 0), hostOk := true }
    (((lanesOf x.on).filter (fun l => decide (addr64 s x w l / 256 * 256 + 256 ≤ 2 ^ 57))).map
      (fun l => { lane := l, addr := addr64 s x w l / 256 * 256, n := 256 })) := by
  have hi : exec (.pref w) s = execPref w s := rfl
  have hr := readsAs_begun s (memPre w 2 0 true) x
  rw [execPref] at hi
  refine asks_start (p := memPre w 2 0 true) (clean := true) h rfl hi ?_ (fun hl => by cases hl) fun y hy hspace => ?_
  · simp only [hr.gaddr]
    exact congrArg _ (filter_accesses fun _ => rfl)
  · obtain ⟨l, -, rfl⟩ := List.mem_map.1 hy
    cases hspace

/-- CCTL asks for the line of each executing lane, and its result has no value (R193). -/
theorem cctl_asks {i : Instr} {op : Nat} (hi : exec i s = cctlWord w op s) (h : Issues s w [] false x)
    (hcan : ∀ l ∈ lanesOf x.on, addr64 s x w l + 1 ≤ 2 ^ 57) : Asks i s x { acc := .cctl op, hostOk := true, long := true }
      ((lanesOf x.on).map (fun l => { lane := l, addr := addr64 s x w l, n := 1 })) := by
  have hr := readsAs_begun s (memPre w 2 0 true) x
  rw [cctlWord] at hi
  refine asks_checked (p := memPre w 2 0 true) h rfl hi ?_ (fun _ => ?_) fun y hy hspace => ?_
  · simp only [hr.gaddr, List.map_map]
    refine congrArg _ (List.map_congr_left fun l hl => ?_)
    exact if_pos (decide_eq_true (hcan l hl))
  · refine maskOf_or_ne_zero (mem_lanesOf.1 h.low_mem).1 (.inl ?_)
    rw [List.map_map]
    exact List.mem_map.2 ⟨x.low, h.low_mem, rfl⟩
  · obtain ⟨l, -, rfl⟩ := List.mem_map.1 hy
    cases hspace

/-- What PROBE tells before it issues. -/
def probePre (w : Op) : Pre := { memPre w (if w.mb 0 then 1 else 2) 1 false with late := !(w.mb 0) }

/-- PROBE asks for the acting lanes whose address is canonical, and the others get 0 (R194). -/
theorem probe_asks (hm : w.mb 0 = false) (h : Issues s w (vdst w.d 1) (uniformProducing w) x) :
    let canon (l : Nat) : Bool := decide (addr64 s x w l + 1 ≤ 2 ^ 57)
    Asks (.probe w) s x { acc := .probe, long := true, kind := .regs 1, dst := w.d, hostOk := true, uni := isU w.d
                          zero := maskOf ((acting x w.d).filter (fun l => !(canon l))) }
      (((acting x w.d).filter canon).map (fun l => { lane := l, addr := addr64 s x w l, n := 1 })) (uniformProducing w) := by
  intro canon
  have hi : exec (.probe w) s = execProbe w s := rfl
  have hr := readsAs_begun s (probePre w) x
  rw [execProbe] at hi
  refine asks_start (p := probePre w) (clean := true) h (by simp [probePre, hm]) hi ?_ (fun _ => ?_) fun y hy hspace => ?_
  · simp only [hm, Bool.false_eq_true, if_false, hr.gaddr, h.actLanes_eq]
    rw [filter_accesses (q := fun y => canonical y.addr 1) (r := canon) fun _ => rfl,
      filter_accesses (q := fun y => !(canonical y.addr 1)) (r := fun l => !(canon l)) fun _ => rfl, List.map_map]
    simp [Function.comp_def, probePre, hm]
  · obtain ⟨l, hl⟩ := List.exists_mem_of_ne_nil _ (h.acting_ne_nil w.d)
    have hlt := (mem_lanesOf.1 (h.acting_subset w.d hl)).1
    refine maskOf_or_ne_zero hlt ?_
    rw [List.map_map, getLsbD_maskOf _ _ hlt, List.contains_iff_mem, List.mem_map]
    cases hc : canon l with
    | true => exact .inl ⟨l, List.mem_filter.2 ⟨hl, hc⟩, rfl⟩
    | false => exact .inr (List.mem_filter.2 ⟨hl, by rw [hc]; rfl⟩)
  · obtain ⟨l, -, rfl⟩ := List.mem_map.1 hy
    cases hspace

/-! ### Long-latency results whose value is known at issue (R25) -/

theorem longResult_leaves (s : State) (x : Ctx) {wr : List Wr} (hne : wr ≠ []) : OnlyCrew s (longResult s x wr) x ∧
    (∃ l, (longResult s x wr).at x = { s.at x with results := l }) ∧
    ∃ r ∈ ((longResult s x wr).at x).results, r.id = s.nextId ∧ r.ready = true ∧ r.hi = none ∧ r.wr = wr := by
  refine ⟨.longResult s x wr, ?_⟩
  rw [longResult, if_neg (by simpa using hne)]
  obtain ⟨l, hl⟩ := at_addResult s.fresh.2 x { id := s.nextId, serial := x.serial, lo := s.clk + 2, hi := none, ready := true, wr
                                               vs := wr.flatMap wrVreg, us := wr.flatMap wrUreg }
  exact ⟨⟨_, hl⟩, _, addResult_mem s.fresh.2 x _, rfl, rfl, rfl, rfl⟩

/-- A word that, on the state in which it acts, leaves such a result. -/
theorem completes_longResult {i : Instr} {p : Pre} {wr : List Wr} {body : Ctx → State → State} (h : Issues s p.w p.dst p.comp x)
    (hp : p.single) (hi : exec i s = issue s p body) (hb : body x (begun s p x []) = longResult (begun s p x []) x wr) (hne : wr ≠ []) :
    Completes i s fun t => OnlyResult s t x (lastRegs x.h p.w 1 1 1) ∧
      ∃ r ∈ (t.at x).results, r.id = s.nextId ∧ r.ready = true ∧ r.hi = none ∧ r.wr = wr := by
  obtain ⟨ha, hbr, hc, hl⟩ := hp
  obtain ⟨honly, ⟨rs, hat⟩, r, hr, hleft⟩ := longResult_leaves (begun s p x []) x hne
  have hend := OnlyResult.ended (p := p) honly (by rw [hat]; exact ⟨fun _ _ _ _ => rfl, rfl⟩) (fun l => by rw [hat]; rfl)
  rw [ha, hbr, hc, hl, List.append_nil] at hend
  refine ⟨_, hi.trans (issue_next h body), ?_, r, ?_, hleft⟩
  · rw [hb]
    exact hend
  · rw [hb, results_ended]
    exact hr

/-! ### PROBE.sp and CCTL.invall -/

theorem Begins.probeScratch_same (h : Begins s b x) (o : Nat) : probeScratch b x o = probeScratch s x o := by
  have hpresent : (b.core x.c).present = (s.core x.c).present := (congrArg Core.present h.only.core :)
  obtain ⟨pc, since, e⟩ := h.crew
  rw [State.at] at e
  simp only [probeScratch, e, h.team_same, hpresent]
  rfl

theorem probeScratch_eq (s : State) (x : Ctx) (o : Nat) : probeScratch s x o =
    if (s.at x).guest = none ∧ o < (s.team x.c (s.at x).ts).scratch then
      (if (s.core x.c).present (((s.team x.c (s.at x).ts).scrBase + o) / 64) then 0x101 else 1) else 0 := by
  unfold probeScratch
  cases hg : (s.crew x.c x.k).guest with
  | some g => simp [State.at, hg]
  | none =>
    by_cases ho : o < (s.team x.c (s.crew x.c x.k).ts).scratch
    · simp only [State.at, hg, ho, Nat.not_le.2 ho, Option.isSome_none, decide_false, Bool.or_self, and_self, if_true, Bool.false_eq_true,
        if_false]
      by_cases hp : (s.core x.c).present (((s.team x.c (s.crew x.c x.k).ts).scrBase + o) / 64) = true <;> simp [hp, b2n, w32]
    · simp [State.at, hg, ho, Nat.not_lt.1 ho]

/-- PROBE.sp gives presence and bounds at once (R194). -/
theorem probe_scratch (hm : w.mb 0 = true) (hd : Opd.writes w.d = true) (h : Issues s w (vdst w.d 1) (uniformProducing w) x) :
    Completes (.probe w) s fun t => OnlyResult s t x (lastRegs x.h w 1 1 1) ∧
      ∃ r ∈ (t.at x).results, r.id = s.nextId ∧ r.ready = true ∧ r.hi = none ∧
        r.wr = wrOf x false w.d (fun l => probeScratch s x (addr32 s x w l)) := by
  have hi : exec (.probe w) s = execProbe w s := rfl
  have hb := begins_begun s (probePre w) x
  have hr := readsAs_begun s (probePre w) x
  rw [execProbe] at hi
  refine completes_longResult (p := probePre w) h ⟨?_, rfl, rfl, rfl⟩ hi ?_ (wrOf_ne_nil h.on false hd _)
  · simp [probePre, memPre, hm]
  · simp only [hm, if_true, hr.saddr, hb.probeScratch_same]

/-- The state with a long-latency result that is opened and filled at once, without writes. -/
def answered (s : State) (x : Ctx) : State := fillResult (openResult s x [] []).2 x.c x.k s.nextId []

theorem answered_leaves (s : State) (x : Ctx) : OnlyCrew s (answered s x) x ∧ (∃ l, (answered s x).at x = { s.at x with results := l }) ∧
    ∃ r ∈ ((answered s x).at x).results, r.id = s.nextId ∧ r.ready = true ∧ r.wr = [] ∧ r.hi = none := by
  let r : Result := { id := s.nextId, serial := x.serial, lo := s.clk + 2, hi := none, ready := false, wr := [] }
  obtain ⟨l, hl⟩ := at_addResult s.fresh.2 x r
  have hmem := addResult_mem s.fresh.2 x r
  have hfill : answered s x = (addResult s.fresh.2 x r).modCrew x.c x.k (Crew.fillRes s.nextId []) :=
    if_pos (List.any_eq_true.2 ⟨{ r with serial := x.serial }, hmem, beq_self_eq_true s.nextId⟩)
  have hat : (answered s x).at x = Crew.fillRes s.nextId [] ((addResult s.fresh.2 x r).at x) := by
    rw [hfill]
    exact crew_modCrew_same _ _ _ _
  refine ⟨?_, ⟨((answered s x).at x).results, ?_⟩, { r with ready := true }, ?_, rfl, rfl, rfl, rfl⟩
  · rw [hfill]
    exact ((OnlyCrew.fresh s x).trans (.addResult s.fresh.2 x r)).trans (.modCrew _ x _)
  · rw [hat, hl]
    rfl
  · rw [hat]
    refine List.mem_map.2 ⟨_, hmem, ?_⟩
    simp [r]

theorem cctlInvall_next (h : Issues s {} [] false x) :
    exec .cctlInvall s = .next (ended {} x (s.at x) (answered (invalL1 (begun s {} x []) x.c) x)) := by
  have hi : exec .cctlInvall s = execCctlInvall s := rfl
  refine hi.trans ((issue_next (p := {}) h _).trans ?_)
  rw [if_neg (by simpa using h.on)]
  rfl

/-- CCTL.invall empties the L1 of its core, and its result has no value (R193). -/
theorem cctlInvall_empties (h : Issues s {} [] false x) : Completes .cctlInvall s fun t => (t.core x.c).l1 = [] ∧ SameMemory s t ∧
    MovesOn s t x ∧ KeepsCrew (s.at x) (t.at x) [] ∧
    ∃ r ∈ (t.at x).results, r.id = s.nextId ∧ r.ready = true ∧ r.wr = [] ∧ r.hi = none := by
  refine ⟨_, cctlInvall_next h, ?_⟩
  have hb := begins_begun s {} x
  generalize begun s {} x [] = b at hb
  obtain ⟨pc, since, hcrew⟩ := hb.crew
  obtain ⟨honly, ⟨rs, hat⟩, r, hr, hleft⟩ := answered_leaves (invalL1 b x.c) x
  have hinval : (invalL1 b x.c).at x = b.at x := crew_invalL1 b x.c x.c x.k
  have hend := honly.trans (.ended _ {} x (s.at x))
  have hid : (invalL1 b x.c).nextId = s.nextId := (hb.same.2.2 :)
  have hlast : lastRegs x.h ({} : Pre).w ({} : Pre).ra ({} : Pre).rb ({} : Pre).rc ++ ({} : Pre).last = [] := by simp [lastRegs, vdst]
  have hkeeps := keeps_settleRows x {} (s.at x) ((answered (invalL1 b x.c) x).at x)
  rw [hlast, ← at_ended] at hkeeps
  rw [hinval, hcrew] at hat
  refine ⟨(congrArg Core.l1 hend.core :).trans (l1_invalL1 b x.c), ?_, fun l => ?_, ?_, r, ?_, ?_⟩
  · exact (hb.only.sameMemory.trans (expects_invalL1 b x.c x.k).memory).trans hend.sameMemory
  · have hpc := hb.moves l
    rw [hcrew] at hpc
    rw [pcOf_ended, hat]
    exact hpc
  · refine KeepsCrew.trans ?_ hkeeps
    rw [hat]
    exact ⟨fun _ _ _ _ => rfl, rfl⟩
  · rw [results_ended]
    exact hr
  · rw [← hid]
    exact hleft

end

/-- Settles O29: PREF, CCTL and PROBE ask for what their lemmas say; PROBE.sp and CCTL.invall act at once. -/
theorem cacheWords : Obligations.CacheWords := by
  intro w s x canon lanes
  refine ⟨fun h => ⟨pref_asks h, fun hcan => ?_⟩, cctlInvall_empties, fun hd h => ⟨fun hm => probe_asks hm h, fun hm => ?_⟩⟩
  · have hline (l : Nat) (hl : l ∈ lanesOf x.on) := of_decide_eq_true (hcan l hl)
    have hinv : exec (.cctlInv w) s = cctlWord w 0 s := rfl
    have hclean : exec (.cctlClean w) s = cctlWord w 2 s := rfl
    have hflush : exec (.cctlFlush w) s = cctlWord w 3 s := rfl
    exact List.forall_mem_cons.2 ⟨cctl_asks hinv h hline, List.forall_mem_cons.2 ⟨cctl_asks hclean h hline,
      List.forall_mem_singleton.2 (cctl_asks hflush h hline)⟩⟩
  · simp only [← probeScratch_eq]
    exact probe_scratch hm hd h

end Sys2Proof.Machine

/-! ## Lanes that fail their checks (R182, R184, R252)

The lanes split off before the word asks for anything, so a word of which every acting lane fails makes no request and opens no
result. -/

namespace Sys2Proof.Machine

/-! ### Splitting off (R184) -/

/-- A lane stands at the word, parked, with its record. -/
def splitLane (pc : Pc) (len word : Nat) (w : Crew) (r : Raise) : Crew :=
  { w with pc := tset w.pc r.lane pc, park := tset w.park r.lane .fault
           faults := tset w.faults r.lane { cause := r.cause, code := r.code, addr := r.addr, len, word := if r.word = 0 then word else r.word } }

theorem faultSplit_eq (s : State) (c k : Nat) (pc : Pc) (len : Nat) (r : Raise) (l : List Raise) : faultSplit s c k pc len (r :: l) =
    let t := s.modCrew c k (fun w => (r :: l).foldl (splitLane pc len s.nextId) w)
    t.post (dieOfCore c) (t.crewEvent c k 0x01 r.cause (maskOf ((r :: l).map (·.lane))) r.addr pc.addr) := rfl

/-- Crew `k'` is `k` with lanes `ls` split off. -/
structure LanesSplit (pc : Pc) (ls : List Nat) (cause : Nat) (addr : Nat → W64) (k k' : Crew) : Prop where
  rest : k' = { k with pc := k'.pc, park := k'.park, faults := k'.faults }
  lane : ∀ l ∈ ls, k'.pcOf l = pc ∧ k'.parkOf l = .fault ∧ ∃ f, tget? k'.faults l = some f ∧ f.cause = cause ∧ f.addr = addr l
  others : ∀ l, l ∉ ls → k'.pcOf l = k.pcOf l ∧ k'.parkOf l = k.parkOf l

theorem foldl_splitLane (pc : Pc) (len word cause : Nat) (addr : Nat → W64) (ls : List Nat) (k : Crew) :
    LanesSplit pc ls cause addr k
      ((ls.map (fun l => ({ lane := l, cause, addr := addr l } : Raise))).foldl (splitLane pc len word) k) := by
  induction ls using List.reverseRecOn with
  | nil => exact ⟨rfl, fun _ hl => absurd hl List.not_mem_nil, fun _ _ => ⟨rfl, rfl⟩⟩
  | append_singleton ls a ih =>
    rw [List.map_append, List.foldl_append]
    generalize (ls.map (fun l => ({ lane := l, cause, addr := addr l } : Raise))).foldl (splitLane pc len word) k = k' at ih
    obtain ⟨hrest, hlane, hothers⟩ := ih
    refine ⟨?_, fun l hl => ?_, fun l hl => ?_⟩
    · rw [hrest]
      rfl
    · by_cases ha : l = a
      · rw [ha]
        exact ⟨tget_tset_same _ _ _ _, tget_tset_same _ _ _ _, _, tget?_tset_same _ _ _, rfl, rfl⟩
      · obtain ⟨hpc, hpark, f, hf, hrecord⟩ := hlane l ((List.mem_append.1 hl).resolve_right (fun h => ha (List.mem_singleton.1 h)))
        exact ⟨(tget_tset_ne _ _ _ ha).trans hpc, (tget_tset_ne _ _ _ ha).trans hpark, f, (tget?_tset_ne _ _ ha).trans hf, hrecord⟩
    · obtain ⟨hin, ha⟩ := not_or.1 (mt List.mem_append.2 hl)
      have hne : l ≠ a := fun h => ha (List.mem_singleton.2 h)
      obtain ⟨hpc, hpark⟩ := hothers l hin
      exact ⟨(tget_tset_ne _ _ _ hne).trans hpc, (tget_tset_ne _ _ _ hne).trans hpark⟩

/-- An event whose queue has room stands last in it (R248). -/
theorem post_room {s : State} (h0 : s.evq0.length < Config.eventQueue) (h1 : s.evq1.length < Config.eventQueue) (c : Nat) (e : Event) :
    s.post (dieOfCore c) e = if c < 96 then { s with evq0 := s.evq0 ++ [e] } else { s with evq1 := s.evq1 ++ [e] } := by
  unfold dieOfCore
  split
  · simp [State.post, h0]
  · simp [State.post, h1]

/-- Lanes that raise a cause that goes to the monitor first are split off (R252). -/
theorem faultLanes_monitorFirst {cause : Nat} (hc : monitorFirst cause = true) (s : State) (x : Ctx) (ls : List Nat) (addr : Nat → W64) :
    faultLanes s x (ls.map (fun l => { lane := l, cause, addr := addr l })) =
      faultSplit s x.c x.k x.pc x.lenCode (ls.map (fun l => { lane := l, cause, addr := addr l })) := by
  have hsplit : (ls.map (fun l => ({ lane := l, cause, addr := addr l } : Raise))).filter (fun r => monitorFirst r.cause) =
      ls.map (fun l => { lane := l, cause, addr := addr l }) := by
    simp [List.filter_map, Function.comp_def, hc]
  have htrap : (ls.map (fun l => ({ lane := l, cause, addr := addr l } : Raise))).filter (fun r => !(monitorFirst r.cause)) = [] := by
    simp [List.filter_map, Function.comp_def, hc]
  rw [faultLanes, takeFaults, hsplit, htrap]
  rfl

/-- A crew whose lanes have split off, and the event that says so (R184). -/
theorem splits_of_lanes {s b : State} {x : Ctx} {ls : List Nat} {cause : Nat} {addr : Nat → W64} (f : Crew → Crew) (hb : Begins s b x)
    (hq : b.evq0 = s.evq0 ∧ b.evq1 = s.evq1) (h0 : s.evq0.length < Config.eventQueue) (h1 : s.evq1.length < Config.eventQueue)
    (hf : LanesSplit x.pc ls cause addr (b.at x) (f (b.at x))) : let t := b.modCrew x.c x.k f
    Splits s (t.post (dieOfCore x.c) (t.crewEvent x.c x.k 0x01 cause (maskOf ls) (addr (ls.headD 0)) x.pc.addr)) x ls cause addr := by
  intro t
  obtain ⟨pc, since, hcrew⟩ := hb.crew
  have hmoves := hb.moves
  have hat : t.at x = f (b.at x) := crew_modCrew_same b x.c x.k f
  have honly : OnlyCrew s t x := hb.only.trans (.modCrew b x f)
  have ht0 : t.evq0 = s.evq0 := hq.1
  have ht1 : t.evq1 = s.evq1 := hq.2
  rw [← hat] at hf
  obtain ⟨hrest, hlane, hothers⟩ := hf
  unfold MovesOn at hmoves
  rw [hcrew] at hrest hothers hmoves
  have hevent : t.crewEvent x.c x.k 0x01 cause (maskOf ls) (addr (ls.headD 0)) x.pc.addr =
      s.crewEvent x.c x.k 0x01 cause (maskOf ls) (addr (ls.headD 0)) x.pc.addr := by
    rw [State.at, State.at] at hrest
    rw [State.crewEvent, hrest, State.crewEvent]
  rw [hevent]
  generalize he : s.crewEvent x.c x.k 0x01 cause (maskOf ls) (addr (ls.headD 0)) x.pc.addr = e
  have hpost := post_room (s := t) (by rw [ht0]; exact h0) (by rw [ht1]; exact h1) x.c e
  have hsame : { t.post (dieOfCore x.c) e with evq0 := s.evq0, evq1 := s.evq1 } = t := by
    rw [hpost, ← ht0, ← ht1]
    split <;> rfl
  have hu : (t.post (dieOfCore x.c) e).at x = t.at x := crew_of_cores (cores_post t _ e) x.c x.k
  refine ⟨?_, ?_, fun l => ?_, ?_, ?_⟩
  · rw [hsame]
    exact honly
  · rw [hu, hrest]
    exact ⟨fun _ _ _ _ => rfl, rfl⟩
  · rw [hu]
    split
    next hl => exact hlane l hl
    next hl => exact ⟨(hothers l hl).1.trans (hmoves l), (hothers l hl).2⟩
  · rw [hu, hrest]
  · rw [hpost, he, ← ht0, ← ht1]
    split <;> exact ⟨rfl, rfl⟩

/-- Lanes of a word split off in the state in which the word acts. -/
theorem faultLanes_splits {s b : State} {x : Ctx} {ls : List Nat} {cause : Nat} (hb : Begins s b x) (hne : ls ≠ [])
    (hq : b.evq0 = s.evq0 ∧ b.evq1 = s.evq1) (h0 : s.evq0.length < Config.eventQueue) (h1 : s.evq1.length < Config.eventQueue)
    (hc : monitorFirst cause = true) (addr : Nat → W64) :
    Splits s (faultLanes b x (ls.map (fun l => { lane := l, cause, addr := addr l }))) x ls cause addr := by
  have hlanes := splits_of_lanes
    (fun k => (ls.map (fun l => ({ lane := l, cause, addr := addr l } : Raise))).foldl (splitLane x.pc x.lenCode b.nextId) k) hb hq h0 h1
    (foldl_splitLane x.pc x.lenCode b.nextId cause addr ls (b.at x))
  obtain ⟨a, t, rfl⟩ := List.exists_cons_of_ne_nil hne
  rw [faultLanes_monitorFirst hc, List.map_cons, faultSplit_eq]
  simpa [Function.comp_def] using hlanes

/-! ### Words of which every acting lane fails (R162, R166, R182) -/

/-- Every acting lane of a word fails step 2 of R182. -/
def Fails (s : State) (x : Ctx) (w : Op) (n : Nat) (addr : State → Ctx → Op → Nat → Nat) (check : State → Ctx → LaneAcc → Step2)
    (a : Nat → Nat) : Prop :=
  ∀ b, Begins s b x → ReadsAs s b x → ∀ l ∈ acting x w.d, ∀ d, check b x { lane := l, addr := addr b x w l, n, data := d } = .bad l (a l)

/-- A word that no lane is left to ask for. -/
theorem startWord_none {x : Ctx} (hx : x.on ≠ 0) {m : MemWord} (hz : m.zero = 0) (s : State) (p : Pre) :
    startWord s x p m false [] = pump (s.fresh.2.modCrew x.c x.k (fun k => k)) x.c := by
  have hfill (s : State) (comp : Bool) : openFill s x m 0 comp = (0, s) := by simp [openFill]
  have hlanes : maskOf (([] : List LaneAcc).map (·.lane)) ||| m.zero = 0 := by
    rw [hz]
    rfl
  have hhold (s : State) (word : Nat) : holdLast s x p word false = s := rfl
  have hreqs (s : State) (base : Req) : wordReqs s m base [] = ([], s) := rfl
  have habsent (s : State) (base : Req) : absentReqs s m base [] = ([], s) := rfl
  have horder (s : State) (before : Nat) : wordOrder s x m 0 before [] = s := by simp [wordOrder]
  have hclose (s : State) : closeFill s 0 = s := rfl
  unfold startWord
  rw [if_neg (by simpa using hx), hlanes]
  simp only [hhold, hfill, List.filter_nil, hreqs, habsent, List.append_nil, List.isEmpty_nil, if_true, horder, hclose]
  rfl

/-- A word whose lanes have all failed splits them off, and no lane is left. -/
theorem startChecked_bad {x : Ctx} (hx : x.on ≠ 0) {m : MemWord} (hz : m.zero = 0) {ls : List Nat} (hne : ls ≠ []) (s : State) (p : Pre)
    (a : Nat → Nat) : startChecked s x p m (ls.map (fun l => .bad l (a l))) =
      pump ((faultLanes s x (ls.map (fun l => { lane := l, cause := 0x11, addr := w64 (a l) }))).fresh.2.modCrew x.c x.k (fun k => k)) x.c := by
  have hraise : (ls.map (fun l => Step2.bad l (a l))).filterMap Step2.fault =
      ls.map (fun l => { lane := l, cause := 0x11, addr := w64 (a l) }) := by
    rw [List.filterMap_map]
    exact congrFun (List.filterMap_eq_map (f := fun l => ({ lane := l, cause := 0x11, addr := w64 (a l) } : Raise))) _
  have hnone : (ls.map (fun l => Step2.bad l (a l))).filterMap Step2.acc = [] := by simp [Step2.acc]
  have hempty : (ls.map (fun l => ({ lane := l, cause := 0x11, addr := w64 (a l) } : Raise))).isEmpty = false := by simpa using hne
  rw [startChecked, hraise, hnone, hempty, startWord_none hx hz]

theorem Splits.fresh {s u : State} {x : Ctx} {ls : List Nat} {cause : Nat} {addr : Nat → W64} (h : Splits s u x ls cause addr) :
    Splits s (u.fresh.2.modCrew x.c x.k (fun k => k)) x ls cause addr := by
  obtain ⟨hrest, hkeeps, hsplit, hresults, hevent⟩ := h
  have hat : (u.fresh.2.modCrew x.c x.k (fun k => k)).at x = u.at x := crew_modCrew_same _ _ _ _
  refine ⟨(hrest.trans (.fresh _ x)).trans (.modCrew _ x _), ?_, ?_, ?_, hevent⟩ <;> rw [hat]
  · exact hkeeps
  · exact hsplit
  · exact hresults

theorem Splits.reqs {s u : State} {x : Ctx} {ls : List Nat} {cause : Nat} {addr : Nat → W64} (h : Splits s u x ls cause addr) :
    u.reqs = s.reqs := (congrArg State.reqs h.rest.rest :)

theorem Issues.of_rows {s : State} {w : Op} {dst : List Nat} {x : Ctx} (h : Issues s w dst false x) (comp : Bool) : Issues s w dst comp x :=
  ⟨h.path, h.runs, h.on, h.marker, h.latches, .inr (h.rows.resolve_left (by simp))⟩

section
variable {i : Instr} {s : State} {x : Ctx} {w : Op} {n : Nat}

/-- Such a word splits its acting lanes off with cause 0x11 and asks for nothing (R182, R184). -/
theorem accessWord_splits {m : MemWord} {ra : Nat} {store : Bool} {a : Nat → Nat} {addr : State → Ctx → Op → Nat → Nat}
    {check : State → Ctx → LaneAcc → Step2} (hi : exec i s = accessWord w m ra n store addr check s) (hz : m.zero = 0)
    (h0 : s.evq0.length < Config.eventQueue) (h1 : s.evq1.length < Config.eventQueue) (hck : Fails s x w n addr check a)
    (h : Issues s w (if store then [] else vdst w.d ((n + 3) / 4)) false x) : ∃ u t, exec i s = .next t ∧
      Splits s u x (acting x w.d) 0x11 (fun l => w64 (a l)) ∧ u.reqs = s.reqs ∧ EndsAs (pump u x.c) t x := by
  let p := memPre w ra ((n + 3) / 4) store
  have hb := begins_begun s p x
  have hfails := hck _ hb (readsAs_begun s p x)
  have hne := h.acting_ne_nil w.d
  have hsplits := (faultLanes_splits (cause := 0x11) hb hne ⟨rfl, rfl⟩ h0 h1 (by decide) (fun l => w64 (a l))).fresh
  rw [accessWord] at hi
  refine ⟨_, _, hi.trans (issue_next (p := p) (h.of_rows _) _), hsplits, hsplits.reqs, ?_⟩
  have hbad : ((acting x w.d).map (fun l => ({ lane := l, addr := addr (begun s p x []) x w l, n
                                               data := if store then storeData (begun s p x []) x w n l else [] } : LaneAcc))).map
      (check (begun s p x []) x) = (acting x w.d).map (fun l => .bad l (a l)) := by
    rw [List.map_map]
    exact List.map_congr_left fun l hl => hfails l hl _
  simp only [h.actLanes_eq, hbad]
  rw [startChecked_bad h.on hz hne]
  exact endsAs_late rfl x _ _

/-- An address that is not canonical fails (R162). -/
theorem fails_global (hcan : ∀ l ∈ acting x w.d, 2 ^ 57 < addr64 s x w l + n) :
    Fails s x w n Machine.gaddr (fun _ _ => checkGlobal) (addr64 s x w) := by
  intro b _ hr l hl d
  simp only [checkGlobal, hr.gaddr, canonical, Nat.not_le.2 (hcan l hl), decide_false, Bool.false_eq_true, if_false]

/-- An offset whose bytes reach beyond .scratch fails (R166). -/
theorem fails_scratch (hout : ∀ l ∈ acting x w.d, (s.team x.c (s.at x).ts).scratch < addr32 s x w l + n) :
    Fails s x w n Machine.saddr (fun s x y => checkScratch s x x.c (s.crew x.c x.k).ts y.addr y) (addr32 s x w) := by
  intro b hb hr l hl d
  simp only [checkScratch, hr.saddr, hb.ts_same, hb.team_same, Nat.not_le.2 (hout l hl), decide_false, Bool.and_false, Bool.false_eq_true,
    if_false]

end

/-- Settles O30: in each space the acting lanes fail step 2. -/
theorem addressFaults : Obligations.AddressFaults := by
  intro w s x h0 h1 lanes n splits regs
  have hfails {i : Instr} {m : MemWord} {ra n : Nat} {store : Bool} {a : Nat → Nat} {addr : State → Ctx → Op → Nat → Nat}
      {check : State → Ctx → LaneAcc → Step2} (hck : Fails s x w n addr check a) (hi : exec i s = accessWord w m ra n store addr check s)
      (hz : m.zero = 0) : splits i (if store then [] else regs n) a :=
    fun h => accessWord_splits hi hz h0 h1 hck h
  refine ⟨fun hcan => ?_, fun hcan => ?_, fun hout => ?_⟩
  · have hglobal (i : Instr) (store nt : Bool) (hi : exec i s = globalWord w store nt s) :
        splits i (if store then [] else regs n) (addr64 s x w) := by
      rw [globalWord, tyBytes_eq] at hi
      exact hfails (fails_global hcan) hi rfl
    exact List.forall_mem_cons.2 ⟨hglobal (.ld w) false false rfl, List.forall_mem_cons.2 ⟨hglobal (.ldnt w) false true rfl,
      List.forall_mem_cons.2 ⟨hglobal (.st w) true false rfl, List.forall_mem_singleton.2 (hglobal (.stnt w) true true rfl)⟩⟩⟩
  · have hck := fails_global hcan
    exact ⟨hfails (store := false) (m := MemWord.of w false 16 (.regs 4)) hck rfl rfl,
      hfails (store := true) (m := MemWord.of w true 16 .none) hck rfl rfl⟩
  · have hck := fails_scratch hout
    have hscratch (i : Instr) (store : Bool) (hi : exec i s = scratchWord w store s) :
        splits i (if store then [] else regs n) (addr32 s x w) := hfails hck (hi.trans (scratchWord_eq w store s)) rfl
    exact ⟨hscratch (.lds w) false rfl, hscratch (.sts w) true rfl⟩

end Sys2Proof.Machine

/-! ## Buffer words and the region of SPILL and FILL (R103, R167, R168, R189, R191) -/

namespace Sys2Proof.Machine

/-! ### Numbers that words make up (R1) -/

theorem leNat_append (a b : List Byte) : leNat (a ++ b) = leNat a + 256 ^ a.length * leNat b := by
  induction a with
  | nil => simp [leNat]
  | cons h t ih =>
    rw [List.cons_append, leNat, ih, leNat, List.length_cons, Nat.pow_succ]
    ring

theorem leNat_words (vs : List W32) (k : Nat) :
    2 ^ (32 * k) * leNat (vs.flatMap (fun v => leBytes 4 v.toNat)) = ((vs.zipIdx k).map (fun e => e.1.toNat * 2 ^ (32 * e.2))).sum := by
  induction vs generalizing k with
  | nil => simp [leNat]
  | cons v t ih =>
    have hv : v.toNat % 256 ^ 4 = v.toNat := Nat.mod_eq_of_lt v.isLt
    rw [List.flatMap_cons, leNat_append, leNat_leBytes, hv, length_leBytes, List.zipIdx_cons, List.map_cons, List.sum_cons, ← ih (k + 1)]
    ring

/-! ### The element that a lane names (R168, R189) -/

def bufRecord (s : State) (x : Ctx) (w : Op) (l : Nat) : Nat :=
  ((rdRun s x w.a 4 l).zipIdx.map (fun e => e.1.toNat * 2 ^ (32 * e.2))).sum

def bufSwizzle (s : State) (x : Ctx) (w : Op) (l : Nat) : Nat := bf (bufRecord s x w l) 112 4

def bufIndex (s : State) (x : Ctx) (w : Op) (l : Nat) : Nat := (rd s x 0 w.b l).toNat

/-- The index after the swizzle. -/
def bufPlace (s : State) (x : Ctx) (w : Op) (l : Nat) : Nat :=
  if bufSwizzle s x w l = 0 then bufIndex s x w l
  else bufIndex s x w l ^^^ (bufIndex s x w l / 2 ^ (bufSwizzle s x w l + 2) % 8)

def bufElem (s : State) (x : Ctx) (w : Op) (l : Nat) : Nat :=
  ((bf (bufRecord s x w l) 0 64 + bufPlace s x w l * bf (bufRecord s x w l) 64 16 + offsetOf x w : Int) % 2 ^ 64).toNat

def bufIn (s : State) (x : Ctx) (w : Op) (n l : Nat) : Bool :=
  decide (bufSwizzle s x w l ≤ 7) && decide (bufIndex s x w l < bf (bufRecord s x w l) 80 32) &&
    (bf (bufRecord s x w l) 64 16 == 0 || decide (offsetOf x w + n ≤ bf (bufRecord s x w l) 64 16))

/-- The write of the bound to qM. -/
def bufBound (s : State) (x : Ctx) (w : Op) (n : Nat) : List Wr :=
  if w.m = 0 then [] else [.q w.m x.on (maskOf ((lanesOf x.on).filter (bufIn s x w n)))]

section
variable {s b : State} {x : Ctx} {w : Op} {n : Nat}

theorem bufLane_eq (s : State) (x : Ctx) (w : Op) (n l : Nat) :
    bufLane s x w n l = (if bufSwizzle s x w l ≤ 7 then some (bufElem s x w l) else none, bufIn s x w n l) := by
  have hrecord : leNat ((rdRun s x w.a 4 l).flatMap (fun v => leBytes 4 v.toNat)) = bufRecord s x w l := by
    rw [bufRecord, ← leNat_words]
    simp
  have hoff : kOff x w = offsetOf x w := rfl
  have hswz : bf (bufRecord s x w l) 112 4 = bufSwizzle s x w l := rfl
  have hidx : (rd s x 0 w.b l).toNat = bufIndex s x w l := rfl
  simp only [bufLane, hrecord, hoff, hswz, hidx]
  by_cases h0 : bufSwizzle s x w l = 0
  · simp [h0, bufIn, bufElem, bufPlace, wrapInt]
  · by_cases h7 : bufSwizzle s x w l ≤ 7 <;> simp [h0, h7, bufIn, bufElem, bufPlace, wrapInt]

theorem ReadsAs.bufLane (h : ReadsAs s b x) (w : Op) (n l : Nat) : bufLane b x w n l = Machine.bufLane s x w n l := by
  simp only [Machine.bufLane, h.rdRun, h.rd]

theorem boundPred_eq (hx : x.on ≠ 0) (s : State) (w : Op) (n : Nat) : boundPred s x w n = bufBound s x w n := by
  have hon : (x.on == 0) = false := by simpa using hx
  simp only [boundPred, bufBound, bufLane_eq, hon, Bool.or_false, decide_eq_true_eq]

theorem ReadsAs.boundPred (h : ReadsAs s b x) (hx : x.on ≠ 0) (w : Op) (n : Nat) : boundPred b x w n = bufBound s x w n := by
  rw [← boundPred_eq hx]
  simp only [Machine.boundPred, h.bufLane]

/-- A lane in bounds has an address. -/
theorem bufLane_of_in {l : Nat} (h : bufIn s x w n l = true) : bufLane s x w n l = (some (bufElem s x w l), true) := by
  have h7 : bufSwizzle s x w l ≤ 7 := by
    simp only [bufIn, Bool.and_eq_true, decide_eq_true_eq] at h
    exact h.1.1
  rw [bufLane_eq, if_pos h7, h]

/-! ### ADDRX (R189) -/

theorem wr64_ne_nil (hx : x.on ≠ 0) (comp : Bool) {d : Opd} (hd : Opd.writes d = true) (val : Nat → Nat) :
    wr64 x comp d (fun l => w64 (val l)) ≠ [] := wrN_ne_nil hx comp hd 2 val

/-- What ADDRX writes. -/
def addrxWrites (x : Ctx) (w : Op) (s : State) : List Wr :=
  wr64 x (uniformProducing w) w.d (fun l => w64 ((bufLane s x w (tyBytes w.ty) l).1.getD 0)) ++ boundPred s x w (tyBytes w.ty)

theorem ReadsAs.addrxWrites (h : ReadsAs s b x) (hx : x.on ≠ 0) (w : Op) : addrxWrites x w b =
    wr64 x (uniformProducing w) w.d (fun l => w64 (if bufSwizzle s x w l ≤ 7 then bufElem s x w l else 0)) ++
      bufBound s x w (widthOf w.ty) := by
  have hval (l : Nat) : (Machine.bufLane s x w (widthOf w.ty) l).1.getD 0 = if bufSwizzle s x w l ≤ 7 then bufElem s x w l else 0 := by
    rw [bufLane_eq]
    split <;> rfl
  simp only [Machine.addrxWrites, h.boundPred hx, h.bufLane, tyBytes_eq, hval]

theorem addrx_leaves (h : Issues s w (vdst w.d 2) (uniformProducing w) x) (hd : Opd.writes w.d = true) :
    Completes (.addrx w) s fun t =>
      Leaves s t x 4 (wr64 x (uniformProducing w) w.d (fun l => w64 (if bufSwizzle s x w l ≤ 7 then bufElem s x w l else 0)) ++
        bufBound s x w (widthOf w.ty)) ∧ OnlyResult s t x (lastRegs x.h w 4 1 1) := by
  let p : Pre := { w, ra := 4, dst := vdst w.d 2, comp := uniformProducing w }
  have hi : exec (.addrx w) s = issue s p (fun x s => fixedResult s x 4 (addrxWrites x w s)) := rfl
  have hwr := (readsAs_begun s p x).addrxWrites h.on w
  have hne : addrxWrites x w (begun s p x []) ≠ [] := by
    rw [hwr]
    exact List.append_ne_nil_of_left_ne_nil (wr64_ne_nil h.on _ hd _) _
  obtain ⟨t, ht, hleaves, honly⟩ := issue_fixedResult (p := p) (body := fun x s => fixedResult s x 4 (addrxWrites x w s)) h 4
    (addrxWrites x w) (fun _ => []) hne rfl
  rw [hwr] at hleaves
  exact ⟨t, hi.trans ht, hleaves, by simpa [p] using honly⟩

/-! ### LDB and STB -/

/-- A word that leaves a fixed-latency result before it asks: the state it asks in. -/
theorem Begins.fixedResult (h : Begins s b x) (hc : b.clk = s.clk) (lat : Nat) (wr : List Wr) :
    Begins (fixedResult s x lat wr) (fixedResult b x lat wr) x := by
  obtain ⟨pc, since, hcrew⟩ := h.crew
  obtain ⟨hreqs, hfills, hid⟩ := h.same
  have hs := OnlyCrew.fixedResult s x lat wr []
  have hb := OnlyCrew.fixedResult b x lat wr []
  refine ⟨hs.symm.trans (h.only.trans hb), ⟨pc, since, ?_⟩, fun l => ?_, ⟨?_, ?_, ?_⟩, fun t a n => ?_⟩
  · unfold Machine.fixedResult
    split
    · exact hcrew
    · have hat (u : State) (r : Result) : (Machine.addResult u.fresh.2 x r).at x = _ := crew_modCrew_same u.fresh.2 x.c x.k _
      have hfresh (u : State) : u.fresh.2.crew x.c x.k = u.at x := rfl
      have hnum (u : State) : u.fresh.1 = u.nextId ∧ u.fresh.2.clk = u.clk := ⟨rfl, rfl⟩
      simp only [hat, hfresh, hcrew, hnum, hid, hc]
  · rw [pcOf_fixedResult, pcOf_fixedResult]
    exact h.moves l
  · exact ((congrArg State.reqs hb.rest :).trans hreqs).trans (congrArg State.reqs hs.rest :).symm
  · exact ((congrArg State.fills hb.rest :).trans hfills).trans (congrArg State.fills hs.rest :).symm
  · unfold Machine.fixedResult
    split
    · exact hid
    · exact congrArg (· + 1) hid
  · unfold Machine.fixedResult
    split
    · exact h.absent t a n
    · have hlines (u : State) (r : Result) : absentLines ((Machine.addResult u.fresh.2 x r).core t) a n = absentLines (u.core t) a n :=
        absentLines_modCrew _ _ _ _ t a n
      rw [hlines, hlines]
      exact h.absent t a n

theorem filterMap_of_if {ls : List Nat} {f : Nat → Option LaneAcc} {q : Nat → Bool} {g : Nat → LaneAcc}
    (h : ∀ l, f l = if q l then some (g l) else none) : ls.filterMap f = (ls.filter q).map g := by
  induction ls with
  | nil => rfl
  | cons a t ih => cases ha : q a <;> simp [h a, ha, ih]

/-- What LDB and STB tell before they issue. -/
def bufPre (w : Op) (store : Bool) : Pre := memPre w 4 ((tyBytes w.ty + 3) / 4) store

/-- The pattern of LDB's and STB's requests. -/
def bufPattern (s : State) (x : Ctx) (w : Op) (store : Bool) : MemWord :=
  { MemWord.of w store (widthOf w.ty) (fillOf w.ty) with
    zero := if store then 0 else maskOf ((acting x w.d).filter (fun l => !(bufIn s x w (widthOf w.ty) l))) }

/-- The access of a lane in bounds. -/
def bufAcc (s : State) (x : Ctx) (w : Op) (store : Bool) (l : Nat) : LaneAcc :=
  { lane := l, addr := bufElem s x w l, n := widthOf w.ty, data := if store then bytesAt s x w (widthOf w.ty) l else [] }

/-- The accesses of the lanes in bounds. -/
def bufAccs (s : State) (x : Ctx) (w : Op) (store : Bool) : List LaneAcc :=
  ((acting x w.d).filter (bufIn s x w (widthOf w.ty))).map (bufAcc s x w store)

/-- A lane that acts asks or gets 0. -/
theorem bufPattern_lanes_ne_zero {dst : List Nat} {comp store : Bool} (h : Issues s w dst comp x) (hlong : (bufPattern s x w store).long = true) :
    maskOf ((bufAccs s x w store).map (·.lane)) ||| (bufPattern s x w store).zero ≠ 0 := by
  obtain rfl : store = false := by simpa [bufPattern, MemWord.of] using hlong
  obtain ⟨l, hl⟩ := List.exists_mem_of_ne_nil _ (h.acting_ne_nil w.d)
  have hlt := (mem_lanesOf.1 (h.acting_subset w.d hl)).1
  refine maskOf_or_ne_zero hlt ?_
  cases hin : bufIn s x w (widthOf w.ty) l with
  | true =>
    rw [bufAccs, List.map_map]
    exact .inl (List.mem_map.2 ⟨l, List.mem_filter.2 ⟨hl, hin⟩, rfl⟩)
  | false =>
    refine .inr ((getLsbD_maskOf _ _ hlt).trans (List.contains_iff_mem.2 (List.mem_filter.2 ⟨hl, ?_⟩)))
    rw [hin]
    rfl

theorem bufAccs_ok {store : Bool} (hcan : ∀ l ∈ (acting x w.d).filter (bufIn s x w (widthOf w.ty)), bufElem s x w l + widthOf w.ty ≤ 2 ^ 57) :
    (bufAccs s x w store).map checkGlobal = (bufAccs s x w store).map .ok := by
  simp only [bufAccs, List.map_map]
  exact List.map_congr_left fun l hl => if_pos (decide_eq_true (hcan l hl))

theorem bufLane_out (ls : List Nat) : ((ls.map (fun l => (l, bufLane s x w n l))).filter (fun e => !e.2.2)).map (·.1) =
    ls.filter (fun l => !(bufIn s x w n l)) := by
  simp [List.filter_map, Function.comp_def, bufLane_eq]

/-- LDB and STB leave the bound and ask for the lanes in bounds (R189). -/
theorem bufWord_asks {i : Instr} {store : Bool} (hi : exec i s = bufWord w store s)
    (hcan : ∀ l ∈ (acting x w.d).filter (bufIn s x w (widthOf w.ty)), bufElem s x w l + widthOf w.ty ≤ 2 ^ 57)
    (h : Issues s w (if store then [] else vdst w.d ((widthOf w.ty + 3) / 4)) (!store && uniformProducing w) x) : ∃ u res t,
      exec i s = .next t ∧ Asked (fixedResult s x 4 (bufBound s x w (widthOf w.ty))) u x (bufPattern s x w store) res
        (bufAccs s x w store) (!store && uniformProducing w) ∧ EndsAs (closeFill (pump u x.c) res) t x := by
  rw [← tyBytes_eq] at h
  have hr := readsAs_begun s (bufPre w store) x
  have hbegins := (begins_begun s (bufPre w store) x).fixedResult rfl 4 (bufBound s x w (widthOf w.ty))
  obtain ⟨u, res, hstart, hasked⟩ := startWord_asked (p := bufPre w store) h.on hbegins (bufPattern_lanes_ne_zero h) (fun y hy hspace => by
    obtain ⟨l, -, rfl⟩ := List.mem_map.1 hy
    cases hspace) true
  rw [bufWord] at hi
  refine ⟨u, res, _, hi.trans ((issue_next (p := bufPre w store) h _).trans
    (congrArg (fun u => Host.Outcome.next (ended (bufPre w store) x (s.at x) u)) (Eq.trans ?_ hstart))), hasked, endsAs_late rfl x _ _⟩
  rw [← startChecked_ok, ← bufAccs_ok hcan]
  simp only [h.actLanes_eq, hr.boundPred h.on, hr.bufLane, hr.storeData, tyBytes_eq, tyKind_eq, bufLane_out, List.filterMap_map]
  rw [filterMap_of_if (q := bufIn s x w (widthOf w.ty)) (g := bufAcc s x w store)]
  · rw [bufPre, tyBytes_eq, bufPattern, bufAccs]
  · intro l
    cases hin : bufIn s x w (widthOf w.ty) l with
    | true => simp only [Function.comp_apply, bufLane_of_in hin, bufAcc, if_true]
    | false =>
      simp only [Function.comp_apply, bufLane_eq, hin, Bool.false_eq_true, if_false]
      split <;> simp_all

/-! ### SPILL and FILL (R103, R191) -/

/-- The offset into the region. -/
def privOffset (s : State) (x : Ctx) (w : Op) : Nat := (((rd s x 0 w.a 0).toInt + offsetOf x w) % 2 ^ 32).toNat

/-- The words of a lane's run. -/
def privWords (s : State) (x : Ctx) (w : Op) (l : Nat) : List LaneAcc :=
  (List.range (widthOf w.ty / 4)).map (fun b =>
    { lane := l, addr := (s.at x).privBase.toNat + (privOffset s x w + 4 * b) / 4 * 128 + l * 4, n := 4, at0 := 4 * b })

/-- What a store sends for each of them. -/
def privData (s : State) (x : Ctx) (w : Op) (store : Bool) (l : Nat) (y : LaneAcc) : LaneAcc :=
  { y with data := if store then ((bytesAt s x w (widthOf w.ty) l).drop y.at0).take 4 else [] }

/-- What SPILL and FILL tell before they issue. -/
def privPre (w : Op) (store : Bool) : Pre := { memPre w 1 (widthOf w.ty / 4) store with comp := false }

/-- The pattern of their requests. -/
def privPattern (w : Op) (store : Bool) : MemWord := { MemWord.of w store (widthOf w.ty) (fillOf w.ty) with cp := 0, plain := true }

theorem privAddr_word {k : Crew} {o : Nat} (halign : o % 4 = 0) (i l : Nat) :
    privAddr k (o + 4 * i) l = k.privBase.toNat + (o + 4 * i) / 4 * 128 + l * 4 := by
  have hmod : (o + 4 * i) % 4 = 0 := by omega
  rw [privAddr, hmod, Nat.add_zero]

theorem Begins.privAddr_same (h : Begins s b x) (o l : Nat) : privAddr (b.crew x.c x.k) o l = privAddr (s.at x) o l := by
  obtain ⟨pc, since, e⟩ := h.crew
  have hbase : (b.crew x.c x.k).privBase = (s.at x).privBase := (congrArg Crew.privBase e :)
  rw [privAddr, hbase, privAddr]

theorem Begins.pshift_same (h : Begins s b x) : (b.crew x.c x.k).pshift = (s.at x).pshift := by
  obtain ⟨pc, since, e⟩ := h.crew
  exact (congrArg Crew.pshift e :)

theorem privateWord_asks {i : Instr} {store : Bool} (hi : exec i s = privateWord w store s) (hty : w.ty ∈ [17, 18])
    (halign : privOffset s x w % 4 = 0) (hend : privOffset s x w + widthOf w.ty ≤ 256 * 2 ^ (s.at x).pshift)
    (hcan : ∀ l ∈ lanesOf x.on, ∀ y ∈ privWords s x w l, y.addr + 4 ≤ 2 ^ 57)
    (h : Issues s w (if store then [] else vdst w.d (widthOf w.ty / 4)) false x) :
    Asks i s x (privPattern w store) ((lanesOf x.on).flatMap (fun l => (privWords s x w l).map (privData s x w store l))) := by
  have hr := readsAs_begun s (privPre w store) x
  have hb := begins_begun s (privPre w store) x
  have hoff : wrapInt 32 ((rd s x 0 w.a 0).toInt + kOff x w) = privOffset s x w := rfl
  rw [privateWord, tyBytes_eq, tyKind_eq] at hi
  refine asks_checked (p := privPre w store) h rfl hi ?_ ?_ ?_
  · simp only [hr.rd, hr.storeData, hb.privAddr_same, hb.pshift_same, hoff, privAddr_word halign, List.map_flatMap]
    refine congrArg _ (List.flatMap_congr fun l hl => ?_)
    have hall := hcan l hl
    rw [if_pos]
    · simp only [privWords, List.map_map]
      rfl
    · simp only [privWords, List.forall_mem_map] at hall
      simpa [halign, hend, canonical] using hall
  · intro _
    have hpos : 0 ∈ List.range (widthOf w.ty / 4) := by
      rcases List.mem_cons.1 hty with hty | hty
      · simp [hty, widthOf]
      · simp [List.mem_singleton.1 hty, widthOf]
    refine maskOf_or_ne_zero (mem_lanesOf.1 h.low_mem).1 (.inl ?_)
    simp only [List.mem_map, List.mem_flatMap]
    exact ⟨_, ⟨x.low, h.low_mem, _, List.mem_map.2 ⟨0, hpos, rfl⟩, rfl⟩, rfl⟩
  · intro y hy hspace
    simp only [privWords, List.mem_flatMap, List.mem_map] at hy
    obtain ⟨l, -, -, ⟨b, -, rfl⟩, rfl⟩ := hy
    cases hspace

end

/-- Settles O28: ADDRX leaves the element, LDB and STB ask for the lanes in bounds, SPILL and FILL for the words of the region. -/
theorem bufferAndPrivate : Obligations.BufferAndPrivate := by
  intro w s x n k rcd swz i j elem inb bound lanes good buffer o word words
  have hld : exec (.ldb w) s = bufWord w false s := rfl
  have hst : exec (.stb w) s = bufWord w true s := rfl
  have hfill : exec (.fill w) s = privateWord w false s := rfl
  have hspill : exec (.spill w) s = privateWord w true s := rfl
  refine ⟨addrx_leaves, fun hcan h => bufWord_asks hld hcan h, fun hcan h => bufWord_asks hst hcan h,
    fun hty halign hend hcan => ⟨fun h => ?_, fun h => privateWord_asks hspill hty halign hend hcan h⟩⟩
  have hask := privateWord_asks hfill hty halign hend hcan h
  have hdata (l : Nat) : (privWords s x w l).map (privData s x w false l) = privWords s x w l := by
    rw [privWords, List.map_map]
    rfl
  simp only [hdata] at hask
  exact hask

end Sys2Proof.Machine

/-! ## A core's requests move on and leave every memory (R169, R178, R184)

`pump` looks requests up and sends them; on its way lanes may fault, records may enter a log, sectors may leave an L1. None of
it touches DRAM, the memory-side cache, host memory, a scratchpad or the tiles. -/

namespace Sys2Proof.Machine

/-! ### Steps of a state -/

theorem SameMemory.modCrew (s : State) (c k : Nat) (f : Crew → Crew) : SameMemory s (s.modCrew c k f) := .modCore fun _ => rfl

theorem SameMemory.modTeam (s : State) (c t : Nat) (f : Team → Team) : SameMemory s (s.modTeam c t f) := .modCore fun _ => rfl

theorem SameMemory.ite {s t u : State} {b : Prop} [Decidable b] (ht : SameMemory s t) (hu : SameMemory s u) :
    SameMemory s (if b then t else u) := by
  split
  · exact ht
  · exact hu

theorem SameMemory.ite_fst {s : State} {p q : State × Bool} {b : Prop} [Decidable b] (hp : SameMemory s p.1) (hq : SameMemory s q.1) :
    SameMemory s (if b then p else q).1 := by
  split
  · exact hp
  · exact hq

theorem SameMemory.foldl {α : Type} {f : State → α → State} (h : ∀ s a, SameMemory s (f s a)) (l : List α) (s : State) :
    SameMemory s (l.foldl f s) := by
  induction l generalizing s with
  | nil => exact .refl s
  | cons a l ih => exact (h s a).trans (ih (f s a))

theorem SameMemory.post (s : State) (die : Nat) (e : Event) : SameMemory s (s.post die e) :=
  .ite (.ite ⟨rfl, rfl, rfl, fun _ => rfl, rfl⟩ ⟨rfl, rfl, rfl, fun _ => rfl, rfl⟩) ⟨rfl, rfl, rfl, fun _ => rfl, rfl⟩

theorem SameMemory.modOwning (s : State) (c k uid : Nat) (f : Crew → Crew) : SameMemory s (s.modOwning c k uid f) :=
  .ite (.modCrew s c k f) (.ite ⟨rfl, rfl, rfl, fun _ => rfl, rfl⟩ (.refl s))

theorem SameMemory.setReq (s : State) (r : Req) : SameMemory s (setReq s r) := ⟨rfl, rfl, rfl, fun _ => rfl, rfl⟩

theorem SameMemory.moveEnd (s : State) (r : Req) : SameMemory s (moveEnd s r) := ⟨rfl, rfl, rfl, fun _ => rfl, rfl⟩

/-! ### Faults and traps (R184, R252, R253) -/

theorem SameMemory.freezeCrew (s : State) (c k cause : Nat) (m : Mask) (pc : W32) : SameMemory s (freezeCrew s c k cause m pc) := by
  have down (u : State) : SameMemory u (monitorDown u c k) := .ite ⟨rfl, rfl, rfl, fun _ => rfl, rfl⟩ (.refl u)
  exact .ite (.refl s) (((SameMemory.modCrew s c k _).trans (.post _ _ _)).trans (down _))

theorem SameMemory.trapLane (s : State) (c k : Nat) (pc : Pc) (len : Nat) (r : Raise) : SameMemory s (trapLane s c k pc len r) :=
  .ite ((SameMemory.modCrew s c k _).trans (.freezeCrew _ _ _ _ _ _)) (.modCrew s c k _)

theorem SameMemory.faultSplit (s : State) (c k : Nat) (pc : Pc) (len : Nat) (l : List Raise) : SameMemory s (faultSplit s c k pc len l) := by
  cases l with
  | nil => exact .refl s
  | cons r l => exact (SameMemory.modCrew s c k _).trans (.post _ _ _)

theorem SameMemory.takeFaults (s : State) (c k : Nat) (pc : Pc) (len : Nat) (l : List Raise) : SameMemory s (takeFaults s c k pc len l) :=
  (SameMemory.faultSplit s c k pc len _).trans (.foldl (fun s r => .trapLane s c k pc len r) _ _)

/-! ### Results and requests -/

theorem SameMemory.fillResult (s : State) (c k id : Nat) (wr : List Wr) : SameMemory s (fillResult s c k id wr) := by
  refine .ite (.modCrew s c k _) ⟨rfl, rfl, rfl, fun d => ?_, rfl⟩
  have hcore := tget_map_snd (d := ({} : Core)) (g := fun o : Core => { o with slots := o.slots.map (fun k => (k.1, k.2.fillRes id wr)) })
    rfl s.cores d
  exact (congrArg Core.scratch hcore :)

theorem SameMemory.closeFill (s : State) (res : Nat) : SameMemory s (closeFill s res) := by
  refine .ite (.refl s) ?_
  split
  · refine SameMemory.trans ?_ (.fillResult _ _ _ _ _)
    exact ⟨rfl, rfl, rfl, fun _ => rfl, rfl⟩
  · exact .refl s

theorem SameMemory.dropReq (s : State) (r : Req) : SameMemory s (dropReq s r) := by
  refine SameMemory.trans ?_ (.closeFill _ r.res)
  exact ⟨rfl, rfl, rfl, fun _ => rfl, rfl⟩

theorem SameMemory.putBytes (s : State) (res lane at0 : Nat) (b : List Byte) : SameMemory s (putBytes s res lane at0 b) :=
  ⟨rfl, rfl, rfl, fun _ => rfl, rfl⟩

theorem SameMemory.leaveWord (s : State) (r : Req) (m : Mask) : SameMemory s (leaveWord s r m) := by
  refine (SameMemory.trans ?_ (.modCrew _ r.core r.slot _)).trans (.closeFill _ r.res)
  exact ⟨rfl, rfl, rfl, fun _ => rfl, rfl⟩

theorem SameMemory.failLanes (s : State) (r : Req) (l : List (Nat × Nat)) : SameMemory s (failLanes s r l) :=
  .ite (.refl s) ((SameMemory.leaveWord s r _).trans (.takeFaults _ _ _ _ _ _))

theorem SameMemory.failReq (s : State) (r : Req) (cause : Nat) : SameMemory s (failReq s r cause) := by
  unfold Machine.failReq
  split
  · exact .dropReq s r
  · exact .failLanes s r _

/-- A request fails after it has been noted where it stands. -/
theorem SameMemory.setReq_failReq (s : State) (q r : Req) (cause : Nat) : SameMemory s (Machine.failReq (Machine.setReq s q) r cause) :=
  (SameMemory.setReq s q).trans (.failReq _ r cause)

/-! ### The checks of steps 3 to 6 (R181, R182) -/

theorem SameMemory.queueCopy (s : State) (k : Kept) : SameMemory s (queueCopy s k).2 := ⟨rfl, rfl, rfl, fun _ => rfl, rfl⟩

theorem SameMemory.newQuery (s : State) (g : Nat) : SameMemory s (newQuery s g).2 := by
  have keep (s : State) (k : Kept) : SameMemory s (keepCopy s k) := .ite ⟨rfl, rfl, rfl, fun _ => rfl, rfl⟩ (.queueCopy s k)
  unfold Machine.newQuery
  split
  · exact .refl s
  · dsimp only [State.fresh]
    split
    · exact ⟨rfl, rfl, rfl, fun _ => rfl, rfl⟩
    · refine SameMemory.trans ?_ (keep _ _)
      exact ⟨rfl, rfl, rfl, fun _ => rfl, rfl⟩

theorem SameMemory.ocTouch (s : State) (g : Nat) : SameMemory s (ocTouch s g) := by
  unfold Machine.ocTouch
  split <;> exact ⟨rfl, rfl, rfl, fun _ => rfl, rfl⟩

theorem SameMemory.checkBkadd (s : State) (r : Req) (t : Trans) (c f : Nat) : SameMemory s (checkBkadd s r t c f) := by
  refine .ite (.setReq_failReq s _ r _) ?_
  have hlanes := (SameMemory.setReq s { r with stage := .ready }).trans
    (.failLanes _ r ((r.pieces.filter (fun p => p.base % 4 != 0)).map (fun p => (p.lane, 0x11))))
  split
  · exact .ite (hlanes.trans (.failReq _ _ _)) (.ite (hlanes.trans (.failReq _ _ _)) hlanes)
  · exact hlanes

theorem SameMemory.checkOwner (s : State) (r : Req) (t : Trans) (o : Owner) : SameMemory s (checkOwner s r t o) := by
  cases o with
  | host f => exact .setReq s _
  | dram c m f =>
    refine .ite (.setReq_failReq s _ _ _) ?_
    split
    · exact .setReq s _
    · exact .checkBkadd s _ t c f
    · refine .ite (.setReq_failReq s _ _ _) (.ite (.setReq_failReq s _ _ _) ?_)
      split
      · exact (SameMemory.setReq s _).trans (.failLanes _ _ _)
      · exact .setReq s _

theorem SameMemory.askOwner (s : State) (r : Req) (t : Trans) : SameMemory s (askOwner s r t) := by
  have known (s : State) (r : Req) (o : Owner) : SameMemory s (Machine.checkOwner (Machine.ocTouch s t.gpn) r t o) :=
    (SameMemory.ocTouch s t.gpn).trans (.checkOwner _ r t o)
  have ask (s : State) (q : Req) : SameMemory s (Machine.setReq (Machine.newQuery s t.gpn).2 q) :=
    (SameMemory.newQuery s t.gpn).trans (.setReq _ _)
  unfold Machine.askOwner
  dsimp only
  split
  · exact .setReq s _
  · exact .setReq s _
  · refine .ite (.setReq_failReq s _ _ _) ?_
    split
    · exact known s _ _
    · exact ask s _
    · exact .setReq_failReq s _ _ _
  · refine .ite (.ite (.setReq s _) ?_) ?_
    · split
      · exact (SameMemory.setReq s _).trans (.dropReq _ _)
      · exact (SameMemory.setReq s _).trans (.failLanes _ _ _)
    · split
      · exact .checkOwner s _ t _
      · exact .ite (.setReq_failReq s _ _ _) (.ite (.setReq_failReq s _ _ _) (ask s _))
      · exact known s _ _
      · exact ask s _
      · exact .setReq_failReq s _ _ _

theorem SameMemory.checkEntry (s : State) (r : Req) (t : Trans) : SameMemory s (checkEntry s r t) :=
  .ite (.ite (.failReq s r _) (.setReq s _)) (.ite (.failReq s r _) (.ite (.failReq s r _) (.askOwner s r t)))

theorem SameMemory.lookUp (s : State) (r : Req) : SameMemory s (lookUp s r) := by
  unfold Machine.lookUp
  split
  · exact .checkEntry s r _
  · exact .setReq s _

/-! ### L1 and log (R171, R290) -/

theorem SameMemory.l1Touch (s : State) (c key : Nat) : SameMemory s (l1Touch s c key) := .modCore fun o => by split <;> rfl

theorem SameMemory.l1Drop (s : State) (c key : Nat) (m : BitVec 4) : SameMemory s (l1Drop s c key m) := .modCore fun _ => rfl

theorem SameMemory.markNoFill (s : State) (c key : Nat) (m : BitVec 4) : SameMemory s (markNoFill s c key m) :=
  ⟨rfl, rfl, rfl, fun _ => rfl, rfl⟩

theorem SameMemory.l1Bypass (s : State) (c key : Nat) (m : BitVec 4) : SameMemory s (l1Bypass s c key m) :=
  (SameMemory.l1Drop s c key m).trans (.markNoFill _ c key m)

theorem SameMemory.l1Store (s : State) (c key cp : Nat) (cells : List (Nat × Byte)) : SameMemory s (l1Store s c key cp cells) :=
  .ite ((SameMemory.markNoFill s c key _).trans (.l1Drop _ c key _)) ((SameMemory.markNoFill s c key _).trans (.modCore fun _ => rfl))

theorem SameMemory.l1Effect (s : State) (r : Req) (t : Trans) : SameMemory s (l1Effect s r t) := by
  unfold Machine.l1Effect
  dsimp only
  have bypass (m : BitVec 4) := SameMemory.l1Bypass s r.core (l1Key t r.line) m
  have store := SameMemory.ite (b := t.nc = true) (bypass r.mask) (.l1Store s r.core (l1Key t r.line) r.cp (lineCells r))
  split
  exacts [store, store, bypass _, bypass _, bypass _, bypass _, bypass _, bypass _, bypass _, .ite (bypass _) (.refl s), .refl s]

/-- The state that an append leaves, if it leaves one, has the same memories. -/
def Append.Keeps (s : State) : Append → Prop
  | .done t => SameMemory s t
  | .full t => SameMemory s t
  | .noChunk => True

theorem Append.Keeps.ite {s : State} {a b : Append} {p : Prop} [Decidable p] (ha : a.Keeps s) (hb : b.Keeps s) :
    (if p then a else b).Keeps s := by
  split
  · exact ha
  · exact hb

theorem SameMemory.logSpill {s t : State} {c : Nat} (h : logSpill s c = some t) : SameMemory s t := by
  unfold Machine.logSpill at h
  dsimp only at h
  split at h
  · cases h
  · split at h
    · cases h
    · obtain rfl := Option.some.inj h
      exact .modCore fun _ => rfl

theorem appendLane_keeps (s : State) (c k uid l : Nat) (recs : List LogRec) : (appendLane s c k uid l recs).Keeps s := by
  refine .ite ?_ (.ite (.refl s) ?_)
  · refine SameMemory.trans ?_ (.modOwning _ c k uid _)
    refine SameMemory.trans ?_ (.modTeam _ c _ _)
    exact .modCore fun _ => rfl
  · split
    next t ht => exact SameMemory.logSpill ht
    next => exact trivial

theorem SameMemory.dropLane (s : State) (word l : Nat) : SameMemory s (dropLane s word l) := ⟨rfl, rfl, rfl, fun _ => rfl, rfl⟩

theorem SameMemory.appendWord (c k word : Nat) (r : Req) (n : Nat) (s : State) : SameMemory s (appendWord c k word r n s) := by
  induction n generalizing s with
  | zero => exact .refl s
  | succ n ih =>
    unfold Machine.appendWord
    split
    · exact .refl s
    next l recs _ =>
      have happend := appendLane_keeps s c k r.uid l recs
      split
      next t ht =>
        rw [ht] at happend
        exact (SameMemory.trans happend (.dropLane _ word _)).trans (ih _)
      next t ht =>
        rw [ht] at happend
        exact SameMemory.trans happend (.ite (.modCrew _ c k _) (.refl _))
      next => exact (SameMemory.foldl (fun s l => .dropLane s word l) _ s).trans (.failLanes _ r _)

/-! ### Sending (R169, R170) -/

theorem SameMemory.loseReq (s : State) (r : Req) (cause : Nat) : SameMemory s (loseReq s r cause) := by
  unfold Machine.loseReq
  dsimp only
  split
  · exact .dropReq s r
  · exact .ite ((SameMemory.modOwning s _ _ _ _).trans (.dropReq _ r)) (.failReq s r cause)

theorem SameMemory.route (s : State) (r : Req) (t : Trans) : SameMemory s (route s r t) := by
  unfold Machine.route
  dsimp only
  split
  · exact .moveEnd s _
  · exact .ite (.failReq s r _) (.ite (.loseReq s r _) ((SameMemory.queueCopy s _).trans (.moveEnd _ _)))

theorem SameMemory.sendRead (s : State) (r : Req) (t : Trans) : SameMemory s (sendRead s r t).1 := by
  unfold Machine.sendRead
  generalize takeHits s r t = hits
  obtain ⟨r, hit⟩ := hits
  dsimp only
  have touched : SameMemory s (if hit == 0 then s else Machine.l1Touch s r.core (l1Key t r.line)) := .ite (.refl s) (.l1Touch s _ _)
  generalize (if hit == 0 then s else Machine.l1Touch s r.core (l1Key t r.line)) = u at touched
  split
  · exact touched.trans (.moveEnd u _)
  · split
    · split
      · exact touched.trans (.dropReq u _)
      · exact touched.trans (.setReq u _)
    · exact (touched.trans (.l1Effect u _ t)).trans (.route _ _ t)

theorem SameMemory.giveKeys (s : State) (r : Req) : SameMemory s (giveKeys s r).1 := by
  unfold Machine.giveKeys
  dsimp only
  split
  · dsimp only
    exact .modOwning s _ _ _ _
  · exact .refl s

theorem SameMemory.trySend (s : State) (r : Req) : SameMemory s (trySend s r).1 := by
  have puts (n : Nat) (v : State → Piece → Nat) : SameMemory s
      (r.pieces.foldl (fun (s : State) (p : Piece) => Machine.putBytes s r.res p.lane 0 (leBytes n (v s p))) s) :=
    .foldl (fun s (p : Piece) => .putBytes s r.res p.lane 0 _) _ s
  unfold Machine.trySend
  dsimp only
  split
  · exact (puts 4 (fun s p => probeWord s r p)).trans (.dropReq _ r)
  · refine SameMemory.trans ?_ (.dropReq _ r)
    split
    · exact ⟨rfl, rfl, rfl, fun _ => rfl, rfl⟩
    · exact .refl s
  · exact (puts 8 (fun _ p => pqryWord r _)).trans (.dropReq _ r)
  · refine SameMemory.trans ?_ (.dropReq _ r)
    exact ⟨rfl, rfl, rfl, fun _ => rfl, rfl⟩
  · split
    · refine SameMemory.trans ?_ (.dropReq _ r)
      exact .foldl (fun s p => .modCrew s r.core r.slot _) _ s
    · exact .failReq s r _
  · split
    · exact .dropReq s r
    next t _ =>
      have routed (s : State) (r : Req) : SameMemory s (Machine.route (Machine.l1Effect s r t) r t) :=
        (SameMemory.l1Effect s r t).trans (.route _ r t)
      refine .ite_fst (.refl s) (.ite_fst (.setReq s _) (.ite_fst (.ite_fst (.refl s) (.appendWord _ _ _ r _ s)) ?_))
      split
      · exact (SameMemory.l1Bypass s _ _ _).trans (.dropReq _ r)
      · refine .ite_fst (.refl s) (.ite_fst (.sendRead s r t) ?_)
        split
        · exact .sendRead s r t
        · exact .sendRead s _ t
        · exact .ite_fst (routed s _) (.setReq s _)
        · exact .ite_fst (routed s _) (.setReq s _)
        · exact (SameMemory.giveKeys s r).trans (routed _ _)

theorem SameMemory.settleLasts (s : State) (c k : Nat) : SameMemory s (settleLasts s c k) := .modCrew s c k _

theorem SameMemory.sendAll (c : Nat) (l blocked : List Nat) (s : State) : SameMemory s (Machine.sendAll c l blocked s) := by
  induction l generalizing blocked s with
  | nil => exact .refl s
  | cons id t ih =>
    unfold Machine.sendAll
    split
    · exact ih _ s
    next r _ =>
      refine .ite (ih _ s) (.ite (.refl s) (.ite ?_ (ih _ s)))
      have hsend := SameMemory.trySend s r
      generalize Machine.trySend s r = sent at hsend
      obtain ⟨u, gone⟩ := sent
      dsimp only at hsend ⊢
      split
      · exact .ite hsend (hsend.trans (ih _ _))
      · exact hsend.trans (ih _ _)

/-- A core's requests move on and leave every memory. -/
theorem SameMemory.pump (s : State) (c : Nat) : SameMemory s (pump s c) := by
  refine (SameMemory.trans ?_ (.sendAll c _ [] _)).trans (.foldl (fun s (e : Nat × Crew) => .settleLasts s c e.1) _ _)
  refine .foldl (fun s id => ?_) _ s
  split
  · exact .ite (.lookUp s _) (.refl s)
  · exact .refl s

end Sys2Proof.Machine

/-! ## A read that a sector of too many bytes disturbs (R172, R260)

A sector of the memory-side cache that a read finds under another context's key is written back before it is read again. The
statement bounds what a sector holds nowhere, and one of 65 bytes is written back beyond its 64: over the next sector of the same
line, which the read takes from DRAM after it. What it takes is not what DRAM held before the read. -/

namespace Sys2Proof.Machine

/-- The translation of a line in page 0. -/
def pageZero : Trans := { gpn := 0, fw := false, nc := false, dfr := false, w := true, rd := true, big := false }

/-- A load at its owner that misses sectors 0 and 1 of line 0 of stack 0. -/
def lineRead : Req :=
  { id := 1, word := 1, uid := 0, core := 0, slot := 0, ts := 0, acc := .load, ctx := 0, width := 4, line := 0, pieces := [], pc := {}
    len := 0, miss := 3, tr := some pageZero, owner := some (.dram 0 0 0), stage := .atOwner }

/-- Sector 0 is dirty under the key of context 5 and holds 65 bytes, the last of them 7; DRAM is empty. -/
def overlong : State :=
  { phase := .running, reqs := [lineRead], keys := [(5, 1)], stks := [(0, { here := [(0, 0)] })]
    msc := [(0, { data := List.replicate 64 0 ++ [7], dirty := true, poison := 0, first := false, ctx := 5 })] }

/-- The first byte of sector 1 in the memory-side cache. -/
def sectorOneByte (s : State) : Option Byte := (tget? s.msc 1).map (fun e => e.data.getD 0 0)

/-- The same after an instruction. -/
def sectorOneAfter (o : Out) : Option Byte :=
  match o with
  | .next t => sectorOneByte t
  | _ => none

theorem find_lineRead : findReq overlong 1 = some lineRead := by decide +kernel

theorem served_lineRead : served overlong lineRead = true := by decide +kernel

theorem early_lineRead : earlyPlaces overlong lineRead = [] := by decide +kernel

theorem sectorOne_absent : tget? overlong.msc 1 = none := by decide +kernel

/-- The byte that sector 0 held too many stands in sector 1. -/
theorem sectorOne_lineRead : sectorOneAfter (exec (.memoryReadAtOwner 1) overlong) = some 7 := by decide +kernel

/-- DRAM held 0 there. -/
theorem granRead_overlong : (granRead overlong 0 2 ++ granRead overlong 0 3).getD 0 0 = 0 := by decide +kernel

theorem sectorOneByte_pump (s : State) (c : Nat) : sectorOneByte (pump s c) = sectorOneByte s := by
  rw [sectorOneByte, (SameMemory.pump s c).msc, sectorOneByte]

/-- Refutes O40: the read of sector 1 finds the byte that sector 0's write-back has put there, and not what DRAM held. -/
theorem not_memoryEvents : ¬ Obligations.MemoryEvents := by
  intro h
  obtain ⟨-, -, -, hread, -⟩ := h overlong 1 lineRead find_lineRead
  obtain ⟨-, hdram⟩ := hread served_lineRead early_lineRead rfl rfl
  obtain ⟨u, hu, d, bad, -, hsectors⟩ := hdram pageZero 0 0 rfl rfl rfl (by decide) (by decide) rfl
  obtain ⟨e, hsector, -, hfill⟩ := hsectors 1 (by decide)
  have hplace : (0 * 2 ^ 36 + 0 * 2 ^ 16 + (lineRead.line + 64 * 1) % 65536) / 64 = 1 := rfl
  simp only [hplace, sectorOne_absent] at hsector hfill
  have hseven := sectorOne_lineRead
  rw [hu, sectorOneAfter, sectorOneByte_pump, sectorOneByte, hsector, Option.map_some, hfill.1] at hseven
  exact absurd (granRead_overlong.symm.trans (Option.some.inj hseven)) (by decide)

end Sys2Proof.Machine

/-! ## Read-modify-write words (R217, R219 to R223, R228) -/

namespace Sys2Proof.Machine

/-! ### The operators of R221 -/

theorem intOf_minI_least (sg : Bool) (W m b : Nat) : intOf sg W (minI false sg W m b) = min (intOf sg W m) (intOf sg W b) := by
  simp only [minI, Bool.bne_false, decide_eq_true_eq]
  split
  next hlt => exact (min_eq_left hlt.le).symm
  next hge => exact (min_eq_right (not_lt.1 hge)).symm

theorem intOf_minI_greatest (sg : Bool) (W m b : Nat) : intOf sg W (minI true sg W m b) = max (intOf sg W m) (intOf sg W b) := by
  simp only [minI, Bool.bne_true, Bool.not_eq_true', decide_eq_false_iff_not]
  split
  next hge => exact (max_eq_left (not_lt.1 hge)).symm
  next hlt => exact (max_eq_right (not_not.1 hlt).le).symm

/-- On unsigned numbers they are the lesser and the greater number themselves. -/
theorem minI_least (W m b : Nat) : minI false false W m b = min m b :=
  Int.ofNat.inj ((intOf_minI_least false W m b).trans (Nat.cast_min m b).symm)

theorem minI_greatest (W m b : Nat) : minI true false W m b = max m b :=
  Int.ofNat.inj ((intOf_minI_greatest false W m b).trans (Nat.cast_max m b).symm)

/-- The float operators of table 32 are 10 to 14. -/
theorem opFloat_isSome (op : Nat) : (opFloat op).isSome = (decide (10 ≤ op) && decide (op ≤ 14)) := by
  by_cases h : 10 ≤ op ∧ op ≤ 14
  · obtain ⟨h10, h14⟩ := h
    interval_cases op <;> rfl
  · have hfirst : ¬(10 ≤ op ∧ op ≤ 12) := fun g => h ⟨g.1, by omega⟩
    have h13 : op ≠ 13 := by omega
    have h14 : op ≠ 14 := by omega
    simp only [opFloat, ← Bool.decide_and, decide_eq_true_eq, if_neg hfirst, if_neg h13, if_neg h14, Option.isSome_none, decide_eq_false h]

/-! ### Operands and addresses as the begun state has them (R219) -/

section
variable {s b : State} {x : Ctx} {w : Op} {n : Nat}

theorem ReadsAs.atomAddr (h : ReadsAs s b x) (w : Op) (narrow : Bool) (l : Nat) :
    atomAddr b x w narrow l = if narrow then atom32At s x w l else atom64At s x w l := by
  rw [Machine.atomAddr, h.rd, h.rd64]
  rfl

theorem ReadsAs.atomVal (h : ReadsAs s b x) (n : Nat) (o : Opd) (l : Nat) : atomVal b x n o l = Machine.atomVal s x n o l := by
  rw [Machine.atomVal, h.rd64, h.rdRun, Machine.atomVal]

theorem ReadsAs.rmwVal (h : ReadsAs s b x) (fn : RmwFn) (n : Nat) (o : Opd) (l : Nat) :
    rmwVal b x fn n o l = Machine.rmwVal s x fn n o l := by
  simp only [Machine.rmwVal, h.rdF, h.atomVal]

/-- A word sees the heat of the state before its issue. -/
theorem Begins.inHeat_same (h : Begins s b x) : inHeat b (b.crew x.c x.k) = inHeat s (s.at x) := by
  obtain ⟨pc, since, e⟩ := h.crew
  have hheats : heatsOf b (s.at x) = heatsOf s (s.at x) := by
    unfold heatsOf
    split
    · rfl
    · rw [h.grid_same]
  rw [State.at] at e
  rw [e]
  exact congrArg (fun n => decide ((s.at x).heat < n)) hheats

/-! ### Step 2 of R182 for an aligned access (R228) -/

theorem checkAtom_global {y : LaneAcc} (hal : y.addr % n = 0) (hcan : y.addr + y.n ≤ 2 ^ 57) : checkAtom b x .global n y = .ok y := by
  simp only [checkAtom, hal, bne_self_eq_false, Bool.false_eq_true, if_false, checkGlobal, canonical, decide_eq_true hcan, if_true]

theorem checkAtom_scratch {y : LaneAcc} (hb : Begins s b x) (hg : (s.at x).guest = none) (hal : y.addr % n = 0)
    (hin : y.addr + y.n ≤ (s.team x.c (s.at x).ts).scratch) : checkAtom b x .scratch n y =
      .ok { y with addr := (s.team x.c (s.at x).ts).scrBase + y.addr, space := 1, tgt := x.c } := by
  simp only [checkAtom, hal, bne_self_eq_false, Bool.false_eq_true, if_false, hb.ts_same]
  exact checkScratch_ok hb hg hin

theorem checkAtom_cluster {y : LaneAcc} {team : Nat × Nat} (hb : Begins s b x) (hg : (s.at x).guest = none) (hal : y.addr % n = 0)
    (hteam : rankTeam s x.c x.k (y.addr / 2 ^ 24) = some team) (hin : y.addr % 2 ^ 24 + y.n ≤ (s.team team.1 team.2).scratch) :
    checkAtom b x .cluster n y =
      .ok { y with addr := (s.team team.1 team.2).scrBase + y.addr % 2 ^ 24, space := 1, tgt := team.1 } := by
  simp only [checkAtom, hal, bne_self_eq_false, Bool.false_eq_true, if_false, checkCluster, hb.rankTeam_same, hteam]
  exact checkScratch_ok hb hg hin

/-- An access that may be made passes, whatever it carries. -/
theorem AtomAt.check_ok {pl : Place} {acc : Nat → LaneAcc} (h : AtomAt s x w n pl acc) (hb : Begins s b x) {l : Nat} (hl : l ∈ acting x w.d)
    (d : List Byte) (v u : BitVec 128) (share : Bool) :
    checkAtom b x pl n { lane := l, addr := if pl != .global then atom32At s x w l else atom64At s x w l, n, data := d, b := v, c := u, share } =
      .ok { acc l with data := d, b := v, c := u, share } := by
  cases h with
  | global hin => exact checkAtom_global (hin l hl).1 (hin l hl).2
  | scratch hg hin =>
    obtain ⟨hal, hrun, -⟩ := hin l hl
    exact checkAtom_scratch hb hg hal hrun
  | cluster team hg hin =>
    obtain ⟨hal, hteam, hrun, -⟩ := hin l hl
    exact checkAtom_cluster hb hg hal hteam hrun

variable {pl : Place} {acc : Nat → LaneAcc}

/-- It is an access of its lane that carries nothing yet. -/
theorem AtomAt.form (h : AtomAt s x w n pl acc) (l : Nat) :
    acc l = { lane := l, addr := (acc l).addr, n, space := (acc l).space, tgt := (acc l).tgt } := by
  cases h <;> rfl

theorem AtomAt.lane (h : AtomAt s x w n pl acc) (l : Nat) : (acc l).lane = l := congrArg LaneAcc.lane (h.form l)

theorem AtomAt.space (h : AtomAt s x w n pl acc) (l : Nat) : (acc l).space = if pl = .global then 0 else 1 := by
  cases h <;> rfl

/-- Its lines have arrived. -/
theorem AtomAt.there (h : AtomAt s x w n pl acc) {l : Nat} (hl : l ∈ acting x w.d) (hspace : (acc l).space = 1) :
    absentLines (s.core (acc l).tgt) (acc l).addr (acc l).n = [] := by
  cases h with
  | global => cases hspace
  | scratch _ hin => exact (hin l hl).2.2
  | cluster _ _ hin => exact (hin l hl).2.2.2

end

/-! ### A word that asks for one access of each acting lane -/

section
variable {i : Instr} {s : State} {x : Ctx} {w : Op} {n : Nat} {pl : Place} {acc : Nat → LaneAcc}

/-- An atomic word whose accesses may be made asks for them with what its lanes send. -/
theorem asks_atom {p : Pre} {m : MemWord} {body : Ctx → State → State} {d : Nat → List Byte} {v u : Nat → BitVec 128} {f : Nat → LaneAcc}
    (hat : AtomAt s x w n pl acc) (hf : ∀ l, f l = { acc l with data := d l, b := v l, c := u l })
    (h : Issues s p.w p.dst p.comp x) (hp : p.late = true) (hi : exec i s = issue s p body)
    (hb : body x (begun s p x []) = startChecked (begun s p x []) x p m ((acting x w.d).map (fun l =>
      checkAtom (begun s p x []) x pl n { lane := l, addr := if pl != .global then atom32At s x w l else atom64At s x w l, n
                                          data := d l, b := v l, c := u l }))) :
    Asks i s x m ((acting x w.d).map f) p.comp := by
  refine asks_checked h hp hi (hb.trans (congrArg _ ?_)) (fun _ => ?_) fun y hy hspace => ?_
  · rw [List.map_map]
    refine List.map_congr_left fun l hl => (hat.check_ok (begins_begun s p x) hl _ _ _ _).trans ?_
    rw [Function.comp_apply, hf, hat.form l]
  · obtain ⟨l, hl⟩ := List.exists_mem_of_ne_nil _ (h.acting_ne_nil w.d)
    refine maskOf_or_ne_zero (mem_lanesOf.1 (h.acting_subset w.d hl)).1 (.inl ?_)
    rw [List.map_map]
    exact List.mem_map.2 ⟨l, hl, (congrArg LaneAcc.lane (hf l)).trans (hat.lane l)⟩
  · obtain ⟨l, hl, rfl⟩ := List.mem_map.1 hy
    rw [hf] at hspace ⊢
    exact hat.there hl hspace

/-- A read-modify-write word, where no heat forbids it, asks for its operation in each acting lane (R220). -/
theorem atomWord_asks {a : AtomWord} (hi : exec i s = atomWord w a s) (hat : AtomAt s x w a.n a.place acc)
    (hheat : (inHeat s (s.at x) && a.heat) = false) (h : Issues s w (if a.ret then vdst w.d (a.n / 4) else []) false x) :
    Asks i s x (a.mem w (inHeat s (s.at x)))
      ((acting x w.d).map (fun l => { acc l with b := rmwVal s x a.fn a.n w.b l, c := atomVal s x a.n w.c l })) := by
  have hr := readsAs_begun s (a.pre w) x
  rw [atomWord] at hi
  refine asks_atom (p := a.pre w) hat (d := fun _ => []) (fun l => by rw [hat.form l]) h rfl hi ?_
  simp only [(begins_begun s (a.pre w) x).inHeat_same, hheat, Bool.false_eq_true, if_false, h.actLanes_eq, List.map_map, hr.atomAddr,
    hr.rmwVal, hr.atomVal]
  rfl

end

/-- Settles O31: each word is a read-modify-write word of R220; the operators are those of the tables. -/
theorem atomics : Obligations.Atomics := by
  refine ⟨fun w s x acc => ?_, fun W m b _ _ _ => ?_⟩
  · intro held asks op n float sp
    have hword {i : Instr} {a : AtomWord} {free : Bool} (hi : exec i s = atomWord w a s) (hfree : a.heat = !free) :
        asks i a.place a.n a.fn (if a.redf then .redf a.fn held else .rmw a.fn a.ret) a.ret free :=
      fun hat hheat h => atomWord_asks hi hat (by rw [hfree]; exact hheat) h
    have hfloat : (opFloat op).isSome = !(!float) := (opFloat_isSome op).trans (Bool.not_not _).symm
    exact ⟨hword (i := .atom w) rfl rfl, hword (i := .atoms w) rfl rfl, hword (i := .atom64 w) rfl rfl, hword (i := .cas w) rfl rfl,
      hword (i := .cass w) rfl rfl, hword (i := .cas128 w) rfl rfl, hword (i := .xchg w) rfl rfl, hword (i := .red w) rfl hfloat,
      hword (i := .reds w) rfl hfloat, hword (i := .redf w) rfl rfl⟩
  · refine ⟨rfl, intOf_minI_least true W m b, intOf_minI_greatest true W m b, minI_least W m b, minI_greatest W m b, rfl, rfl, rfl, rfl, ?_,
      fun _ _ _ => ⟨rfl, rfl⟩⟩
    simp [tableOp]

end Sys2Proof.Machine

/-! ## LDACQ, STREL and ARRV (R224, R227) -/

namespace Sys2Proof.Machine

/-! ### LDACQ and STREL (R224) -/

section
variable {s : State} {x : Ctx} {w : Op} {acc : Nat → LaneAcc}

/-- The scratchpad has addresses of 32 bits. -/
theorem narrow_place (sp : Bool) : ((if sp then Place.scratch else .global) != .global) = sp := by
  cases sp <;> rfl

/-- LDACQ reads in the L1 up to team scope alone, and a guest's team is the chip (R199). -/
theorem ldacq_asks (hat : AtomAt s x w (opBytes w) (if aFl w then .scratch else .global) acc)
    (h : Issues s w (vdst w.d (opBytes w / 4)) (uniformProducing w) x) :
    Asks (.ldacq w) s x { acc := if aScope w = 0 ∨ aScope w = 1 ∧ (s.at x).guest = none then .load else .acq, width := opBytes w, atom := true
                          hostOk := true, long := true, kind := .regs (opBytes w / 4), dst := w.d, acq := true, scope := aScope w, uni := isU w.d }
      ((acting x w.d).map acc) (uniformProducing w) := by
  let p : Pre := { w, ra := if aFl w then 1 else 2, dst := vdst w.d (opBytes w / 4), late := true, comp := uniformProducing w }
  have hr := readsAs_begun s p x
  have hi : exec (.ldacq w) s = execLdacq w s := rfl
  rw [execLdacq] at hi
  refine asks_atom (p := p) hat (d := fun _ => []) (v := fun _ => 0) (u := fun _ => 0) (fun l => by rw [hat.form l]) h rfl hi ?_
  simp only [(begins_begun s p x).guest_same, h.actLanes_eq, hr.atomAddr, narrow_place, List.map_map, Bool.or_eq_true,
    Bool.and_eq_true, decide_eq_true_eq, Option.isNone_iff_eq_none]
  rfl

theorem strel_asks (hat : AtomAt s x w (opBytes w) (if aFl w then .scratch else .global) acc) (h : Issues s w [] false x) :
    Asks (.strel w) s x { acc := .rel, width := opBytes w, atom := true, hostOk := true, rel := true, scope := aScope w, uni := isU w.d }
      ((acting x w.d).map (fun l => { acc l with data := bytesAt s x w (opBytes w) l })) := by
  let p : Pre := { w, ra := if aFl w then 1 else 2, reads := vdst w.d (opBytes w / 4), late := true }
  have hr := readsAs_begun s p x
  have hi : exec (.strel w) s = execStrel w s := rfl
  rw [execStrel] at hi
  refine asks_atom (p := p) hat (v := fun _ => 0) (u := fun _ => 0) (fun l => by rw [hat.form l]) h rfl hi ?_
  simp only [h.actLanes_eq, hr.atomAddr, hr.storeData, narrow_place, List.map_map]
  rfl

end

/-! ### ARRV (R227) -/

/-- Of a list without repetitions, the place of an element is 0 for the first one. -/
theorem map_zipIdx_first {α β : Type} [DecidableEq α] {f : α → Bool → β} {l : List α} (h : l.Nodup) (d : α) :
    l.zipIdx.map (fun q => f q.1 (q.2 == 0)) = l.map (fun a => f a (l.headD d == a)) := by
  cases l with
  | nil => rfl
  | cons a l =>
    obtain ⟨ha, -⟩ := List.nodup_cons.1 h
    have hlater : ∀ q ∈ l.zipIdx 1, f q.1 (q.2 == 0) = f q.1 (a == q.1) := by
      intro q hq
      have hplace : q.2 ≠ 0 := by
        have := List.le_snd_of_mem_zipIdx hq
        omega
      have hne : a ≠ q.1 := fun e => ha (e ▸ List.fst_mem_of_mem_zipIdx hq)
      rw [beq_eq_false_iff_ne.2 hplace, beq_eq_false_iff_ne.2 hne]
    simp only [List.zipIdx_cons, List.map_cons, List.headD_cons, beq_self_eq_true]
    rw [List.map_congr_left hlater, ← List.zipIdx_map_fst 1 l, List.map_map]
    simp

/-- The lanes that name one address. -/
theorem byAddr_eq (ls : List Nat) (addr : Nat → Nat) : byAddr (ls.map (fun l => (l, addr l))) =
    (ls.map addr).eraseDups.map (fun a => (a, ls.filter (fun l => addr l == a))) := by
  simp [byAddr, List.map_map, List.filter_map, Function.comp_def]

/-- The lanes that name a lane's address. -/
def sharers (ls : List Nat) (addr : Nat → Nat) (l : Nat) : List Nat := ls.filter (fun j => addr j == addr l)

/-- What the lanes of an address add together. -/
def sharedSum (ls : List Nat) (addr val : Nat → Nat) (n l : Nat) : BitVec 128 :=
  BitVec.ofNat 128 (((sharers ls addr l).map val).sum % 2 ^ (8 * n))

/-- A lane's access before the checks: the lowest lane of an address adds for all, the others share. -/
def arrvAsk (ls : List Nat) (addr val : Nat → Nat) (n l : Nat) : LaneAcc :=
  { lane := l, addr := addr l, n, b := if (sharers ls addr l).headD 0 == l then sharedSum ls addr val n l else 0
    share := !((sharers ls addr l).headD 0 == l) }

theorem arrvAccs_eq {ls : List Nat} (hls : ls.Nodup) (addr val : Nat → Nat) (n : Nat) :
    arrvAccs n val (byAddr (ls.map (fun l => (l, addr l)))) =
      (byAddr (ls.map (fun l => (l, addr l)))).flatMap (fun e => e.2.map (arrvAsk ls addr val n)) := by
  refine List.flatMap_congr fun e he => ?_
  rw [byAddr_eq] at he
  obtain ⟨a, -, rfl⟩ := List.mem_map.1 he
  have hfirst := map_zipIdx_first (hls.filter (fun l => addr l == a)) 0 (f := fun l first =>
    ({ lane := l, addr := a, n, share := !first
       b := if first then BitVec.ofNat 128 (((ls.filter (fun l => addr l == a)).map val).sum % 2 ^ (8 * n)) else 0 } : LaneAcc))
  simp only [beq_iff_eq] at hfirst
  refine hfirst.trans (List.map_congr_left fun l hl => ?_)
  obtain rfl : addr l = a := beq_iff_eq.1 (List.mem_filter.1 hl).2
  simp only [arrvAsk, sharers, sharedSum, beq_iff_eq]

/-- Its access once it has passed the checks. -/
def arrvAcc (ls : List Nat) (addr val : Nat → Nat) (n : Nat) (acc : Nat → LaneAcc) (l : Nat) : LaneAcc :=
  if (sharers ls addr l).headD 0 = l then { acc l with b := sharedSum ls addr val n l } else { acc l with share := true }

theorem arrvAcc_keeps (ls : List Nat) (addr val : Nat → Nat) (n : Nat) (acc : Nat → LaneAcc) (l : Nat) :
    { arrvAcc ls addr val n acc l with b := (acc l).b, share := (acc l).share } = acc l := by
  unfold arrvAcc
  split <;> rfl

/-- Every lane stands in the group of its address, and no other does. -/
theorem mem_byAddr_groups {ls : List Nat} {addr : Nat → Nat} {β : Type} {f : Nat → β} {y : β} :
    y ∈ (byAddr (ls.map (fun l => (l, addr l)))).flatMap (fun e => e.2.map f) ↔ ∃ l ∈ ls, f l = y := by
  simp only [byAddr_eq, List.mem_flatMap, List.mem_map, List.mem_eraseDups]
  constructor
  · rintro ⟨_, ⟨a, -, rfl⟩, l, hl, rfl⟩
    exact ⟨l, (List.mem_filter.1 hl).1, rfl⟩
  · rintro ⟨l, hl, rfl⟩
    exact ⟨_, ⟨_, ⟨l, hl, rfl⟩, rfl⟩, l, List.mem_filter.2 ⟨hl, beq_self_eq_true _⟩, rfl⟩

section
variable {s : State} {x : Ctx} {w : Op} {n : Nat} {acc : Nat → LaneAcc}

theorem acting_nodup (x : Ctx) (d : Opd) : (acting x d).Nodup := by
  unfold acting
  split
  · exact List.nodup_singleton _
  · exact lanesOf_nodup _

/-- The operand of ARRV in a lane. -/
def arrvVal (s : State) (x : Ctx) (w : Op) (n l : Nat) : Nat := (atomVal s x n w.b l).toNat % 2 ^ (8 * n)

/-- The address that a lane of ARRV adds to. -/
def arrvAddr (s : State) (x : Ctx) (w : Op) (l : Nat) : Nat := if w.mb 1 then atom32At s x w l else atom64At s x w l

/-- The lanes of each address. -/
def arrvGroups (s : State) (x : Ctx) (w : Op) : List (Nat × List Nat) :=
  byAddr ((acting x w.d).map (fun l => (l, arrvAddr s x w l)))

/-- The width of ARRV. -/
def arrvBytes (w : Op) : Nat := if w.mb 2 then 8 else 4

/-- The pattern of its requests. -/
def arrvPattern (s : State) (x : Ctx) (w : Op) : MemWord :=
  { acc := .rmw (if arrvBytes w = 8 then .t64 0 else .t32 0) (!(w.mb 5)), width := arrvBytes w, atom := true, long := !(w.mb 5)
    kind := if !(w.mb 5) then .arrv (arrvBytes w == 8) (arrvParts (arrvVal s x w (arrvBytes w)) (arrvGroups s x w)) else .none
    dst := w.d, rel := true, acq := bit (aSem w) 0, scope := aScope w, uni := isU w.d }

/-- What it tells before it issues. -/
def arrvPre (w : Op) : Pre :=
  { w, ra := if w.mb 1 then 1 else 2, rb := arrvBytes w / 4, dst := if !(w.mb 5) then vdst w.d (arrvBytes w / 4) else [], late := true }

/-- ARRV checks its accesses as the other atomic words do (R228). -/
theorem checkAtom_of_narrow (b : State) (x : Ctx) (sp : Bool) (n : Nat) (y : LaneAcc) :
    (if y.addr % n != 0 then .bad y.lane y.addr else if sp then checkScratch b x x.c (b.crew x.c x.k).ts y.addr y else checkGlobal y) =
      checkAtom b x (if sp then .scratch else .global) n y := by
  cases sp <;> rfl

/-- Every access of ARRV passes. -/
theorem arrvAccs_ok {b : State} (hat : AtomAt s x w n (if w.mb 1 then .scratch else .global) acc) (hb : Begins s b x) (val : Nat → Nat) :
    (arrvAccs n val (arrvGroups s x w)).map (checkAtom b x (if w.mb 1 then .scratch else .global) n) =
      ((arrvGroups s x w).flatMap (fun e => e.2.map (arrvAcc (acting x w.d) (arrvAddr s x w) val n acc))).map .ok := by
  have hok : ∀ l ∈ acting x w.d, checkAtom b x (if w.mb 1 then .scratch else .global) n (arrvAsk (acting x w.d) (arrvAddr s x w) val n l) =
      .ok (arrvAcc (acting x w.d) (arrvAddr s x w) val n acc l) := by
    intro l hl
    have hcheck := hat.check_ok hb hl []
    simp only [narrow_place] at hcheck
    refine (hcheck _ 0 _).trans (congrArg Step2.ok ?_)
    rw [arrvAcc, hat.form l]
    generalize (sharers (acting x w.d) (arrvAddr s x w) l).headD 0 = first
    by_cases hfirst : first = l
    · simp [hfirst]
    · simp [hfirst]
  rw [arrvGroups, arrvAccs_eq (acting_nodup x w.d), List.map_flatMap, List.map_flatMap]
  refine List.flatMap_congr fun e he => ?_
  rw [List.map_map, List.map_map]
  refine List.map_congr_left fun l hl => hok l ?_
  rw [byAddr_eq] at he
  obtain ⟨a, -, rfl⟩ := List.mem_map.1 he
  exact (List.mem_filter.1 hl).1

/-- ARRV adds the sum of the lanes of one address once. -/
theorem arrv_asks (hheat : (!(w.mb 5) && inHeat s (s.at x)) = false)
    (hat : AtomAt s x w (arrvBytes w) (if w.mb 1 then .scratch else .global) acc)
    (h : Issues s w (if !(w.mb 5) then vdst w.d (arrvBytes w / 4) else []) false x) :
    Asks (.arrv w) s x (arrvPattern s x w) ((arrvGroups s x w).flatMap (fun e =>
      e.2.map (arrvAcc (acting x w.d) (arrvAddr s x w) (arrvVal s x w (arrvBytes w)) (arrvBytes w) acc))) := by
  have hr := readsAs_begun s (arrvPre w) x
  have hb := begins_begun s (arrvPre w) x
  have hi : exec (.arrv w) s = execArrv w s := rfl
  rw [execArrv] at hi
  refine asks_checked (p := arrvPre w) h rfl hi ?_ (fun _ => ?_) fun y hy hspace => ?_
  · rw [← arrvAccs_ok hat hb]
    simp only [hb.inHeat_same, hheat, Bool.false_eq_true, if_false, h.actLanes_eq, hr.atomAddr, hr.atomVal, checkAtom_of_narrow]
    rfl
  · obtain ⟨l, hl⟩ := List.exists_mem_of_ne_nil _ (h.acting_ne_nil w.d)
    refine maskOf_or_ne_zero (mem_lanesOf.1 (h.acting_subset w.d hl)).1 (.inl ?_)
    exact List.mem_map.2 ⟨_, mem_byAddr_groups.2 ⟨l, hl, rfl⟩,
      (congrArg LaneAcc.lane (arrvAcc_keeps _ _ _ _ acc l)).trans (hat.lane l)⟩
  · obtain ⟨l, hl, rfl⟩ := mem_byAddr_groups.1 hy
    have hthere := hat.there hl
    rw [← arrvAcc_keeps _ _ _ _ acc l] at hthere
    exact hthere hspace

end

end Sys2Proof.Machine

/-! ## Fences (R225) -/

namespace Sys2Proof.Machine

section
variable {s b : State} {x : Ctx} {w : Op}

/-! ### What a fence waits for -/

theorem Begins.reqs_same (h : Begins s b x) : b.reqs = s.reqs := h.same.1

theorem Begins.writesOpen_same (h : Begins s b x) (m : Mask) (before : Nat) : writesOpen b x.c x.k m before = writesOpen s x.c x.k m before := by
  obtain ⟨pc, since, e⟩ := h.crew_same x.c x.k
  simp only [writesOpen, h.reqs_same, e]

theorem Begins.readsOpen_same (h : Begins s b x) (m : Mask) (before : Nat) : readsOpen b x.c x.k m before = readsOpen s x.c x.k m before := by
  obtain ⟨pc, since, e⟩ := h.crew_same x.c x.k
  simp only [readsOpen, h.reqs_same, e]

/-- A fence of these halves has to wait for an earlier access of its lanes, or for a clean (R209). -/
def fenceWaits (s : State) (x : Ctx) (rel acq : Bool) (scope : Nat) : Bool :=
  (rel && (scope == 5 || (s.at x).lostWrite || writesOpen s x.c x.k x.on s.nextId)) || (acq && readsOpen s x.c x.k x.on s.nextId)

theorem Begins.fenceWaits_same (h : Begins s b x) (rel acq : Bool) (scope : Nat) : fenceWaits b x rel acq scope = fenceWaits s x rel acq scope := by
  obtain ⟨pc, since, e⟩ := h.crew
  simp only [fenceWaits, h.same.2.2, h.writesOpen_same, h.readsOpen_same, e]

/-- The order that a fence leaves where it waits. -/
def fenceOrd (s : State) (x : Ctx) (rel acq : Bool) (scope : Nat) (engines : BitVec 4) : Ord :=
  { rel, acq, scope, lanes := x.on, before := s.nextId, engines, pc := x.pc, len := x.lenCode }

/-- A fence that waits, or that names engines, joins its crew's orders. -/
theorem order_fence_waits {rel acq : Bool} {scope : Nat} {engines : BitVec 4} (h : fenceWaits s x rel acq scope = true ∨ engines ≠ 0) :
    order s x rel acq scope x.on .fence engines =
      s.modCrew x.c x.k (fun k => { k with ords := k.ords ++ [fenceOrd s x rel acq scope engines] }) := by
  refine if_pos ?_
  simp only [fenceWaits, State.at, Bool.or_eq_true, Bool.and_eq_true] at h
  simp only [After.later, Bool.or_eq_true, Bool.and_eq_true, bne_iff_ne, beq_self_eq_true]
  tauto

/-- What a fence that does not wait does: its acquire (R209). -/
def acquired (s : State) (x : Ctx) (acq : Bool) (scope : Nat) : State := if acq then acquire s x.c x.k scope else s

/-- Any other fence performs its acquire at once. -/
theorem order_fence_now {rel acq : Bool} {scope : Nat} (h : fenceWaits s x rel acq scope = false) :
    order s x rel acq scope x.on .fence = acquired s x acq scope := by
  refine if_neg (Bool.eq_false_iff.1 ?_)
  simp only [fenceWaits, State.at, Bool.or_eq_false_iff] at h
  obtain ⟨hrel, hacq⟩ := h
  simp [After.later, hrel, hacq]

theorem at_acquired (s : State) (x : Ctx) (acq : Bool) (scope : Nat) : (acquired s x acq scope).at x = s.at x := by
  cases acq
  · rfl
  · exact crew_acquire s scope x.c x.k

theorem sameMemory_acquired (s : State) (x : Ctx) (acq : Bool) (scope : Nat) : SameMemory s (acquired s x acq scope) :=
  .ite (.ite (expects_invalL1 s x.c x.k).memory (.refl s)) (.refl s)

end

/-! ### FENCE and FENCEX -/

section
variable {i : Instr} {s : State} {x : Ctx} {w : Op} {rel acq : Bool} {scope : Nat} {engines : BitVec 4}

/-- FENCE with something to wait for, and FENCEX, leave an order and go on. -/
theorem fence_joins_orders (h : Issues s {} [] false x)
    (hi : exec i s = issue s {} (fun x s => if x.on == 0 then s else order s x rel acq scope x.on .fence engines))
    (hw : fenceWaits s x rel acq scope = true ∨ engines ≠ 0) : Completes i s fun t => Goes s t x (fun _ => x.next) ∧
      OnlyTo s t x {} (fun k => { k with ords := k.ords ++ [fenceOrd s x rel acq scope engines] }) := by
  have hb := begins_begun s {} x
  obtain ⟨t, e, honly, hgoes⟩ := completes_sets (p := {}) h (single_op {} []) hi
    (f := fun k => { k with ords := k.ords ++ [fenceOrd s x rel acq scope engines] })
    ((if_neg h.runs_lanes).trans (order_fence_waits (by rwa [hb.fenceWaits_same]))) (fun _ _ => rfl) rfl
  exact ⟨t, e, hgoes, honly⟩

theorem KeepsCrew.of_eq {k k' : Crew} {last : List Nat} (h : k' = k) : KeepsCrew k k' last := h ▸ .refl k last

/-- The scope at which a crew's acquire is performed: for a guest's team and cluster the chip (R199). -/
def acquireScope (s : State) (x : Ctx) (scope : Nat) : Nat :=
  if (s.at x).guest.isSome && decide (scope ∈ [1, 2]) then 3 else scope

theorem l1_acquired {u : State} (hg : (u.crew x.c x.k).guest = (s.at x).guest) (hacq : acq = true) (h : 2 ≤ acquireScope s x scope) :
    ((acquired u x acq scope).core x.c).l1 = [] := by
  have hbetween : decide (scope ∈ [1, 2]) = (decide (scope ≤ 2) && decide (1 ≤ scope)) := by
    rw [← Bool.decide_and, decide_eq_decide]
    simp only [List.mem_cons, List.not_mem_nil, or_false]
    omega
  rw [acquireScope, hbetween, ← Bool.and_assoc, ← hg] at h
  rw [acquired, if_pos hacq, acquire, if_pos h]
  exact l1_invalL1 u x.c

/-- A fence that nothing holds up leaves no order; its acquire at cluster scope or wider has emptied the L1. -/
theorem fence_now (h : Issues s {} [] false x)
    (hi : exec i s = issue s {} (fun x s => if x.on == 0 then s else order s x rel acq scope x.on .fence))
    (hw : fenceWaits s x rel acq scope = false) : Completes i s fun t => Goes s t x (fun _ => x.next) ∧ SameMemory s t ∧
      KeepsCrew (s.at x) (t.at x) [] ∧ (t.at x).ords = (s.at x).ords ∧
      (acq = true → 2 ≤ acquireScope s x scope → (t.core x.c).l1 = []) := by
  have hb := begins_begun s {} x
  have hkept := keeps_begun s {} x (lastRegs x.h {} 1 1 1)
  obtain ⟨pc, since, hcrew⟩ := hb.crew
  have hnow := order_fence_now ((hb.fenceWaits_same rel acq scope).trans hw)
  have he : exec i s = .next (ended {} x (s.at x) (acquired (begun s {} x []) x acq scope)) := by
    rw [hi, issue_next (p := {}) h, if_neg h.runs_lanes, hnow]
  have hat := at_acquired (begun s {} x []) x acq scope
  have hend := OnlyCrew.ended (acquired (begun s {} x []) x acq scope) {} x (s.at x)
  refine ⟨_, he, goes_next h _ _ fun l => by rw [hat], ?_, ?_, ?_, fun hacq hscope => ?_⟩
  · exact (hb.only.sameMemory.trans (sameMemory_acquired _ x acq scope)).trans hend.sameMemory
  · have hlast : lastRegs x.h {} 1 1 1 = [] := by simp [lastRegs, vdst]
    have hword := keepsCrew_word (p := {}) (single_op {} []) (hkept.trans (.of_eq hat)) (s.at x)
    rwa [hlast] at hword
  · obtain ⟨a, v, r, q, e⟩ := at_ended_rest (acquired (begun s {} x []) x acq scope) {} x (s.at x)
    rw [e, hat, hcrew]
  · exact (congrArg Core.l1 hend.core :).trans (l1_acquired hb.guest_same hacq hscope)

end

end Sys2Proof.Machine

/-! ## Words that wait for a word of memory (R92, R226) -/

namespace Sys2Proof.Machine

/-! ### Tables of lanes -/

/-- A table that holds a value for each lane of a list. -/
def laneTab (ls : List Nat) (f : Nat → W64) : Tab W64 := ls.foldl (fun t l => tset t l (f l)) []

theorem tget?_laneTab {ls : List Nat} {f : Nat → W64} {l : Nat} (h : l ∈ ls) : tget? (laneTab ls f) l = some (f l) := by
  have hfold (ls : List Nat) (t : Tab W64) :
      tget? (ls.foldl (fun t l => tset t l (f l)) t) l = if l ∈ ls then some (f l) else tget? t l := by
    induction ls generalizing t with
    | nil => rfl
    | cons a ls ih =>
      rw [List.foldl_cons, ih]
      by_cases hl : l = a
      · simp [hl]
      · simp [hl]
  rw [laneTab, hfold, if_pos h]

theorem tget_of_tget? {α : Type} {t : Tab α} {l : Nat} {v : α} (h : tget? t l = some v) (d : α) : tget d t l = v := by
  induction t with
  | nil => cases h
  | cons e t ih =>
    obtain ⟨j, w⟩ := e
    rw [tget?] at h
    rw [tget]
    split at h
    next hj => rw [if_pos hj, Option.some.inj h]
    next hj => rw [if_neg hj, ih h]

/-! ### Lines do not tell a space -/

/-- The pieces of an access are those of its bytes, whatever its space. -/
theorem cutLines_space (y : LaneAcc) (space tgt k pos : Nat) : cutLines { y with space, tgt } k pos = cutLines y k pos := by
  induction k generalizing pos with
  | zero => rfl
  | succ k ih =>
    simp only [cutLines, ih]

theorem lineGroups_space (each : Bool) (ls : List Nat) (acc : Nat → LaneAcc) (space tgt : Nat) :
    lineGroups each (ls.map (fun l => { acc l with space, tgt })) = lineGroups each (ls.map acc) := by
  simp only [lineGroups, List.flatMap_map, cutLines_space]

/-! ### A wait begins -/

section
variable {s b : State} {x : Ctx}

/-- The record of a wait that begins. -/
def waitBegun (s : State) (x : Ctx) (w : Wait) : Wait :=
  { w with id := s.nextId, res := s.nextId + 1, pc := x.pc, len := x.lenCode, since := s.clk }

/-- State `u` holds a wait `v` that has begun in `b`: its lanes are parked, its result is open, its reads are on their way. -/
structure WaitsFrom (b u : State) (x : Ctx) (v : Wait) : Prop where
  only : OnlyCrew b { u with reqs := b.reqs, fills := b.fills } x
  crew : ∃ results park, u.at x = { b.at x with results, park, waits := (b.at x).waits ++ [v] }
  parks : ∀ l, (u.at x).parkOf l = if l ∈ lanesOf (v.lanes ||| v.also) then .wait v.id else (b.at x).parkOf l
  reads : ∃ new, u.reqs = b.reqs ++ new ∧ new.map (fun q => (q.line, q.pieces)) = waitLines x.c v ∧
    ∀ q ∈ new, q.acc = .wait v.id ∧ q.core = x.c ∧ q.slot = x.k ∧ q.res = v.res ∧ q.stage = if v.sp then .scratch else .look

/-- What a wait does to its crew. -/
def parkWaiting (v : Wait) (k : Crew) : Crew :=
  forLanes (v.lanes ||| v.also) (fun l k => k.setPark l (.wait v.id)) { k with waits := k.waits ++ [v] }

theorem parkWaiting_rest (v : Wait) (k : Crew) : ∃ park, parkWaiting v k = { k with park, waits := k.waits ++ [v] } :=
  foldl_setPark_rest (.wait v.id) (lanesOf (v.lanes ||| v.also)) { k with waits := k.waits ++ [v] }

theorem parkOf_parkWaiting (v : Wait) (k : Crew) (l : Nat) :
    (parkWaiting v k).parkOf l = if l ∈ lanesOf (v.lanes ||| v.also) then .wait v.id else k.parkOf l :=
  foldl_setPark (.wait v.id) (lanesOf (v.lanes ||| v.also)) { k with waits := k.waits ++ [v] } l

theorem at_openResult (s : State) (x : Ctx) (vs us : List Nat) : ∃ results, (openResult s x vs us).2.at x = { s.at x with results } := by
  obtain ⟨l, hl⟩ := at_addResult s.fresh.2 x
    { id := s.nextId, serial := x.serial, lo := s.clk + 2, hi := none, ready := false, wr := [], vs, us }
  exact ⟨_, hl⟩

theorem OnlyCrew.openResult (s : State) (x : Ctx) (vs us : List Nat) : OnlyCrew s (Machine.openResult s x vs us).2 x :=
  (OnlyCrew.fresh s x).trans (.addResult s.fresh.2 x _)

/-- How many registers a wait gives. -/
def waitWords (w : Wait) : Nat := if w.kind = 1 then (if w.w64 then 2 else 1) else 0

/-- The state in which a wait's result is open. -/
def waitOpened (s : State) (x : Ctx) (w : Wait) : State :=
  (openResult s.fresh.2 x (vdst w.dst (waitWords w)) (udst w.dst (waitWords w))).2

/-- The result that is gathered for a wait. -/
def waitFill (s : State) (x : Ctx) (w : Wait) : Fill :=
  { res := s.nextId + 1, core := x.c, slot := x.k, uid := ((waitOpened s x w).at x).uid
    kind := if waitWords w = 0 then .none else .regs (waitWords w), dst := w.dst, lanes := w.lanes }

/-- The state in which its lanes are parked. -/
def waitParked (s : State) (x : Ctx) (w : Wait) : State :=
  { (waitOpened s x w).modCrew x.c x.k (parkWaiting (waitBegun s x w)) with fills := (waitOpened s x w).fills ++ [waitFill s x w] }

theorem startWait_eq {w : Wait} (hw : w.lanes ≠ 0) : startWait b x w = askWait (waitParked b x w) x.c x.k (waitBegun b x w) := by
  rw [startWait, if_neg (by simpa using hw)]
  rfl

/-- A wait of some lanes begins, and its core's requests move on. -/
theorem startWait_begins {w : Wait} (hw : w.lanes ≠ 0) : ∃ u, startWait b x w = pump u x.c ∧ WaitsFrom b u x (waitBegun b x w) := by
  obtain ⟨u, new, hask, hu, hlines, hnew⟩ := askWait_asks (waitParked b x w) x.c x.k (waitBegun b x w)
  obtain ⟨rs, hres⟩ := at_openResult b.fresh.2 x (vdst w.dst (waitWords w)) (udst w.dst (waitWords w))
  have hopen : (waitOpened b x w).at x = { b.at x with results := rs } := hres
  have hat : u.at x = parkWaiting (waitBegun b x w) { b.at x with results := rs } := by
    rw [hu, ← hopen]
    exact crew_modCrew_same (waitOpened b x w) x.c x.k _
  have hparked : OnlyCrew b { waitParked b x w with reqs := b.reqs, fills := b.fills } x :=
    ((OnlyCrew.fresh b x).trans (.openResult _ x _ _)).trans (.modCrew (waitOpened b x w) x _)
  refine ⟨u, (startWait_eq hw).trans hask, ?_, ?_, fun l => ?_, new, ?_, hlines, hnew⟩
  · rw [hu]
    exact hparked.trans ⟨rfl, fun _ _ => rfl, rfl, fun _ _ => rfl⟩
  · obtain ⟨park, hpark⟩ := parkWaiting_rest (waitBegun b x w) { b.at x with results := rs }
    exact ⟨rs, park, hat.trans hpark⟩
  · rw [hat, parkOf_parkWaiting]
    rfl
  · rw [hu]
    rfl

end

/-! ### A word that starts a wait -/

section
variable {s b u : State} {x : Ctx} {q : Wait} {ls : List Nat} {acc : Nat → LaneAcc} {cmp mask : Nat → W64}

/-- A wait for lanes with their accesses, the values they compare with and their masks. -/
def waitOn (q : Wait) (ls : List Nat) (acc : Nat → LaneAcc) (cmp mask : Nat → W64) : Wait :=
  { q with lanes := maskOf ls, addrs := laneTab ls (fun l => w64 (acc l).addr), cmp := laneTab ls cmp, mask := laneTab ls mask }

/-- Accesses that have passed their checks start one wait. -/
theorem waitWord_ok (hlane : ∀ l, (acc l).lane = l) (q : Wait) (ls : List Nat) (cmp mask : Nat → W64) :
    waitWord b x q (ls.map (fun l => (.ok (acc l), cmp l, mask l))) = startWait b x (waitOn q ls acc cmp mask) := by
  have hnone : (ls.map (fun l => (Step2.ok (acc l), cmp l, mask l))).filterMap (fun e => e.1.fault) = [] := by
    simp [Step2.fault]
  have hall : (ls.map (fun l => (Step2.ok (acc l), cmp l, mask l))).filterMap (fun e => e.1.acc.map (fun a => (a, e.2))) =
      ls.map (fun l => (acc l, cmp l, mask l)) := by
    rw [List.filterMap_map, ← List.filterMap_eq_map]
    rfl
  simp only [waitWord, hnone, hall, faultLanes, takeFaults_nil, List.foldl_map, List.map_map, Function.comp_def, hlane, List.map_id',
    waitOn, laneTab]

/-- The accesses of a wait, as its lanes name them. -/
structure WaitAccs (q : Wait) (acc : Nat → LaneAcc) : Prop where
  form : ∀ l, acc l = { lane := l, addr := (acc l).addr, n := if q.w64 then 8 else 4, space := (acc l).space, tgt := (acc l).tgt }
  space : ∀ l, (acc l).space = if q.sp then 1 else 0

/-- A wait reads the lines of its accesses. -/
theorem waitLines_eq (hacc : WaitAccs q acc) (hls : lanesOf (maskOf ls) = ls) : waitLines x.c (waitBegun b x (waitOn q ls acc cmp mask)) =
    lineGroups false (ls.map (fun l => { acc l with addr := (acc l).addr % 2 ^ 64 })) := by
  rw [← lineGroups_space false ls _ 0 x.c, waitLines]
  simp only [waitBegun, waitOn, hls]
  refine congrArg _ (List.map_congr_left fun l hl => ?_)
  rw [tget_of_tget? (tget?_laneTab hl), hacc.form l]
  rfl

/-- Those that read and those that wait with them are the executing lanes. -/
theorem mask_or_rest (h : ls ⊆ lanesOf x.on) : maskOf ls ||| (x.on &&& ~~~(maskOf ls)) = x.on := by
  apply BitVec.eq_of_getLsbD_eq
  intro i hi
  have hin : (maskOf ls).getLsbD i = true → x.on.getLsbD i = true := by
    rw [getLsbD_maskOf _ _ hi, List.contains_iff_mem]
    exact fun hl => (mem_lanesOf.1 (h hl)).2
  rw [BitVec.getLsbD_or, BitVec.getLsbD_and, BitVec.getLsbD_not]
  cases hm : (maskOf ls).getLsbD i with
  | true => simp [hin hm]
  | false => simp [hi]

/-- Lanes in ascending order that may wait for the executing ones. -/
structure WaitLanes (x : Ctx) (ls : List Nat) : Prop where
  order : lanesOf (maskOf ls) = ls
  some : ls ≠ []
  on : ls ⊆ lanesOf x.on

/-- What a word that waits tells before it acts. -/
structure WaitPre (p : Pre) : Prop where
  comp : p.comp = false
  widths : p.ra ≤ 2 ∧ p.rb ≤ 2 ∧ p.rc ≤ 2
  last : p.last = []

/-- Lanes that move on with their path stand at the word that follows. -/
theorem Issues.goes_of_moves {w : Op} {dst : List Nat} {comp : Bool} (h : Issues s w dst comp x) (hu : MovesOn s u x) :
    Goes s u x (fun _ => x.next) := by
  intro l
  rw [hu l]
  by_cases hon : l ∈ lanesOf x.on
  · rw [if_pos (h.on_path hon), if_pos hon]
  · rw [if_neg hon]

/-- A word waits whose accesses have passed their checks, at whatever cores these have found them. -/
theorem waits_of_checked {i : Instr} {p : Pre} {body : Ctx → State → State} {tgt : Nat → Nat} (hp : WaitPre p) (hi : exec i s = issue s p body)
    (hq : q.addrs = [] ∧ q.cmp = [] ∧ q.mask = []) (hacc : WaitAccs q acc) (hls : WaitLanes x ls)
    (hb : body x (begun s p x []) = waitWord (begun s p x []) x { q with also := x.on &&& ~~~(maskOf ls) }
      (ls.map (fun l => (.ok { acc l with tgt := tgt l }, cmp l, mask l)))) :
    Waits i s x p.w p.dst q acc cmp mask ls := by
  intro h
  rw [← hp.comp] at h
  have hlane (l : Nat) : (acc l).lane = l := congrArg LaneAcc.lane (hacc.form l)
  have hlanes : (waitOn { q with also := x.on &&& ~~~(maskOf ls) } ls acc cmp mask).lanes ≠ 0 :=
    fun h0 => hls.some (hls.order.symm.trans (congrArg lanesOf h0))
  have hbegins := begins_begun s p x
  obtain ⟨pc, since, hbegun⟩ := hbegins.crew
  obtain ⟨u, hstart, honly, ⟨rs, park, hcrew⟩, hparks, new, hreqs, hlines, hnew⟩ := startWait_begins (b := begun s p x []) (x := x) hlanes
  have hgo : exec i s = .next (ended p x (s.at x) (pump u x.c)) := by
    rw [hi, issue_next h, hb, waitWord_ok (acc := fun l => { acc l with tgt := tgt l }) hlane]
    exact congrArg (fun u => Host.Outcome.next (ended p x (s.at x) u)) hstart
  have hkeeps := keeps_settleRows x p (s.at x) ((pump u x.c).at x)
  rw [hp.last, List.append_nil, ← at_ended] at hkeeps
  obtain ⟨hra, hrb, hrc⟩ := hp.widths
  refine ⟨u, _, hgo, .ended _ p x _, hkeeps.mono (lastRegs_subset x.h p.w hra hrb hrc), (OnlyCrew.begun s p x).trans honly,
    h.goes_of_moves fun l => ?_, ?_, fun l => ?_,
    ⟨waitBegun (begun s p x []) x (waitOn { q with also := x.on &&& ~~~(maskOf ls) } ls acc cmp mask), ?_, ?_, fun l hl =>
      ⟨tget?_laneTab hl, tget?_laneTab hl, tget?_laneTab hl⟩⟩,
    new, hreqs, hlines.trans (waitLines_eq ⟨hacc.form, hacc.space⟩ hls.order), fun r hr => ?_⟩
  · rw [hcrew]
    exact hbegins.moves l
  · rw [hcrew, hbegun]
    exact ⟨fun _ _ _ _ => rfl, rfl⟩
  · rw [hparks l, waitBegun, waitOn, mask_or_rest hls.on, hbegun]
    rfl
  · rw [hcrew, hbegun]
  · obtain ⟨haddrs, hcmp, hmask⟩ := hq
    simp only [haddrs, hcmp, hmask]
    rfl
  · obtain ⟨ha, hc, hk, hres, hstage⟩ := hnew r hr
    refine ⟨ha, hc, hk, hres, hstage.trans ?_⟩
    rw [hacc.space]
    cases q.sp <;> simp [waitBegun, waitOn]

end

/-! ### WAITW and WAITV -/

section
variable {s : State} {x : Ctx} {w : Op} {acc : Nat → LaneAcc}

theorem maskOf_singleton (l : Nat) : maskOf [l] = laneBit l := by
  simp [maskOf]

/-- The lanes that wait with those that act: none but with a uniform D (R220). -/
theorem acting_rest (x : Ctx) (d : Opd) :
    x.on &&& ~~~(maskOf (acting x d)) = if isU d then x.on &&& ~~~(laneBit x.low) else 0 := by
  unfold acting
  split
  · rw [maskOf_singleton]
  · rw [maskOf_lanesOf, BitVec.and_not_self]

theorem Issues.waitLanes_on {dst : List Nat} {comp : Bool} (h : Issues s w dst comp x) : WaitLanes x (lanesOf x.on) :=
  ⟨congrArg lanesOf (maskOf_lanesOf x.on), h.lanes_ne_nil, List.Subset.refl _⟩

theorem Issues.waitLanes_acting {dst : List Nat} {comp : Bool} (h : Issues s w dst comp x) (d : Opd) : WaitLanes x (acting x d) := by
  refine ⟨?_, h.acting_ne_nil d, h.acting_subset d⟩
  unfold acting
  split
  · rw [maskOf_singleton, lanesOf_laneBit (mem_lanesOf.1 h.low_mem).1]
  · rw [maskOf_lanesOf]

/-- A base takes one register or two. -/
theorem base_words_le (sp : Bool) : (if sp then 1 else 2) ≤ 2 := by
  cases sp <;> decide

/-- What WAITW tells before it issues. -/
def waitwPre (w : Op) : Pre := { w, ra := if w.mb 0 then 1 else 2 }

/-- The word of memory that a lane of WAITW waits for (R92). -/
def waitwAddr (s : State) (x : Ctx) (w : Op) (l : Nat) : Nat := (if w.mb 0 then atom32At s x w l else atom64At s x w l) / 4 * 4

/-- WAITW waits in every executing lane whose word passes its checks. -/
theorem waitw_waits {tgt : Nat → Nat} (hacc : WaitAccs (waitRec 0 (w.mf 1 3) (w.mf 4 3) false (w.mb 0) .no) acc)
    (hok : ∀ b, Begins s b x → ∀ l ∈ lanesOf x.on, checkAtom b x (if w.mb 0 then .scratch else .global) 4
      { lane := l, addr := waitwAddr s x w l, n := 4 } = .ok { acc l with tgt := tgt l }) :
    Waits (.waitw w) s x w [] (waitRec 0 (w.mf 1 3) (w.mf 4 3) false (w.mb 0) .no) acc
      (fun l => (rd s x 0 w.b l).setWidth 64) (fun _ => BitVec.allOnes 64) := by
  intro h
  have hi : exec (.waitw w) s = execWaitw w s := rfl
  have hr := readsAs_begun s (waitwPre w) x
  have hpre : WaitPre (waitwPre w) := ⟨rfl, ⟨base_words_le _, Nat.le_succ 1, Nat.le_succ 1⟩, rfl⟩
  rw [execWaitw] at hi
  refine waits_of_checked (p := waitwPre w) (tgt := tgt) hpre hi ⟨rfl, rfl, rfl⟩ hacc h.waitLanes_on ?_ h
  rw [maskOf_lanesOf, BitVec.and_not_self]
  refine congrArg (waitWord _ x _) (List.map_congr_left fun l hl => ?_)
  rw [hr.atomAddr, hr.rd]
  exact congrArg (·, _) (hok _ (begins_begun s (waitwPre w) x) l hl)

/-- Words of memory at canonical addresses. -/
theorem waitw_waits_global (hm : w.mb 0 = false) (hcan : ∀ l ∈ lanesOf x.on, atom64At s x w l / 4 * 4 + 4 ≤ 2 ^ 57) :
    Waits (.waitw w) s x w [] (waitRec 0 (w.mf 1 3) (w.mf 4 3) false (w.mb 0) .no)
      (fun l => { lane := l, addr := atom64At s x w l / 4 * 4, n := 4 }) (fun l => (rd s x 0 w.b l).setWidth 64) (fun _ => BitVec.allOnes 64) := by
  refine waitw_waits (tgt := fun _ => 0) ⟨fun _ => rfl, fun _ => by rw [hm]; rfl⟩ fun b _ l hl => ?_
  rw [waitwAddr, hm]
  exact checkAtom_global (Nat.mul_mod_left _ 4) (hcan l hl)

/-- Words of the team's run. -/
theorem waitw_waits_scratch (hm : w.mb 0 = true) (hg : (s.at x).guest = none)
    (hin : ∀ l ∈ lanesOf x.on, inRun s x.c (s.at x).ts (atom32At s x w l / 4 * 4) 4) :
    Waits (.waitw w) s x w [] (waitRec 0 (w.mf 1 3) (w.mf 4 3) false (w.mb 0) .no)
      (fun l => { lane := l, addr := (s.team x.c (s.at x).ts).scrBase + atom32At s x w l / 4 * 4, n := 4, space := 1 })
      (fun l => (rd s x 0 w.b l).setWidth 64) (fun _ => BitVec.allOnes 64) := by
  refine waitw_waits (tgt := fun _ => x.c) ⟨fun _ => rfl, fun _ => by rw [hm]; rfl⟩ fun b hb l hl => ?_
  rw [waitwAddr, hm]
  exact checkAtom_scratch hb hg (Nat.mul_mod_left _ 4) (hin l hl).1

/-- The width of WAITV. -/
def waitvBytes (w : Op) : Nat := if w.mb 3 then 8 else 4

/-- What WAITV tells before it issues. -/
def waitvPre (w : Op) : Pre :=
  { w, ra := if w.mb 2 then 1 else 2, rb := waitvBytes w / 4, rc := waitvBytes w / 4, dst := vdst w.d (waitvBytes w / 4) }

/-- WAITV waits in its acting lanes, and with a uniform D in the others with the lowest. -/
theorem waitv_waits (hat : AtomAt s x w (waitvBytes w) (if w.mb 2 then .scratch else .global) acc) :
    Waits (.waitv w) s x w (vdst w.d (waitvBytes w / 4)) (waitRec 1 (w.mf 4 2) (aScope w) (w.mb 3) (w.mb 2) w.d) acc
      (fun l => (atomVal s x (waitvBytes w) w.b l).setWidth 64)
      (fun l => if x.h.form.x then (atomVal s x (waitvBytes w) w.c l).setWidth 64 else BitVec.allOnes 64) (acting x w.d) := by
  intro h
  have hi : exec (.waitv w) s = execWaitv w s := rfl
  have hr := readsAs_begun s (waitvPre w) x
  have hbytes : waitvBytes w / 4 ≤ 2 := by
    unfold waitvBytes
    split <;> decide
  have hpre : WaitPre (waitvPre w) := ⟨rfl, ⟨base_words_le _, hbytes, hbytes⟩, rfl⟩
  have hacc : WaitAccs (waitRec 1 (w.mf 4 2) (aScope w) (w.mb 3) (w.mb 2) w.d) acc := by
    refine ⟨hat.form, fun l => (hat.space l).trans ?_⟩
    cases hm : w.mb 2 <;> simp [waitRec]
  rw [execWaitv] at hi
  refine waits_of_checked (p := waitvPre w) (tgt := fun l => (acc l).tgt) hpre hi ⟨rfl, rfl, rfl⟩ hacc (h.waitLanes_acting w.d) ?_ h
  rw [acting_rest, h.actLanes_eq]
  refine congrArg (waitWord _ x _) (List.map_congr_left fun l hl => ?_)
  have hcheck := hat.check_ok (begins_begun s (waitvPre w) x) hl [] 0 0 false
  rw [narrow_place] at hcheck
  rw [hr.atomAddr, hr.atomVal, hr.atomVal]
  exact congrArg (·, _) (hcheck.trans (by rw [hat.form l]))

end

/-- Settles O32: each word asks, orders or parks as its lemma says. -/
theorem syncWords : Obligations.SyncWords := by
  intro w s x acc k n lanes place
  refine ⟨fun hat => ⟨ldacq_asks hat, strel_asks hat⟩, arrv_asks, ?_, ?_, ?_⟩
  · intro rel acq scope waits later h
    refine ⟨fun hw => fence_joins_orders h rfl (.inl hw), fun hw => ?_, fun hop => fence_joins_orders h rfl (.inr fun h0 => hop ?_)⟩
    · exact fence_now h rfl hw
    · exact congrArg BitVec.toNat h0
  · exact ⟨waitw_waits_global, waitw_waits_scratch⟩
  · rintro sp rfl
    exact waitv_waits

end Sys2Proof.Machine

/-! ## The state right after reset, and words written out (R33, R36, R395, R435) -/

namespace Sys2Proof.Machine

/-- After reset no core has a record, so each of its slots is a crew as it starts. -/
theorem reset_crew (c k : Nat) : State.reset.crew c k = {} := rfl

/-- Of a stack only the migration core has a reset value: the first core of its row, with 24 buffers (R395). -/
theorem reset_stack : ∀ m < 8, State.reset.stack m =
    { migcore := BitVec.ofNat 32 (24 * 256 + (m / 4 * 96 + m % 4 * 24)) } := by decide +kernel

theorem reset_migcore (m : Nat) (h : m < 8) :
    (State.reset.stack m).migcore.toNat = 24 * 256 + (m / 4 * 96 + m % 4 * 24) := by
  rw [reset_stack m h]
  exact Nat.mod_eq_of_lt (by omega)

/-- Settles O56: every field of the reset state stands at its default, but the migration cores of the stacks. -/
theorem resetState : Obligations.ResetState := by
  have noKey : ∀ c, tget? State.reset.keys c = none := fun _ => rfl
  have noWindow : ∀ i, (tget ({} : Win) State.reset.wins i).en = false := fun i => by
    rw [show tget ({} : Win) State.reset.wins i = {} from rfl]
    decide
  have lanesAligned : ∀ c k l, ((State.reset.crew c k).pcOf l).off % 4 = 0 := fun c k l => by
    rw [reset_crew]
    rfl
  refine ⟨rfl, fun _ _ => rfl, fun _ => rfl, noKey, fun _ => rfl, rfl, fun _ => rfl, rfl, rfl, rfl, rfl, noWindow, rfl,
    rfl, rfl, rfl, rfl, rfl, fun m h => ?perStack, fun _ => ⟨rfl, rfl⟩, rfl, rfl, lanesAligned⟩
  case perStack => exact ⟨reset_migcore m h, by rw [reset_stack m h], by rw [reset_stack m h], by rw [reset_stack m h],
    by rw [reset_stack m h]⟩

/-- Settles O58: the decoder runs on each of the words. -/
theorem wordsDecode : Obligations.WordsDecode := by
  refine ⟨?_, ?_, ?_, ?_, ?_, ?_, ?_, ?_, ?_⟩ <;> decide +kernel

end Sys2Proof.Machine

/-! ## System words, and the results that they leave (R25, R231, R270) -/

namespace Sys2Proof.Machine

/-- State `b`, in which a system word has acted, is to `u` what the state in which it began is to the one before its issue, but
for its crew's outstanding results, of which this holds. -/
structure Acted (s u b : State) (x : Ctx) (P : List Result → Prop) : Prop where
  only : OnlyCrew u b x
  keeps : KeepsCrew (u.at x) (b.at x) []
  moves : MovesOn s b x
  results : P (b.at x).results

section
variable {s u b : State} {x : Ctx} {wr : List Wr}

theorem BegunOnto.acted (h : BegunOnto s u b x) : Acted s u b x (NoneLeft s x) := by
  obtain ⟨honly, hkeeps, hmoves, hresults⟩ := h
  exact ⟨honly, hkeeps, hmoves, hresults⟩

/-- What only adds a result to the crew, of which this holds. -/
theorem BegunOnto.adds {t : State} {rs : List Result} {P : List Result → Prop} (h : BegunOnto s u b x) (honly : OnlyCrew b t x)
    (hat : t.at x = { b.at x with results := rs }) (hP : P rs) : Acted s u t x P := by
  obtain ⟨hub, hkeeps, hmoves, -⟩ := h
  refine ⟨hub.trans honly, ?_, fun l => ?_, ?_⟩
  · rw [hat]
    exact ⟨hkeeps.v, hkeeps.rest⟩
  · rw [hat]
    exact hmoves l
  · rw [hat]
    exact hP

theorem at_longResult (b : State) (x : Ctx) (hne : wr ≠ []) : ∃ l, (Machine.longResult b x wr).at x = { b.at x with results := l } ∧
    ∀ s : State, s.nextId ≤ b.nextId → LongLeft s x wr l := by
  rw [Machine.longResult, if_neg (by simpa using hne)]
  obtain ⟨l, hat⟩ := at_addResult b.fresh.2 x { id := b.nextId, serial := x.serial, lo := b.clk + 2, hi := none, ready := true, wr
                                                vs := wr.flatMap wrVreg, us := wr.flatMap wrUreg }
  exact ⟨_, hat, fun s hid => ⟨_, List.mem_append_right l (List.mem_singleton_self _), hid, rfl, rfl, rfl, rfl⟩⟩

theorem BegunOnto.longResult (h : BegunOnto s u b x) (hid : s.nextId ≤ b.nextId) (hne : wr ≠ []) :
    Acted s u (Machine.longResult b x wr) x (LongLeft s x wr) := by
  obtain ⟨l, hat, hleft⟩ := at_longResult b x hne
  exact h.adds (.longResult b x wr) hat (hleft s hid)

/-- A result that is opened and filled at once, without writes. -/
theorem BegunOnto.answered (h : BegunOnto s u b x) (hid : s.nextId ≤ b.nextId) :
    Acted s u (Machine.answered b x) x (LongLeft s x []) := by
  let r : Result := { id := b.nextId, serial := x.serial, lo := b.clk + 2, hi := none, ready := false, wr := [] }
  obtain ⟨l, hl⟩ := at_addResult b.fresh.2 x r
  have hmem := addResult_mem b.fresh.2 x r
  have hfill : Machine.answered b x = (addResult b.fresh.2 x r).modCrew x.c x.k (Crew.fillRes b.nextId []) :=
    if_pos (List.any_eq_true.2 ⟨_, hmem, beq_self_eq_true b.nextId⟩)
  have hat : (Machine.answered b x).at x = Crew.fillRes b.nextId [] ((addResult b.fresh.2 x r).at x) := by
    rw [hfill]
    exact crew_modCrew_same _ _ _ _
  rw [hl] at hat
  refine h.adds (answered_leaves b x).1 hat ⟨{ r with ready := true }, ?_, hid, rfl, rfl, rfl, rfl⟩
  exact List.mem_map.2 ⟨r, List.mem_append_right l (List.mem_singleton_self r), by simp [r]⟩

/-- A result whose value is still to come. -/
theorem BegunOnto.openResult (h : BegunOnto s u b x) (vs us : List Nat) :
    Acted s u (Machine.openResult b x vs us).2 x (fun rs => ∃ r ∈ rs, r.id = b.nextId ∧ r.serial = x.serial ∧ r.ready = false ∧
      r.hi = none ∧ r.wr = [] ∧ r.vs = vs ∧ r.us = us) := by
  obtain ⟨l, hat⟩ := at_addResult b.fresh.2 x { id := b.nextId, serial := x.serial, lo := b.clk + 2, hi := none, ready := false, wr := [], vs, us }
  exact h.adds (.openResult b x _ _) hat ⟨_, List.mem_append_right l (List.mem_singleton_self _), rfl, rfl, rfl, rfl, rfl, rfl, rfl⟩

theorem Acted.mono {P Q : List Result → Prop} (h : Acted s u b x P) (hPQ : ∀ rs, P rs → Q rs) : Acted s u b x Q := by
  obtain ⟨honly, hkeeps, hmoves, hresults⟩ := h
  exact ⟨honly, hkeeps, hmoves, hPQ _ hresults⟩

/-! ### What the word completes with -/

variable {i : Instr} {p : Pre} {P : List Result → Prop} {body : Ctx → State → State}

/-- The last reads of a word are those of its operands, none of more than 16 registers. -/
structure Pre.narrow (p : Pre) : Prop where
  widths : p.ra ≤ 16 ∧ p.rb ≤ 16 ∧ p.rc ≤ 16
  last : p.last = []

theorem Pre.narrow.operands (w : Op) {ra rb : Nat} (dst : List Nat) (ha : ra ≤ 16) (hb : rb ≤ 16) : ({ w, ra, rb, dst } : Pre).narrow :=
  ⟨⟨ha, hb, Nat.le_of_ble_eq_true rfl⟩, rfl⟩

theorem does_of_acted (h : Issues s p.w p.dst p.comp x) (hi : exec i s = issue s p body) (hp : p.narrow)
    (hb : Acted s u (body x (begun s p x [])) x P) : Does i s u x p.w P := by
  obtain ⟨⟨ha, hbr, hc⟩, hlast⟩ := hp
  obtain ⟨honly, hkeeps, hmoves, hresults⟩ := hb
  refine ⟨_, hi.trans (issue_next h body), honly.trans (.ended _ p x _), ?_, fun l => ?_, ?_⟩
  · have hend := keeps_settleRows x p (s.at x) ((body x (begun s p x [])).at x)
    rw [hlast, List.append_nil] at hend
    rw [at_ended]
    exact (hkeeps.mono (List.nil_subset _)).trans (hend.mono (lastRegs_subset x.h p.w ha hbr hc))
  · rw [pcOf_ended]
    exact hmoves l
  · rw [results_ended]
    exact hresults

/-- A word that acts once acts on the state in which it begins, if its crew may run it. -/
theorem exec_sysWord {priv : Bool} (h : Issues s p.w p.dst p.comp x) (hi : exec i s = sysWord p priv s body)
    (hpriv : priv = true → (s.at x).priv = true) : exec i s = .next (ended p x (s.at x) (body x (begun s p x []))) := by
  have hon : (x.on == 0) = false := by simpa using h.on
  have hok : (priv && !((begun s p x []).crew x.c x.k).priv) = false := by
    have hb : ((begun s p x []).crew x.c x.k).priv = (s.at x).priv := priv_begun s p x
    rw [hb]
    cases priv with
    | true => rw [hpriv rfl]; rfl
    | false => rfl
  rw [hi, sysWord, issue_next h]
  simp only [hon, hok, Bool.false_eq_true, if_false]

theorem does_sysWord {priv : Bool} (h : Issues s p.w p.dst p.comp x) (hi : exec i s = sysWord p priv s body)
    (hpriv : priv = true → (s.at x).priv = true) (hp : p.narrow) (hb : Acted s u (body x (begun s p x [])) x P) : Does i s u x p.w P := by
  refine does_of_acted (body := fun _ _ => body x (begun s p x [])) h ?_ hp hb
  rw [exec_sysWord h hi hpriv, issue_next h]

end

theorem wrRun_ne_nil {x : Ctx} (hx : x.on ≠ 0) (comp : Bool) {d : Opd} (hd : Opd.writes d = true) {n : Nat} (hn : 0 < n)
    (val : Nat → List W32) : wrRun x comp d n val ≠ [] := by
  have hd' : Opd.writes (nextReg d 0) = true := by cases d <;> simp_all [nextReg, Opd.writes]
  intro h
  exact wrOf_ne_nil hx comp hd' _ (List.flatMap_eq_nil_iff.1 h 0 (List.mem_range.2 hn))

/-! ### SREAD (R233 to R236, R284) -/

/-- How many registers SREAD and SWRITE take. -/
def sregWords (w : Op) : Nat := if w.mb 0 then 2 else 1

/-- What SREAD reads in a lane. -/
def sreadVal (s : State) (x : Ctx) (w : Op) (l : Nat) : Nat :=
  if bf w.imm.toNat 0 16 ≤ 3 then laneVal (s.at x) (bf w.imm.toNat 0 16) l
  else sysVal s (s.at x).priv (s.at x) (bf w.imm.toNat 0 16) (bf w.imm.toNat 16 8)

def sreadWr (s : State) (x : Ctx) (w : Op) : List Wr := wrRun x false w.d (sregWords w) (fun l => leWords (sregWords w) (sreadVal s x w l))

theorem sreadWr_ne_nil (s : State) {x : Ctx} {w : Op} (hx : x.on ≠ 0) (hd : Opd.writes w.d = true) : sreadWr s x w ≠ [] :=
  wrRun_ne_nil hx false hd (by unfold sregWords; split <;> decide) _

/-- The state in which SREAD acts reads the registers of the one before. -/
theorem sreadVal_begun (s : State) (p : Pre) (x : Ctx) (w : Op) : sreadVal (begun s p x []) x w = sreadVal s x w := by
  obtain ⟨t, hat, -⟩ := at_begun s p x
  funext l
  rw [sreadVal, hat]
  rfl

theorem exec_sread {w : Op} {s : State} {x : Ctx} (h : Issues s w (vdst w.d (sregWords w)) false x) : exec (.sread w) s =
    issue s { w, dst := vdst w.d (sregWords w) } (fun _ b =>
      if bf w.imm.toNat 0 16 ≤ 0x12 then fixedResult b x 4 (sreadWr s x w) else longResult b x (sreadWr s x w)) := by
  have hi : exec (.sread w) s = execSread w s := rfl
  have hon : (x.on == 0) = false := by simpa using h.on
  have hval := sreadVal_begun s { w, dst := vdst w.d (sregWords w) } x w
  rw [hi, issue_next (p := { w, dst := vdst w.d (sregWords w) }) h, execSread]
  refine (issue_next (p := { w, dst := vdst w.d (sregWords w) }) h _).trans (congrArg (fun b => Host.Outcome.next (ended _ x (s.at x) b)) ?_)
  simp only [hon, Bool.false_eq_true, if_false, sreadWr, ← hval]
  unfold sreadVal
  by_cases hlane : bf w.imm.toNat 0 16 ≤ 3
  · simp only [hlane, Nat.le_trans hlane (by decide : 3 ≤ 0x12), if_true]
    rfl
  · simp only [hlane, if_false]
    rfl

theorem sread_fixed {w : Op} {s : State} {x : Ctx} (h : Issues s w (vdst w.d (sregWords w)) false x) (hd : Opd.writes w.d = true)
    (hn : bf w.imm.toNat 0 16 ≤ 0x12) : Completes (.sread w) s fun t =>
      Leaves s t x 4 (sreadWr s x w) ∧ OnlyResult s t x (lastRegs x.h w 1 1 1) :=
  completes_fixedResult (p := { w, dst := vdst w.d (sregWords w) }) h ⟨rfl, rfl, rfl, rfl⟩ (exec_sread h) (by rw [if_pos hn])
    (sreadWr_ne_nil s h.on hd)

theorem sread_long {w : Op} {s : State} {x : Ctx} (h : Issues s w (vdst w.d (sregWords w)) false x) (hd : Opd.writes w.d = true)
    (hn : 0x12 < bf w.imm.toNat 0 16) : Does (.sread w) s s x w (LongLeft s x (sreadWr s x w)) := by
  refine does_of_acted (p := { w, dst := vdst w.d (sregWords w) }) h (exec_sread h) (.operands w _ (by decide) (by decide)) ?_
  rw [if_neg (Nat.not_le.2 hn)]
  exact (BegunOnto.chip rfl _ x).longResult (Nat.le_refl _) (sreadWr_ne_nil s h.on hd)

/-- The registers of the chip: number and value of the one at index `i`. -/
def chipRegs (s : State) (i : Nat) : List (Nat × Nat) :=
  let m := s.stack i
  let v : Win := tget {} s.wins i
  [(0x20, s.cwtbase.toNat), (0x21, s.savebase.toNat), (0x22, s.savesize.toNat), (0x23, s.holdbase.toNat), (0x24, s.holdsize.toNat),
   (0x25, s.groupbase.toNat), (0x30, m.itbase.toNat), (0x31, m.anchorbase.toNat), (0x40, v.ctl.toNat), (0x41, v.size.toNat),
   (0x42, v.view.toNat), (0x50, s.hdmctl.toNat), (0x60, s.homebase.toNat), (0x61, s.hometab.toNat), (0x62, m.stubbase.toNat),
   (0x63, m.migcore.toNat), (0x64, s.stubcfg.toNat), (0x65, s.trkcfg.toNat), (0x66, m.pgpool.toNat), (0x70, s.connbase.toNat),
   (0x71, s.fabcfg.toNat)]

/-- Privileged or not, a crew reads a register of the chip as it stands. -/
theorem sysVal_chipRegs (s : State) (priv : Bool) (k : Crew) (i : Nat) :
    ∀ e ∈ chipRegs s i, 0x12 < e.1 ∧ sysVal s priv k e.1 i = e.2 := by
  refine List.forall_iff_forall_mem.1 ?_
  simp [chipRegs, List.Forall, sysVal]

/-- A crew without privilege reads another grid's registers as 0 (R236). -/
theorem sysVal_other {s : State} {k : Crew} {n i : Nat} (hn : 0x10 ≤ n ∧ n ≤ 0x12) (hg : k.grid ≠ i) : sysVal s false k n i = 0 := by
  simp [sysVal, ownGrid, hn, hg]

theorem b2n_bit (v i : Nat) : b2n (bit v i) = bf v i 1 := by
  rw [bit, b2n, bf, Nat.pow_one]
  rcases Nat.mod_two_eq_zero_or_one (v / 2 ^ i) with h | h <;> rw [h] <;> rfl

theorem gridstat_eq (g : Grid) : gridstat g = if g.state = 0 then 0 else g.state * 2 ^ 29 + bf g.lr.flags 2 2 * 2 ^ 27 +
    bf g.lr.flags 0 1 * 2 ^ 26 + bf g.lr.flags 1 1 * 2 ^ 25 + (if g.ended then 2 ^ 24 else 0) + g.teamsLeft % 2 ^ 24 := by
  rw [gridstat, b2n_bit, b2n_bit, b2n, ite_mul, Nat.one_mul, Nat.zero_mul]

/-- Settles O33: SREAD reads one value, whose latency goes by the register's number. -/
theorem registerReads : Obligations.RegisterReads := by
  intro w s x hd n i r k g m win wr fixed h
  have hwr (v : Nat → Nat) (hv : ∀ l, sreadVal s x w l = v l) : wr v = sreadWr s x w := by
    rw [sreadWr, funext hv]
    rfl
  have hfix (v : Nat → Nat) (hn : n ≤ 0x12) (hv : ∀ l, sreadVal s x w l = v l) : fixed v := by
    simp only [fixed, hwr v hv]
    exact sread_fixed h hd hn
  have hlane (hn : n ≤ 3) (l : Nat) : sreadVal s x w l = laneVal k n l := if_pos hn
  have hchip (hn : 3 < n) (l : Nat) : sreadVal s x w l = sysVal s k.priv k n i := if_neg (Nat.not_le.2 hn)
  have hrange (hn : n ∈ [0x10, 0x11, 0x12]) : 0x10 ≤ n ∧ n ≤ 0x12 := by
    simp only [List.mem_cons, List.not_mem_nil, or_false] at hn
    omega
  refine ⟨fun hn => ?_, fun hn => ?_, fun hn => ?_, fun hn => ?_, fun e he hn => ?_⟩
  · exact hfix _ (by omega) fun l => by rw [hlane (by omega), hn]; rfl
  · exact hfix _ (by omega) fun l => by rw [hlane (by omega), hn]; rfl
  · exact hfix _ (by omega) fun l => by rw [hlane (by omega), hn]; rfl
  · obtain ⟨hlo, hhi⟩ := hrange hn
    refine ⟨fun hp hg => hfix _ hhi fun l => ?_, fun hp => hfix _ hhi fun l => ?_⟩
    · rw [hchip (by omega), hp, sysVal_other ⟨hlo, hhi⟩ hg]
    · rw [hchip (by omega), hp, ← gridstat_eq]
      simp only [List.mem_cons, List.not_mem_nil, or_false] at hn
      rcases hn with hn | hn | hn <;> rw [hn] <;> rfl
  · obtain ⟨hlt, hval⟩ := sysVal_chipRegs s k.priv k i e he
    rw [hwr (fun _ => e.2) fun l => by rw [hchip (by omega), hn, hval]]
    exact sread_long h hd (by omega)

end Sys2Proof.Machine

/-! ## Lanes that return from a trap, and crews that freeze (R96, R252, R253, R272) -/

namespace Sys2Proof.Machine

/-! ### ERET -/

/-- Where ERET sends a lane that is in its handler (R272). -/
def returnPc (next : Bool) (k : Crew) (l : Nat) : Pc :=
  let p := codeAt (tget 0 k.trappc l)
  let n := bf (tget 0 k.trapinfo l).toNat 24 2
  if next then { p with off := p.off + if n = 0 then 8 else if n = 1 then 12 else 16 } else p

/-- Crew `k'` is `k` whose lanes `ls` have returned from their traps. -/
structure LanesReturned (next : Bool) (ls : List Nat) (k k' : Crew) : Prop where
  rest : k' = { k with trapinfo := k'.trapinfo, pc := k'.pc }
  lane : ∀ l, tget 0 k'.trapinfo l = (if l ∈ ls then tget 0 k.trapinfo l &&& 0x7FFFFFFF else tget 0 k.trapinfo l) ∧
    k'.pcOf l = if l ∈ ls then returnPc next k l else k.pcOf l

/-- INTRAP, bit 31, is cleared. -/
theorem w32_bf_31 (v : W32) : w32 (bf v.toNat 0 31) = v &&& 0x7FFFFFFF := by
  refine BitVec.eq_of_toNat_eq ?_
  have hmask : (0x7FFFFFFF : W32).toNat = 2 ^ 31 - 1 := rfl
  rw [BitVec.toNat_and, hmask, Nat.and_two_pow_sub_one_eq_mod, bf_zero]
  exact Nat.mod_eq_of_lt (Nat.lt_trans (Nat.mod_lt _ (by decide)) (by decide))

theorem trapReturn_lane (next : Bool) (l : Nat) (k : Crew) : LanesReturned next [l] k (trapReturn next l k) := by
  refine ⟨rfl, fun j => ?_⟩
  simp only [trapReturn, Crew.pcOf, tget_tset, w32_bf_31, List.mem_singleton]
  by_cases h : j = l
  · subst h
    exact ⟨rfl, rfl⟩
  · simp only [h, if_false, and_self]

theorem LanesReturned.append {next : Bool} {a b : List Nat} {k k' k'' : Crew} (h : LanesReturned next a k k')
    (g : LanesReturned next b k' k'') (hab : ∀ l ∈ b, l ∉ a) : LanesReturned next (a ++ b) k k'' := by
  obtain ⟨hrest, hlane⟩ := h
  obtain ⟨grest, glane⟩ := g
  refine ⟨?_, fun l => ?_⟩
  · rw [grest, hrest]
  · obtain ⟨hinfo, hpc⟩ := hlane l
    obtain ⟨ginfo, gpc⟩ := glane l
    by_cases hb : l ∈ b
    · have ha := hab l hb
      have hret : returnPc next k' l = returnPc next k l := by
        rw [if_neg ha] at hinfo
        rw [returnPc, hinfo, hrest]
        rfl
      simp only [ginfo, gpc, hinfo, hret, hb, ha, List.mem_append, or_true, if_true, if_false, and_self]
    · simp only [ginfo, gpc, hinfo, hpc, hb, List.mem_append, or_false, if_false, and_self]

theorem foldl_trapReturn (next : Bool) {ls : List Nat} (hnd : ls.Nodup) (k : Crew) :
    LanesReturned next ls k (ls.foldl (fun k l => trapReturn next l k) k) := by
  induction ls generalizing k with
  | nil => exact ⟨rfl, fun _ => ⟨rfl, rfl⟩⟩
  | cons a ls ih =>
    obtain ⟨ha, hls⟩ := List.nodup_cons.1 hnd
    exact (trapReturn_lane next a k).append (ih hls _) fun l hl hin => ha (List.mem_singleton.1 hin ▸ hl)

section
variable {w : Op} {s : State} {x : Ctx}

/-- ERET by lanes that are all in their handler returns each (R272). -/
theorem eret_body (h : Issues s w [] false x) (hin : ∀ l ∈ lanesOf x.on, inTrap (tget 0 (s.at x).trapinfo l) = true) :
    exec (.eret w) s = .next (ended { w } x (s.at x) ((begun s { w } x []).modCrew x.c x.k (forLanes x.on (trapReturn (w.mb 0))))) := by
  have hi : exec (.eret w) s = execEret w s := rfl
  have hinB : ∀ l ∈ lanesOf x.on, inTrap (tget 0 ((begun s { w } x []).crew x.c x.k).trapinfo l) = true := by
    obtain ⟨t, hat, -⟩ := at_begun s { w } x
    rw [State.at] at hat
    rw [hat]
    exact hin
  have hall : (lanesOf x.on).filter (fun l => inTrap (tget 0 ((begun s { w } x []).crew x.c x.k).trapinfo l)) = lanesOf x.on :=
    List.filter_eq_self.2 hinB
  have hnone : (lanesOf x.on).filter (fun l => !(inTrap (tget 0 ((begun s { w } x []).crew x.c x.k).trapinfo l))) = [] :=
    List.filter_eq_nil_iff.2 fun l hl => by rw [hinB l hl]; decide
  rw [hi, execEret, issue_next (p := { w }) h]
  simp only [hall, hnone, maskOf_lanesOf, maskOf_nil]
  rfl

theorem eret_returns (h : Issues s w [] false x) (hin : ∀ l ∈ lanesOf x.on, inTrap (tget 0 (s.at x).trapinfo l) = true) :
    Completes (.eret w) s fun t => OnlyTo s t x w (fun k => { k with trapinfo := (t.at x).trapinfo }) ∧
      (∀ l, tget 0 (t.at x).trapinfo l =
        if l ∈ lanesOf x.on then tget 0 (s.at x).trapinfo l &&& 0x7FFFFFFF else tget 0 (s.at x).trapinfo l) ∧
      Goes s t x (returnPc (w.mb 0) (s.at x)) := by
  let b := begun s { w } x []
  let f := forLanes x.on (trapReturn (w.mb 0))
  obtain ⟨pcs, hat, hmoves⟩ := at_begun s { w } x
  have hu : (b.modCrew x.c x.k f).at x = f (b.at x) := crew_modCrew_same b x.c x.k f
  obtain ⟨hrest, hlane⟩ : LanesReturned (w.mb 0) (lanesOf x.on) (b.at x) ((b.modCrew x.c x.k f).at x) :=
    hu ▸ foldl_trapReturn (w.mb 0) (lanesOf_nodup x.on) (b.at x)
  simp only [b, hat] at hrest hlane
  obtain ⟨a, v, r, q, hend⟩ := at_ended_rest (b.modCrew x.c x.k f) { w } x (s.at x)
  have hinfo : ((ended { w } x (s.at x) (b.modCrew x.c x.k f)).at x).trapinfo = ((b.modCrew x.c x.k f).at x).trapinfo := by rw [hend]
  refine ⟨_, eret_body h hin, ⟨onlyCrew_word { w } (.modCrew b x f) _, keepsCrew_word (single_op w []) ?_ _, ?_⟩, fun l => ?_, fun l => ?_⟩
  · rw [hinfo]
    exact .of_pcs hrest
  · rw [results_ended, hrest]
  · rw [hinfo]
    exact (hlane l).1
  · rw [pcOf_ended, (hlane l).2, hmoves]
    rfl

end

/-! ### A crew that freezes (R252) -/

/-- The fields of an event that concern a crew are those from before the issue of its word. -/
theorem crewEvent_begun (s : State) (p : Pre) (x : Ctx) (typ cause : Nat) (lanes : Mask) (addr : W64) (pc : W32) :
    (begun s p x []).crewEvent x.c x.k typ cause lanes addr pc = s.crewEvent x.c x.k typ cause lanes addr pc := by
  obtain ⟨pcs, hat, -⟩ := at_begun s p x
  rw [State.at] at hat
  rw [State.crewEvent, hat]
  rfl

/-- Lanes `ls` of the crew stand at the word, each with a record, and nothing else differs. -/
structure LanesStand (s t : State) (x : Ctx) (ls : List Nat) : Prop where
  only : OnlyCrew s t x
  crew : t.at x = { s.at x with pc := (t.at x).pc, faults := (t.at x).faults }
  pcs : ∀ l, (t.at x).pcOf l = if l ∈ ls then x.pc else (s.at x).pcOf l

theorem LanesStand.append {s t u : State} {x : Ctx} {a b : List Nat} (h : LanesStand s t x a) (g : LanesStand t u x b) :
    LanesStand s u x (a ++ b) := by
  refine ⟨h.only.trans g.only, ?_, fun l => ?_⟩
  · rw [g.crew, h.crew]
  · rw [g.pcs, h.pcs]
    by_cases hb : l ∈ b
    · rw [if_pos hb, if_pos (List.mem_append_right a hb)]
    · simp only [hb, if_false, List.mem_append, or_false]

/-- A lane that nobody handles stands at the word (R253). -/
def standLane (pc : Pc) (len word : Nat) (r : Raise) (w : Crew) : Crew :=
  { w with pc := tset w.pc r.lane pc
           faults := tset w.faults r.lane { cause := r.cause, code := r.code, addr := r.addr, len, word := if r.word = 0 then word else r.word } }

/-- A lane whose trap nobody handles: its crew has no handler, or it is in it. -/
def unhandled (k : Crew) (l : Nat) : Bool := inTrap (tget 0 k.trapinfo l) || k.trapent == 0xFFFFFFFF

theorem trapLane_unhandled {s : State} {c k : Nat} {pc : Pc} {r : Raise} (h : unhandled (s.crew c k) r.lane = true) (len : Nat) :
    trapLane s c k pc len r =
      freezeCrew (s.modCrew c k (standLane pc len s.nextId r)) c k r.cause (laneBit r.lane) pc.addr := if_pos h

theorem standLane_stands (s : State) (x : Ctx) (len : Nat) (r : Raise) :
    LanesStand s (s.modCrew x.c x.k (standLane x.pc len s.nextId r)) x [r.lane] := by
  have hat : (s.modCrew x.c x.k (standLane x.pc len s.nextId r)).at x = standLane x.pc len s.nextId r (s.at x) := crew_modCrew_same _ _ _ _
  refine ⟨.modCrew s x _, by rw [hat]; rfl, fun l => ?_⟩
  simp only [hat, List.mem_singleton]
  exact tget_tset _ _ _ _ _

/-- The lanes that trap in a crew that is already frozen. -/
theorem foldl_trapLane_stands {s : State} {x : Ctx} {rs : List Raise} (hfrozen : (s.at x).frozen = true)
    (hun : ∀ r ∈ rs, unhandled (s.at x) r.lane = true) (len : Nat) :
    LanesStand s (rs.foldl (fun s r => trapLane s x.c x.k x.pc len r) s) x (rs.map (·.lane)) := by
  induction rs generalizing s with
  | nil => exact ⟨.refl s x, rfl, fun _ => rfl⟩
  | cons r rs ih =>
    have hfirst : LanesStand s (trapLane s x.c x.k x.pc len r) x [r.lane] := by
      have hone := standLane_stands s x len r
      rw [trapLane_unhandled (hun r List.mem_cons_self), freezeCrew, if_pos]
      · exact hone
      · have e := congrArg Crew.frozen hone.crew
        exact e.trans hfrozen
    refine hfirst.append (ih ?_ fun q hq => ?_) <;> rw [hfirst.crew]
    · exact hfrozen
    · exact hun q (List.mem_cons_of_mem r hq)

/-- The monitor, or a crew whose freeze leaves the chip on (R247). -/
theorem monitorDown_of_not_monitor {s : State} {c k : Nat} (h : (s.crew c k).guest.isSome = true ∨ (s.grid (s.crew c k).grid).monitor = false) :
    monitorDown s c k = s := by
  refine if_neg ?_
  rcases h with h | h <;> simp [← Option.not_isSome, h]

theorem OnlyCrew.evqs {s t : State} {x : Ctx} (h : OnlyCrew s t x) (q0 q1 : List Event) :
    OnlyCrew { s with evq0 := q0, evq1 := q1 } { t with evq0 := q0, evq1 := q1 } x := by
  obtain ⟨hrest, hcores, hcore, hslots⟩ := h
  exact ⟨congrArg (fun u : State => { u with evq0 := q0, evq1 := q1 }) hrest, hcores, hcore, hslots⟩

/-- The first lane freezes the crew, and one event says so; the lanes that follow only stand at the word. -/
structure LanesFreeze (s t : State) (x : Ctx) (ls : List Nat) (cause : Nat) : Prop where
  only : OnlyCrew s { t with evq0 := s.evq0, evq1 := s.evq1 } x
  crew : t.at x = { s.at x with pc := (t.at x).pc, faults := (t.at x).faults, frozen := true }
  pcs : ∀ l, (t.at x).pcOf l = if l ∈ ls then x.pc else (s.at x).pcOf l
  event : let e := s.crewEvent x.c x.k 0x02 cause (laneBit (ls.headD 0)) 0 x.pc.addr
    if x.c < 96 then t.evq0 = s.evq0 ++ [e] ∧ t.evq1 = s.evq1 else t.evq1 = s.evq1 ++ [e] ∧ t.evq0 = s.evq0

theorem freezeCrew_posts {s : State} {c k : Nat} (hfrozen : (s.crew c k).frozen = false)
    (hmon : (s.crew c k).guest.isSome = true ∨ (s.grid (s.crew c k).grid).monitor = false) (cause : Nat) (m : Mask) (pc : W32) :
    freezeCrew s c k cause m pc =
      (s.modCrew c k (fun w => { w with frozen := true })).post (dieOfCore c) (s.crewEvent c k 0x02 cause m 0 pc) := by
  rw [freezeCrew, hfrozen]
  refine monitorDown_of_not_monitor ?_
  have hcrew := (crew_of_cores (cores_post (s.modCrew c k (fun w => { w with frozen := true })) (dieOfCore c)
    (s.crewEvent c k 0x02 cause m 0 pc)) c k).trans (crew_modCrew_same s c k _)
  have hgrid (g : Nat) : (((s.modCrew c k (fun w => { w with frozen := true })).post (dieOfCore c)
      (s.crewEvent c k 0x02 cause m 0 pc)).grid g) = s.grid g := grid_of_grids (by simp only [State.post, apply_ite State.grids]; simp) g
  rw [hcrew, hgrid]
  exact hmon

/-- The first lane of the word freezes its crew. -/
theorem trapLane_freezes {s : State} {x : Ctx} {r : Raise} (hun : unhandled (s.at x) r.lane = true) (hfrozen : (s.at x).frozen = false)
    (hmon : (s.at x).guest.isSome = true ∨ (s.grid (s.at x).grid).monitor = false)
    (h0 : s.evq0.length < Config.eventQueue) (h1 : s.evq1.length < Config.eventQueue) (len : Nat) :
    LanesFreeze s (trapLane s x.c x.k x.pc len r) x [r.lane] r.cause := by
  let b := s.modCrew x.c x.k (standLane x.pc len s.nextId r)
  let t := b.modCrew x.c x.k (fun w => { w with frozen := true })
  have hat : b.crew x.c x.k = standLane x.pc len s.nextId r (s.at x) := crew_modCrew_same _ _ _ _
  have hone := standLane_stands s x len r
  have hevent : b.crewEvent x.c x.k 0x02 r.cause (laneBit r.lane) 0 x.pc.addr = s.crewEvent x.c x.k 0x02 r.cause (laneBit r.lane) 0 x.pc.addr := by
    rw [State.crewEvent, hat]
    rfl
  rw [trapLane_unhandled hun, freezeCrew_posts (by rw [hat]; exact hfrozen) (by rw [hat]; exact hmon), hevent]
  generalize he : s.crewEvent x.c x.k 0x02 r.cause (laneBit r.lane) 0 x.pc.addr = e
  have hpost : t.post (dieOfCore x.c) e = if x.c < 96 then { t with evq0 := s.evq0 ++ [e] } else { t with evq1 := s.evq1 ++ [e] } :=
    post_room (s := t) h0 h1 x.c e
  have hcrew : (t.post (dieOfCore x.c) e).at x = { b.at x with frozen := true } :=
    (crew_of_cores (cores_post t _ e) x.c x.k).trans (crew_modCrew_same b x.c x.k _)
  have hchip : { t.post (dieOfCore x.c) e with evq0 := s.evq0, evq1 := s.evq1 } = t := by
    rw [hpost]
    split <;> rfl
  refine ⟨?_, ?_, fun l => ?_, ?_⟩
  · rw [hchip]
    exact hone.only.trans (.modCrew b x _)
  · rw [hcrew, hone.crew]
  · rw [hcrew]
    exact hone.pcs l
  · rw [List.headD_cons, he, hpost]
    split <;> exact ⟨rfl, rfl⟩

/-- Lanes that stand at the word after it. -/
theorem LanesFreeze.stand {s t u : State} {x : Ctx} {l : Nat} {ls : List Nat} {cause : Nat} (h : LanesFreeze s t x [l] cause)
    (g : LanesStand t u x ls) : LanesFreeze s u x (l :: ls) cause := by
  obtain ⟨honly, hcrew, hpcs, hevent⟩ := h
  have hrest := g.only.rest
  have h0 : u.evq0 = t.evq0 := (congrArg State.evq0 hrest :)
  have h1 : u.evq1 = t.evq1 := (congrArg State.evq1 hrest :)
  refine ⟨honly.trans (g.only.evqs _ _), ?_, fun j => ?_, ?_⟩
  · rw [g.crew, hcrew]
  · rw [g.pcs, hpcs]
    by_cases hj : j ∈ ls
    · rw [if_pos hj, if_pos (List.mem_cons_of_mem l hj)]
    · simp only [hj, if_false, List.mem_cons, List.not_mem_nil, or_false]
  · rw [h0, h1]
    exact hevent

/-- A cause of the lanes' own that nobody handles (R252). -/
theorem faultLanes_freezes {s : State} {x : Ctx} {cause : Nat} (hon : x.on ≠ 0) (hc : monitorFirst cause = false)
    (hun : ∀ l ∈ lanesOf x.on, unhandled (s.at x) l = true) (hfrozen : (s.at x).frozen = false)
    (hmon : (s.at x).guest.isSome = true ∨ (s.grid (s.at x).grid).monitor = false)
    (h0 : s.evq0.length < Config.eventQueue) (h1 : s.evq1.length < Config.eventQueue) (code : Nat) :
    LanesFreeze s (faultLanes s x (raises x.on cause code)) x (lanesOf x.on) cause := by
  have hsplit : (raises x.on cause code).filter (fun r => monitorFirst r.cause) = [] := by
    simp [raises, List.filter_map, Function.comp_def, hc]
  have htrap : (raises x.on cause code).filter (fun r => !(monitorFirst r.cause)) = raises x.on cause code := by
    simp [raises, List.filter_map, Function.comp_def, hc]
  rw [faultLanes, takeFaults, hsplit, htrap, raises]
  obtain ⟨l, ls, hls⟩ := List.exists_cons_of_ne_nil (lanesOf_ne_nil hon)
  rw [hls] at hun ⊢
  have hfirst := trapLane_freezes (r := { lane := l, cause, code }) (hun l List.mem_cons_self) hfrozen hmon h0 h1 x.lenCode
  have hthen := foldl_trapLane_stands (s := trapLane s x.c x.k x.pc x.lenCode { lane := l, cause, code }) (x := x)
    (rs := ls.map (fun l => { lane := l, cause, code })) (by rw [hfirst.crew]) (by
      rw [hfirst.crew]
      exact List.forall_mem_map.2 fun j hj => hun j (List.mem_cons_of_mem l hj)) x.lenCode
  rw [List.map_map] at hthen
  simpa [Function.comp_def, faultSplit] using hfirst.stand hthen

/-- TRAP in a crew that nobody handles it for (R94, R252). -/
theorem trap_freezes {w : Op} {s : State} {x : Ctx} (h : Issues s w [] false x) (hun : ∀ l ∈ lanesOf x.on, unhandled (s.at x) l = true)
    (hfrozen : (s.at x).frozen = false) (hmon : (s.at x).guest.isSome = true ∨ (s.grid (s.at x).grid).monitor = false)
    (h0 : s.evq0.length < Config.eventQueue) (h1 : s.evq1.length < Config.eventQueue) : Completes (.trap w) s fun t =>
      (t.at x).frozen = true ∧ (∀ l ∈ lanesOf x.on, (t.at x).pcOf l = x.pc) ∧ SameMemory s t ∧
      KeepsCrew { trapFields (t.at x) (s.at x) with frozen := true } (t.at x) (lastRegs x.h w 1 1 1) ∧
      let e := s.crewEvent x.c x.k 0x02 0x60 (laneBit x.low) 0 x.pc.addr
      if x.c < 96 then t.evq0 = s.evq0 ++ [e] ∧ t.evq1 = s.evq1 else t.evq1 = s.evq1 ++ [e] ∧ t.evq0 = s.evq0 := by
  let b := begun s { w } x []
  obtain ⟨pcs, hat, -⟩ := at_begun s { w } x
  have hi : exec (.trap w) s = execTrap w s := rfl
  have hfreeze : LanesFreeze b (faultLanes b x (raises x.on 0x60 (w.mf 3 8))) x (lanesOf x.on) 0x60 :=
    faultLanes_freezes (s := b) h.on rfl (by rw [hat]; exact hun) (by rw [hat]; exact hfrozen) (by rw [hat]; exact hmon) h0 h1 _
  obtain ⟨honly, hcrew, hpcs, hevent⟩ := hfreeze
  rw [execTrap, issue_next (p := { w }) h] at hi
  generalize faultLanes b x (raises x.on 0x60 (w.mf 3 8)) = u at hi honly hcrew hpcs hevent
  have hsame : SameMemory s u := by
    obtain ⟨hdram, hmsc, hhost, hscratch, htiles⟩ := ((OnlyCrew.begun s { w } x).trans honly).sameMemory
    exact ⟨hdram, hmsc, hhost, hscratch, htiles⟩
  obtain ⟨a, v, r, q, hend⟩ := at_ended_rest u { w } x (s.at x)
  have hkeeps : KeepsCrew { trapFields (u.at x) (s.at x) with frozen := true } (u.at x) (lastRegs x.h w 1 1 1) := by
    rw [hat] at hcrew
    refine .of_pcs (pc := (u.at x).pc) (since := s.clk + 1) (hcrew.trans ?_)
    rw [hcrew]
    rfl
  refine ⟨_, hi, ?_, fun l hl => ?_, hsame.trans (OnlyCrew.ended u { w } x _).sameMemory, ?_, ?_⟩
  · rw [hend, hcrew]
  · rw [pcOf_ended, hpcs, if_pos hl]
  · have hword := keepsCrew_word (single_op w []) hkeeps (s.at x)
    rw [hend] at hword ⊢
    exact hword
  · rw [← crewEvent_begun s { w }]
    exact hevent

/-- Settles O21: ERET returns lanes one by one; TRAP freezes a crew at its first lane. -/
theorem returnAndFreeze : Obligations.ReturnAndFreeze := by
  intro w s x h k
  refine ⟨eret_returns h, fun hun hfrozen hmon h0 h1 => trap_freezes h (fun l hl => ?_) hfrozen hmon h0 h1⟩
  rw [unhandled, Bool.or_eq_true, beq_iff_eq]
  exact hun.symm.imp (fun hin => hin l hl) id

end Sys2Proof.Machine

/-! ## System words that fault, answer or start a job (R231, R271, R274, R275, R279) -/

namespace Sys2Proof.Machine

section
variable {s u b : State} {x : Ctx} {P : List Result → Prop}

/-! ### What else a system word changes -/

theorem OnlyCrew.jobs {s t : State} {x : Ctx} (h : OnlyCrew s t x) (l : List Job) : OnlyCrew { s with jobs := l } { t with jobs := l } x := by
  obtain ⟨hrest, hcores, hcore, hslots⟩ := h
  exact ⟨congrArg (fun u : State => { u with jobs := l }) hrest, hcores, hcore, hslots⟩

/-- A change of the crew that does not look at its PCs or its results. -/
theorem Acted.modCrew {f : Crew → Crew} (h : Acted s u b x P) (hf : ∀ k k', KeepsCrew k k' [] → KeepsCrew (f k) (f k') [])
    (hpc : ∀ k, (f k).pc = k.pc) (hr : ∀ k, (f k).results = k.results) : Acted s (u.modCrew x.c x.k f) (b.modCrew x.c x.k f) x P := by
  obtain ⟨honly, hkeeps, hmoves, hresults⟩ := h
  have hu : (u.modCrew x.c x.k f).at x = f (u.at x) := crew_modCrew_same u x.c x.k f
  have hb : (b.modCrew x.c x.k f).at x = f (b.at x) := crew_modCrew_same b x.c x.k f
  refine ⟨((OnlyCrew.modCrew u x f).symm.trans honly).trans (.modCrew b x f), ?_, fun l => ?_, ?_⟩
  · rw [hu, hb]
    exact hf _ _ hkeeps
  · rw [hb, Crew.pcOf, hpc]
    exact hmoves l
  · rw [hb, hr]
    exact hresults

/-- A job that gives the result later. -/
theorem BegunOnto.startJob (h : BegunOnto s u b x) (hid : b.nextId = u.nextId) (huid : (u.at x).uid = (s.at x).uid) (d : Opd) (n : Nat)
    (kind : JobKind) :
    Acted s { u with jobs := u.jobs ++ [{ id := u.nextId + 1, core := x.c, slot := x.k, uid := (s.at x).uid, res := u.nextId, d, kind }] }
      (Machine.startJob b x d n kind) x (OpenLeft x u.nextId d n) := by
  obtain ⟨honly, hkeeps, hmoves, hresults⟩ := h.openResult (vdst d n) (udst d n)
  have hjobs : b.jobs = u.jobs := (congrArg State.jobs h.only.rest :)
  have hopen : ((Machine.openResult b x (vdst d n) (udst d n)).2.crew x.c x.k).uid = (s.at x).uid :=
    (congrArg Crew.uid hkeeps.rest).trans huid
  have hstart : Machine.startJob b x d n kind =
      { (Machine.openResult b x (vdst d n) (udst d n)).2 with
        jobs := u.jobs ++ [{ id := u.nextId + 1, core := x.c, slot := x.k, uid := (s.at x).uid, res := u.nextId, d, kind }]
        nextId := u.nextId + 2 } := by
    rw [← hid, ← hjobs, ← hopen]
    rfl
  rw [hid] at hresults
  rw [hstart]
  exact ⟨(honly.jobs _).trans ⟨rfl, fun _ _ => rfl, rfl, fun _ _ => rfl⟩, hkeeps, hmoves, hresults⟩

/-! ### A privileged word in an unprivileged crew (R231) -/

/-- Whether operands name vector registers. -/
structure ScalarOp (w : Op) : Prop where
  a : ∀ n, w.a ≠ .v n
  b : ∀ n, w.b ≠ .v n
  c : ∀ n, w.c ≠ .v n

theorem vdst_scalar {o : Opd} (h : ∀ n, o ≠ .v n) (n : Nat) : vdst o n = [] := by
  cases o with
  | v r => exact absurd rfl (h r)
  | no | u | sp | im | ext => rfl

/-- Words without vector sources release nothing. -/
theorem ScalarOp.lastRegs {w : Op} (hw : ScalarOp w) (h : Head) (a b c : Nat) : lastRegs h w a b c = [] := by
  simp [Machine.lastRegs, vdst_scalar hw.a, vdst_scalar hw.b, vdst_scalar hw.c]

theorem endsAs_scalar {p : Pre} (hw : ScalarOp p.w) (hl : p.last = []) (x : Ctx) (old : Crew) (u : State) : EndsAs u (ended p x old u) x := by
  have hend := keeps_settleRows x p old (u.at x)
  rw [hw.lastRegs, hl, ← at_ended] at hend
  exact ⟨.ended u p x old, hend, pcOf_ended u p x old, results_ended u p x old⟩

/-- What comes of a word that only a privileged crew may execute, with these operands and no vector destination. -/
def Privileged (w : Op) (s : State) (o : Out) : Prop :=
  ∃ p body, o = sysWord p true s body ∧ p.w = w ∧ p.dst = [] ∧ p.comp = false ∧ p.last = []

theorem Privileged.refuses {w : Op} {i : Instr} (hi : Privileged w s (exec i s)) (hw : ScalarOp w) (h : Issues s w [] false x)
    (hpriv : (s.at x).priv = false) (h0 : s.evq0.length < Config.eventQueue) (h1 : s.evq1.length < Config.eventQueue) :
    Refuses i s x 0x11 := by
  obtain ⟨p, body, hexec, rfl, hdst, hcomp, hlast⟩ := hi
  have hissue : Issues s p.w p.dst p.comp x := by rw [hdst, hcomp]; exact h
  have hon : (x.on == 0) = false := by simpa using h.on
  have hno : ((begun s p x []).crew x.c x.k).priv = false := (priv_begun s p x).trans hpriv
  rw [sysWord, issue_next hissue] at hexec
  simp only [hon, hno, Bool.not_false, Bool.and_self, Bool.false_eq_true, if_false, if_true] at hexec
  exact ⟨_, _, hexec, faultLanes_splits (begins_begun s p x) (lanesOf_ne_nil h.on) ⟨rfl, rfl⟩ h0 h1 rfl (fun _ => 0),
    endsAs_scalar hw hlast x _ _⟩

end

theorem Privileged.sysWord {p : Pre} {s : State} {body : Ctx → State → State} (hdst : p.dst = []) (hcomp : p.comp = false)
    (hlast : p.last = []) : Privileged p.w s (sysWord p true s body) := ⟨p, body, rfl, rfl, hdst, hcomp, hlast⟩

theorem privileged_words (w : Op) (s : State) : ∀ i ∈ [Instr.ctxsave w, .ctxload w, .preempt w, .freeze w, .thawResume w, .thawRetry w,
    .thawTrap w, .thawEnd w, .keyset w, .keydrop w, .watch w, .watchWait w, .monevWait w, .monevIrq w, .invtlb w, .pgattr w],
    Privileged w s (exec i s) := by
  refine List.forall_iff_forall_mem.1 ?_
  simp only [List.Forall]
  unfold exec
  unfold execCtxsave execCtxload execPreempt execFreeze execThawResume execThawRetry execThawTrap execThawEnd execKeyset execKeydrop
    execWatch execWatchWait execMonevWait execMonevIrq execInvtlb execPgattr thawWord
  refine ⟨?_, ?_, ?_, ?_, ?_, ?_, ?_, ?_, ?_, ?_, ?_, ?_, ?_, ?_, ?_, ?_⟩ <;> exact .sysWord rfl rfl rfl

/-! ### LAUNCH and LAUNCHW (R271) -/

section
variable {w : Op} {s : State} {x : Ctx}

/-- A release or another order that a word begins and that stays incomplete. -/
theorem keepsCrew_ords (o : Ord) (k k' : Crew) (h : KeepsCrew k k' []) :
    KeepsCrew { k with ords := k.ords ++ [o] } { k' with ords := k'.ords ++ [o] } [] := by
  obtain ⟨hv, hrest⟩ := h
  exact ⟨hv, congrArg (fun k : Crew => { k with ords := k.ords ++ [o] }) hrest⟩

theorem order_later {a : After} (ha : a.later = true) (s : State) (x : Ctx) (scope : Nat) (lanes : Mask) :
    order s x true false scope lanes a = s.modCrew x.c x.k (fun k => { k with ords := k.ords ++
      [{ rel := true, acq := false, scope, lanes, before := s.nextId, after := a, pc := x.pc, len := x.lenCode }] }) := by
  rw [order, ha]
  rfl

theorem launch_orders {i : Instr} {wait : Bool} (hi : exec i s = launchWord w wait s) (h : Issues s w [] false x) :
    Orders i s s x w { rel := true, acq := false, scope := 3, lanes := x.on, before := s.nextId + 1
                       after := .launch w.d (w64 (usrc64 s x w.a)) wait s.nextId } (fun rs => ∃ r ∈ rs, r.id = s.nextId ∧
      r.ready = false ∧ r.us = udst w.d 1) := by
  let o : Ord := { rel := true, acq := false, scope := 3, lanes := x.on, before := s.nextId + 1
                   after := .launch w.d (w64 (usrc64 s x w.a)) wait s.nextId, pc := x.pc, len := x.lenCode }
  have hb := (BegunOnto.chip (u := s) rfl { w, ra := 2 } x).openResult [] (udst w.d 1)
  have hacted := (hb.modCrew (keepsCrew_ords o) (fun _ => rfl) (fun _ => rfl)).mono fun rs hrs => show ∃ r ∈ rs, r.id = s.nextId ∧
      r.ready = false ∧ r.us = udst w.d 1 from by
    obtain ⟨r, hr, hid, -, hready, -, -, -, hus⟩ := hrs
    exact ⟨r, hr, hid, hready, hus⟩
  refine does_sysWord (p := { w, ra := 2 }) h hi (fun h => absurd h Bool.false_ne_true) (.operands w [] (by decide) (by decide)) ?_
  simp only [usrc64, (readsAs_begun s { w, ra := 2 } x).rd64, order_later (a := .launch _ _ _ _) rfl]
  exact hacted

/-! ### HEATEND (R251, R279) -/

/-- HEATEND acts as a word that is not collective where its crew has converged (R78). -/
theorem exec_heatend (h : Issues s {} [] false x) (hc : notConverged x 32 = false) : exec .heatend s = issue s {} (fun x b =>
    if inHeat s (s.at x) then order (b.modCrew x.c x.k (forLanes x.mask (fun l k => k.setPark l .heat))) x true false 3 x.on .heat
    else faultLanes b x (raises x.on 0x50)) := by
  have hi : exec .heatend s = execHeatend s := rfl
  have hon : (x.on == 0) = false := by simpa using h.on
  have hheat := (begins_begun s {} x).inHeat_same
  rw [hi, execHeatend, issue_next (p := { coll := true }) h, issue_next (p := {}) h]
  refine congrArg (fun b => Host.Outcome.next (ended {} x (s.at x) b)) ?_
  have hbegun : begun s { coll := true } x [] = begun s {} x [] := rfl
  simp only [hon, Bool.false_eq_true, if_false, collective, hc, hbegun, hheat]
  cases inHeat s (s.at x) <;> rfl

theorem heatend_parks (h : Issues s {} [] false x) (hc : notConverged x 32 = false) (hin : inHeat s (s.at x) = true) :
    Completes .heatend s fun t =>
      OnlyTo s t x {} (fun k => { k with park := (t.at x).park, ords := k.ords ++
        [{ rel := true, acq := false, scope := 3, lanes := x.on, before := s.nextId, after := .heat, pc := x.pc, len := x.lenCode }] }) ∧
      MovesOn s t x ∧ ∀ l, (t.at x).parkOf l = if l ∈ lanesOf x.mask then .heat else (s.at x).parkOf l := by
  let o : Ord := { rel := true, acq := false, scope := 3, lanes := x.on, before := s.nextId, after := .heat, pc := x.pc, len := x.lenCode }
  let b := begun s {} x []
  let parked := b.modCrew x.c x.k (forLanes x.mask (fun l k => k.setPark l .heat))
  let u := parked.modCrew x.c x.k (fun k => { k with ords := k.ords ++ [o] })
  obtain ⟨pcs, hat, hmoves⟩ := at_begun s {} x
  obtain ⟨park, hpark⟩ := foldl_setPark_rest .heat (lanesOf x.mask) (b.at x)
  have hparked : parked.at x = { b.at x with park } := (crew_modCrew_same b x.c x.k _).trans hpark
  have hu : u.at x = { s.at x with park, ords := (s.at x).ords ++ [o], pc := pcs, since := s.clk + 1 } := by
    refine (crew_modCrew_same parked x.c x.k _).trans ?_
    show ({ parked.at x with ords := (parked.at x).ords ++ [o] } : Crew) = _
    rw [hparked, hat]
  obtain ⟨a, v, r, q, hend⟩ := at_ended_rest u {} x (s.at x)
  have hpark' : ((ended {} x (s.at x) u).at x).park = park := by rw [hend, hu]
  have hexec : exec .heatend s = .next (ended {} x (s.at x) u) := by
    rw [exec_heatend h hc, issue_next (p := {}) h, if_pos hin]
    rfl
  refine ⟨_, hexec, ⟨onlyCrew_word {} ((OnlyCrew.modCrew b x _).trans (.modCrew parked x _)) _,
    keepsCrew_word (single_op {} []) (.of_pcs (pc := pcs) (since := s.clk + 1) ?_) _, ?_⟩, fun l => ?_, fun l => ?_⟩
  · rw [hpark', hu]
  · rw [results_ended, hu]
  · rw [pcOf_ended, hu]
    exact hmoves l
  · have hparks := foldl_setPark .heat (lanesOf x.mask) (b.at x) l
    rw [hpark, hat] at hparks
    rw [Crew.parkOf, hpark']
    exact hparks

theorem heatend_traps (h : Issues s {} [] false x) (hc : notConverged x 32 = false) (hin : inHeat s (s.at x) = false)
    (hent : (s.at x).trapent ≠ 0xFFFFFFFF) (htrap : ∀ l ∈ lanesOf x.on, inTrap (tget 0 (s.at x).trapinfo l) = false) :
    Completes .heatend s fun t =>
      Traps s t x (lanesOf x.on) 0x50 0 (fun l => if l ∈ lanesOf x.path then x.next else (s.at x).pcOf l) := by
  obtain ⟨pcs, hat, -⟩ := at_begun s {} x
  obtain ⟨t, e, htraps, -⟩ := completes_traps h (exec_heatend h hc) (by decide) (by decide) (cause := 0x50) (code := 0) (ls := lanesOf x.on) (by
    rw [if_neg (by rw [hin]; decide)]
    exact faultLanes_takes rfl (by rw [hat]; exact hent) (by rw [hat]; exact htrap) 0)
  exact ⟨t, e, htraps⟩

end

/-! ### What a table holds after one entry is written -/

section
variable {α : Type} {d v : α} {t : Tab α} {k : Nat}

theorem tget_eq_or_mem (d : α) (t : Tab α) (k : Nat) : tget d t k = d ∨ (k, tget d t k) ∈ t := by
  rw [tget_eq_getD]
  cases h : tget? t k with
  | none => exact .inl rfl
  | some w => exact .inr (mem_of_tget? h)

theorem mem_keys_tset (j : Nat) : j ∈ (tset t k v).map (·.1) ↔ j = k ∨ j ∈ t.map (·.1) := by
  induction t with
  | nil => simp [tset]
  | cons e t ih =>
    obtain ⟨i, w⟩ := e
    rw [tset]
    split
    · simp
    · split
      next hik => simp [hik]
      next => rw [List.map_cons, List.mem_cons, ih, List.map_cons, List.mem_cons, or_left_comm]

/-- Whether some entry has a property that the entry written has as the one before, and an absent one has not. -/
theorem exists_mem_tset {Q : Nat → α → Prop} (hv : Q k v ↔ Q k (tget d t k)) (hd : ¬ Q k d) :
    (∃ e ∈ tset t k v, Q e.1 e.2) ↔ ∃ e ∈ t, Q e.1 e.2 := by
  induction t with
  | nil =>
    have hno : ¬ Q k v := fun h => hd (hv.1 h)
    simp [tset, hno]
  | cons e t ih =>
    obtain ⟨i, w⟩ := e
    rw [tset]
    split
    · simp only [List.mem_cons (l := (i, w) :: t), exists_eq_or_imp]
      refine or_iff_right_of_imp fun h => ?_
      have hold := hv.1 h
      rcases tget_eq_or_mem d ((i, w) :: t) k with he | he
      · exact absurd (he ▸ hold) hd
      · exact ⟨_, he, hold⟩
    · split
      next hik =>
        rw [tget, if_pos hik] at hv
        simp only [List.mem_cons, exists_eq_or_imp, hv, hik]
      next hik =>
        rw [tget, if_neg hik] at hv
        simp only [List.mem_cons, exists_eq_or_imp, ih hv]

end

/-! ### What the state in which a word acts has of crews and teams -/

section
variable (s : State) (p : Pre) (x : Ctx)

theorem slots_begun : ((begun s p x []).core x.c).slots = tset (s.core x.c).slots x.k ((begun s p x []).at x) := by
  simp only [begun, List.map_nil, takeFaults_nil, State.at, crew_modCore_holdSeat, crew_modCrew_same, core_modCore_same, core_modCrew_same]
  rfl

theorem exists_slot_begun {Q : Nat → Crew → Prop} (hQ : ∀ k pc since, Q x.k { k with pc, since } ↔ Q x.k k) (hno : ¬ Q x.k {}) (c : Nat) :
    (∃ e ∈ ((begun s p x []).core c).slots, Q e.1 e.2) ↔ ∃ e ∈ (s.core c).slots, Q e.1 e.2 := by
  by_cases hc : c = x.c
  · obtain ⟨pc, hat, -⟩ := at_begun s p x
    rw [hc, slots_begun]
    refine exists_mem_tset ?_ hno
    rw [hat]
    exact hQ _ _ _
  · rw [(OnlyCrew.begun s p x).cores c hc]

theorem exists_core_modCore {s : State} {c : Nat} {f : Core → Core} {Q : Nat → Core → Prop} (hQ : Q c (f (s.core c)) ↔ Q c (s.core c))
    (hno : ¬ Q c {}) : (∃ e ∈ (s.modCore c f).cores, Q e.1 e.2) ↔ ∃ e ∈ s.cores, Q e.1 e.2 :=
  exists_mem_tset hQ hno

theorem exists_core_begun {Q : Nat → Core → Prop} (hQ : ∀ o slots busy, Q x.c { o with slots, busy } ↔ Q x.c o) (hno : ¬ Q x.c {}) :
    (∃ e ∈ (begun s p x []).cores, Q e.1 e.2) ↔ ∃ e ∈ s.cores, Q e.1 e.2 :=
  (exists_core_modCore (hQ _ _ _) hno).trans (exists_core_modCore (hQ _ _ _) hno)

theorem mem_slotsOfGrid (s : State) (g c k : Nat) :
    k ∈ slotsOfGrid s g c ↔ ∃ e ∈ (s.core c).slots, e.2.st = .resident ∧ crewOfGrid s g e.2 = true ∧ e.1 = k := by
  simp only [slotsOfGrid, List.mem_map, List.mem_filter, Bool.and_eq_true, beq_iff_eq, and_assoc]

theorem mem_teamSlots (s : State) (c t k : Nat) :
    k ∈ teamSlots s c t ↔ ∃ e ∈ (s.core c).slots, e.2.st = .resident ∧ e.2.ts = t ∧ e.1 = k := by
  simp only [teamSlots, List.mem_map, List.mem_filter, Bool.and_eq_true, beq_iff_eq, and_assoc]

theorem mem_slotsOfGrid_begun (g c k : Nat) : k ∈ slotsOfGrid (begun s p x []) g c ↔ k ∈ slotsOfGrid s g c := by
  rw [mem_slotsOfGrid, mem_slotsOfGrid]
  exact exists_slot_begun s p x (Q := fun j w => w.st = .resident ∧ crewOfGrid s g w = true ∧ j = k) (fun _ _ _ => .rfl) (by simp) c

theorem mem_teamSlots_begun (c t k : Nat) : k ∈ teamSlots (begun s p x []) c t ↔ k ∈ teamSlots s c t := by
  rw [mem_teamSlots, mem_teamSlots]
  exact exists_slot_begun s p x (Q := fun j w => w.st = .resident ∧ w.ts = t ∧ j = k) (fun _ _ _ => .rfl) (by simp) c

/-- A core has a team that is placed for a grid at one of the indices of a unit. -/
def holdsUnit (s : State) (g team : Nat) (y : Nat × Nat) (c : Nat) (o : Core) : Prop :=
  ∃ m ∈ o.teams, (m.2.live = true ∧ m.2.guest = false ∧ m.2.grid = g) ∧
    m.2.index / max 1 (clusterSize (s.grid g)) = team / max 1 (clusterSize (s.grid g)) ∧ (c, m.1) = y

theorem mem_unitOf (s : State) (g team : Nat) (y : Nat × Nat) : y ∈ unitOf s g team ↔ ∃ e ∈ s.cores, holdsUnit s g team y e.1 e.2 := by
  simp only [unitOf, placedTeams, holdsUnit, List.mem_map, List.mem_filter, List.mem_flatMap, Bool.and_eq_true, Bool.not_eq_true', beq_iff_eq]
  constructor
  · rintro ⟨_, ⟨⟨e, he, m, ⟨hm, hplaced⟩, rfl⟩, hindex⟩, rfl⟩
    exact ⟨e, he, m, hm, by simpa [and_assoc] using hplaced, hindex, rfl⟩
  · rintro ⟨e, he, m, hm, hplaced, hindex, rfl⟩
    exact ⟨_, ⟨⟨e, he, m, ⟨hm, by simpa [and_assoc] using hplaced⟩, rfl⟩, hindex⟩, rfl⟩

theorem mem_unitOf_begun (g team : Nat) (y : Nat × Nat) : y ∈ unitOf (begun s p x []) g team ↔ y ∈ unitOf s g team := by
  rw [mem_unitOf, mem_unitOf]
  exact exists_core_begun s p x (Q := holdsUnit s g team y) (fun _ _ _ => .rfl) (by simp [holdsUnit])

/-- A crew differs in PCs and age at most. -/
theorem crew_begun (c k : Nat) : ∃ pc since, (begun s p x []).crew c k = { s.crew c k with pc, since } := by
  have honly := OnlyCrew.begun s p x
  by_cases hc : c = x.c
  · by_cases hk : k = x.k
    · obtain ⟨pc, hat, -⟩ := at_begun s p x
      rw [hc, hk]
      exact ⟨pc, _, hat⟩
    · rw [hc, honly.slots k hk]
      exact ⟨_, _, rfl⟩
  · rw [State.crew, honly.cores c hc]
    exact ⟨_, _, rfl⟩

theorem halted_begun (c k : Nat) : ((begun s p x []).crew c k).halted = (s.crew c k).halted := by
  obtain ⟨pc, since, e⟩ := crew_begun s p x c k
  rw [e]

theorem st_begun (c k : Nat) : ((begun s p x []).crew c k).st = (s.crew c k).st := by
  obtain ⟨pc, since, e⟩ := crew_begun s p x c k
  rw [e]

/-- A unit has halted in the state in which a word acts as before (R256). -/
theorem unitHalted_begun (g team : Nat) :
    unitHalted (begun s p x []) (unitOf (begun s p x []) g team) = unitHalted s (unitOf s g team) := by
  rw [Bool.eq_iff_iff]
  simp only [unitHalted, Bool.and_eq_true, Bool.not_eq_true', List.isEmpty_eq_false_iff_exists_mem, List.all_eq_true, mem_unitOf_begun,
    mem_teamSlots_begun, halted_begun]

end
end Sys2Proof.Machine

/-! ## Words that answer at once or later, and what they do to grids (R255, R256, R273 to R275) -/

namespace Sys2Proof.Machine

/-! ### Words that answer at once or later (R273) -/

section
variable {i : Instr} {p : Pre} {priv : Bool} {body : Ctx → State → State} {s u b : State} {x : Ctx}

theorem answers_of_giveLong {v : Nat} (h : Issues s p.w p.dst p.comp x) (hi : exec i s = sysWord p priv s body)
    (hpriv : priv = true → (s.at x).priv = true) (hp : p.narrow) (hd : Opd.writes p.w.d = true) (hb : BegunOnto s u b x)
    (hid : s.nextId ≤ b.nextId) (hbody : body x (begun s p x []) = giveLong b x p.w.d v) : Answers i s u x p.w v := by
  refine does_sysWord h hi hpriv hp ?_
  rw [hbody]
  exact hb.longResult hid (wrOf_ne_nil h.on false hd _)

/-- A word that only answers. -/
theorem answers_only {v : Nat} (h : Issues s p.w p.dst p.comp x) (hi : exec i s = sysWord p priv s body)
    (hpriv : priv = true → (s.at x).priv = true) (hp : p.narrow) (hd : Opd.writes p.w.d = true)
    (hbody : body x (begun s p x []) = giveLong (begun s p x []) x p.w.d v) : Answers i s s x p.w v :=
  answers_of_giveLong h hi hpriv hp hd (.chip rfl p x) (Nat.le_refl _) hbody

theorem starts_of_startJob {n : Nat} {kind : JobKind} (h : Issues s p.w p.dst p.comp x) (hi : exec i s = sysWord p priv s body)
    (hpriv : priv = true → (s.at x).priv = true) (hp : p.narrow) (hb : BegunOnto s u b x) (hid : b.nextId = u.nextId)
    (huid : (u.at x).uid = (s.at x).uid) (hbody : body x (begun s p x []) = startJob b x p.w.d n kind) :
    Starts i s u x p.w n kind := by
  refine does_sysWord h hi hpriv hp ?_
  rw [hbody]
  exact hb.startJob hid huid p.w.d n kind

/-- A word that only starts a job. -/
theorem starts_only {n : Nat} {kind : JobKind} (h : Issues s p.w p.dst p.comp x) (hi : exec i s = sysWord p priv s body)
    (hpriv : priv = true → (s.at x).priv = true) (hp : p.narrow) (hbody : body x (begun s p x []) = startJob (begun s p x []) x p.w.d n kind) :
    Starts i s s x p.w n kind :=
  starts_of_startJob h hi hpriv hp (.chip rfl p x) rfl rfl hbody

/-- Whatever the chip has become, the job stands last and its result is open. -/
theorem startJob_left (b : State) (x : Ctx) (d : Opd) (n : Nat) (kind : JobKind) : ∃ j ∈ (startJob b x d n kind).jobs, j.kind = kind ∧
    j.core = x.c ∧ j.slot = x.k ∧ j.d = d ∧ OpenLeft x j.res d n ((startJob b x d n kind).at x).results :=
  ⟨_, List.mem_append_right _ (List.mem_singleton_self _), rfl, rfl, rfl, rfl,
    { id := b.nextId, serial := x.serial, lo := b.clk + 2, hi := none, ready := false, wr := [], vs := vdst d n, us := udst d n },
    addResult_mem b.fresh.2 x _, rfl, rfl, rfl, rfl, rfl, rfl, rfl⟩

end

theorem writes_of_uniform {o : Opd} (h : ∃ d, o = .u d) : Opd.writes o = true := by
  obtain ⟨d, rfl⟩ := h
  rfl

/-! ### CTXSAVE and CTXLOAD (R274) -/

section
variable {w : Op} {s : State} {x : Ctx}

theorem ReadsAs.usrc {s s' : State} (h : ReadsAs s s' x) (o : Opd) : usrc s' x o = Machine.usrc s x o := by
  rw [Machine.usrc, h.rd, Machine.usrc]

theorem ReadsAs.usrc64 {s s' : State} (h : ReadsAs s s' x) (o : Opd) : usrc64 s' x o = Machine.usrc64 s x o := by
  rw [Machine.usrc64, h.rd64, Machine.usrc64]

/-- The grid of the unit that CTXSAVE names. -/
def savedGrid (s : State) (x : Ctx) (w : Op) : Nat := usrc s x w.b / 2 ^ 24 % 256

theorem exec_ctxsave (w : Op) (s : State) : ∃ body, exec (.ctxsave w) s = sysWord { w, ra := 2 } true s body ∧ ∀ x,
    let b := begun s { w, ra := 2 } x []
    let g := savedGrid s x w
    let team := usrc s x w.b % 2 ^ 24
    body x b = if !((s.grid g).state == 2 || (s.grid g).state == 3) then giveLong b x w.d 0x80000002
      else if !(unitHalted s (unitOf s g team)) then giveLong b x w.d 0x80000001
      else startJob ((unitOf b g team).foldl (fun s t => wakeLog (shipTeam (drainTeam s t.1 t.2) t.1 t.2) t.1) b) x w.d 1
        (.save g team (usrc64 s x w.a) [] 0 []) := by
  refine ⟨_, show exec (.ctxsave w) s = execCtxsave w s from rfl, fun x => ?_⟩
  have hr := readsAs_begun s { w, ra := 2 } x
  have hhalted := unitHalted_begun s { w, ra := 2 } x
  simp only [hr.usrc, hr.usrc64, hhalted]
  rfl

theorem ctxsave_no_grid (h : Issues s w [] false x) (hpriv : (s.at x).priv = true) (hd : Opd.writes w.d = true)
    (h2 : (s.grid (savedGrid s x w)).state ≠ 2) (h3 : (s.grid (savedGrid s x w)).state ≠ 3) : Answers (.ctxsave w) s s x w 0x80000002 := by
  obtain ⟨body, hi, hbody⟩ := exec_ctxsave w s
  refine answers_only (p := { w, ra := 2 }) h hi (fun _ => hpriv) (.operands w [] (by decide) (by decide)) hd ?_
  rw [hbody]
  exact if_pos (by simp [h2, h3])

theorem ctxsave_running (h : Issues s w [] false x) (hpriv : (s.at x).priv = true) (hd : Opd.writes w.d = true)
    (hg : (s.grid (savedGrid s x w)).state = 2 ∨ (s.grid (savedGrid s x w)).state = 3)
    (hh : unitHalted s (unitOf s (savedGrid s x w) (usrc s x w.b % 2 ^ 24)) = false) : Answers (.ctxsave w) s s x w 0x80000001 := by
  obtain ⟨body, hi, hbody⟩ := exec_ctxsave w s
  refine answers_only (p := { w, ra := 2 }) h hi (fun _ => hpriv) (.operands w [] (by decide) (by decide)) hd ?_
  have hstate : (!((s.grid (savedGrid s x w)).state == 2 || (s.grid (savedGrid s x w)).state == 3)) = false := by
    rcases hg with hg | hg <;> rw [hg] <;> rfl
  rw [hbody]
  simp only [hstate, hh, Bool.false_eq_true, if_false, Bool.not_false, if_true]

theorem ctxsave_saves (h : Issues s w [] false x) (hpriv : (s.at x).priv = true)
    (hg : (s.grid (savedGrid s x w)).state = 2 ∨ (s.grid (savedGrid s x w)).state = 3)
    (hh : unitHalted s (unitOf s (savedGrid s x w) (usrc s x w.b % 2 ^ 24)) = true) : Completes (.ctxsave w) s fun t =>
      ∃ j ∈ t.jobs, j.kind = .save (savedGrid s x w) (usrc s x w.b % 2 ^ 24) (usrc64 s x w.a) [] 0 [] ∧ j.core = x.c ∧ j.slot = x.k ∧
        j.d = w.d ∧ OpenLeft x j.res w.d 1 (t.at x).results := by
  obtain ⟨body, hi, hbody⟩ := exec_ctxsave w s
  have hstate : (!((s.grid (savedGrid s x w)).state == 2 || (s.grid (savedGrid s x w)).state == 3)) = false := by
    rcases hg with hg | hg <;> rw [hg] <;> rfl
  refine ⟨_, exec_sysWord (p := { w, ra := 2 }) h hi fun _ => hpriv, ?_⟩
  simp only [hbody, hstate, hh, Bool.false_eq_true, if_false, Bool.not_true, results_ended]
  exact startJob_left _ x w.d 1 _

theorem ctxload_starts (h : Issues s w [] false x) (hpriv : (s.at x).priv = true) : Starts (.ctxload w) s s x w 1
    (.load (usrc64 s x w.a) (if usrc s x w.b = 0xFFFFFFFF then none else some (usrc s x w.b))) := by
  have hr := readsAs_begun s { w, ra := 2 } x
  refine starts_only (p := { w, ra := 2 }) (priv := true) h (show exec (.ctxload w) s = execCtxload w s from rfl) (fun _ => hpriv)
    (.operands w [] (by decide) (by decide)) ?_
  rw [hr.usrc, hr.usrc64]

/-! ### PREEMPT (R255, R275) -/

/-- The grid that PREEMPT names. -/
def haltedGrid (s : State) (x : Ctx) (w : Op) : Nat := usrc s x w.a % 256

theorem exec_preempt (w : Op) (s : State) : ∃ body, exec (.preempt w) s = sysWord { w } true s body ∧ ∀ x,
    let b := begun s { w } x []
    let p := haltedGrid s x w
    body x b = if (s.grid p).state != 2 || (s.grid p).monitor then giveLong b x w.d 1
      else startJob (if (s.grid p).halting.isEmpty then haltGrid b p else b) x w.d 1 (.preempt p) := by
  refine ⟨_, show exec (.preempt w) s = execPreempt w s from rfl, fun x => ?_⟩
  have hr := readsAs_begun s { w } x
  simp only [hr.usrc]
  rfl

theorem preempt_refused (h : Issues s w [] false x) (hpriv : (s.at x).priv = true) (hd : Opd.writes w.d = true)
    (hg : (s.grid (haltedGrid s x w)).state ≠ 2 ∨ (s.grid (haltedGrid s x w)).monitor = true) : Answers (.preempt w) s s x w 1 := by
  obtain ⟨body, hi, hbody⟩ := exec_preempt w s
  refine answers_only (p := { w }) h hi (fun _ => hpriv) (.operands w [] (by decide) (by decide)) hd ?_
  rw [hbody]
  exact if_pos (by simpa using hg)

theorem mem_halting (s : State) (g c : Nat) :
    c ∈ ((haltGrid s g).grid g).halting ↔ c ∈ s.cores.map (·.1) ∧ slotsOfGrid s g c ≠ [] := by
  rw [haltGrid, grid_modGrid_same]
  simp only [List.mem_map, List.mem_filter, Bool.not_eq_true', List.isEmpty_eq_false_iff]
  constructor
  · rintro ⟨e, ⟨he, hslots⟩, rfl⟩
    exact ⟨⟨e, he, rfl⟩, hslots⟩
  · rintro ⟨⟨e, he, rfl⟩, hslots⟩
    exact ⟨e, ⟨he, hslots⟩, rfl⟩

theorem state_haltGrid {g : Nat} (h : (s.grid g).state = 2) :
    ((haltGrid s g).grid g).state = if ((haltGrid s g).grid g).halting = [] then 3 else 2 := by
  rw [haltGrid, grid_modGrid_same]
  simp only [h, List.isEmpty_iff]

/-- A core that holds crews of a grid has a record. -/
theorem mem_cores_of_slotsOfGrid {g c : Nat} (h : slotsOfGrid s g c ≠ []) : c ∈ s.cores.map (·.1) := by
  by_contra hc
  refine h ?_
  have hcore : s.core c = {} := by rw [State.core, tget_eq_getD, tget?_of_not_mem hc]; rfl
  rw [slotsOfGrid, hcore]
  rfl

/-- A halt is on its way to the cores that hold crews of the grid, in the state in which PREEMPT acts as before. -/
theorem mem_halting_begun (p : Pre) (x : Ctx) (g c : Nat) : c ∈ ((haltGrid (begun s p x []) g).grid g).halting ↔
    c ∈ s.cores.map (·.1) ∧ slotsOfGrid s g c ≠ [] := by
  have hslots : slotsOfGrid (begun s p x []) g c ≠ [] ↔ slotsOfGrid s g c ≠ [] := by
    simp only [ne_eq, List.eq_nil_iff_forall_not_mem, mem_slotsOfGrid_begun]
  have hkeys : c ∈ (begun s p x []).cores.map (·.1) ↔ c = x.c ∨ c = x.c ∨ c ∈ s.cores.map (·.1) :=
    (mem_keys_tset c).trans (or_congr_right (mem_keys_tset c))
  rw [mem_halting, hslots, hkeys]
  exact and_congr_left fun h => iff_of_true (.inr (.inr (mem_cores_of_slotsOfGrid h))) (mem_cores_of_slotsOfGrid h)

theorem preempt_halts (h : Issues s w [] false x) (hpriv : (s.at x).priv = true) (hstate : (s.grid (haltedGrid s x w)).state = 2)
    (hmon : (s.grid (haltedGrid s x w)).monitor = false) (hnone : (s.grid (haltedGrid s x w)).halting = []) :
    let p := haltedGrid s x w
    ∃ u, Starts (.preempt w) s u x w 1 (.preempt p) ∧ { u with grids := s.grids } = s ∧ (∀ g, g ≠ p → u.grid g = s.grid g) ∧
      (∀ c, c ∈ (u.grid p).halting ↔ c ∈ s.cores.map (·.1) ∧ slotsOfGrid s p c ≠ []) ∧
      (u.grid p).state = if (u.grid p).halting = [] then 3 else 2 := by
  intro p
  obtain ⟨body, hi, hbody⟩ := exec_preempt w s
  have hb := BegunOnto.chip (s := s) (u := { s with grids := (haltGrid (begun s { w } x []) p).grids }) rfl { w } x
  refine ⟨_, starts_of_startJob (p := { w }) h hi (fun _ => hpriv) (.operands w [] (by decide) (by decide)) hb rfl rfl ?_, rfl, fun g hg => ?_,
    fun c => mem_halting_begun { w } x p c, ?_⟩
  · rw [hbody, hstate, hmon, hnone]
    rfl
  · exact tget_tset_ne _ _ _ hg
  · exact state_haltGrid (s := begun s { w } x []) hstate

/-- The crews at these slots of a core have halted, and no other crew differs (R255). -/
structure CrewsHalt (c : Nat) (ks : List Nat) (s t : State) : Prop where
  halted : ∀ k ∈ ks, (t.crew c k).halted = true
  others : ∀ k, k ∉ ks → t.crew c k = s.crew c k
  cores : ∀ d, d ≠ c → t.core d = s.core d
  grids : t.grids = s.grids

/-- Messages to hosts change no core and no grid. -/
theorem toHosts_rest (s : State) (c k : Nat) (body : HostRec → Body) :
    ∃ notes nextId, s.nextId ≤ nextId ∧ toHosts s c k body = { s with notes, nextId } := by
  rw [toHosts]
  exact List.foldlRecOn (motive := fun t : State => ∃ notes nextId, s.nextId ≤ nextId ∧ t = { s with notes, nextId }) _ _
    ⟨_, _, Nat.le_refl _, rfl⟩ fun t ht h _ => by
    obtain ⟨notes, nextId, hle, rfl⟩ := ht
    exact ⟨_, _, Nat.le_succ_of_le hle, rfl⟩

theorem CrewsHalt.toHosts {c : Nat} {ks : List Nat} {s t : State} (h : CrewsHalt c ks s t) (k : Nat) (body : HostRec → Body) :
    CrewsHalt c ks s (Machine.toHosts t c k body) := by
  obtain ⟨notes, n, -, e⟩ := toHosts_rest t c k body
  obtain ⟨hhalted, hothers, hcores, hgrids⟩ := h
  rw [e]
  exact ⟨hhalted, hothers, hcores, hgrids⟩

theorem haltCrew_halts (c : Nat) (s : State) (k : Nat) : CrewsHalt c [k] s (haltCrew c s k) := by
  rw [haltCrew]
  split
  next hk => exact ⟨fun j hj => List.mem_singleton.1 hj ▸ hk, fun _ _ => rfl, fun _ _ => rfl, rfl⟩
  next =>
    have hmod : CrewsHalt c [k] s (s.modCrew c k (fun w => { w with halted := true })) := by
      refine ⟨fun j hj => ?_, fun j hj => ?_, fun d hd => ?_, rfl⟩
      · rw [List.mem_singleton.1 hj, crew_modCrew_same]
      · have hne : j ≠ k := fun h => hj (List.mem_singleton.2 h)
        simp [hne]
      · rw [core_modCrew_ne _ _ _ hd]
    simp only
    split
    · exact hmod
    · exact hmod.toHosts k _

theorem CrewsHalt.append {c : Nat} {a b : List Nat} {s t u : State} (h : CrewsHalt c a s t) (g : CrewsHalt c b t u) :
    CrewsHalt c (a ++ b) s u := by
  refine ⟨fun k hk => ?_, fun k hk => ?_, fun d hd => (g.cores d hd).trans (h.cores d hd), g.grids.trans h.grids⟩
  · by_cases hb : k ∈ b
    · exact g.halted k hb
    · rw [g.others k hb]
      exact h.halted k ((List.mem_append.1 hk).resolve_right hb)
  · obtain ⟨ha, hb⟩ := not_or.1 (mt List.mem_append.2 hk)
    exact (g.others k hb).trans (h.others k ha)

theorem foldl_haltCrew (c : Nat) (ks : List Nat) (s : State) : CrewsHalt c ks s (ks.foldl (haltCrew c) s) := by
  induction ks generalizing s with
  | nil => exact ⟨fun _ hk => absurd hk List.not_mem_nil, fun _ _ => rfl, fun _ _ => rfl, rfl⟩
  | cons k ks ih => exact (haltCrew_halts c s k).append (ih _)

/-- A halt reaches a core: the crews of the grid there stop, and STATE is 3 once no core is left (R255). -/
theorem preemptHalt_halts {c g : Nat} (h : c ∈ (s.grid g).halting) : Completes (.preemptHalt c g) s fun t =>
      (∀ k ∈ slotsOfGrid s g c, (t.crew c k).halted = true) ∧ (∀ k, k ∉ slotsOfGrid s g c → t.crew c k = s.crew c k) ∧
      (∀ d, d ≠ c → t.core d = s.core d) ∧ (t.grid g).halting = (s.grid g).halting.filter (· ≠ c) ∧
      (t.grid g).state = if (∀ d ∈ (s.grid g).halting, d = c) ∧ (s.grid g).state = 2 then 3 else (s.grid g).state := by
  have hi : exec (.preemptHalt c g) s = execPreemptHalt c g s := rfl
  obtain ⟨hhalted, hothers, hcores, hgrids⟩ := foldl_haltCrew c (slotsOfGrid s g c) s
  rw [execPreemptHalt, if_neg (by simpa using h)] at hi
  refine ⟨_, hi, hhalted, hothers, hcores, ?_, ?_⟩
  · rw [grid_modGrid_same, grid_of_grids hgrids]
    exact List.filter_congr fun d _ => by rw [bne, beq_eq_decide, decide_not]
  · rw [grid_modGrid_same, grid_of_grids hgrids]
    simp

end

/-- Settles O36. -/
theorem gridWords : Obligations.GridWords := by
  intro w s x ha hb hc k
  refine ⟨fun h hpriv h0 h1 i hi => (privileged_words w s i hi).refuses ⟨ha, hb, hc⟩ h hpriv h0 h1, fun h => ?_,
    fun h hconv => ⟨heatend_parks h hconv, heatend_traps h hconv⟩, fun h hpriv hd => ?_, fun c g => preemptHalt_halts⟩
  · exact List.forall_mem_cons.2 ⟨launch_orders rfl h, List.forall_mem_singleton.2 (launch_orders rfl h)⟩
  · have hw := writes_of_uniform hd
    exact ⟨ctxsave_no_grid h hpriv hw, ctxsave_running h hpriv hw, ctxsave_saves h hpriv, ctxload_starts h hpriv, preempt_refused h hpriv hw,
      preempt_halts h hpriv⟩

end Sys2Proof.Machine

/-! ## Freezing (R259, R275) -/

namespace Sys2Proof.Machine

section
variable {s : State} {x : Ctx} {w : Op}

/-! ### Targets -/

/-- A descriptor that names something (R275). -/
def goodTarget (d : Nat) (grid : Bool) : Bool :=
  bf d 8 8 == 0 && (grid || (if bf d 30 2 ≤ 1 then bf d 22 8 ≤ 191 else if bf d 30 2 = 2 then bf d 0 8 ≤ 46 else bf d 0 8 ≤ 191))

theorem bad_targetOf (d : Nat) (grid : Bool) : (targetOf d grid).bad = !(goodTarget d grid) := by
  have hle (a n : Nat) : decide (n < a) = !decide (a ≤ n) := by rw [← decide_not]; exact decide_eq_decide.2 Nat.not_le.symm
  cases grid with
  | true => simp [targetOf, goodTarget, bne]
  | false =>
    simp only [targetOf, goodTarget, Bool.false_or, Bool.false_eq_true, if_false, bne, Bool.not_and]
    refine congrArg _ ?_
    split
    · exact hle _ _
    · split <;> exact hle _ _

/-- The crew that a descriptor names, if it is there. -/
theorem targetCrews_crew {d : Nat} (hkind : bf d 30 2 = 0) (s : State) : targetCrews s (targetOf d false) false =
    if (s.crew (bf d 22 8) (bf d 16 6)).st = .resident then [(bf d 22 8, bf d 16 6)] else [] := by
  simp [targetCrews, targetOf, hkind]

theorem mem_targetCrews_grid {d c k : Nat} (h : k ∈ slotsOfGrid s (bf d 0 8) c) : (c, k) ∈ targetCrews s (targetOf d true) true := by
  obtain ⟨e, he, rfl⟩ := List.mem_map.1 (mem_cores_of_slotsOfGrid (List.ne_nil_of_mem h))
  exact List.mem_flatMap.2 ⟨e, he, List.mem_map.2 ⟨k, h, rfl⟩⟩

/-! ### Changes of a core that leave its seats alone -/

section
variable {c : Nat} {f : Core → Core}

theorem OnlyCrew.modCore {t : State} (h : OnlyCrew s t x) (hf : ∀ o slots busy, f { o with slots, busy } = { f o with slots, busy }) :
    OnlyCrew (s.modCore c f) (t.modCore c f) x := by
  have hs (o : Core) : (f o).slots = o.slots := (congrArg Core.slots (hf o o.slots o.busy) :)
  obtain ⟨hrest, hcores, hcore, hslots⟩ := h
  refine ⟨congrArg (fun u : State => { u with cores := (s.modCore c f).cores }) hrest, fun d hd => ?_, ?_, fun k hk => ?_⟩
  · by_cases hdc : d = c
    · rw [hdc, core_modCore_same, core_modCore_same, hcores c (hdc ▸ hd)]
    · rw [core_modCore_ne _ _ hdc, core_modCore_ne _ _ hdc, hcores d hd]
  · by_cases hxc : x.c = c
    · rw [← hxc, core_modCore_same, core_modCore_same]
      have e := hf (t.core x.c) (s.core x.c).slots (s.core x.c).busy
      rw [hcore] at e
      rw [e]
    · rw [core_modCore_ne _ _ hxc, core_modCore_ne _ _ hxc, hcore]
  · rw [crew_modCore_of_slots f hs, crew_modCore_of_slots f hs, hslots k hk]

/-- What is done to a core is done to it in the state in which a word acts as before. -/
theorem BegunOnto.modCore (s : State) (p : Pre) (x : Ctx) (hf : ∀ o slots busy, f { o with slots, busy } = { f o with slots, busy }) :
    BegunOnto s (s.modCore c f) ((begun s p x []).modCore c f) x := by
  have hs (o : Core) : (f o).slots = o.slots := (congrArg Core.slots (hf o o.slots o.busy) :)
  have hat (t : State) : (t.modCore c f).at x = t.at x := crew_modCore_of_slots f hs ..
  refine ⟨(OnlyCrew.begun s p x).modCore hf, ?_, fun l => ?_, ?_⟩
  · rw [hat, hat]
    exact keeps_begun s p x []
  · rw [hat]
    exact pcOf_begun s p x l
  · rw [hat]
    exact results_begun s p x

end

/-! ### FREEZE -/

theorem crew_modCrew_ne (s : State) (f : Crew → Crew) {c k : Nat} {e : Nat × Nat} (h : (c, k) ≠ e) :
    (s.modCrew e.1 e.2 f).crew c k = s.crew c k := by
  by_cases hc : c = e.1
  · have hk : k ≠ e.2 := fun hk => h (Prod.ext hc hk)
    rw [hc, crew_modCrew_slot s e.1 f hk]
  · exact crew_modCrew_core s e.2 k f hc

/-- A crew freezes at the monitor's word (R259); the monitor itself takes the chip down (R247). -/
def freezeOne (s : State) (e : Nat × Nat) : State := monitorDown (s.modCrew e.1 e.2 (fun k => { k with frozen := true })) e.1 e.2

/-- What FREEZE makes of the chip. -/
def freezeTarget (s : State) (t : Target) (grid : Bool) : State :=
  if t.bad then s
  else if grid || t.kind = 0 then (targetCrews s t grid).foldl freezeOne s
  else if t.kind = 1 then s.modCore t.core (fun o => { o with copyFrozen := true })
  else if t.kind = 2 then s.modPort t.unit (fun p => { p with frozen := true })
  else s.modEngine t.unit (fun e => { e with frozen := true })

theorem exec_freeze (w : Op) (s : State) : ∃ body, exec (.freeze w) s = sysWord { w } true s body ∧ ∀ x,
    body x (begun s { w } x []) = freezeTarget (begun s { w } x []) (targetOf (usrc s x w.a) (w.mb 0)) (w.mb 0) := by
  refine ⟨_, show exec (.freeze w) s = execFreeze w s from rfl, fun x => ?_⟩
  rw [(readsAs_begun s { w } x).usrc]
  rfl

theorem frozen_freezeOne (s : State) (e : Nat × Nat) (c k : Nat) :
    ((freezeOne s e).crew c k).frozen = true ↔ (c, k) = e ∨ (s.crew c k).frozen = true := by
  have hcrew : (freezeOne s e).crew c k = (s.modCrew e.1 e.2 (fun k => { k with frozen := true })).crew c k := by
    rw [freezeOne, monitorDown]
    split <;> rfl
  rw [hcrew]
  by_cases he : (c, k) = e
  · subst he
    rw [crew_modCrew_same]
    simp
  · rw [crew_modCrew_ne s _ he, or_iff_right he]

theorem frozen_foldl_freezeOne {l : List (Nat × Nat)} {c k : Nat} (h : (c, k) ∈ l ∨ (s.crew c k).frozen = true) :
    ((l.foldl freezeOne s).crew c k).frozen = true := by
  induction l generalizing s with
  | nil => exact h.resolve_left List.not_mem_nil
  | cons e l ih =>
    refine ih ?_
    rw [frozen_freezeOne, or_left_comm, ← or_assoc]
    exact h.imp_left List.mem_cons.1

theorem freezeTarget_copy {d : Nat} (hgood : goodTarget d false = true) (hkind : bf d 30 2 = 1) (s : State) :
    freezeTarget s (targetOf d false) false = s.modCore (bf d 22 8) (fun o => { o with copyFrozen := true }) := by
  rw [freezeTarget, bad_targetOf, hgood]
  simp [targetOf, hkind]

theorem freezeTarget_port {d : Nat} (hgood : goodTarget d false = true) (hkind : bf d 30 2 = 2) (s : State) :
    freezeTarget s (targetOf d false) false = s.modPort (bf d 0 8) (fun p => { p with frozen := true }) := by
  rw [freezeTarget, bad_targetOf, hgood]
  simp [targetOf, hkind]

theorem freezeTarget_apply {d : Nat} (hgood : goodTarget d false = true) (hkind : bf d 30 2 = 3) (s : State) :
    freezeTarget s (targetOf d false) false = s.modEngine (bf d 0 8) (fun e => { e with frozen := true }) := by
  rw [freezeTarget, bad_targetOf, hgood]
  simp [targetOf, hkind]

/-- Ending a word leaves every crew frozen or not. -/
theorem frozen_ended (u : State) (p : Pre) (x : Ctx) (old : Crew) (c k : Nat) :
    ((ended p x old u).crew c k).frozen = (u.crew c k).frozen := by
  by_cases he : (c, k) = (x.c, x.k)
  · obtain ⟨rfl, rfl⟩ := Prod.mk.inj he
    obtain ⟨a, v, r, q, hend⟩ := at_ended_rest u p x old
    have e := congrArg Crew.frozen hend
    exact e
  · exact congrArg Crew.frozen (crew_modCrew_ne u _ he)

section
variable (h : Issues s w [] false x) (hpriv : (s.at x).priv = true)
include h hpriv

theorem freeze_bad (hbad : goodTarget (usrc s x w.a) (w.mb 0) = false) : Does (.freeze w) s s x w (NoneLeft s x) := by
  obtain ⟨body, hi, hbody⟩ := exec_freeze w s
  refine does_sysWord (p := { w }) h hi (fun _ => hpriv) (.operands w [] (by decide) (by decide)) ?_
  rw [hbody, freezeTarget, bad_targetOf, hbad]
  exact (BegunOnto.chip rfl _ x).acted

/-- A unit other than a crew. -/
theorem freeze_engine {u : State} (hgrid : w.mb 0 = false)
    (hu : BegunOnto s u (freezeTarget (begun s { w } x []) (targetOf (usrc s x w.a) false) false) x) :
    Does (.freeze w) s u x w (NoneLeft s x) := by
  obtain ⟨body, hi, hbody⟩ := exec_freeze w s
  refine does_sysWord (p := { w }) h hi (fun _ => hpriv) (.operands w [] (by decide) (by decide)) ?_
  rw [hbody, hgrid]
  exact hu.acted

/-- Crews that stand among the targets as the word acts. -/
theorem freeze_crews (hgood : goodTarget (usrc s x w.a) (w.mb 0) = true) (hkind : w.mb 0 = true ∨ bf (usrc s x w.a) 30 2 = 0)
    {Q : Nat → Nat → Prop} (hQ : ∀ c k, Q c k → (c, k) ∈ targetCrews (begun s { w } x []) (targetOf (usrc s x w.a) (w.mb 0)) (w.mb 0)) :
    Completes (.freeze w) s fun t => ∀ c k, Q c k → (t.crew c k).frozen = true := by
  obtain ⟨body, hi, hbody⟩ := exec_freeze w s
  refine ⟨_, exec_sysWord (p := { w }) h hi fun _ => hpriv, fun c k hq => ?_⟩
  have hcrews : (w.mb 0 || decide ((targetOf (usrc s x w.a) (w.mb 0)).kind = 0)) = true := by
    rw [Bool.or_eq_true, decide_eq_true_eq]
    exact hkind
  rw [frozen_ended, hbody, freezeTarget, bad_targetOf, hgood]
  simp only [Bool.not_true, Bool.false_eq_true, if_false, hcrews, if_true]
  exact frozen_foldl_freezeOne (.inl (hQ c k hq))

end

end

end Sys2Proof.Machine

/-! ## Thawing (R276) -/

namespace Sys2Proof.Machine

section
variable {i : Instr} {action : Nat} {w : Op} {s : State} {x : Ctx}

/-- The descriptor in A, and the lanes in B. -/
def thawDesc (s : State) (x : Ctx) (w : Op) : Nat := usrc s x w.a
def thawLanes (s : State) (x : Ctx) (w : Op) : Mask := BitVec.ofNat 32 (usrc s x w.b)

/-- The seat of the crew that the descriptor names, and the crew. -/
def thawSeat (s : State) (x : Ctx) (w : Op) : Nat × Nat := (bf (thawDesc s x w) 22 8, bf (thawDesc s x w) 16 6)
def thawCrew (s : State) (x : Ctx) (w : Op) : Crew := s.crew (thawSeat s x w).1 (thawSeat s x w).2

/-- The lanes of a crew that THAW.retry unparks. -/
def retryLanes (action : Nat) (m : Mask) (k : Crew) : List Nat := if action = 1 then faultLanesOf k m else []

/-- The crews that THAW.resume and THAW.retry change, and those that THAW.trap does. -/
def resumable (action : Nat) (m : Mask) (k : Crew) : Bool := k.stopped || !(retryLanes action m k).isEmpty
def trappable (m : Mask) (k : Crew) : Bool := !(faultLanesOf k m).isEmpty

def resumeOne (action : Nat) (m : Mask) (s : State) (e : Nat × Nat) : State :=
  (resumeCrew s e.1 e.2).modCrew e.1 e.2 (forLanes (maskOf (retryLanes action m (s.crew e.1 e.2))) (fun l k => k.setPark l .no))

/-- THAW.end for a target that may name a grid. -/
def thawEnded (s : State) (x : Ctx) (d : Opd) : Option Nat → State
  | some g => startJob (endGrid s g) x d 1 (.thawEnd g)
  | none => giveLong s x d 1

/-- What THAW makes of the state in which it acts. -/
def thawed (s : State) (x : Ctx) (w : Op) (action d : Nat) (m : Mask) : State :=
  let grid := w.mb 2
  let t := targetOf d grid
  let crews := targetCrews s t grid
  let engine := !grid && t.kind != 0
  if t.bad || (engine && action = 3) then giveLong s x w.d 3
  else if action = 3 then thawEnded s x w.d (endTarget s t grid)
  else if engine then
    if action < 2 && engineFrozen s t then giveLong (thawEngine s t) x w.d 0 else giveLong s x w.d 1
  else if action < 2 then
    let hit := crews.filter (fun e => resumable action m (s.crew e.1 e.2))
    giveLong (hit.foldl (resumeOne action m) s) x w.d (b2n hit.isEmpty)
  else
    let hit := crews.filter (fun e => trappable m (s.crew e.1 e.2))
    let no := hit.filter (fun e => (s.crew e.1 e.2).trapent == 0xFFFFFFFF)
    let yes := hit.filter (fun e => (s.crew e.1 e.2).trapent != 0xFFFFFFFF)
    giveLong (yes.foldl (fun s e => thawTraps s e.1 e.2 (faultLanesOf (s.crew e.1 e.2) m)) s) x w.d (if hit.isEmpty then 1 else if no.isEmpty then 0 else 2)

theorem exec_thaw (hi : exec i s = thawWord w action s) : ∃ body, exec i s = sysWord { w } true s body ∧ ∀ x,
    body x (begun s { w } x []) = thawed (begun s { w } x []) x w action (thawDesc s x w) (thawLanes s x w) := by
  refine ⟨_, hi, fun x => ?_⟩
  rw [thawDesc, thawLanes, ← (readsAs_begun s { w } x).usrc, ← (readsAs_begun s { w } x).usrc]
  rfl

variable (h : Issues s w [] false x) (hpriv : (s.at x).priv = true) (hd : Opd.writes w.d = true) (hi : exec i s = thawWord w action s)
include h hpriv hd hi

theorem thaw_answers {v : Nat} (hv : thawed (begun s { w } x []) x w action (thawDesc s x w) (thawLanes s x w) =
    giveLong (begun s { w } x []) x w.d v) : Answers i s s x w v := by
  obtain ⟨body, hi, hbody⟩ := exec_thaw hi
  exact answers_only (p := { w }) h hi (fun _ => hpriv) (.operands w [] (by decide) (by decide)) hd ((hbody x).trans hv)

theorem thaw_bad (hbad : goodTarget (thawDesc s x w) (w.mb 2) = false) : Answers i s s x w 3 := by
  refine thaw_answers h hpriv hd hi ?_
  simp only [thawed, bad_targetOf, hbad, Bool.not_false, Bool.true_or, if_true]

theorem thaw_end_engine (hgrid : w.mb 2 = false) (hkind : bf (thawDesc s x w) 30 2 ≠ 0) (hact : action = 3) : Answers i s s x w 3 := by
  refine thaw_answers h hpriv hd hi ?_
  subst hact
  have hengine : ((targetOf (thawDesc s x w) false).kind != 0) = true := bne_iff_ne.2 hkind
  simp only [thawed, hgrid, hengine, Bool.not_false, Bool.and_self, decide_true, Bool.or_true, if_true]

/-- A copy engine, port or apply engine that is frozen. -/
theorem thaw_engine {u : State} (hgood : goodTarget (thawDesc s x w) false = true) (hgrid : w.mb 2 = false)
    (hkind : bf (thawDesc s x w) 30 2 ≠ 0) (hact : action < 2)
    (hfrozen : engineFrozen (begun s { w } x []) (targetOf (thawDesc s x w) false) = true)
    (hu : BegunOnto s u (thawEngine (begun s { w } x []) (targetOf (thawDesc s x w) false)) x) : Answers i s u x w 0 := by
  obtain ⟨body, hi, hbody⟩ := exec_thaw hi
  have hid : (thawEngine (begun s { w } x []) (targetOf (thawDesc s x w) false)).nextId = s.nextId := by
    rw [thawEngine]
    simp only [apply_ite State.nextId]
    simp [State.modPort, State.modEngine]
  refine answers_of_giveLong (p := { w }) h hi (fun _ => hpriv) (.operands w [] (by decide) (by decide)) hd hu (Nat.le_of_eq hid.symm) ?_
  have hengine : ((targetOf (thawDesc s x w) false).kind != 0) = true := bne_iff_ne.2 hkind
  have h3 : action ≠ 3 := by omega
  rw [hbody]
  simp only [thawed, hgrid, hengine, bad_targetOf, hgood, h3, hact, hfrozen, Bool.not_true, Bool.not_false, Bool.and_false, Bool.and_self,
    Bool.or_self, Bool.false_eq_true, if_false, if_true, decide_true, decide_false]

end

/-! ### A crew as the target -/

theorem OnlyCrew.crew_ne {s t : State} {x : Ctx} (h : OnlyCrew s t x) {c k : Nat} (hne : (c, k) ≠ (x.c, x.k)) : t.crew c k = s.crew c k := by
  by_cases hc : c = x.c
  · subst hc
    exact h.slots k fun hk => hne (hk ▸ rfl)
  · rw [State.crew, h.cores c hc]
    rfl

/-- No lane of a core waits for its log. -/
structure LogQuiet (s : State) (c : Nat) : Prop where
  parks : ¬ ∃ e ∈ (s.core c).slots, ∃ p ∈ e.2.park, p.2 = .log
  reqs : ∀ r ∈ s.reqs, r.core = c → r.stage = .ready → r.defers = false

theorem wakeLog_quiet {s : State} {c : Nat} (h : LogQuiet s c) : wakeLog s c = s := by
  obtain ⟨hparks, hreqs⟩ := h
  refine if_neg ?_
  simp only [Bool.or_eq_true, List.any_eq_true, beq_iff_eq, Bool.and_eq_true, not_or]
  refine ⟨fun ⟨e, he, p, hp, hlog⟩ => hparks ⟨e, he, p, hp, hlog⟩, ?_⟩
  rintro ⟨r, hr, ⟨hc, hready⟩, hdefers⟩
  rw [hreqs r hr hc hready] at hdefers
  exact Bool.false_ne_true hdefers

theorem LogQuiet.begun {s : State} {c : Nat} (h : LogQuiet s c) (p : Pre) (x : Ctx) : LogQuiet (Machine.begun s p x []) c :=
  ⟨fun hlog => h.parks ((exists_slot_begun s p x (Q := fun _ w => ∃ p ∈ w.park, p.2 = .log) (fun _ _ _ => .rfl) (by simp) c).1 hlog), h.reqs⟩

theorem LogQuiet.modCrew {s : State} {c k : Nat} {f : Crew → Crew} (h : LogQuiet s c) (hf : ∀ w, (f w).park = w.park) :
    LogQuiet (s.modCrew c k f) c := by
  refine ⟨fun hlog => h.parks ?_, h.reqs⟩
  rw [core_modCrew_same] at hlog
  refine (exists_mem_tset (d := {}) (t := (s.core c).slots) (k := k) (Q := fun _ w => ∃ p ∈ w.park, p.2 = .log) ?_ (by simp)).1 hlog
  rw [hf]
  rfl

/-- A crew that runs again: messages to its hosts, the state of its grid, and of the crew the stop and no more. -/
theorem resumeCrew_quiet {s : State} {c : Nat} (h : LogQuiet s c) (k : Nat) : ∃ notes nextId grids, s.nextId ≤ nextId ∧ resumeCrew s c k =
    { s.modCrew c k (fun w => { w with halted := false, frozen := false, haltedAway := 0 }) with notes, nextId, grids } := by
  obtain ⟨notes, nextId, hle, e⟩ : ∃ notes nextId, s.nextId ≤ nextId ∧
      (if (s.crew c k).halted && (s.crew c k).guest.isNone then toHosts s c k (fun h => .resume s.chipid c k c k h.core h.slot) else s) =
        { s with notes, nextId } := by
    split
    · exact toHosts_rest s c k _
    · exact ⟨_, _, Nat.le_refl _, rfl⟩
  have hquiet : LogQuiet { s with notes, nextId } c := ⟨h.parks, h.reqs⟩
  have hwake := wakeLog_quiet (hquiet.modCrew (k := k) (f := fun w => { w with halted := false, frozen := false, haltedAway := 0 }) fun _ => rfl)
  rw [resumeCrew]
  simp only [e, hwake]
  split
  · exact ⟨_, _, _, hle, rfl⟩
  · exact ⟨_, _, _, hle, rfl⟩

section
variable {i : Instr} {action : Nat} {w : Op} {s b : State} {x : Ctx} {d : Nat} {m : Mask}

/-- THAW of a crew, by its action. -/
theorem thawed_crew (hgood : goodTarget d false = true) (hgrid : w.mb 2 = false) (hkind : bf d 30 2 = 0) :
    thawed b x w action d m =
      let crews := targetCrews b (targetOf d false) false
      if action = 3 then thawEnded b x w.d (endTarget b (targetOf d false) false)
      else if action < 2 then giveLong ((crews.filter (fun e => resumable action m (b.crew e.1 e.2))).foldl (resumeOne action m) b) x w.d
        (b2n (crews.filter (fun e => resumable action m (b.crew e.1 e.2))).isEmpty)
      else
        let hit := crews.filter (fun e => trappable m (b.crew e.1 e.2))
        giveLong ((hit.filter (fun e => (b.crew e.1 e.2).trapent != 0xFFFFFFFF)).foldl
          (fun s e => thawTraps s e.1 e.2 (faultLanesOf (s.crew e.1 e.2) m)) b) x w.d
          (if hit.isEmpty then 1 else if (hit.filter (fun e => (b.crew e.1 e.2).trapent == 0xFFFFFFFF)).isEmpty then 0 else 2) := by
  have hkind' : ((targetOf d false).kind != 0) = false := by rw [bne_eq_false_iff_eq]; exact hkind
  simp only [thawed, hgrid, hkind', bad_targetOf, hgood, Bool.not_true, Bool.and_false, Bool.false_and,
    Bool.or_self, Bool.false_eq_true, if_false]

variable (h : Issues s w [] false x) (hpriv : (s.at x).priv = true) (hd : Opd.writes w.d = true) (hi : exec i s = thawWord w action s)
  (hgood : goodTarget (thawDesc s x w) false = true) (hgrid : w.mb 2 = false) (hkind : bf (thawDesc s x w) 30 2 = 0)
include h hpriv hd hi hgood hgrid hkind

/-- A crew that is not there. -/
theorem thaw_absent (hst : (s.crew (bf (thawDesc s x w) 22 8) (bf (thawDesc s x w) 16 6)).st ≠ .resident) : Answers i s s x w 1 := by
  refine thaw_answers h hpriv hd hi ?_
  have hcrews : targetCrews (begun s { w } x []) (targetOf (thawDesc s x w) false) false = [] := by
    rw [targetCrews_crew hkind, st_begun, if_neg hst]
  have hnone : endTarget (begun s { w } x []) (targetOf (thawDesc s x w) false) false = none := by
    rw [endTarget, hcrews]
    rfl
  rw [thawed_crew hgood hgrid hkind, hcrews, hnone]
  by_cases h3 : action = 3
  · exact if_pos h3
  · simp only [h3, if_false, List.filter_nil, List.foldl_nil, List.isEmpty_nil, if_true, b2n, ite_self]

end

/-! ### Crews that run again -/

/-- The crew at a seat has become `k`; every other crew is as it was. -/
structure OneCrew (e : Nat × Nat) (k : Crew) (s t : State) : Prop where
  crew : t.crew e.1 e.2 = k
  others : ∀ j, j ≠ e → t.crew j.1 j.2 = s.crew j.1 j.2
  nextId : s.nextId ≤ t.nextId

theorem OneCrew.modCrew (s : State) (e : Nat × Nat) (f : Crew → Crew) : OneCrew e (f (s.crew e.1 e.2)) s (s.modCrew e.1 e.2 f) :=
  ⟨crew_modCrew_same s e.1 e.2 f, fun _ hj => crew_modCrew_ne s f hj, Nat.le_refl _⟩

theorem OneCrew.trans {e : Nat × Nat} {k k' : Crew} {s t u : State} (h : OneCrew e k s t) (g : OneCrew e k' t u) : OneCrew e k' s u :=
  ⟨g.crew, fun j hj => (g.others j hj).trans (h.others j hj), Nat.le_trans h.nextId g.nextId⟩

theorem parkOf_unparked (ls : Mask) (k : Crew) (l : Nat) :
    (forLanes ls (fun l k => k.setPark l .no) k).parkOf l = if l ∈ lanesOf ls then .no else k.parkOf l := foldl_setPark .no (lanesOf ls) k l

theorem resumeOne_resumes {s : State} {e : Nat × Nat} (h : LogQuiet s e.1) (action : Nat) (m : Mask) :
    ∃ k, OneCrew e k s (resumeOne action m s e) ∧ k.halted = false ∧ k.frozen = false ∧
      ∀ l, k.parkOf l = if l ∈ retryLanes action m (s.crew e.1 e.2) then .no else (s.crew e.1 e.2).parkOf l := by
  obtain ⟨notes, nextId, grids, hle, hres⟩ := resumeCrew_quiet h e.2
  have hone : OneCrew e { s.crew e.1 e.2 with halted := false, frozen := false, haltedAway := 0 } s (resumeCrew s e.1 e.2) := by
    obtain ⟨hcrew, hothers, -⟩ := OneCrew.modCrew s e (fun w => { w with halted := false, frozen := false, haltedAway := 0 })
    rw [hres]
    exact ⟨hcrew, hothers, hle⟩
  have hlanes : lanesOf (maskOf (retryLanes action m (s.crew e.1 e.2))) = retryLanes action m (s.crew e.1 e.2) := by
    rw [retryLanes]
    split
    · exact lanesOf_maskOf_filter m _
    · rfl
  have hthen := hone.trans (.modCrew (resumeCrew s e.1 e.2) e (forLanes (maskOf (retryLanes action m (s.crew e.1 e.2))) (fun l k => k.setPark l .no)))
  obtain ⟨park, hpark⟩ := foldl_setPark_rest .no (lanesOf (maskOf (retryLanes action m (s.crew e.1 e.2)))) ((resumeCrew s e.1 e.2).crew e.1 e.2)
  refine ⟨_, hthen, ?_, ?_, fun l => ?_⟩
  · rw [forLanes, hpark, hone.crew]
  · rw [forLanes, hpark, hone.crew]
  · rw [parkOf_unparked, hlanes, hone.crew]
    rfl

/-! ### Lanes that are sent to their handler -/

/-- THAW.trap for one lane: it traps with what its fault record holds (R253). -/
def thawLane (e : Nat × Nat) (s : State) (l : Nat) : State :=
  let w := s.crew e.1 e.2
  let f : FaultRec := tget { cause := 0 } w.faults l
  trapLane (s.modCrew e.1 e.2 (fun w => w.setPark l .no)) e.1 e.2 (w.pcOf l) f.len { lane := l, cause := f.cause, code := f.code, addr := f.addr, word := f.word }

/-- What is left of a crew of which some lanes have been sent to their handler. -/
structure LanesThawed (ls : List Nat) (k k' : Crew) : Prop where
  trapent : k'.trapent = k.trapent
  lane : ∀ l ∈ ls, k'.pcOf l = codeAt k.trapent ∧ tget 0 k'.trappc l = (k.pcOf l).addr ∧
    bf (tget 0 k'.trapinfo l).toNat 0 8 = (tget { cause := 0 } k.faults l).cause % 256
  others : ∀ l, l ∉ ls → k'.pcOf l = k.pcOf l ∧ k'.parkOf l = k.parkOf l ∧ tget 0 k'.trapinfo l = tget 0 k.trapinfo l ∧
    tget 0 k'.trappc l = tget 0 k.trappc l ∧ tget { cause := 0 } k'.faults l = tget { cause := 0 } k.faults l

/-- The cause stands in the low bits of TRAPINFO (R235). -/
theorem bf_trapInfo (len code cause : Nat) : bf (trapInfo len code cause).toNat 0 8 = cause % 256 := by
  rw [bf_zero, trapInfo]
  have hn : (w32 (2 ^ 31 + len % 4 * 2 ^ 24 + code % 256 * 2 ^ 16 + cause % 256)).toNat = 2 ^ 31 + len % 4 * 2 ^ 24 + code % 256 * 2 ^ 16 + cause % 256 := by
    refine (BitVec.toNat_ofNat _ _).trans (Nat.mod_eq_of_lt ?_)
    omega
  omega

theorem thawLane_traps {s : State} {e : Nat × Nat} {l : Nat} (hent : (s.crew e.1 e.2).trapent ≠ 0xFFFFFFFF)
    (hin : inTrap (tget 0 (s.crew e.1 e.2).trapinfo l) = false) :
    ∃ k, OneCrew e k s (thawLane e s l) ∧ LanesThawed [l] (s.crew e.1 e.2) k := by
  have hcrew := crew_modCrew_same s e.1 e.2 (fun w => w.setPark l .no)
  have hc : (inTrap (tget 0 ((s.modCrew e.1 e.2 (fun w => w.setPark l .no)).crew e.1 e.2).trapinfo l) ||
      ((s.modCrew e.1 e.2 (fun w => w.setPark l .no)).crew e.1 e.2).trapent == 0xFFFFFFFF) = false := by
    rw [hcrew, Bool.or_eq_false_iff, beq_eq_false_iff_ne]
    exact ⟨hin, hent⟩
  rw [thawLane, trapLane]
  simp only [hc, Bool.false_eq_true, if_false]
  refine ⟨_, (OneCrew.modCrew s e _).trans (.modCrew _ e _), ?_, fun j hj => ?_, fun j hj => ?_⟩
  · rw [hcrew]
    rfl
  · obtain rfl := List.mem_singleton.1 hj
    rw [hcrew]
    simp only [Crew.pcOf, tget_tset_same, bf_trapInfo, and_true]
    rfl
  · have hne : j ≠ l := fun h => hj (List.mem_singleton.2 h)
    rw [hcrew]
    simp only [Crew.pcOf, Crew.parkOf, Crew.setPark, tget_tset_ne _ _ _ hne, and_self]

theorem LanesThawed.append {a b : List Nat} {k k' k'' : Crew} (h : LanesThawed a k k') (g : LanesThawed b k' k'') (hab : ∀ l ∈ a, l ∉ b) :
    LanesThawed (a ++ b) k k'' := by
  refine ⟨g.trapent.trans h.trapent, fun l hl => ?_, fun l hl => ?_⟩
  · by_cases ha : l ∈ a
    · obtain ⟨hpc, htrappc, hinfo⟩ := h.lane l ha
      obtain ⟨gpc, -, ginfo, gtrappc, -⟩ := g.others l (hab l ha)
      exact ⟨gpc.trans hpc, gtrappc.trans htrappc, by rw [ginfo]; exact hinfo⟩
    · obtain ⟨hpc, -, -, -, hfault⟩ := h.others l ha
      have hlane := g.lane l ((List.mem_append.1 hl).resolve_left ha)
      rwa [h.trapent, hpc, hfault] at hlane
  · obtain ⟨ha, hb⟩ := not_or.1 (mt List.mem_append.2 hl)
    obtain ⟨hpc, hpark, hinfo, htrappc, hfault⟩ := h.others l ha
    obtain ⟨gpc, gpark, ginfo, gtrappc, gfault⟩ := g.others l hb
    exact ⟨gpc.trans hpc, gpark.trans hpark, ginfo.trans hinfo, gtrappc.trans htrappc, gfault.trans hfault⟩

theorem thawTraps_traps {s : State} {e : Nat × Nat} {ls : List Nat} (hnd : ls.Nodup) (hent : (s.crew e.1 e.2).trapent ≠ 0xFFFFFFFF)
    (hin : ∀ l ∈ ls, inTrap (tget 0 (s.crew e.1 e.2).trapinfo l) = false) :
    ∃ k, OneCrew e k s (thawTraps s e.1 e.2 ls) ∧ LanesThawed ls (s.crew e.1 e.2) k := by
  show ∃ k, OneCrew e k s (ls.foldl (thawLane e) s) ∧ _
  induction ls generalizing s with
  | nil => exact ⟨_, ⟨rfl, fun _ _ => rfl, Nat.le_refl _⟩, rfl, fun _ hl => absurd hl List.not_mem_nil, fun _ _ => ⟨rfl, rfl, rfl, rfl, rfl⟩⟩
  | cons l ls ih =>
    obtain ⟨hl, hls⟩ := List.nodup_cons.1 hnd
    obtain ⟨k, hone, hlane⟩ := thawLane_traps hent (hin l List.mem_cons_self)
    have hsame (j : Nat) (hj : j ∈ ls) : tget 0 k.trapinfo j = tget 0 (s.crew e.1 e.2).trapinfo j := by
      obtain ⟨-, -, hinfo, -, -⟩ := hlane.others j fun h => hl (List.mem_singleton.1 h ▸ hj)
      exact hinfo
    obtain ⟨k', hone', hlane'⟩ := ih (s := thawLane e s l) hls (by rw [hone.crew, hlane.trapent]; exact hent) (fun j hj => by
      rw [hone.crew, hsame j hj]
      exact hin j (List.mem_cons_of_mem l hj))
    rw [hone.crew] at hlane'
    exact ⟨k', hone.trans hone', hlane.append hlane' fun j hj => List.mem_singleton.1 hj ▸ hl⟩

/-! ### The crew that THAW names, other than its own -/

/-- The crew as THAW finds it, and that it is the only target. -/
theorem thaw_target {w : Op} {s : State} {x : Ctx} (hkind : bf (thawDesc s x w) 30 2 = 0) (hst : (thawCrew s x w).st = .resident)
    (he : thawSeat s x w ≠ (x.c, x.k)) : (begun s { w } x []).crew (thawSeat s x w).1 (thawSeat s x w).2 = thawCrew s x w ∧
      targetCrews (begun s { w } x []) (targetOf (thawDesc s x w) false) false = [thawSeat s x w] := by
  have hcrew := (OnlyCrew.begun s { w } x).crew_ne he
  refine ⟨hcrew, ?_⟩
  rw [targetCrews_crew hkind, if_pos]
  · rfl
  · exact (congrArg Crew.st hcrew).trans hst

section
variable {i : Instr} {action : Nat} {w : Op} {s : State} {x : Ctx}
variable (h : Issues s w [] false x) (hpriv : (s.at x).priv = true) (hd : Opd.writes w.d = true) (hi : exec i s = thawWord w action s)
include h hpriv hd hi

/-- A status, and another crew than the word's changed. -/
theorem thaw_changes {t : State} {e : Nat × Nat} {k : Crew} {v : Nat} (he : e ≠ (x.c, x.k)) (hone : OneCrew e k (begun s { w } x []) t)
    (ht : thawed (begun s { w } x []) x w action (thawDesc s x w) (thawLanes s x w) = giveLong t x w.d v) : Completes i s fun t =>
      (LongLeft s x (wrOf x false w.d (fun _ => w32 v)) (t.at x).results ∧ MovesOn s t x) ∧ t.crew e.1 e.2 = k := by
  obtain ⟨body, hi, hbody⟩ := exec_thaw hi
  refine ⟨_, exec_sysWord (p := { w }) h hi fun _ => hpriv, ?_⟩
  rw [hbody, ht]
  have hat : t.at x = (begun s { w } x []).at x := hone.others (x.c, x.k) he.symm
  have hgive : (giveLong t x w.d v).crew e.1 e.2 = k := ((OnlyCrew.longResult t x _).crew_ne he).trans hone.crew
  obtain ⟨rs, hrs, hleft⟩ := at_longResult t x (wrOf_ne_nil h.on false hd (fun _ => w32 v))
  refine ⟨⟨?_, fun l => ?_⟩, ((OnlyCrew.ended (giveLong t x w.d v) { w } x (s.at x)).crew_ne he).trans hgive⟩
  · rw [results_ended, giveLong, hrs]
    exact hleft s hone.nextId
  · rw [pcOf_ended, giveLong, hrs, hat]
    exact pcOf_begun s { w } x l

variable (hgood : goodTarget (thawDesc s x w) false = true) (hgrid : w.mb 2 = false) (hkind : bf (thawDesc s x w) 30 2 = 0)
  (hst : (thawCrew s x w).st = .resident)
  (he : thawSeat s x w ≠ (x.c, x.k))
include hgood hgrid hkind hst he

/-- Nothing to resume, or to retry. -/
theorem thaw_running (hact : action < 2) (hno : resumable action (thawLanes s x w) (thawCrew s x w) = false) :
    Answers i s s x w 1 := by
  obtain ⟨hcrew, htarget⟩ := thaw_target (w := w) hkind hst he
  refine thaw_answers h hpriv hd hi ?_
  have hhit : [thawSeat s x w].filter (fun e => resumable action (thawLanes s x w) ((begun s { w } x []).crew e.1 e.2)) = [] := by
    rw [List.filter_singleton, hcrew, hno]
    rfl
  have h3 : action ≠ 3 := by omega
  rw [thawed_crew hgood hgrid hkind, htarget]
  simp only [h3, hact, if_false, if_true, hhit, List.foldl_nil, List.isEmpty_nil, b2n]

theorem thaw_resumes (hact : action < 2) (hhit : resumable action (thawLanes s x w) (thawCrew s x w) = true)
    (hlog : LogQuiet s (thawSeat s x w).1) : Completes i s fun t =>
      (LongLeft s x (wrOf x false w.d (fun _ => w32 0)) (t.at x).results ∧ MovesOn s t x) ∧
      let k := t.crew (thawSeat s x w).1 (thawSeat s x w).2
      k.halted = false ∧ k.frozen = false ∧ ∀ l, k.parkOf l = if l ∈ retryLanes action (thawLanes s x w) (thawCrew s x w) then .no
        else (thawCrew s x w).parkOf l := by
  obtain ⟨hcrew, htarget⟩ := thaw_target (w := w) hkind hst he
  obtain ⟨k, hone, hhalted, hfrozen, hpark⟩ := resumeOne_resumes (hlog.begun { w } x) action (thawLanes s x w)
  have h3 : action ≠ 3 := by omega
  have hhits : [thawSeat s x w].filter (fun e => resumable action (thawLanes s x w) ((begun s { w } x []).crew e.1 e.2)) = [thawSeat s x w] := by
    rw [List.filter_singleton, hcrew, hhit]
    rfl
  obtain ⟨t, e, hstatus, hk⟩ := thaw_changes h hpriv hd hi he hone (v := 0) (by
    rw [thawed_crew hgood hgrid hkind, htarget]
    simp only [h3, hact, if_false, if_true, hhits, List.foldl_cons, List.foldl_nil, List.isEmpty_cons, b2n]
    rfl)
  refine ⟨t, e, hstatus, ?_⟩
  rw [hk]
  rw [hcrew] at hpark
  exact ⟨hhalted, hfrozen, hpark⟩

/-- No lane of B is parked on a fault. -/
theorem thaw_no_fault (hact : action = 2)
    (hno : faultLanesOf (thawCrew s x w) (thawLanes s x w) = []) : Answers i s s x w 1 := by
  obtain ⟨hcrew, htarget⟩ := thaw_target (w := w) hkind hst he
  refine thaw_answers h hpriv hd hi ?_
  have hhits : [thawSeat s x w].filter (fun e => trappable (thawLanes s x w) ((begun s { w } x []).crew e.1 e.2)) = [] := by
    rw [List.filter_singleton, hcrew, trappable, hno]
    rfl
  subst hact
  rw [thawed_crew hgood hgrid hkind, htarget]
  simp only [hhits]
  rfl

section
variable (hact : action = 2)
  (hsome : faultLanesOf (thawCrew s x w) (thawLanes s x w) ≠ [])
include hact hsome

omit h hpriv hd in
theorem thaw_faults : thawed (begun s { w } x []) x w action (thawDesc s x w) (thawLanes s x w) =
    if (thawCrew s x w).trapent = 0xFFFFFFFF then giveLong (begun s { w } x []) x w.d 2
    else giveLong (thawTraps (begun s { w } x []) (thawSeat s x w).1 (thawSeat s x w).2
      (faultLanesOf (thawCrew s x w) (thawLanes s x w))) x w.d 0 := by
  obtain ⟨hcrew, htarget⟩ := thaw_target (w := w) hkind hst he
  have hhits : [thawSeat s x w].filter (fun e => trappable (thawLanes s x w) ((begun s { w } x []).crew e.1 e.2)) = [thawSeat s x w] := by
    rw [List.filter_singleton, hcrew, trappable, List.isEmpty_eq_false_iff.2 hsome]
    rfl
  subst hact
  rw [thawed_crew hgood hgrid hkind, htarget]
  simp only [hhits, List.filter_singleton, hcrew]
  by_cases hent : (thawCrew s x w).trapent = 0xFFFFFFFF
  · simp [hent]
  · have hno : ((thawCrew s x w).trapent == 0xFFFFFFFF) = false := beq_eq_false_iff_ne.2 hent
    simp only [hno, bne, hent, Bool.not_false, cond_true, cond_false, Nat.reduceEqDiff, Nat.lt_irrefl, List.foldl_cons, List.foldl_nil, hcrew,
      List.isEmpty_cons, List.isEmpty_nil, Bool.false_eq_true, if_false, if_true]

theorem thaw_unhandled (hent : (thawCrew s x w).trapent = 0xFFFFFFFF) :
    Answers i s s x w 2 :=
  thaw_answers h hpriv hd hi ((thaw_faults hi hgood hgrid hkind hst he hact hsome).trans (if_pos hent))

theorem thaw_traps (hent : (thawCrew s x w).trapent ≠ 0xFFFFFFFF)
    (hin : ∀ l ∈ faultLanesOf (thawCrew s x w) (thawLanes s x w),
      inTrap (tget 0 (thawCrew s x w).trapinfo l) = false) : Completes i s fun t =>
      (LongLeft s x (wrOf x false w.d (fun _ => w32 0)) (t.at x).results ∧ MovesOn s t x) ∧
      LanesThawed (faultLanesOf (thawCrew s x w) (thawLanes s x w))
        (thawCrew s x w) (t.crew (thawSeat s x w).1 (thawSeat s x w).2) := by
  obtain ⟨hcrew, -⟩ := thaw_target (w := w) hkind hst he
  rw [← hcrew] at hent hin
  obtain ⟨k, hone, hlanes⟩ := thawTraps_traps ((lanesOf_nodup (thawLanes s x w)).filter _) hent hin
  obtain ⟨t, e, hstatus, hk⟩ := thaw_changes h hpriv hd hi he hone
    ((thaw_faults hi hgood hgrid hkind hst he hact hsome).trans ((if_neg (hcrew ▸ hent)).trans (by rw [← hcrew]; rfl)))
  refine ⟨t, e, hstatus, ?_⟩
  rw [hk, ← hcrew]
  exact hlanes

end
end
end Sys2Proof.Machine

/-! ## THAW.end (R276) -/

namespace Sys2Proof.Machine

/-! ### What is saved -/

/-- Every unit that is saved is one that was, of the same grid. -/
def SavesFrom (s t : State) : Prop := ∀ e ∈ t.saves, ∃ f ∈ s.saves, f.2.grid = e.2.grid

theorem SavesFrom.of_eq {s t : State} (h : t.saves = s.saves) : SavesFrom s t := fun e he => ⟨e, h ▸ he, rfl⟩

theorem SavesFrom.trans {s t u : State} (h : SavesFrom s t) (g : SavesFrom t u) : SavesFrom s u := fun e he => by
  obtain ⟨f, hf, hfe⟩ := g e he
  obtain ⟨f', hf', hff⟩ := h f hf
  exact ⟨f', hf', hff.trans hfe⟩

theorem SavesFrom.ite {s t u : State} {p : Prop} [Decidable p] (ht : SavesFrom s t) (hu : SavesFrom s u) : SavesFrom s (if p then t else u) := by
  split
  · exact ht
  · exact hu

theorem SavesFrom.foldl {α : Type} {f : State → α → State} (h : ∀ s a, SavesFrom s (f s a)) (l : List α) (s : State) :
    SavesFrom s (l.foldl f s) :=
  l.foldlRecOn f (.of_eq rfl) fun _ hb a _ => hb.trans (h _ a)

theorem SavesFrom.fillResult (s : State) (c k id : Nat) (wr : List Wr) : SavesFrom s (Machine.fillResult s c k id wr) := by
  rw [Machine.fillResult]
  refine .ite (.of_eq rfl) fun e he => ?_
  obtain ⟨f, hf, rfl⟩ := List.mem_map.1 he
  exact ⟨f, hf, rfl⟩

theorem SavesFrom.endReservation (s : State) (c t : Nat) : SavesFrom s (Machine.endReservation s c t) := by
  rw [Machine.endReservation]
  exact .ite (.of_eq rfl) (.of_eq rfl)

/-- A change of what is not saved, after another. -/
theorem SavesFrom.keeps {s t u : State} (h : SavesFrom s t) (hu : u.saves = t.saves) : SavesFrom s u := h.trans (.of_eq hu)

theorem SavesFrom.endJob (s : State) (j : Job) (l : List W32) : SavesFrom s (Machine.endJob s j l) :=
  (SavesFrom.of_eq (t := dropJob s j) rfl).trans (.fillResult _ _ _ _ _)

theorem SavesFrom.settleReads (s : State) (q : Nat) : SavesFrom s (Machine.settleReads s q) := by
  rw [Machine.settleReads]
  exact SavesFrom.trans (.of_eq rfl) (.foldl (fun s r => .fillResult s _ _ _ _) _ _)

theorem SavesFrom.settleFrees (s : State) (q : Nat) : SavesFrom s (Machine.settleFrees s q) := by
  rw [Machine.settleFrees]
  refine SavesFrom.trans (.foldl (fun s j => ?_) s.jobs s) (.foldl (fun s h => .endReservation s _ _) _ _)
  exact .ite (.trans (.endReservation s _ _) (.endJob _ j _)) (.of_eq rfl)

theorem SavesFrom.settleQuad (s : State) (q : Nat) : SavesFrom s (Machine.settleQuad s q) :=
  (SavesFrom.settleReads s q).trans (.settleFrees _ q)

theorem SavesFrom.discardOps (g : Nat) (s : State) (c : Nat) : SavesFrom s (Machine.discardOps g s c) := by
  have hseqs (s : State) (o : CopyOp) : SavesFrom s (freeSeqs s o) := by
    rw [freeSeqs]
    split
    · exact .of_eq rfl
    · exact .foldl (fun s p => by split <;> exact .of_eq rfl) _ s
  rw [Machine.discardOps]
  refine .ite ?_ (.of_eq rfl)
  rw [discardWhere]
  refine .trans ?_ (.settleQuad _ _)
  exact (SavesFrom.foldl hseqs _ s).keeps rfl

theorem saves_post (s : State) (die : Nat) (e : Event) : (s.post die e).saves = s.saves := by
  simp only [State.post, apply_ite State.saves, ite_self]

theorem saves_addCounter (c k g n : Nat) (s : State) (i : Nat) : (addCounter c k g n s i).saves = s.saves := by
  simp only [addCounter, apply_ite State.saves, saves_post, State.modGrid_saves, ite_self]

theorem SavesFrom.bumpCounters (s : State) (c k : Nat) (l : List Nat) : SavesFrom s (Machine.bumpCounters s c k l) := by
  rw [Machine.bumpCounters]
  exact .ite (.of_eq rfl) (.foldl (fun s i => .of_eq (saves_addCounter c k _ 1 s i)) l s)

theorem SavesFrom.clearCounters (c k id : Nat) (s : State) (l : List Nat) : SavesFrom s (Machine.clearCounters c k id s l) := by
  rw [Machine.clearCounters]
  have hbump := SavesFrom.bumpCounters s c k (((s.crew c k).results.filter (fun r => r.id < id)).flatMap (fun r => r.counts.filter l.contains))
  generalize Machine.bumpCounters s c k _ = t at hbump ⊢
  refine hbump.trans (.ite (.of_eq rfl) (.trans ?_ (.foldl (fun s chip => .of_eq (t := sendNote s chip _) rfl) _ _)))
  exact .of_eq rfl

theorem SavesFrom.countResult (c k : Nat) (s : State) (r : Result) : SavesFrom s (Machine.countResult c k s r) := by
  rw [Machine.countResult]
  exact .ite (.bumpCounters s c k _) ((SavesFrom.bumpCounters s c k _).trans (.clearCounters c k _ _ _))

theorem SavesFrom.retireTeam (s : State) (c t : Nat) : SavesFrom s (Machine.retireTeam s c t) := by
  rw [Machine.retireTeam]
  refine .ite (.of_eq rfl) (.of_eq ?_)
  simp only [State.modGrid_saves, State.modTeam_saves, Machine.endClaims, Machine.endReservation, apply_ite State.saves, State.modCore_saves, State.modQuad_saves,
    Machine.unbindAll, Machine.endPins, ite_self]

theorem SavesFrom.retireCrew (s : State) (c k : Nat) : SavesFrom s (Machine.retireCrew s c k) := by
  rw [Machine.retireCrew]
  refine .ite (.of_eq rfl) (.trans ?_ (.retireTeam _ c _))
  have hcounts := SavesFrom.foldl (fun s r => .countResult c k s r) (s.crew c k).results s
  generalize (s.crew c k).results.foldl (Machine.countResult c k) s = t at hcounts
  refine hcounts.keeps ?_
  simp only [State.modCore_saves, apply_ite State.saves, ite_self]

theorem SavesFrom.removeCrew (s : State) (c k : Nat) : SavesFrom s (Machine.removeCrew s c k) := by
  rw [Machine.removeCrew]
  refine .trans (.trans ?_ (.settleQuad _ _)) (.retireCrew _ c k)
  exact .of_eq rfl

/-! ### The grid ends -/

theorem endGrid_ended (s : State) (g : Nat) : ((endGrid s g).grid g).ended = true ∧ ((endGrid s g).grid g).teamsLeft = 0 := by
  rw [endGrid, grid_modGrid_same]
  exact ⟨rfl, rfl⟩

/-- The last step of a grid's end: what is left of its record. -/
def gridEnded (s : State) (g : Nat) (left : List (Nat × Nat × Mask)) : State :=
  { s with commits := s.commits.filter (fun m => m.scope == 4 || !(m.grid == g)) }.modGrid g (fun d => { d with
    ended := true, teamsLeft := 0, saved := [], halting := [], state := if d.state = 1 then 2 else d.state
    removing := left.filter (fun e => e.2.2 != 0), asked := false, waitFor := [] })

/-- A grid ends in a state without its images: its copies are discarded, then its crews go. -/
theorem endGrid_stages (s : State) (g : Nat) : ∃ (dropped : State) (home : List (Nat × Nat × Crew)) (left : List (Nat × Nat × Mask)),
    (∀ e ∈ dropped.saves, e.2.grid ≠ g) ∧ endGrid s g = gridEnded (home.foldl (fun s e => removeCrew s e.1 e.2.1)
      ((dropped.cores.map (·.1)).foldl (discardOps g) dropped)) g left := by
  refine ⟨_, _, _, fun e he => ?_, rfl⟩
  have hne := (List.mem_filter.1 he).2
  simpa using hne

theorem SavesFrom.gridEnded (s : State) (g : Nat) (left : List (Nat × Nat × Mask)) : SavesFrom s (Machine.gridEnded s g left) :=
  .of_eq rfl

theorem SavesFrom.removeCrews (s : State) (home : List (Nat × Nat × Crew)) :
    SavesFrom s (home.foldl (fun s e => Machine.removeCrew s e.1 e.2.1) s) := by
  refine .foldl (fun s e => ?_) home s
  exact .removeCrew s _ _

/-- No image of an ended grid is kept. -/
theorem endGrid_saves (s : State) (g : Nat) : ∀ e ∈ (endGrid s g).saves, e.2.grid ≠ g := by
  obtain ⟨dropped, home, left, hdropped, hstages⟩ := endGrid_stages s g
  have hended : SavesFrom dropped (endGrid s g) := by
    rw [hstages]
    have hdiscarded := SavesFrom.foldl (f := discardOps g) (SavesFrom.discardOps g) (dropped.cores.map (·.1)) dropped
    generalize (dropped.cores.map (·.1)).foldl (discardOps g) dropped = discarded at hdiscarded ⊢
    exact (hdiscarded.trans (.removeCrews discarded home)).trans (.gridEnded _ g left)
  intro e he
  obtain ⟨f, hf, hfe⟩ := hended e he
  rw [← hfe]
  exact hdropped f hf

/-- Which grid THAW.end ends where it names one. -/
theorem endTarget_grid {b : State} {d : Nat} : endTarget b (targetOf d true) true =
    if (b.grid (bf d 0 8)).state = 0 || (b.grid (bf d 0 8)).state = 4 || (b.grid (bf d 0 8)).monitor || (b.grid (bf d 0 8)).ended then none
    else some (bf d 0 8) := rfl

section
variable {w : Op} {s : State} {x : Ctx} (h : Issues s w [] false x) (hpriv : (s.at x).priv = true)
  (hgood : goodTarget (thawDesc s x w) true = true) (hgrid : w.mb 2 = true)
include h hpriv hgood hgrid

omit h hpriv in
theorem thawed_end (b : State) : thawed b x w 3 (thawDesc s x w) (thawLanes s x w) =
    thawEnded b x w.d (endTarget b (targetOf (thawDesc s x w) true) true) := by
  simp only [thawed, hgrid, bad_targetOf, hgood, Bool.not_true, Bool.false_and, Bool.or_self, Bool.false_eq_true, if_false, if_true]

/-- A grid that is not there, or has ended, or is the monitor's (R243). -/
theorem thaw_end_refused (hd : Opd.writes w.d = true) (hno : (s.grid (bf (thawDesc s x w) 0 8)).state = 0 ∨ (s.grid (bf (thawDesc s x w) 0 8)).state = 4 ∨
    (s.grid (bf (thawDesc s x w) 0 8)).monitor = true ∨ (s.grid (bf (thawDesc s x w) 0 8)).ended = true) : Answers (.thawEnd w) s s x w 1 := by
  have hi : exec (.thawEnd w) s = thawWord w 3 s := rfl
  refine thaw_answers h hpriv hd hi ?_
  have hnone : endTarget (begun s { w } x []) (targetOf (thawDesc s x w) true) true = none := by
    rw [endTarget_grid, grid_of_grids (begun_grids s { w } x), if_pos (by simpa [or_assoc] using hno)]
  rw [thawed_end hgood hgrid, hnone]
  rfl

theorem thaw_ends (hstate : (s.grid (bf (thawDesc s x w) 0 8)).state ∈ [1, 2, 3]) (hmon : (s.grid (bf (thawDesc s x w) 0 8)).monitor = false)
    (hended : (s.grid (bf (thawDesc s x w) 0 8)).ended = false) : Completes (.thawEnd w) s fun t =>
      (t.grid (bf (thawDesc s x w) 0 8)).ended = true ∧ (t.grid (bf (thawDesc s x w) 0 8)).teamsLeft = 0 ∧
      (∃ j ∈ t.jobs, j.kind = .thawEnd (bf (thawDesc s x w) 0 8) ∧ j.d = w.d) ∧ ∀ e ∈ t.saves, e.2.grid ≠ bf (thawDesc s x w) 0 8 := by
  have hi : exec (.thawEnd w) s = thawWord w 3 s := rfl
  obtain ⟨body, hi, hbody⟩ := exec_thaw hi
  have hsome : endTarget (begun s { w } x []) (targetOf (thawDesc s x w) true) true = some (bf (thawDesc s x w) 0 8) := by
    simp only [List.mem_cons, List.not_mem_nil, or_false] at hstate
    rw [endTarget_grid, grid_of_grids (begun_grids s { w } x), hmon, hended]
    rcases hstate with e | e | e <;> rw [e] <;> rfl
  refine ⟨_, exec_sysWord (p := { w }) h hi fun _ => hpriv, ?_⟩
  rw [hbody, thawed_end hgood hgrid, hsome]
  obtain ⟨hend, hteams⟩ := endGrid_ended (begun s { w } x []) (bf (thawDesc s x w) 0 8)
  have hsaves := endGrid_saves (begun s { w } x []) (bf (thawDesc s x w) 0 8)
  rw [thawEnded]
  generalize endGrid (begun s { w } x []) (bf (thawDesc s x w) 0 8) = u at hend hteams hsaves
  obtain ⟨j, hj, hkind, -, -, hd, -⟩ := startJob_left u x w.d 1 (.thawEnd (bf (thawDesc s x w) 0 8))
  exact ⟨hend, hteams, ⟨j, hj, hkind, hd⟩, hsaves⟩

end

end Sys2Proof.Machine

/-! ## FREEZE and THAW as a whole (R259, R275, R276) -/

namespace Sys2Proof.Machine

/-- What a core holds besides its seats is left alone where only one crew differs. -/
theorem OnlyCrew.core_rest {β : Sort _} {s t : State} {x : Ctx} (h : OnlyCrew s t x) {f : Core → β}
    (hf : ∀ o slots busy, f { o with slots, busy } = f o) (c : Nat) : f (t.core c) = f (s.core c) := by
  by_cases hc : c = x.c
  · rw [hc, ← hf (t.core x.c) (s.core x.c).slots (s.core x.c).busy, h.core]
  · rw [h.cores c hc]

theorem BegunOnto.modPort (s : State) (p : Pre) (x : Ctx) (n : Nat) (f : Port → Port) :
    BegunOnto s (s.modPort n f) ((begun s p x []).modPort n f) x := .chip (s := s) (u := s.modPort n f) rfl p x

theorem BegunOnto.modEngine (s : State) (p : Pre) (x : Ctx) (n : Nat) (f : Engine → Engine) :
    BegunOnto s (s.modEngine n f) ((begun s p x []).modEngine n f) x := .chip (s := s) (u := s.modEngine n f) rfl p x

theorem port_begun (s : State) (p : Pre) (x : Ctx) (n : Nat) : (begun s p x []).port n = s.port n := rfl
theorem engine_begun (s : State) (p : Pre) (x : Ctx) (n : Nat) : (begun s p x []).engine n = s.engine n := rfl

section
variable {w : Op} {s : State} {x : Ctx} (h : Issues s w [] false x) (hpriv : (s.at x).priv = true)
include h hpriv

/-! ### FREEZE -/

theorem freeze_grid (hgood : goodTarget (usrc s x w.a) (w.mb 0) = true) (hgrid : w.mb 0 = true) : Completes (.freeze w) s fun t =>
    ∀ c k, k ∈ slotsOfGrid s (bf (usrc s x w.a) 0 8) c → (t.crew c k).frozen = true := by
  refine freeze_crews h hpriv hgood (.inl hgrid) fun c k hk => ?_
  rw [hgrid]
  exact mem_targetCrews_grid ((mem_slotsOfGrid_begun s { w } x _ c k).2 hk)

theorem freeze_crew (hgood : goodTarget (usrc s x w.a) (w.mb 0) = true) (hgrid : w.mb 0 = false) (hkind : bf (usrc s x w.a) 30 2 = 0)
    (hst : (s.crew (bf (usrc s x w.a) 22 8) (bf (usrc s x w.a) 16 6)).st = .resident) :
    Completes (.freeze w) s fun t => (t.crew (bf (usrc s x w.a) 22 8) (bf (usrc s x w.a) 16 6)).frozen = true := by
  obtain ⟨t, ht, hfrozen⟩ := freeze_crews h hpriv hgood (.inr hkind) (Q := fun c k => (c, k) = (bf (usrc s x w.a) 22 8, bf (usrc s x w.a) 16 6))
    fun c k hck => by
      rw [hgrid, targetCrews_crew hkind, st_begun, if_pos hst]
      exact List.mem_singleton.2 hck
  exact ⟨t, ht, hfrozen _ _ rfl⟩

theorem freeze_copy (hgood : goodTarget (usrc s x w.a) (w.mb 0) = true) (hgrid : w.mb 0 = false) (hkind : bf (usrc s x w.a) 30 2 = 1) :
    Does (.freeze w) s (s.modCore (bf (usrc s x w.a) 22 8) (fun o => { o with copyFrozen := true })) x w (NoneLeft s x) := by
  refine freeze_engine h hpriv hgrid ?_
  rw [freezeTarget_copy (hgrid ▸ hgood) hkind]
  exact .modCore s { w } x fun _ _ _ => rfl

theorem freeze_port (hgood : goodTarget (usrc s x w.a) (w.mb 0) = true) (hgrid : w.mb 0 = false) (hkind : bf (usrc s x w.a) 30 2 = 2) :
    Does (.freeze w) s (s.modPort (bf (usrc s x w.a) 0 8) (fun p => { p with frozen := true })) x w (NoneLeft s x) := by
  refine freeze_engine h hpriv hgrid ?_
  rw [freezeTarget_port (hgrid ▸ hgood) hkind]
  exact .modPort s { w } x _ _

theorem freeze_apply (hgood : goodTarget (usrc s x w.a) (w.mb 0) = true) (hgrid : w.mb 0 = false) (hkind : bf (usrc s x w.a) 30 2 = 3) :
    Does (.freeze w) s (s.modEngine (bf (usrc s x w.a) 0 8) (fun e => { e with frozen := true })) x w (NoneLeft s x) := by
  refine freeze_engine h hpriv hgrid ?_
  rw [freezeTarget_apply (hgrid ▸ hgood) hkind]
  exact .modEngine s { w } x _ _

/-! ### THAW of an engine -/

variable {i : Instr} {action : Nat} (hd : Opd.writes w.d = true) (hi : exec i s = thawWord w action s)
  (hgood : goodTarget (thawDesc s x w) false = true) (hgrid : w.mb 2 = false) (hact : action < 2)
include hd hi hgood hgrid hact

theorem thaw_port (hkind : bf (thawDesc s x w) 30 2 = 2) (hfrozen : (s.port (bf (thawDesc s x w) 0 8)).frozen = true) :
    Answers i s (s.modPort (bf (thawDesc s x w) 0 8) (fun p => { p with frozen := false })) x w 0 := by
  refine thaw_engine h hpriv hd hi hgood hgrid (by omega) hact ?_ ?_
  · simpa [engineFrozen, targetOf, hkind, port_begun] using hfrozen
  · simp only [thawEngine, targetOf, hkind, Bool.false_eq_true, if_false, Nat.reduceEqDiff, if_true]
    exact .modPort s { w } x _ _

theorem thaw_apply (hkind : bf (thawDesc s x w) 30 2 = 3) (hfrozen : (s.engine (bf (thawDesc s x w) 0 8)).frozen = true) :
    Answers i s (s.modEngine (bf (thawDesc s x w) 0 8) (fun e => { e with frozen := false })) x w 0 := by
  refine thaw_engine h hpriv hd hi hgood hgrid (by omega) hact ?_ ?_
  · simpa [engineFrozen, targetOf, hkind, engine_begun] using hfrozen
  · simp only [thawEngine, targetOf, hkind, Bool.false_eq_true, if_false, Nat.reduceEqDiff]
    exact .modEngine s { w } x _ _

theorem thaw_copy (hkind : bf (thawDesc s x w) 30 2 = 1) (hfrozen : (s.core (bf (thawDesc s x w) 22 8)).copyFrozen = true) :
    Completes i s fun t => (LongLeft s x (wrOf x false w.d (fun _ => w32 0)) (t.at x).results ∧ MovesOn s t x) ∧
      (t.core (bf (thawDesc s x w) 22 8)).copyFrozen = false ∧ ∀ o ∈ (t.core (bf (thawDesc s x w) 22 8)).copies, o.cause = 0 := by
  obtain ⟨t, ht, honly, -, hmoves, hleft⟩ := thaw_engine h hpriv hd hi (u := thawEngine s (targetOf (thawDesc s x w) false)) hgood hgrid
    (by omega) hact (by
      have hcore := (OnlyCrew.begun s { w } x).core_rest (f := Core.copyFrozen) (fun _ _ _ => rfl) (bf (thawDesc s x w) 22 8)
      simpa [engineFrozen, targetOf, hkind, hcore] using hfrozen) (by
      simp only [thawEngine, targetOf, hkind, Bool.false_eq_true, if_false, if_true]
      exact .modCore s { w } x fun _ _ _ => rfl)
  have hcore : (thawEngine s (targetOf (thawDesc s x w) false)).core (bf (thawDesc s x w) 22 8) =
      { s.core (bf (thawDesc s x w) 22 8) with
        copyFrozen := false, copies := (s.core (bf (thawDesc s x w) 22 8)).copies.map (fun p => { p with cause := 0, addr := 0 }) } := by
    simp only [thawEngine, targetOf, hkind, Bool.false_eq_true, if_false, if_true, core_modCore_same]
  refine ⟨t, ht, ⟨hleft, hmoves⟩, ?_, ?_⟩
  · rw [honly.core_rest (f := Core.copyFrozen) (fun _ _ _ => rfl), hcore]
  · rw [honly.core_rest (f := Core.copies) (fun _ _ _ => rfl), hcore]
    intro o ho
    obtain ⟨p, -, rfl⟩ := List.mem_map.1 ho
    rfl

end

theorem thaw_actions (w : Op) (s : State) : ∀ i ∈ [(0, Instr.thawResume w), (1, .thawRetry w), (2, .thawTrap w), (3, .thawEnd w)],
    exec i.2 s = thawWord w i.1 s := by
  simp only [List.forall_mem_cons, List.not_mem_nil, false_implies, implies_true, and_true]
  exact ⟨rfl, rfl, rfl, rfl⟩

theorem resumable_iff {m : Mask} {k : Crew} {action : Nat} : resumable action m k = true ↔
    (k.halted || k.frozen) = true ∨ retryLanes action m k ≠ [] := by
  simp [resumable, Crew.stopped]

/-- Settles O37: FREEZE and THAW, by what their descriptor names. -/
theorem freezeAndThaw : Obligations.FreezeAndThaw := by
  intro w s x _ _ _ hunif h hpriv d b kind core slot unit inRange q all status
  have hd := writes_of_uniform hunif
  have hact := thaw_actions w s
  refine ⟨fun hbad => freeze_bad h hpriv hbad, fun hgood => ⟨freeze_grid h hpriv hgood, freeze_crew h hpriv hgood, freeze_copy h hpriv hgood,
    freeze_port h hpriv hgood, freeze_apply h hpriv hgood⟩, fun hbad i hi => thaw_bad h hpriv hd (hact i hi) hbad, fun hgrid hkind => ?_,
    fun hgood hgrid => ?_, fun hgood hgrid => ⟨thaw_end_refused h hpriv hgood hgrid hd, thaw_ends h hpriv hgood hgrid⟩⟩
  · exact thaw_end_engine h hpriv hd (action := 3) rfl hgrid hkind rfl
  rw [hgrid] at hgood
  refine ⟨fun hkind hst i hi => ?_, fun hkind hfrozen i hi hlt => ?_, fun hkind hfrozen i hi hlt => ?_, fun hkind hfrozen i hi hlt => ?_,
    fun hkind hst hne => ?_⟩
  · exact thaw_absent h hpriv hd (hact i hi) hgood hgrid hkind hst
  · exact thaw_copy h hpriv hd (hact i hi) hgood hgrid hlt hkind hfrozen
  · exact thaw_port h hpriv hd (hact i hi) hgood hgrid hlt hkind hfrozen
  · exact thaw_apply h hpriv hd (hact i hi) hgood hgrid hlt hkind hfrozen
  intro parked left noLog
  refine ⟨fun i hi hlt hsome hlog => ?_, fun i hi hlt hruns hnone => ?_, fun hnone => ?_, fun hsome hent => ?_, fun hsome hent hin => ?_⟩
  · have hquiet : LogQuiet s core := ⟨fun ⟨e, he, p, hp, hpark⟩ => hlog.1 e he p hp hpark, hlog.2⟩
    exact thaw_resumes h hpriv hd (hact i hi) hgood hgrid hkind hst hne hlt (resumable_iff.2 hsome) hquiet
  · refine thaw_running h hpriv hd (hact i hi) hgood hgrid hkind hst hne hlt (Bool.eq_false_iff.2 fun hhit => ?_)
    rcases resumable_iff.1 hhit with hstopped | hlanes
    · exact Bool.false_ne_true (hruns.symm.trans hstopped)
    · exact hlanes hnone
  · exact thaw_no_fault h hpriv hd (action := 2) rfl hgood hgrid hkind hst hne rfl hnone
  · exact thaw_unhandled h hpriv hd (action := 2) rfl hgood hgrid hkind hst hne rfl hsome hent
  · obtain ⟨t, ht, hstatus, hlanes⟩ := thaw_traps h hpriv hd (i := .thawTrap w) (action := 2) rfl hgood hgrid hkind hst hne rfl hsome hent hin
    refine ⟨t, ht, hstatus, fun l => ?_⟩
    by_cases hl : l ∈ parked
    · rw [if_pos hl]
      exact hlanes.lane l hl
    · rw [if_neg hl]
      obtain ⟨hpc, hpark, -⟩ := hlanes.others l hl
      exact ⟨hpc, hpark⟩

end Sys2Proof.Machine

/-! ## System words: identity, clocks, keys, watches and events (R277, R278, R280, R281) -/

namespace Sys2Proof.Machine

section
variable {w : Op} {s : State} {x : Ctx}

/-! ### GETID and CLKRD (R281) -/

theorem idValue_begun (s : State) (p : Pre) (x : Ctx) (n : Nat) : idValue (begun s p x []) x n = idValue s x n := by
  obtain ⟨pcs, hat, -⟩ := at_begun s p x
  rw [State.at] at hat
  unfold idValue
  rw [hat]
  rfl

/-- The identity of a crew, by selector. -/
def idList (s : State) (x : Ctx) : List (Nat × Nat) :=
  let k := s.at x
  [(0, x.c), (1, x.c / 32 * 8 + x.c % 16 / 2), (2, x.c / 16 % 2 * 2 + x.c % 2), (3, x.k), (4, x.k % 4), (5, if x.c < 96 then 0 else 1),
    (6, if k.priv then 1 else 0), (7, k.ctx), (8, k.group), (9, if k.guest = none then (s.grid k.grid).lr.teams else teamsOf s k), (10, 1)]

theorem idValue_idList (s : State) (x : Ctx) : ∀ e ∈ idList s x, idValue s x e.1 = e.2 := by
  have hquad : quadOfCore x.c = x.c / 32 * 8 + x.c % 16 / 2 := by
    rw [quadOfCore, rowOfCore, colOfCore]
    omega
  have hciq : ciqOfCore x.c = x.c / 16 % 2 * 2 + x.c % 2 := by
    rw [ciqOfCore, rowOfCore, colOfCore]
    omega
  have hteams : teamsOf s (s.at x) = if (s.at x).guest = none then (s.grid (s.at x).grid).lr.teams else teamsOf s (s.at x) := by
    split
    · next hg => rw [teamsOf, hg]
    · rfl
  simp only [idList, List.forall_mem_cons, List.not_mem_nil, false_implies, implies_true, and_true]
  exact ⟨rfl, hquad, hciq, rfl, rfl, rfl, rfl, rfl, rfl, hteams, rfl⟩

theorem getid_gives (h : Issues s w (vdst w.d 1) true x) (hd : Opd.writes w.d = true) : Completes (.getid w) s fun t =>
    Leaves s t x 2 (wrOf x true w.d (fun _ => w32 (idValue s x (w.mf 0 4)))) ∧ OnlyResult s t x (lastRegs x.h w 1 1 1) := by
  refine completes_fixedResult (p := { w, dst := vdst w.d 1, comp := true }) h ⟨rfl, rfl, rfl, rfl⟩
    (body := fun x b => fixedResult b x 2 (wrOf x true w.d (fun _ => w32 (idValue b x (w.mf 0 4))))) rfl ?_ (wrOf_ne_nil h.on true hd _)
  simp only [idValue_begun]

/-- What CLKRD reads: form, registers and value. -/
def clockList (s : State) : List (Nat × Nat × Nat) := [(0, 2, s.ref), (1, 2, s.podNs), (2, 1, s.mhz)]

theorem clkrd_gives (hd : Opd.writes w.d = true) : ∀ e ∈ clockList s, w.mf 0 2 = e.1 → Issues s w (vdst w.d e.2.1) true x →
    Completes (.clkrd w) s fun t => Leaves s t x 4 (wrRun x true w.d e.2.1 (fun _ => leWords e.2.1 e.2.2)) ∧ OnlyResult s t x (lastRegs x.h w 1 1 1) := by
  intro e he hform h
  have hregs : (if w.mf 0 2 < 2 then 2 else 1) = e.2.1 ∧ 0 < e.2.1 ∧ (if w.mf 0 2 = 0 then s.ref else if w.mf 0 2 = 1 then s.podNs else s.mhz) = e.2.2 := by
    simp only [clockList, List.mem_cons, List.not_mem_nil, or_false] at he
    rw [hform]
    rcases he with rfl | rfl | rfl <;> exact ⟨rfl, Nat.le_of_ble_eq_true rfl, rfl⟩
  obtain ⟨hr, hpos, hval⟩ := hregs
  refine completes_fixedResult (p := { w, dst := vdst w.d e.2.1, comp := true }) h ⟨rfl, rfl, rfl, rfl⟩
    (body := fun x b => fixedResult b x 4 (wrRun x true w.d e.2.1 (fun _ => leWords e.2.1
      (if w.mf 0 2 = 0 then b.ref else if w.mf 0 2 = 1 then b.podNs else b.mhz)))) (by rw [← hr]; rfl) ?_ (wrRun_ne_nil h.on true hd hpos _)
  rw [← hval]
  rfl

/-! ### KEYSET (R277) -/

/-- What KEYSET answers, and the key pair that it is given. -/
def keyStatus (s : State) (a : Nat) : Nat := if 4095 < a then 3 else if a = 0 then 1 else if (tget? s.keys a).isSome then 2 else 0
def keyGiven (s : State) (x : Ctx) (w : Op) : BitVec 512 := BitVec.ofNat 512 (leNat ((rdRun s x w.b 16 x.low).flatMap (fun v => leBytes 4 v.toNat)))


/-- The key table after KEYSET. -/
def keyed (s : State) (a : Nat) (key : BitVec 512) : State :=
  if keyStatus s a = 0 then { s with keys := tset s.keys a key, keysGone := s.keysGone.filter (· != a) } else s

theorem BegunOnto.keyed (s : State) (p : Pre) (x : Ctx) (a : Nat) (key : BitVec 512) :
    BegunOnto s (Machine.keyed s a key) (Machine.keyed (begun s p x []) a key) x := by
  have hst : keyStatus (begun s p x []) a = keyStatus s a := rfl
  rw [Machine.keyed, Machine.keyed, hst]
  split
  · exact .chip (s := s) (u := { s with keys := tset s.keys a key, keysGone := s.keysGone.filter (· != a) }) rfl p x
  · exact .chip (s := s) rfl p x

theorem exec_keyset (w : Op) (s : State) {r : BitVec 9} (hr : w.b = .u r) : ∃ body, exec (.keyset w) s = sysWord { w, rb := 16 } true s body ∧ ∀ x,
    body x (begun s { w, rb := 16 } x []) = longResult (keyed (begun s { w, rb := 16 } x []) (usrc s x w.a) (keyGiven s x w)) x
      ((List.range 16).map (fun i => Wr.u (r.toNat + i) 0) ++ wrOf x false w.d (fun _ => w32 (keyStatus s (usrc s x w.a)))) := by
  refine ⟨_, show exec (.keyset w) s = execKeyset w s from rfl, fun x => ?_⟩
  have hreads := readsAs_begun s { w, rb := 16 } x
  rw [keyGiven, ← hreads.usrc, ← hreads.rdRun, hr]
  rfl

theorem keyset_answers (h : Issues s w [] false x) (hpriv : (s.at x).priv = true) (hd : Opd.writes w.d = true) {r : BitVec 9} (hr : w.b = .u r) :
    Does (.keyset w) s (keyed s (usrc s x w.a) (keyGiven s x w)) x w
      (LongLeft s x ((List.range 16).map (fun i => Wr.u (r.toNat + i) 0) ++ wrOf x false w.d (fun _ => w32 (keyStatus s (usrc s x w.a))))) := by
  obtain ⟨body, hi, hbody⟩ := exec_keyset w s hr
  refine does_sysWord (p := { w, rb := 16 }) h hi (fun _ => hpriv) (.operands w [] (by decide) (by decide)) ?_
  rw [hbody]
  refine (BegunOnto.keyed s { w, rb := 16 } x _ _).longResult ?_ (List.append_ne_nil_of_right_ne_nil _ (wrOf_ne_nil h.on false hd _))
  rw [keyed]
  split <;> exact Nat.le_refl _

/-! ### Words that wait (R278, R280) -/

theorem watchWait_starts (h : Issues s w [] false x) (hpriv : (s.at x).priv = true) : Starts (.watchWait w) s s x w 1 .watchWait :=
  starts_only (p := { w }) h (show exec (.watchWait w) s = execWatchWait w s from rfl) (fun _ => hpriv) (.operands w [] (by decide) (by decide)) rfl

theorem monevWait_starts (h : Issues s w [] false x) (hpriv : (s.at x).priv = true) : Starts (.monevWait w) s s x w 8 .evWait :=
  starts_only (p := { w }) h (show exec (.monevWait w) s = execMonevWait w s from rfl) (fun _ => hpriv) (.operands w [] (by decide) (by decide)) rfl

/-! ### MONEV.irq and MONEV.post (R248, R280) -/

theorem monevIrq_orders (h : Issues s w [] false x) (hpriv : (s.at x).priv = true) (h0 : usrc s x w.a ≠ 0) (h63 : usrc s x w.a ≤ 63) :
    Orders (.monevIrq w) s s x w { rel := true, acq := false, scope := 5, lanes := x.on, before := s.nextId, after := .irq (usrc s x w.a) }
      (NoneLeft s x) := by
  refine does_sysWord (p := { w }) h (show exec (.monevIrq w) s = execMonevIrq w s from rfl) (fun _ => hpriv)
    (.operands w [] (by decide) (by decide)) ?_
  have hv : (usrc s x w.a = 0 || decide (63 < usrc s x w.a)) = false := by simp [h0, h63]
  simp only [(readsAs_begun s { w } x).usrc, hv, Bool.false_eq_true, if_false, order_later (a := .irq _) rfl]
  exact (BegunOnto.chip (s := s) rfl { w } x).acted.modCrew (keepsCrew_ords _) (fun _ => rfl) (fun _ => rfl)

/-- The event that MONEV.post queues. -/
def postedEvent (s : State) (x : Ctx) (w : Op) : Event :=
  { s.crewEvent x.c x.k 0x0A (usrc s x w.b % 256) 0 0 0 with value := w32 (usrc s x w.a) }

theorem exec_monevPost (w : Op) (s : State) : ∃ body, exec (.monevPost w) s = sysWord { w } false s body ∧ ∀ x,
    let t := (begun s { w } x []).post (dieOfCore x.c) (postedEvent s x w)
    body x (begun s { w } x []) = if s.evWait.length < t.evWait.length then t.modCrew x.c x.k (fun k => { k with sysHold := k.sysHold + 1 }) else t := by
  refine ⟨_, show exec (.monevPost w) s = execMonevPost w s from rfl, fun x => ?_⟩
  have hreads := readsAs_begun s { w } x
  rw [postedEvent, ← crewEvent_begun s { w } x, ← hreads.usrc, ← hreads.usrc]
  rfl

/-- The queue of the crew's die. -/
def dieQueue (s : State) (x : Ctx) : List Event := if x.c < 96 then s.evq0 else s.evq1

theorem die_zero (c : Nat) : dieOfCore c = 0 ↔ c < 96 := by
  rw [dieOfCore]
  split <;> simp_all

theorem monevPost_posts (h : Issues s w [] false x) (hroom : (dieQueue s x).length < 4096) :
    Does (.monevPost w) s (if x.c < 96 then { s with evq0 := s.evq0 ++ [postedEvent s x w] } else { s with evq1 := s.evq1 ++ [postedEvent s x w] }) x w
      (NoneLeft s x) := by
  obtain ⟨body, hi, hbody⟩ := exec_monevPost w s
  have hpost : (begun s { w } x []).post (dieOfCore x.c) (postedEvent s x w) =
      if x.c < 96 then { begun s { w } x [] with evq0 := s.evq0 ++ [postedEvent s x w] } else { begun s { w } x [] with evq1 := s.evq1 ++ [postedEvent s x w] } := by
    rw [State.post]
    simp only [die_zero]
    exact if_pos hroom
  have hwaits : ¬ s.evWait.length < ((begun s { w } x []).post (dieOfCore x.c) (postedEvent s x w)).evWait.length := by
    rw [hpost]
    split <;> exact Nat.lt_irrefl s.evWait.length
  refine does_sysWord (p := { w }) h hi (fun hp => absurd hp Bool.false_ne_true) (.operands w [] (by decide) (by decide)) ?_
  rw [(hbody x).trans (if_neg hwaits), hpost]
  have h0 : BegunOnto s { s with evq0 := s.evq0 ++ [postedEvent s x w] } { begun s { w } x [] with evq0 := s.evq0 ++ [postedEvent s x w] } x :=
    .chip (s := s) (u := { s with evq0 := s.evq0 ++ [postedEvent s x w] }) rfl { w } x
  have h1 : BegunOnto s { s with evq1 := s.evq1 ++ [postedEvent s x w] } { begun s { w } x [] with evq1 := s.evq1 ++ [postedEvent s x w] } x :=
    .chip (s := s) (u := { s with evq1 := s.evq1 ++ [postedEvent s x w] }) rfl { w } x
  split
  · exact h0.acted
  · exact h1.acted

theorem monevPost_waits (h : Issues s w [] false x) (hfull : 4096 ≤ (dieQueue s x).length) :
    Does (.monevPost w) s { s.modCrew x.c x.k (fun k => { k with sysHold := k.sysHold + 1 }) with
      evWait := s.evWait ++ [(dieOfCore x.c, postedEvent s x w)] } x w (NoneLeft s x) := by
  obtain ⟨body, hi, hbody⟩ := exec_monevPost w s
  have hpost : (begun s { w } x []).post (dieOfCore x.c) (postedEvent s x w) =
      { begun s { w } x [] with evWait := s.evWait ++ [(dieOfCore x.c, postedEvent s x w)] } := by
    rw [State.post]
    simp only [die_zero]
    exact if_neg (Nat.not_lt.2 hfull)
  refine does_sysWord (p := { w }) h hi (fun hp => absurd hp Bool.false_ne_true) (.operands w [] (by decide) (by decide)) ?_
  rw [hbody, hpost]
  simp only [List.length_append, List.length_singleton, Nat.lt_succ_self, if_true]
  have hu : BegunOnto s { s with evWait := s.evWait ++ [(dieOfCore x.c, postedEvent s x w)] }
      { begun s { w } x [] with evWait := s.evWait ++ [(dieOfCore x.c, postedEvent s x w)] } x :=
    .chip (s := s) (u := { s with evWait := s.evWait ++ [(dieOfCore x.c, postedEvent s x w)] }) rfl { w } x
  exact hu.acted.modCrew (fun _ _ ⟨hv, hrest⟩ => ⟨hv, congrArg (fun k : Crew => { k with sysHold := k.sysHold + 1 }) hrest⟩) (fun _ => rfl) (fun _ => rfl)

/-! ### WATCH (R278) -/

theorem checkGlobal_ok {y : LaneAcc} (h : y.addr + y.n ≤ 2 ^ 57) : checkGlobal y = .ok y := if_pos (decide_eq_true h)

/-- What a word asks for does not tell which lanes of its path execute it, but for a load that is stored compressed. -/
theorem Asked.on {s u : State} {x : Ctx} {m : MemWord} {res : Nat} {accs : List LaneAcc} {on : Mask}
    (h : Asked s u { x with on } m res accs) : Asked s u x m res accs := by
  obtain ⟨⟨hrest, hcores, hcore, hslots⟩, hkeeps, hmoves, ⟨new, before, hreqs, hlines, hlt, hask, hords⟩, hlong, hplain⟩ := h
  refine ⟨⟨hrest, hcores, hcore, hslots⟩, hkeeps, hmoves, ⟨new, before, hreqs, hlines, hlt, fun q hq => ?_, hords⟩, hlong, hplain⟩
  obtain ⟨⟨hcrew, hword, hacc, hfabric, hstage⟩, hid⟩ := hask q hq
  exact ⟨⟨hcrew, hword, hacc, hfabric, hstage⟩, hid⟩

theorem Begins.on {s b : State} {x : Ctx} (h : Begins s b x) (on : Mask) : Begins s b { x with on } := by
  obtain ⟨⟨hrest, hcores, hcore, hslots⟩, hcrew, hmoves, hsame, habsent⟩ := h
  exact ⟨⟨hrest, hcores, hcore, hslots⟩, hcrew, hmoves, hsame, habsent⟩

/-- The access of WATCH, by its lowest lane. -/
def watchAcc (s : State) (x : Ctx) (w : Op) : LaneAcc := { lane := x.low, addr := usrc64 s x w.a, n := 1, b := BitVec.ofNat 128 (usrc s x w.b) }
def watchWord : MemWord := { acc := .watch, width := 1, hostOk := true, uni := true }

theorem exec_watch (w : Op) (s : State) : ∃ body, exec (.watch w) s = sysWord { w, ra := 2 } true s body ∧ ∀ x,
    let b := begun s { w, ra := 2 } x []
    body x b = if 15 < usrc s x w.b then faultLanes b x (raises x.on 0x01)
      else startChecked b { x with on := laneBit x.low } { w, ra := 2 } watchWord [checkGlobal (watchAcc s x w)] := by
  refine ⟨_, show exec (.watch w) s = execWatch w s from rfl, fun x => ?_⟩
  have hreads := readsAs_begun s { w, ra := 2 } x
  rw [watchAcc, ← hreads.usrc, ← hreads.usrc64]
  rfl

theorem watch_asks (hw : ScalarOp w) (h : Issues s w [] false x) (hpriv : (s.at x).priv = true) (hslot : usrc s x w.b ≤ 15)
    (haddr : usrc64 s x w.a < 2 ^ 57) : Asks (.watch w) s x watchWord [watchAcc s x w] := by
  obtain ⟨body, hi, hbody⟩ := exec_watch w s
  have hlow : (laneBit x.low) ≠ 0 := fun h0 => by
    have hlanes := lanesOf_laneBit (mem_lanesOf.1 h.low_mem).1
    rw [h0] at hlanes
    exact List.cons_ne_nil _ _ hlanes.symm
  obtain ⟨u, res, hu, hasked⟩ := startWord_asked (p := { w, ra := 2 }) (x := { x with on := laneBit x.low }) (m := watchWord)
    (l := [watchAcc s x w]) hlow ((begins_begun s { w, ra := 2 } x).on _) (fun hl => absurd hl Bool.false_ne_true)
    (fun y hy hspace => by
      rw [List.mem_singleton.1 hy] at hspace
      exact absurd hspace Nat.zero_ne_one) true
  refine ⟨u, res, _, exec_sysWord (p := { w, ra := 2 }) h hi fun _ => hpriv, hasked.on, ?_⟩
  have hstart := startChecked_ok (begun s { w, ra := 2 } x []) { x with on := laneBit x.low } { w, ra := 2 } watchWord [watchAcc s x w]
  rw [hu] at hstart
  have hcheck : [checkGlobal (watchAcc s x w)] = [watchAcc s x w].map .ok := congrArg (fun y => [y]) (checkGlobal_ok haddr)
  rw [hbody, if_neg (Nat.not_lt.2 hslot), hcheck, hstart]
  exact endsAs_scalar (p := { w, ra := 2 }) hw rfl x _ _

end

end Sys2Proof.Machine

/-! ## Memory does not look at the cores (R172, R179, R180) -/

namespace Sys2Proof.Machine

/-- The parts of a chip that memory does not look at. -/
structure Aside where
  cores : Tab Core
  evq0 : List Event
  evq1 : List Event
  evWait : List (Nat × Event)

def State.aside (s : State) (o : Aside) : State := { s with cores := o.cores, evq0 := o.evq0, evq1 := o.evq1, evWait := o.evWait }

/-- The chip with other cores. -/
def State.onCores (s : State) (o : Tab Core) : State := { s with cores := o }

/-- What changes the chip alike whatever its cores and events are, and gives the same. -/
def CoreFree {β : Type} (f : State → State × β) : Prop := ∀ s o, f (s.aside o) = ((f s).1.aside o, (f s).2)

section
variable (s : State) (o : Aside)

theorem cleanSector_aside (sec : Nat) : cleanSector (s.aside o) sec = (cleanSector s sec).aside o := by
  have hmsc : (s.aside o).msc = s.msc := rfl
  rw [cleanSector, cleanSector, hmsc]
  split
  · split <;> rfl
  · rfl

theorem evictSector_aside (sec : Nat) : evictSector (s.aside o) sec = (evictSector s sec).aside o := by
  rw [evictSector, cleanSector_aside]
  rfl

theorem evictLine_aside (line : Nat) : evictLine (s.aside o) line = (evictLine s line).aside o :=
  List.foldl_hom (State.aside · o) fun s i => evictSector_aside s o (4 * line + i)

theorem mscRoom_aside (sec : Nat) : mscRoom (s.aside o) sec = (mscRoom s sec).aside o := by
  have hothers : mscOthers (s.aside o) sec = mscOthers s sec := rfl
  rw [mscRoom, mscRoom, hothers]
  split
  · rfl
  · exact evictLine_aside { s with free := s.free + 1 } o _

end

theorem coreFree_fill (ctx sec : Nat) (nt : Bool) : CoreFree (loadSector.fill ctx sec nt) := fun s o => by
  simp only [loadSector.fill, mscRoom_aside]
  rfl

theorem coreFree_loadSector (ctx sec : Nat) (nt : Bool) : CoreFree (loadSector · ctx sec nt) := fun s o => by
  have hmsc : (s.aside o).msc = s.msc := rfl
  have hkey (c : Nat) : keyOf (s.aside o) c = keyOf s c := rfl
  simp only [loadSector, hmsc, hkey]
  split
  · split
    · rfl
    · rw [evictSector_aside]
      exact coreFree_fill ctx sec nt _ o
  · exact coreFree_fill ctx sec nt s o

theorem CoreFree.foldl {α β : Type} {g : State × β → α → State × β} (h : ∀ b a, CoreFree (fun s => g (s, b) a)) (l : List α) (b : β) :
    CoreFree (fun s => l.foldl g (s, b)) := fun s o =>
  List.foldl_hom (init := (s, b)) (fun p : State × β => (p.1.aside o, p.2)) fun p a => h p.2 a p.1 o

theorem coreFree_memRead (ctx a n : Nat) (nt : Bool) : CoreFree (memRead · ctx a n nt) := fun s o => by
  have hfold := CoreFree.foldl (g := fun (acc : State × List (Nat × MscSector)) sec =>
      ((loadSector acc.1 ctx sec nt).1, acc.2 ++ [(sec, (loadSector acc.1 ctx sec nt).2)]))
    (fun b sec s o => by simp only [coreFree_loadSector ctx sec nt s o]) (sectorsOf a n) [] s o
  simp only [memRead, hfold]

theorem coreFree_memWrite (ctx : Nat) (cells : List (Nat × Byte)) (nt : Bool) : CoreFree (memWrite · ctx cells nt) := fun s o => by
  refine CoreFree.foldl (g := fun (acc : State × List Nat) sec =>
    let (s, e) := loadSector acc.1 ctx sec nt
    let (e, bad) := mergeGranule sec 1 cells (mergeGranule sec 0 cells (e, acc.2))
    ({ s with msc := tset s.msc sec { e with ctx, first := e.first || nt } }, bad)) (fun b sec s o => ?_) _ [] s o
  simp only [coreFree_loadSector ctx sec nt s o]
  rfl

section
variable (s : State) (o : Aside)

theorem sysPeek_aside (a n : Nat) : sysPeek (s.aside o) a n = sysPeek s a n := by
  simp only [sysPeek, sysRead, coreFree_memRead 0 a n false s o]

theorem sysWrite_aside (a n v : Nat) : sysWrite (s.aside o) a n v = (sysWrite s a n v).aside o := by
  simp only [sysWrite, coreFree_memWrite 0 _ false s o]

theorem entryAddr_aside (link : Nat) : entryAddr (s.aside o) link = entryAddr s link := rfl

theorem chase_aside (ctx big key n link : Nat) : chase (s.aside o) ctx big key n link = chase s ctx big key n link := by
  induction n generalizing link with
  | zero => rfl
  | succ n ih => simp only [chase, sysPeek_aside, entryAddr_aside, ih]

theorem anchorOf_aside (h : Nat) : anchorOf (s.aside o) h = anchorOf s h := sysPeek_aside s o _ 4

theorem walk_aside (ctx va : Nat) : walk (s.aside o) ctx va = walk s ctx va := by
  simp only [walk, chase_aside, anchorOf_aside, sysPeek_aside, entryAddr_aside]

/-- What is written leaves the events alone, so another chip's cores may be put in before or after. -/
theorem sysWrite_onCores (c : Tab Core) (a n v : Nat) : sysWrite (s.onCores c) a n v = (sysWrite s a n v).onCores c := by
  have hown : sysWrite s a n v = (sysWrite s a n v).aside { s with } := sysWrite_aside s { s with } a n v
  have hother : sysWrite (s.onCores c) a n v = (sysWrite s a n v).aside { s with cores := c } := sysWrite_aside s { s with cores := c } a n v
  rw [hother]
  conv_rhs => rw [hown]
  rfl

theorem sysPeek_onCores (c : Tab Core) (a n : Nat) : sysPeek (s.onCores c) a n = sysPeek s a n := sysPeek_aside s { s with cores := c } a n

theorem walk_onCores (c : Tab Core) (ctx va : Nat) : walk (s.onCores c) ctx va = walk s ctx va := walk_aside s { s with cores := c } ctx va

theorem post_onCores (o : Tab Core) (die : Nat) (e : Event) : (s.onCores o).post die e = (s.post die e).onCores o := by
  have h0 : (s.onCores o).evq0 = s.evq0 := rfl
  have h1 : (s.onCores o).evq1 = s.evq1 := rfl
  rw [State.post, State.post, h0, h1]
  by_cases hd : die = 0
  · simp only [hd, if_true]
    split <;> rfl
  · simp only [hd, if_false]
    split <;> rfl

end

theorem walkReport_onCores (s : State) (o : Tab Core) (die ctx va : Nat) : walkReport (s.onCores o) die ctx va =
    ((walkReport s die ctx va).1.onCores o, (walkReport s die ctx va).2) := by
  simp only [walkReport, walk_onCores, post_onCores]
  split <;> rfl

/-- A walk's report leaves what the next walk finds. -/
theorem walk_walkReport (s : State) (die ctx va c v : Nat) : walk (walkReport s die ctx va).1 c v = walk s c v := by
  simp only [walkReport]
  split
  · obtain ⟨a, b, q, h⟩ := post_eq s die { typ := 0x0C, value := w32 ctx, addr := w64 va }
    rw [h]
    exact walk_aside s { s with evq0 := a, evq1 := b, evWait := q } c v
  · rfl

theorem cacheOnly_walkReport (s : State) (die ctx va : Nat) : CacheOnly s (walkReport s die ctx va).1 := by
  simp only [walkReport]
  split
  · obtain ⟨a, b, q, h⟩ := post_eq s die { typ := 0x0C, value := w32 ctx, addr := w64 va }
    rw [h]
    exact ⟨rfl⟩
  · exact .refl s

theorem cacheOnly_sysWrite (s : State) (a n v : Nat) : CacheOnly s (sysWrite s a n v) := cacheOnly_memWrite s 0 _ false

theorem CacheOnly.cores {s t : State} (h : CacheOnly s t) : t.cores = s.cores := by rw [h.eq]
theorem CacheOnly.nextId {s t : State} (h : CacheOnly s t) : t.nextId = s.nextId := by rw [h.eq]

end Sys2Proof.Machine

/-! ## INVTLB and PGATTR (R282, R283) -/

namespace Sys2Proof.Machine

/-! ### A change of every core -/

def State.mapCores (s : State) (f : Core → Core) : State := { s with cores := s.cores.map (fun c => (c.1, f c.2)) }

/-- A change of a core that leaves its seats alone, and a core without anything. -/
structure SeatFree (f : Core → Core) : Prop where
  fresh : f {} = {}
  seats : ∀ o slots busy, f { o with slots, busy } = { f o with slots, busy }

section
variable {f : Core → Core} (hf : SeatFree f)
include hf

theorem SeatFree.slots (o : Core) : (f o).slots = o.slots := (congrArg Core.slots (hf.seats o o.slots o.busy) :)
theorem SeatFree.busy (o : Core) : (f o).busy = o.busy := (congrArg Core.busy (hf.seats o o.slots o.busy) :)

theorem core_mapCores (s : State) (c : Nat) : (s.mapCores f).core c = f (s.core c) := tget_map_snd (d := ({} : Core)) (g := f) hf.fresh s.cores c

theorem crew_mapCores (s : State) (c k : Nat) : (s.mapCores f).crew c k = s.crew c k := by
  rw [State.crew, core_mapCores hf, Core.crew, hf.slots]
  rfl

theorem OnlyCrew.mapCores {s t : State} {x : Ctx} (h : OnlyCrew s t x) : OnlyCrew (s.mapCores f) (t.mapCores f) x := by
  obtain ⟨hrest, hcores, hcore, hslots⟩ := h
  refine ⟨congrArg (fun v : State => { v with cores := (s.mapCores f).cores }) hrest, fun c hc => ?_, ?_, fun k hk => ?_⟩
  · rw [core_mapCores hf, core_mapCores hf, hcores c hc]
  · rw [core_mapCores hf, core_mapCores hf, hf.slots, hf.busy]
    have e := hf.seats (t.core x.c) (s.core x.c).slots (s.core x.c).busy
    rw [hcore] at e
    exact e.symm
  · rw [crew_mapCores hf, crew_mapCores hf, hslots k hk]

theorem BegunOnto.mapCores {s u b : State} {x : Ctx} (h : BegunOnto s u b x) : BegunOnto s (u.mapCores f) (b.mapCores f) x := by
  obtain ⟨honly, hkeeps, hmoves, hresults⟩ := h
  have hat (v : State) : (v.mapCores f).at x = v.at x := crew_mapCores hf v x.c x.k
  refine ⟨honly.mapCores hf, ?_, fun l => ?_, ?_⟩
  · rw [hat, hat]
    exact hkeeps
  · rw [hat]
    exact hmoves l
  · rw [hat]
    exact hresults

end

theorem BegunOnto.mapReqs {s u b : State} {x : Ctx} (h : BegunOnto s u b x) (f : Req → Req) :
    BegunOnto s { u with reqs := u.reqs.map f } { b with reqs := b.reqs.map f } x := by
  obtain ⟨⟨hrest, hcores, hcore, hslots⟩, hkeeps, hmoves, hresults⟩ := h
  exact ⟨⟨congrArg (fun v : State => { v with reqs := v.reqs.map f }) hrest, hcores, hcore, hslots⟩, hkeeps, hmoves, hresults⟩

/-- The TLBs of a core, of which these tests keep entries. -/
def keepCore (small big : TlbEnt → Bool) (o : Core) : Core := { o with tlb := o.tlb.filter small, tlbBig := o.tlbBig.filter big }

theorem seatFree_keepCore (small big : TlbEnt → Bool) : SeatFree (keepCore small big) := ⟨rfl, fun _ _ _ => rfl⟩

theorem crew_keepTlb (s : State) (small big : TlbEnt → Bool) (c k : Nat) : (keepTlb s small big).crew c k = s.crew c k :=
  crew_mapCores (seatFree_keepCore small big) s c k

theorem BegunOnto.keepTlb {s u b : State} {x : Ctx} (h : BegunOnto s u b x) (small big : TlbEnt → Bool) :
    BegunOnto s (Machine.keepTlb u small big) (Machine.keepTlb b small big) x :=
  (h.mapCores (seatFree_keepCore small big)).mapReqs _

section
variable {w : Op} {s : State} {x : Ctx}

/-! ### INVTLB (R282) -/

/-- What INVTLB makes of the chip. -/
def invalidated (s : State) (m ctx va : Nat) : State :=
  if m = 0 then keepTlb s (fun _ => false) (fun _ => false)
  else if m = 1 then keepTlb s (fun e => e.ctx != ctx) (fun e => e.ctx != ctx)
  else dropPage s ctx va

theorem exec_invtlb (w : Op) (s : State) : ∃ body, exec (.invtlb w) s = sysWord { w, rb := 2 } true s body ∧ ∀ x,
    body x (begun s { w, rb := 2 } x []) = answered (invalidated (begun s { w, rb := 2 } x []) w.mn (usrc s x w.a) (usrc64 s x w.b)) x := by
  refine ⟨_, show exec (.invtlb w) s = execInvtlb w s from rfl, fun x => ?_⟩
  have hreads := readsAs_begun s { w, rb := 2 } x
  rw [← hreads.usrc, ← hreads.usrc64]
  rfl

theorem invalidated_kept (m ctx va : Nat) : ∃ small big, ∀ s, invalidated s m ctx va = keepTlb s small big := by
  by_cases h0 : m = 0
  · exact ⟨_, _, fun s => if_pos h0⟩
  · by_cases h1 : m = 1
    · exact ⟨_, _, fun s => (if_neg h0).trans (if_pos h1)⟩
    · exact ⟨_, _, fun s => (if_neg h0).trans (if_neg h1)⟩

theorem invtlb_does (h : Issues s w [] false x) (hpriv : (s.at x).priv = true) :
    Does (.invtlb w) s (invalidated s w.mn (usrc s x w.a) (usrc64 s x w.b)) x w (LongLeft s x []) := by
  obtain ⟨body, hi, hbody⟩ := exec_invtlb w s
  refine does_sysWord (p := { w, rb := 2 }) h hi (fun _ => hpriv) (.operands w [] (by decide) (by decide)) ?_
  obtain ⟨small, big, hkept⟩ := invalidated_kept w.mn (usrc s x w.a) (usrc64 s x w.b)
  have hb : BegunOnto s s (begun s { w, rb := 2 } x []) x := .chip rfl _ x
  rw [hbody, hkept, hkept]
  exact (hb.keepTlb small big).answered (Nat.le_refl _)

/-- An entry's page as a walk looks for it. -/
def walkEnt (r : Req) (n : Nat) : TlbEnt := { ctx := r.ctx, vpn := r.line / 2 ^ n, tr := keepTlb.noTrans }

theorem keepTlb_eq (s : State) {small big : TlbEnt → Bool} {hit : Req → Bool} (hhit : ∀ r, hit r = !(small (walkEnt r 16) && big (walkEnt r 21))) :
    keepTlb s small big = { s with
      cores := s.cores.map (fun c => (c.1, { c.2 with tlb := c.2.tlb.filter small, tlbBig := c.2.tlbBig.filter big }))
      reqs := s.reqs.map (fun r => if r.stage == .walk && hit r then { r with keepOld := true } else r) } := by
  simp only [hhit]
  rfl

/-! ### PGATTR (R283) -/

/-- What PGATTR makes of the byte of an entry, and whether it takes something away that a TLB may hold. -/
def newAttrs (w : Op) (old : Nat) : Nat := (old &&& (255 - bf w.imm.toNat 8 8)) ||| bf w.imm.toNat 0 8
def lessAttrs (old new : Nat) : Bool := (bit old 2 && !(bit new 2)) || (bit old 3 && !(bit new 3)) || bit old 4 != bit new 4 || bit old 5 != bit new 5

/-- The chip with the attributes of an entry changed. -/
def attrsSet (s : State) (w : Op) (ctx va link : Nat) : State :=
  let a := entryAddr s link
  let old := sysPeek s a 1
  let t := sysWrite s a 1 (newAttrs w old)
  if lessAttrs old (newAttrs w old) then dropPage t ctx va else t

/-- The pages of a translation. -/
def pagesOf (t : Trans) (va : Nat) : List Nat :=
  let g := t.gpn - (if t.big then bf va 16 5 else 0)
  if t.big then (List.range 32).map (g + ·) else [g]

theorem pagesOf_eq (t : Trans) (va : Nat) : pagesOf t va = if t.big then (List.range 32).map (t.gpn - va / 65536 % 32 + ·) else [t.gpn] := by
  rw [pagesOf]
  cases t.big <;> rfl

/-- What PGATTR does in the state that a walk has left. -/
def pgattrFound (s : State) (x : Ctx) (w : Op) (ctx va : Nat) : Option (Nat × Trans) → State
  | none => giveLong s x w.d 1
  | some (link, t) =>
    if t.fw || (bit (bf w.imm.toNat 0 8) 4 && (tget? s.hostPages t.gpn).isSome) then giveLong s x w.d 2
    else
      let old := sysPeek s (entryAddr s link) 1
      if bit old 4 && !(bit (newAttrs w old) 4) then startJob (attrsSet s w ctx va link) x w.d 1 (.pgattr (pagesOf t va) none)
      else giveLong (attrsSet s w ctx va link) x w.d 0

theorem exec_pgattr (w : Op) (s : State) : exec (.pgattr w) s = sysWord { w, rb := 2 } true s (fun x b =>
    let r := (walkReport b (dieOfCore x.c) (usrc b x w.a) (usrc64 b x w.b)).1
    pgattrFound r x w (usrc b x w.a) (usrc64 b x w.b) (if 2 ^ 57 ≤ usrc64 b x w.b then none else (walk r (usrc b x w.a) (usrc64 b x w.b)).1)) := by
  refine Eq.trans (show exec (.pgattr w) s = execPgattr w s from rfl) ?_
  unfold execPgattr
  refine congrArg (sysWord { w, rb := 2 } true s) (funext fun x => funext fun b => ?_)
  dsimp only
  generalize (walkReport b (dieOfCore x.c) (usrc b x w.a) (usrc64 b x w.b)).1 = r
  generalize (if 2 ^ 57 ≤ usrc64 b x w.b then none else (walk r (usrc b x w.a) (usrc64 b x w.b)).1) = found
  cases found <;> rfl

/-- What the walk for PGATTR's address leaves, and what it finds. -/
def attrState (s : State) (x : Ctx) (w : Op) : State := (walkReport s (dieOfCore x.c) (usrc s x w.a) (usrc64 s x w.b)).1
def attrEntry (s : State) (x : Ctx) (w : Op) : Option (Nat × Trans) :=
  if 2 ^ 57 ≤ usrc64 s x w.b then none else (walk s (usrc s x w.a) (usrc64 s x w.b)).1

theorem cacheOnly_attrState : CacheOnly s (attrState s x w) := cacheOnly_walkReport ..

theorem BegunOnto.attrState (s : State) (x : Ctx) (w : Op) (p : Pre) :
    BegunOnto s (Machine.attrState s x w) ((Machine.attrState s x w).onCores (begun s p x []).cores) x := .chip cacheOnly_attrState.cores p x

theorem pgattr_acts (w : Op) (s : State) : ∃ body, exec (.pgattr w) s = sysWord { w, rb := 2 } true s body ∧ ∀ x, body x (begun s { w, rb := 2 } x []) =
    pgattrFound ((attrState s x w).onCores (begun s { w, rb := 2 } x []).cores) x w (usrc s x w.a) (usrc64 s x w.b) (attrEntry s x w) := by
  refine ⟨_, exec_pgattr w s, fun x => ?_⟩
  have hreads := readsAs_begun s { w, rb := 2 } x
  have hwalk := walkReport_onCores s (begun s { w, rb := 2 } x []).cores (dieOfCore x.c) (usrc s x w.a) (usrc64 s x w.b)
  rw [show s.onCores (begun s { w, rb := 2 } x []).cores = begun s { w, rb := 2 } x [] from rfl] at hwalk
  simp only [hreads.usrc, hreads.usrc64, hwalk, walk_onCores, walk_walkReport]
  rfl

/-- A write of the tables, and the pages dropped after it, act on the chip as before. -/
theorem BegunOnto.attrsSet {u : State} (hu : CacheOnly s u) (p : Pre) (ctx va link : Nat) :
    BegunOnto s (Machine.attrsSet u w ctx va link) (Machine.attrsSet (u.onCores (begun s p x []).cores) w ctx va link) x := by
  have hentry : entryAddr (u.onCores (begun s p x []).cores) link = entryAddr u link := rfl
  simp only [Machine.attrsSet, hentry, sysPeek_onCores, sysWrite_onCores]
  have hwrite := hu.trans (cacheOnly_sysWrite u (entryAddr u link) 1 (newAttrs w (sysPeek u (entryAddr u link) 1)))
  have hb : BegunOnto s _ ((sysWrite u _ 1 _).onCores (begun s p x []).cores) x := .chip hwrite.cores p x
  split
  · exact hb.keepTlb _ _
  · exact hb

theorem nextId_attrsSet (u : State) (w : Op) (ctx va link : Nat) : (attrsSet u w ctx va link).nextId = u.nextId := by
  have hwrite := (cacheOnly_sysWrite u (entryAddr u link) 1 (newAttrs w (sysPeek u (entryAddr u link) 1))).nextId
  rw [attrsSet]
  split
  · exact hwrite
  · exact hwrite

theorem at_attrsSet (u : State) (w : Op) (ctx va link : Nat) : (attrsSet u w ctx va link).at x = u.at x := by
  have hwrite := (cacheOnly_sysWrite u (entryAddr u link) 1 (newAttrs w (sysPeek u (entryAddr u link) 1))).cores
  have hat : (sysWrite u (entryAddr u link) 1 (newAttrs w (sysPeek u (entryAddr u link) 1))).at x = u.at x := by
    rw [State.at, State.crew, State.core, hwrite]
    rfl
  rw [attrsSet]
  split
  · exact (crew_keepTlb _ _ _ x.c x.k).trans hat
  · exact hat

variable (h : Issues s w [] false x) (hpriv : (s.at x).priv = true) (hd : Opd.writes w.d = true)
include h hpriv

section
include hd

theorem pgattr_absent (hno : attrEntry s x w = none) : Answers (.pgattr w) s (attrState s x w) x w 1 := by
  obtain ⟨body, hi, hbody⟩ := pgattr_acts w s
  refine answers_of_giveLong (p := { w, rb := 2 }) h hi (fun _ => hpriv) (.operands w [] (by decide) (by decide)) hd
    (.attrState s x w { w, rb := 2 }) (Nat.le_of_eq cacheOnly_attrState.nextId.symm) ?_
  rw [hbody, hno]
  rfl

variable {link : Nat} {t : Trans} (hfound : attrEntry s x w = some (link, t))
include hfound

/-- A page of a window, or D on a page of the host. -/
theorem pgattr_refused (hno : (t.fw || (bit (bf w.imm.toNat 0 8) 4 && (tget? s.hostPages t.gpn).isSome)) = true) :
    Answers (.pgattr w) s (attrState s x w) x w 2 := by
  obtain ⟨body, hi, hbody⟩ := pgattr_acts w s
  have hpages : (attrState s x w).hostPages = s.hostPages := by rw [cacheOnly_attrState.eq]
  refine answers_of_giveLong (p := { w, rb := 2 }) h hi (fun _ => hpriv) (.operands w [] (by decide) (by decide)) hd
    (.attrState s x w { w, rb := 2 }) (Nat.le_of_eq cacheOnly_attrState.nextId.symm) ?_
  rw [hbody, hfound]
  rw [← hpages] at hno
  exact if_pos hno

end

variable {link : Nat} {t : Trans} (hfound : attrEntry s x w = some (link, t))
  (hno : (t.fw || (bit (bf w.imm.toNat 0 8) 4 && (tget? s.hostPages t.gpn).isSome)) = false)
include hfound hno

omit h hpriv in
/-- The attributes are changed; where D is taken away, the records of the pages are waited for. -/
theorem pgattrFound_sets (c : Tab Core) : pgattrFound ((attrState s x w).onCores c) x w (usrc s x w.a) (usrc64 s x w.b) (attrEntry s x w) =
    let old := sysPeek (attrState s x w) (entryAddr (attrState s x w) link) 1
    let u := attrsSet ((attrState s x w).onCores c) w (usrc s x w.a) (usrc64 s x w.b) link
    if bit old 4 && !(bit (newAttrs w old) 4) then startJob u x w.d 1 (.pgattr (pagesOf t (usrc64 s x w.b)) none) else giveLong u x w.d 0 := by
  have hpages : ((attrState s x w).onCores c).hostPages = s.hostPages := by
    rw [State.onCores, cacheOnly_attrState.eq]
  rw [hfound, pgattrFound]
  simp only [hpages, hno, Bool.false_eq_true, if_false, sysPeek_onCores]
  rfl

theorem pgattr_starts (hlose : (let old := sysPeek (attrState s x w) (entryAddr (attrState s x w) link) 1; bit old 4 && !(bit (newAttrs w old) 4)) = true) :
    Starts (.pgattr w) s (attrsSet (attrState s x w) w (usrc s x w.a) (usrc64 s x w.b) link) x w 1 (.pgattr (pagesOf t (usrc64 s x w.b)) none) := by
  obtain ⟨body, hi, hbody⟩ := pgattr_acts w s
  refine starts_of_startJob (p := { w, rb := 2 }) h hi (fun _ => hpriv) (.operands w [] (by decide) (by decide))
    (.attrsSet cacheOnly_attrState { w, rb := 2 } _ _ link) ?_ ?_ ?_
  · rw [nextId_attrsSet, nextId_attrsSet]
    rfl
  · rw [at_attrsSet, State.at, State.crew, State.core, cacheOnly_attrState.cores]
    rfl
  · exact (hbody x).trans ((pgattrFound_sets hfound hno _).trans (if_pos hlose))

theorem pgattr_sets (hd : Opd.writes w.d = true)
    (hkeep : (let old := sysPeek (attrState s x w) (entryAddr (attrState s x w) link) 1; bit old 4 && !(bit (newAttrs w old) 4)) = false) :
    Answers (.pgattr w) s (attrsSet (attrState s x w) w (usrc s x w.a) (usrc64 s x w.b) link) x w 0 := by
  obtain ⟨body, hi, hbody⟩ := pgattr_acts w s
  refine answers_of_giveLong (p := { w, rb := 2 }) h hi (fun _ => hpriv) (.operands w [] (by decide) (by decide)) hd
    (.attrsSet cacheOnly_attrState { w, rb := 2 } _ _ link) ?_ ?_
  · rw [nextId_attrsSet]
    exact Nat.le_of_eq cacheOnly_attrState.nextId.symm
  · exact (hbody x).trans ((pgattrFound_sets hfound hno _).trans (if_neg (Bool.eq_false_iff.1 hkeep)))

end

end Sys2Proof.Machine

/-! ## KEYDROP (R261, R277) -/

namespace Sys2Proof.Machine

/-! ### Sectors that leave the cache unwritten -/

/-- A sector of the context leaves the cache; a dirty one leaves its granules poisoned. -/
def discardSector (s : State) (e : Nat × MscSector) : State :=
  dropSector (if e.2.dirty then (s.setPoison (2 * e.1) true).setPoison (2 * e.1 + 1) true else s) e.1

theorem tget_setPoison (s : State) (g n : Nat) : tget false (s.setPoison g true).poison n = true ↔ n = g ∨ tget false s.poison n = true := by
  have hset : (s.setPoison g true).poison = tset s.poison g true := if_neg (t := tdel s.poison g) (Ne.symm Bool.false_ne_true)
  rw [hset]
  by_cases hn : n = g
  · simp [hn]
  · simp [hn, tget_tset_ne]

/-- These sectors have left the cache. -/
structure Discarded (l : List (Nat × MscSector)) (s t : State) : Prop where
  eq : t = { s with msc := t.msc, poison := t.poison }
  msc : ∀ n, tget? t.msc n = if n ∈ l.map (·.1) then none else tget? s.msc n
  keeps : ∀ g, tget false s.poison g = true → tget false t.poison g = true
  poisoned : ∀ e ∈ l, e.2.dirty = true → tget false t.poison (2 * e.1) = true ∧ tget false t.poison (2 * e.1 + 1) = true

theorem discardSector_discards (s : State) (e : Nat × MscSector) : Discarded [e] s (discardSector s e) := by
  have hmsc (m : Tab MscSector) (n : Nat) : tget? (tdel m e.1) n = if n ∈ [e].map (·.1) then none else tget? m n := by
    by_cases hn : n = e.1 <;> simp [hn]
  rw [discardSector]
  cases hd : e.2.dirty with
  | false =>
    refine ⟨rfl, hmsc s.msc, fun _ h => h, fun e' he' hdirty => ?_⟩
    rw [List.mem_singleton.1 he', hd] at hdirty
    exact absurd hdirty Bool.false_ne_true
  | true =>
    refine ⟨rfl, hmsc s.msc, fun g hg => ?_, fun e' he' _ => ?_⟩
    · exact (tget_setPoison _ _ _).2 (.inr ((tget_setPoison _ _ _).2 (.inr hg)))
    · rw [List.mem_singleton.1 he']
      exact ⟨(tget_setPoison _ _ _).2 (.inr ((tget_setPoison _ _ _).2 (.inl rfl))), (tget_setPoison _ _ _).2 (.inl rfl)⟩

theorem Discarded.append {a b : List (Nat × MscSector)} {s t u : State} (h : Discarded a s t) (g : Discarded b t u) : Discarded (a ++ b) s u := by
  refine ⟨?_, fun n => ?_, fun n hn => g.keeps n (h.keeps n hn), fun e he hdirty => ?_⟩
  · exact g.eq.trans (congrArg (fun v : State => { v with msc := u.msc, poison := u.poison }) h.eq)
  · rw [g.msc, h.msc]
    simp only [List.map_append, List.mem_append, ← ite_or, or_comm]
  · rcases List.mem_append.1 he with ha | hb
    · obtain ⟨h0, h1⟩ := h.poisoned e ha hdirty
      exact ⟨g.keeps _ h0, g.keeps _ h1⟩
    · exact g.poisoned e hb hdirty

theorem foldl_discardSector (l : List (Nat × MscSector)) (s : State) : Discarded l s (l.foldl discardSector s) := by
  induction l generalizing s with
  | nil => exact ⟨rfl, fun _ => rfl, fun _ h => h, fun _ h => absurd h List.not_mem_nil⟩
  | cons e l ih => exact (discardSector_discards s e).append (ih _)

theorem discardSector_onCores (s : State) (c : Tab Core) (e : Nat × MscSector) : discardSector (s.onCores c) e = (discardSector s e).onCores c := by
  rw [discardSector, discardSector]
  split <;> rfl

/-! ### The context's key goes -/

/-- The sectors that a context holds, and the chip without them. -/
def sectorsHeld (s : State) (a : Nat) : List (Nat × MscSector) := s.msc.filter (fun e => e.2.ctx == a)
def sectorsGone (s : State) (a : Nat) : State := (sectorsHeld s a).foldl discardSector s

theorem sectorsGone_discards (s : State) (a : Nat) : Discarded (sectorsHeld s a) s (sectorsGone s a) := foldl_discardSector _ s

theorem sectorsGone_onCores (s : State) (c : Tab Core) (a : Nat) : sectorsGone (s.onCores c) a = (sectorsGone s a).onCores c :=
  List.foldl_hom (State.onCores · c) fun s e => discardSector_onCores s c e

/-- What KEYDROP makes of the chip. -/
def keyDropped (s : State) (a : Nat) : State :=
  { dropContext s a with keys := tdel (dropContext s a).keys a, keysGone := a :: (dropContext s a).keysGone.filter (· != a) }

theorem dropContext_eq (s : State) (a : Nat) : dropContext s a = { (sectorsGone s a).mapCores (fun o => { o with l1 := [] }) with
    reqs := (sectorsGone s a).reqs.map (fun r => { r with noFill := 0xF }) } := rfl

theorem BegunOnto.dropContext (s : State) (p : Pre) (x : Ctx) (a : Nat) :
    BegunOnto s (Machine.dropContext s a) (Machine.dropContext (begun s p x []) a) x := by
  have hcores : (sectorsGone s a).cores = s.cores := by rw [(sectorsGone_discards s a).eq]
  have hgone : BegunOnto s (sectorsGone s a) (sectorsGone (begun s p x []) a) x := by
    have hb := sectorsGone_onCores s (begun s p x []).cores a
    rw [show s.onCores (begun s p x []).cores = begun s p x [] from rfl] at hb
    rw [hb]
    exact .chip hcores p x
  rw [dropContext_eq, dropContext_eq]
  exact (hgone.mapCores (f := fun o => { o with l1 := [] }) ⟨rfl, fun _ _ _ => rfl⟩).mapReqs _

theorem BegunOnto.keyDropped (s : State) (p : Pre) (x : Ctx) (a : Nat) :
    BegunOnto s (Machine.keyDropped s a) (Machine.keyDropped (begun s p x []) a) x := by
  obtain ⟨⟨hrest, hcores, hcore, hslots⟩, hkeeps, hmoves, hresults⟩ := BegunOnto.dropContext s p x a
  exact ⟨⟨congrArg (fun v : State => { v with keys := tdel v.keys a, keysGone := a :: v.keysGone.filter (· != a) }) hrest, hcores, hcore, hslots⟩,
    hkeeps, hmoves, hresults⟩

/-- A context's key is gone, with what the caches held for it. -/
structure KeyGone (a : Nat) (s t : State) : Prop where
  keys : t.keys = tdel s.keys a
  gone : t.keysGone = a :: s.keysGone.filter (· != a)
  msc : ∀ n, tget? t.msc n = if n ∈ (sectorsHeld s a).map (·.1) then none else tget? s.msc n
  poisoned : ∀ e ∈ sectorsHeld s a, e.2.dirty = true → tget false t.poison (2 * e.1) = true ∧ tget false t.poison (2 * e.1 + 1) = true
  l1 : ∀ c, (t.core c).l1 = []

theorem keyDropped_gone (s : State) (a : Nat) : KeyGone a s (keyDropped s a) := by
  obtain ⟨heq, hmsc, -, hpoisoned⟩ := sectorsGone_discards s a
  refine ⟨?_, ?_, hmsc, hpoisoned, fun c => ?_⟩
  · have hkeys : (sectorsGone s a).keys = s.keys := by rw [heq]
    exact congrArg (tdel · a) hkeys
  · have hgone : (sectorsGone s a).keysGone = s.keysGone := by rw [heq]
    exact congrArg (fun l => a :: l.filter (· != a)) hgone
  · exact congrArg Core.l1 (core_mapCores (f := fun o => { o with l1 := [] }) ⟨rfl, fun _ _ _ => rfl⟩ (sectorsGone s a) c)

/-- A word that goes on in its crew leaves that so. -/
theorem KeyGone.onlyCrew {a : Nat} {s t u : State} {x : Ctx} (h : KeyGone a s t) (g : OnlyCrew t u x) : KeyGone a s u := by
  have hmsc : u.msc = t.msc := (congrArg State.msc g.rest :)
  have hpoison : u.poison = t.poison := (congrArg State.poison g.rest :)
  refine ⟨(congrArg State.keys g.rest :).trans h.keys, (congrArg State.keysGone g.rest :).trans h.gone, fun n => ?_, fun e he hd => ?_, fun c => ?_⟩
  · rw [hmsc, h.msc]
  · rw [hpoison]
    exact h.poisoned e he hd
  · exact (g.core_rest (f := Core.l1) (fun _ _ _ => rfl) c).trans (h.l1 c)

theorem KeyGone.keyOf_same {a : Nat} {s t : State} (h : KeyGone a s t) : keyOf t a = none := by
  rw [keyOf, h.keys, tget?_tdel_same, ite_self]

theorem KeyGone.keyOf_ne {a c : Nat} {s t : State} (h : KeyGone a s t) (hc : c ≠ a) : keyOf t c = keyOf s c := by
  rw [keyOf, h.keys, tget?_tdel_ne _ hc, keyOf]

theorem KeyGone.mem_gone {a : Nat} {s t : State} (h : KeyGone a s t) (c : Nat) : c ∈ t.keysGone ↔ c = a ∨ c ∈ s.keysGone := by
  rw [h.gone, List.mem_cons, List.mem_filter, bne_iff_ne]
  by_cases hc : c = a <;> simp [hc]

/-- Where the cache lists a sector once, those of the context are gone and the others are there. -/
theorem KeyGone.sector {a n : Nat} {e : MscSector} {s t : State} (h : KeyGone a s t) (hnd : (s.msc.map (·.1)).Nodup) (he : tget? s.msc n = some e) :
    if e.ctx = a then tget? t.msc n = none ∧ (e.dirty = true → tget false t.poison (2 * n) = true ∧ tget false t.poison (2 * n + 1) = true)
    else tget? t.msc n = some e := by
  have hmem := mem_of_tget? he
  have hheld : n ∈ (sectorsHeld s a).map (·.1) ↔ e.ctx = a := by
    refine ⟨fun hn => ?_, fun ha => List.mem_map.2 ⟨(n, e), List.mem_filter.2 ⟨hmem, beq_iff_eq.2 ha⟩, rfl⟩⟩
    obtain ⟨⟨m, f⟩, hf, rfl⟩ := List.mem_map.1 hn
    obtain ⟨hin, hctx⟩ := List.mem_filter.1 hf
    rw [← (Prod.mk.inj (List.inj_on_of_nodup_map hnd hin hmem rfl)).2]
    exact beq_iff_eq.1 hctx
  by_cases ha : e.ctx = a
  · rw [if_pos ha, h.msc, if_pos (hheld.2 ha)]
    exact ⟨rfl, h.poisoned (n, e) (List.mem_filter.2 ⟨hmem, beq_iff_eq.2 ha⟩)⟩
  · rw [if_neg ha, h.msc, if_neg (mt hheld.1 ha), he]

section
variable {w : Op} {s : State} {x : Ctx}

theorem exec_keydrop (w : Op) (s : State) : ∃ body, exec (.keydrop w) s = sysWord { w } true s body ∧ ∀ x,
    let b := begun s { w } x []
    let a := usrc s x w.a
    body x b = if 4095 < a then giveLong b x w.d 3 else if (keyOf s a).isNone then giveLong b x w.d 1 else giveLong (keyDropped b a) x w.d 0 := by
  refine ⟨_, show exec (.keydrop w) s = execKeydrop w s from rfl, fun x => ?_⟩
  rw [← (readsAs_begun s { w } x).usrc]
  rfl

variable (h : Issues s w [] false x) (hpriv : (s.at x).priv = true) (hd : Opd.writes w.d = true)
include h hpriv hd

theorem keydrop_bad (ha : 4095 < usrc s x w.a) : Answers (.keydrop w) s s x w 3 := by
  obtain ⟨body, hi, hbody⟩ := exec_keydrop w s
  exact answers_only (p := { w }) h hi (fun _ => hpriv) (.operands w [] (by decide) (by decide)) hd ((hbody x).trans (if_pos ha))

theorem keydrop_absent (ha : usrc s x w.a ≤ 4095) (hno : keyOf s (usrc s x w.a) = none) : Answers (.keydrop w) s s x w 1 := by
  obtain ⟨body, hi, hbody⟩ := exec_keydrop w s
  exact answers_only (p := { w }) h hi (fun _ => hpriv) (.operands w [] (by decide) (by decide)) hd
    ((hbody x).trans ((if_neg (Nat.not_lt.2 ha)).trans (if_pos (Option.isNone_iff_eq_none.2 hno))))

theorem keydrop_drops (ha : usrc s x w.a ≤ 4095) (hkey : keyOf s (usrc s x w.a) ≠ none) : Completes (.keydrop w) s fun t =>
    LongLeft s x (wrOf x false w.d (fun _ => w32 0)) (t.at x).results ∧ KeyGone (usrc s x w.a) s t := by
  obtain ⟨body, hi, hbody⟩ := exec_keydrop w s
  have hid : (keyDropped (begun s { w } x []) (usrc s x w.a)).nextId = s.nextId := by
    have hgone : (sectorsGone (begun s { w } x []) (usrc s x w.a)).nextId = s.nextId := by rw [(sectorsGone_discards _ _).eq]; rfl
    exact hgone
  obtain ⟨t, ht, honly, -, -, hleft⟩ := answers_of_giveLong (p := { w }) h hi (fun _ => hpriv) (.operands w [] (by decide) (by decide)) hd
    (.keyDropped s { w } x (usrc s x w.a)) (Nat.le_of_eq hid.symm)
    ((hbody x).trans ((if_neg (Nat.not_lt.2 ha)).trans (if_neg (mt Option.isNone_iff_eq_none.1 hkey))))
  exact ⟨t, ht, hleft, (keyDropped_gone s _).onlyCrew honly⟩

end

end Sys2Proof.Machine

/-! ## The system words as a whole (R277, R278, R280 to R284) -/

namespace Sys2Proof.Machine

section
variable {w : Op} {s : State} {x : Ctx}

/-- What INVTLB keeps in the small and the big entries, and for which walks the old entry goes on. -/
def invForms (a va : Nat) : List (Nat × (TlbEnt → Bool) × (TlbEnt → Bool) × (Req → Bool)) :=
  let page (e : TlbEnt) (n : Nat) : Bool := e.ctx == a && e.vpn == va / 2 ^ n
  let on (r : Req) (n : Nat) : Bool := r.line / 2 ^ n == va / 2 ^ n
  [(0, fun _ => false, fun _ => false, fun _ => true), (1, fun e => e.ctx != a, fun e => e.ctx != a, fun r => r.ctx == a),
    (2, fun e => !(page e 16), fun e => !(page e 21), fun r => r.ctx == a && (on r 16 || on r 21))]

theorem invalidated_eq (s : State) (a va : Nat) : ∀ e ∈ invForms a va, invalidated s e.1 a va = { s with
    cores := s.cores.map (fun c => (c.1, { c.2 with tlb := c.2.tlb.filter e.2.1, tlbBig := c.2.tlbBig.filter e.2.2.1 }))
    reqs := s.reqs.map (fun r => if r.stage == .walk && e.2.2.2 r then { r with keepOld := true } else r) } := by
  have hpage (r : Req) : (r.ctx == a && (r.line / 2 ^ 16 == va / 2 ^ 16 || r.line / 2 ^ 21 == va / 2 ^ 21)) =
      !(!(r.ctx == a && r.line / 2 ^ 16 == va / 2 ^ 16) && !(r.ctx == a && r.line / 2 ^ 21 == va / 2 ^ 21)) := by
    rw [Bool.not_and, Bool.not_not, Bool.not_not, Bool.and_or_distrib_left]
  intro e he
  simp only [invForms, List.mem_cons, List.not_mem_nil, or_false] at he
  rcases he with rfl | rfl | rfl
  · exact keepTlb_eq s fun _ => rfl
  · exact keepTlb_eq s fun r => by simp [walkEnt, bne]
  · exact keepTlb_eq s hpage

theorem invtlb_forms (h : Issues s w [] false x) (hpriv : (s.at x).priv = true) : ∀ e ∈ invForms (usrc s x w.a) (usrc64 s x w.b), w.mn = e.1 →
    Does (.invtlb w) s { s with
      cores := s.cores.map (fun c => (c.1, { c.2 with tlb := c.2.tlb.filter e.2.1, tlbBig := c.2.tlbBig.filter e.2.2.1 }))
      reqs := s.reqs.map (fun r => if r.stage == .walk && e.2.2.2 r then { r with keepOld := true } else r) } x w (LongLeft s x []) := by
  intro e he hm
  have hdoes := invtlb_does h hpriv
  rwa [hm, invalidated_eq s _ _ e he] at hdoes

theorem pgattr_entry (h : Issues s w [] false x) (hpriv : (s.at x).priv = true) (hd : Opd.writes w.d = true) {e : Nat × Trans}
    (hva : usrc64 s x w.b < 2 ^ 57) (hwalk : (walk s (usrc s x w.a) (usrc64 s x w.b)).1 = some e) :
    let r := attrState s x w
    let old := sysPeek r (entryAddr r e.1) 1
    let u := attrsSet r w (usrc s x w.a) (usrc64 s x w.b) e.1
    if e.2.fw || (bit (bf w.imm.toNat 0 8) 4 && (tget? s.hostPages e.2.gpn).isSome) then Answers (.pgattr w) s r x w 2
    else if bit old 4 && !(bit (newAttrs w old) 4) then Starts (.pgattr w) s u x w 1 (.pgattr
      (if e.2.big then (List.range 32).map (e.2.gpn - usrc64 s x w.b / 65536 % 32 + ·) else [e.2.gpn]) none)
    else Answers (.pgattr w) s u x w 0 := by
  obtain ⟨link, t⟩ := e
  have hfound : attrEntry s x w = some (link, t) := (if_neg (Nat.not_le.2 hva)).trans hwalk
  intro r old u
  rw [← pagesOf_eq]
  split
  · next hno => exact pgattr_refused h hpriv hd hfound hno
  · next hno =>
    have hno := Bool.eq_false_iff.2 hno
    split
    · next hlose => exact pgattr_starts h hpriv hfound hno hlose
    · next hkeep => exact pgattr_sets h hpriv hfound hno hd (Bool.eq_false_iff.2 hkeep)

end

/-- Settles O35: each system word by its own lemma. -/
theorem systemWords : Obligations.SystemWords := by
  intro w s x ha hb hc k
  have hw : ScalarOp w := ⟨ha, hb, hc⟩
  refine ⟨fun hd => ⟨fun e he hform h => ?_, clkrd_gives hd⟩, fun h hpriv hunif => ?_, fun h hpriv => ?_, fun h => ⟨?_, ?_⟩⟩
  · have hgives := getid_gives h hd
    rwa [hform, idValue_idList s x e he] at hgives
  · have hd := writes_of_uniform hunif
    refine ⟨fun r hr => keyset_answers h hpriv hd hr, keydrop_bad h hpriv hd, keydrop_absent h hpriv hd, fun hle hkey => ?_, invtlb_forms h hpriv,
      ⟨fun hno => pgattr_absent h hpriv hd ?_, fun e hva hwalk => pgattr_entry h hpriv hd hva hwalk⟩, watchWait_starts h hpriv, monevWait_starts h hpriv⟩
    · obtain ⟨t, ht, hleft, hgone⟩ := keydrop_drops h hpriv hd hle hkey
      exact ⟨t, ht, hleft, hgone.keyOf_same, fun c hc => hgone.keyOf_ne hc, hgone.mem_gone, hgone.l1, fun hnd n e he => hgone.sector hnd he⟩
    · rw [attrEntry]
      split
      · rfl
      · next hva => exact Option.map_eq_none_iff.1 (hno.resolve_left hva)
  · exact ⟨watch_asks hw h hpriv, monevIrq_orders h hpriv⟩
  · exact monevPost_posts h
  · exact monevPost_waits h

end Sys2Proof.Machine
